-- ==== Sys2Proof/Word.lean ====
section
/-! DEFINITION. The word types of the Merael M3 and their plainest arithmetic. -/

namespace Sys2Proof

/-- One byte of memory, of a message or of a record. -/
abbrev Byte := BitVec 8
/-- A 16-bit field (opcodes, tallies, handles, FP16 elements). -/
abbrev W16 := BitVec 16
/-- A 32-bit register or word. -/
abbrev W32 := BitVec 32
/-- A 64-bit register or counter. -/
abbrev W64 := BitVec 64

end Sys2Proof
end

