-- ==== Sys2Proof/Machine/Bits.lean ====
section
/-! DEFINITION. Bit fields, little-endian bytes (R10), saturating counters, and the sparse tables that hold numbered
things (blocks, contexts, milestones, bytes of memory): lists of key and value with rising keys and no entry equal to
what an unlisted key reads as. -/

namespace Sys2Proof.Machine

/-- Bits `lo + w - 1 : lo` of `n`. -/
def fld (n lo w : Nat) : Nat := (n >>> lo) % 2 ^ w

/-- Bit `i` of `n`. -/
def tbit (n i : Nat) : Bool := n.testBit i

/-- One for true. -/
def b2n (b : Bool) : Nat := if b then 1 else 0

/-- The number that little-endian bytes spell (R10). -/
def leNat : List Byte → Nat
  | [] => 0
  | b :: bs => b.toNat + 256 * leNat bs

/-- `k` little-endian bytes of `n` (R10). -/
def leBytes : Nat → Nat → List Byte
  | 0, _ => []
  | k + 1, n => BitVec.ofNat 8 n :: leBytes k (n / 256)

/-- The `size`-byte little-endian field at `off` of a record; bytes past its end read as zero. -/
def recNat (bs : List Byte) (off size : Nat) : Nat := leNat ((bs.drop off).take size)

/-- True when bytes `off` to `off + size - 1` are all zero (reserved fields, R12). -/
def recZero (bs : List Byte) (off size : Nat) : Bool := ((bs.drop off).take size).all (· == 0)

/-- Exactly `n` bytes: cut short or filled up with zeros. -/
def padTo (n : Nat) (bs : List Byte) : List Byte := bs.take n ++ List.replicate (n - bs.length) 0

/-- Overwrites the bytes of `bs` from `off` on with `v`. -/
def spliceBytes (bs : List Byte) (off : Nat) (v : List Byte) : List Byte :=
  bs.take off ++ v ++ bs.drop (off + v.length)

/-- Adds `k` to a counter that holds at its largest value. -/
def satAdd {n : Nat} (x : BitVec n) (k : Nat) : BitVec n := BitVec.ofNat n (min (x.toNat + k) (2 ^ n - 1))

/-- Adds `k` to a counter that wraps. -/
def wrapAdd {n : Nat} (x : BitVec n) (k : Nat) : BitVec n := BitVec.ofNat n (x.toNat + k)

/-- The two's complement value of the low `w` bits of `n`. -/
def signed (n w : Nat) : Int :=
  let m := n % 2 ^ w
  if m < 2 ^ (w - 1) then (m : Int) else (m : Int) - 2 ^ w

/-- The `w`-bit two's complement pattern of an integer. -/
def unsign (i : Int) (w : Nat) : Nat := (i % 2 ^ w).toNat

/-- `a / b` rounded up. -/
def ceilDiv (a b : Nat) : Nat := (a + b - 1) / b

/-- `a` rounded up to a multiple of `b`. -/
def alignUp (a b : Nat) : Nat := ceilDiv a b * b

/-- True when `v` occurs in `l`. -/
def has (l : List Nat) (v : Nat) : Bool := l.any (· == v)

/-- `v` added to a rising list without repeats. -/
def insNat (v : Nat) : List Nat → List Nat
  | [] => [v]
  | x :: xs => if v < x then v :: x :: xs else if v = x then x :: xs else x :: insNat v xs

/-- `v` taken out of a list. -/
def delNat (v : Nat) (l : List Nat) : List Nat := l.filter (· != v)

/-- True when no number occurs twice. -/
def noDup : List Nat → Bool
  | [] => true
  | x :: xs => !has xs x && noDup xs

/-- The list with its `i`-th entry replaced; unchanged where there is none. -/
def setNth {α : Type} : List α → Nat → α → List α
  | [], _, _ => []
  | _ :: xs, 0, v => v :: xs
  | x :: xs, i + 1, v => x :: setNth xs i v

/-- The list with its `i`-th entry changed by `f`. -/
def modNth {α : Type} : List α → Nat → (α → α) → List α
  | [], _, _ => []
  | x :: xs, 0, f => f x :: xs
  | x :: xs, i + 1, f => x :: modNth xs i f

/-- The `i`-th number of a list; zero past its end. -/
def nthN (l : List Nat) (i : Nat) : Nat := l.getD i 0

/-- Inserts by a rising key, after equal keys. -/
def insKey {α : Type} (key : α → Nat) (v : α) : List α → List α
  | [] => [v]
  | x :: xs => if key v < key x then v :: x :: xs else x :: insKey key v xs
/-- Sorts by a rising key, equal keys in list order. -/
def sortKey {α : Type} (key : α → Nat) (l : List α) : List α := l.foldl (fun s v => insKey key v s) []

/-! ### Sparse tables -/

/-- A sparse table: pairs of key and value. -/
abbrev Tbl (α : Type) := List (Nat × α)

/-- What a table holds at key `k`: `d` where it lists none. -/
def tget {α : Type} (d : α) : Tbl α → Nat → α
  | [], _ => d
  | (a, v) :: t, k => if a = k then v else tget d t k

/-- A table with the entry at `k`, if any, taken out. -/
def tdel {α : Type} (t : Tbl α) (k : Nat) : Tbl α := t.filter (fun e => e.1 != k)

/-- A table with the pair `(k, v)` put at its place among rising keys, replacing what stood at `k`. -/
def tput {α : Type} (k : Nat) (v : α) : Tbl α → Tbl α
  | [] => [(k, v)]
  | (a, w) :: t => if k < a then (k, v) :: (a, w) :: t else if k = a then (k, v) :: t else (a, w) :: tput k v t

/-- Sets key `k` to `v`; a value equal to the unlisted one leaves no entry. -/
def tset {α : Type} [DecidableEq α] (d : α) (t : Tbl α) (k : Nat) (v : α) : Tbl α :=
  if v = d then tdel t k else tput k v t

/-- Changes the value at key `k` by `f`. -/
def tmod {α : Type} [DecidableEq α] (d : α) (t : Tbl α) (k : Nat) (f : α → α) : Tbl α := tset d t k (f (tget d t k))

/-- The canonical form of a sparse table: keys strictly rise and no value is the unlisted one. -/
abbrev TblWf {α : Type} (d : α) (t : Tbl α) : Prop := (t.map Prod.fst).Pairwise (· < ·) ∧ ∀ e ∈ t, e.2 ≠ d

end Sys2Proof.Machine
end

