-- ==== Sys2Proof/Machine/DevState.lean ====
section
/-! DEFINITION. The state of the module as a device: fuses and flash, firmware slots, the security alarm and debug sessions,
power, clocks, heat, pins and the host link (chapters 16 to 18). -/

namespace Sys2Proof.Machine

/-- States of a firmware slot (R439). -/
inductive FwSt where
  | empty | staged | verified | try_ | active | failed
  deriving DecidableEq, Repr

/-- A firmware slot: its state, the bytes of its image, and the version, security version and digest read from its header. -/
structure FwSlot where
  st : FwSt
  image : Tbl Byte
  version : W64
  secVer : W32
  digest : List Byte
  deriving DecidableEq, Repr

/-- An empty slot. -/
def fwEmpty : FwSlot := { st := .empty, image := [], version := 0, secVer := 0, digest := [] }

/-- An owner policy in force (R454, Table 17.6): the blob is empty while the default applies. -/
structure Policy where
  seq : W32
  flags : Nat
  levels : List Nat
  authLimit : Nat
  authWindowH : Nat
  blob : List Byte
  deriving DecidableEq, Repr

/-- The default policy (Table 17.7). (DESIGN CHOICE, log entry 10) -/
def policyDefault : Policy := { seq := 0, flags := 0, levels := [2, 2, 1, 1, 3, 2, 2], authLimit := 16, authWindowH := 24, blob := [] }

/-- What fuses, flash records and the always-on latch hold about firmware, lifecycle and owner, whatever the power does
(R439 to R465). `lifecycle` is the code of R444; `keyLatch` the erase latch of R460; `chain` the certificate chain; `idKey`
the identity public key; `nextPolicy` an accepted policy that takes effect in the next round (R454); `fails` the times of authentication
failures, `failTotal` their number; `tamper` the tamper latch of R462. -/
structure NonVol where
  lifecycle : Nat
  returnCount : Nat
  keyHeld : Bool
  chain : List Byte
  idKey : List Byte
  keyLatch : Bool
  fusedMin : W32
  slots : List FwSlot
  owner : Option (List Byte)
  policy : Policy
  nextPolicy : Option Policy
  alarms : List W64
  fails : List Nat
  failTotal : W32
  tamper : Bool
  deriving DecidableEq, Repr

/-- A debug session (R456): its level, the round at which it ends, none in MANUFACTURE, and its scope. -/
structure Session where
  level : Nat
  ends : Option Nat
  scope : Nat
  deriving DecidableEq, Repr

/-- A ZEROISE in progress (R461): its mode and long-command tag. -/
structure Zeroise where
  mode : Nat
  tag : Nat
  deriving DecidableEq, Repr

/-- An SPDM responder's connection at one port: how far version, capabilities and algorithms have been negotiated (R449). -/
structure Spdm where
  version : Bool
  caps : Bool
  algs : Bool
  deriving DecidableEq, Repr

/-- A connection not yet begun. -/
def spdmReset : Spdm := { version := false, caps := false, algs := false }

/-- Volatile security state (Table 17.10): the alarm level and the conditions raised since cold boot, the level 2 effects, the
debug session, whether the key unit holds the KEK and identity key, the tokens accepted in this boot (R452)
and the answers of the SPDM responder, newest last, by port (0 host, 1 board). `mpHalted` is set while a D2
session holds the caravaneer (R455); `fuseRound` is the round of the last fuse check; `dbgOut` what the debug port read out, newest last. -/
structure SecS where
  alarmLevel : Nat
  raised : Nat
  locked : Bool
  session : Option Session
  keys : Bool
  tokens : List (List Byte)
  zeroise : Option Zeroise
  spdmHost : Spdm
  spdmBoard : Spdm
  spdmOut : List (Nat × List Byte)
  mpHalted : Bool
  fuseRound : Nat
  dbgOut : List (List Byte)
  deriving DecidableEq, Repr

/-- Security state at cold boot. -/
def secReset : SecS :=
  { alarmLevel := 0, raised := 0, locked := false, session := none, keys := false, tokens := [], zeroise := none,
    spdmHost := spdmReset, spdmBoard := spdmReset, spdmOut := [], mpHalted := false, fuseRound := 0, dbgOut := [] }

/-- How far the module has come up: without always-on power, in P4, a TRY boot under way, only the board port open because no
image passed, or running. -/
inductive BootSt where
  | dark | standby | trying | boardOnly | running
  deriving DecidableEq, Repr

/-- What a code finds in an access (R121, R242): the granules with an error it corrects, and those with one it only detects. -/
structure CodeFacts where
  single : List Nat
  double : List Nat
  deriving DecidableEq, Repr

/-- What the code of a tier finds in the granule a patrol reads (R242, R246): an error it corrects, or one it only detects. -/
structure GranuleFacts where
  single : Bool
  double : Bool
  deriving DecidableEq, Repr

/-- What a boot meets (R25, R241, R438 to R440, R467): whether the TRY slot, and the ACTIVE slot, passes its check and reaches
host-ready; the physical blocks that fail BIST; the controllers that train at their fall-back rate and those that are absent; the lanes
that train on each link; the input power measured in W; the slot pins; and whether the fuse array is found bad. -/
structure BootFacts where
  tryOk : Bool
  activeOk : Bool
  bist : List Nat
  slow : List Nat
  absent : List Nat
  lanes : List (Nat × List Nat)
  watts : Nat
  slotId : Nat
  fuseBad : Bool
  deriving DecidableEq, Repr

/-- The bytes of a register write, and of a write that clears flags those that are set in the same cycle (R14). -/
structure RegData where
  bytes : List Byte
  sets : W32
  deriving DecidableEq, Repr

/-- A place by its number, and whether reading its state finds an error of several bits (R379). -/
structure PlaceFacts where
  num : Nat
  bad : Bool
  deriving DecidableEq, Repr

/-- The copy a twin registered for its source: its bytes, and whether it is that of a lost member (R362). -/
structure TwinCopy where
  bytes : Nat
  held : Bool
  deriving DecidableEq, Repr

/-- A clock that is lost (Table 14.1): that of a controller, one of the core clocks or the round timer, or that of a link. -/
inductive ClockLost where
  | controller (k : Nat)
  | aclk | nclk | mclk | roundTimer
  | link (k : Nat)
  deriving DecidableEq, Repr

/-- What the debug port does under a D2 session (R455): it halts or steps the caravaneer or the sequencer of a physical block, shifts a
unit's maintenance scan path, or reads or writes module memory. -/
inductive DebugAct where
  | haltMp | stepMp
  | haltBlk (p : Nat)
  | stepBlk (p : Nat)
  | scan (unit : Nat)
  | memRead (a n : Nat)
  | memWrite (a : Nat) (data : List Byte)
  deriving DecidableEq, Repr

/-- Power, clock and heat (chapter 18). `loopMhz` and `thermMhz` are what the two loops allow; `samples` the input power of
the last 1 ms in W, newest first; `stepAt` and `upAt` count the samples since the last step down and up, to 100; `hot` says that the
thermal loop steps down; `inputLow` that the input is below its range; `fw` the firmware slot booted; `baseW` the input power measured
at boot in W (R397), `roundW` that of the last round as an FP32 pattern, `overhead` the energy of no context in µJ; `training` the lanes
that train on each link once the module is host-ready (Table 16.13 step 8). -/
structure PwrS where
  st : Nat
  boot : BootSt
  fw : Nat
  fabricReady : Bool
  inputLatched : Bool
  limitMhz : Nat
  loopMhz : Nat
  thermMhz : Nat
  capW : Nat
  samples : List Nat
  capUnmet : Bool
  stepAt : Nat
  upAt : Nat
  hot : Bool
  inputLow : Bool
  dieMax : Int
  stackMax : Int
  hotStack : Nat
  shutdown : Bool
  hotLatch : Bool
  droops : W64
  temps : List Int
  stackTemps : List Int
  baseW : Nat
  roundW : Nat
  overhead : Nat
  training : List (Nat × List Nat)
  deriving DecidableEq, Repr

/-- Power state before the first boot: no power. -/
def pwrReset : PwrS :=
  { st := 0, boot := .dark, fw := 0, fabricReady := false, inputLatched := false, limitMhz := 0, loopMhz := 0, thermMhz := 0, capW := 0, samples := [],
    capUnmet := false, stepAt := 0, upAt := 0, hot := false, inputLow := false, dieMax := 0, stackMax := 0, hotStack := 0, shutdown := false,
    hotLatch := false, droops := 0, temps := [], stackTemps := [], baseW := 0, roundW := 0, overhead := 0, training := [] }

/-- The pins and the host link (R466 to R468). `mse` is Memory Space Enable; `ide` the programmed IDE keys and `ideOn` whether
the stream is enabled; `bar2` the log2 of the BAR2 size; `ur`, `ca` and `aer` count BAR2 requests completed as Unsupported Request, as
Completer Abort, and with a poisoned TLP, `reads` the data of BAR2 reads answered, newest last. -/
structure PcieS where
  linkUp : Bool
  perst : Bool
  slotId : Nat
  mse : Bool
  ide : List (Nat × List Byte)
  ideOn : Bool
  bar2 : Nat
  faultLow : Bool
  ur : Nat
  ca : Nat
  aer : Nat
  reads : List (List Byte)
  deriving DecidableEq, Repr

/-- Pins and link at reset. -/
def pcieReset : PcieS :=
  { linkUp := false, perst := true, slotId := 0, mse := false, ide := [], ideOn := false, bar2 := 36, faultLow := false, ur := 0,
    ca := 0, aer := 0, reads := [] }

end Sys2Proof.Machine
end

