-- ==== Sys2Proof/Machine/Items.lean ====
section
/-! DEFINITION. What a posted manifest holds (Tables 7.1 to 7.9, 5.1, 5.2 and 6.1), field by field. -/

namespace Sys2Proof.Machine

/-- One operand side of an ARRAY_OP (Table 7.8). -/
structure ArraySide where
  base : Nat
  kstride : Nat
  tstride : Nat
  scale : Nat
  deriving DecidableEq, Repr

/-- An ARRAY_OP payload (Table 7.8). `opens` and `rows` hold one number for each group and row-tile of the shape;
`rows` are valid rows, 1 to 32. -/
structure ArrayOp where
  pairing : Nat
  shA : Bool
  shB : Bool
  shape : Nat
  wide : Nat
  base : Nat
  opens : List Nat
  k : Nat
  rows : List Nat
  a : ArraySide
  b : ArraySide
  loadBase : Nat
  deriving DecidableEq, Repr

/-- A DRAIN payload (Table 7.9). `groups` are the set bits in rising order; `mv` and `nv` are 1 to 32. -/
structure DrainOp where
  groups : List Nat
  outFmt : Nat
  stochastic : Bool
  col : Bool
  mv : Nat
  nv : Nat
  ca : Nat
  cb : Nat
  co : Nat
  lineStride : Nat
  dstScale : Nat
  dst : List Nat
  tiles : List Nat
  deriving DecidableEq, Repr

/-- A stream descriptor (Table 5.2). -/
structure StreamD where
  fmt : Nat
  stripe : Nat
  viaWindow : Bool
  window : Nat
  offset : Nat
  length : Nat
  lenReg : Bool
  lenV : Nat
  lenWord : Nat
  deriving DecidableEq, Repr

/-- A remote table descriptor (R138). -/
structure RemoteTable where
  base : Nat
  rowStride : Nat
  rowBytes : Nat
  deriving DecidableEq, Repr

/-- A vector operation record (Table 5.1) with its streams. -/
structure VecOp where
  opcode : Nat
  rounding : Nat
  accFmt : Nat
  indexMode : Nat
  subop : Nat
  ra : Nat
  raForm : Nat
  rb : Nat
  rbForm : Nat
  period : Nat
  param0 : Nat
  param1 : Nat
  ins : List StreamD
  outs : List StreamD
  remote : Option RemoteTable
  deriving DecidableEq, Repr

/-- A base of a Premutar side (bytes 8-15 of Table 6.1). -/
structure PmBase where
  space : Nat
  window : Nat
  base : Nat
  deriving DecidableEq, Repr

/-- One dimension of a Premutar descriptor. -/
structure PmDim where
  perm : Nat
  padMode : Nat
  extent : Nat
  srcStride : Int
  dstStride : Int
  extLo : Nat
  extHi : Nat
  roomLo : Nat
  roomHi : Nat
  dstOrigin : Nat
  srcOrigin : Nat
  deriving DecidableEq, Repr

/-- A Premutar descriptor (Table 6.1). `dims` holds the dimensions in use, dimension 0 first. -/
structure PmDesc where
  fill : Bool
  elemSize : Nat
  sh16 : Bool
  relaxed : Bool
  srcG32 : Bool
  dstG32 : Bool
  srcRow : Nat
  srcChan : Nat
  dstRow : Nat
  dstChan : Nat
  src : PmBase
  dst : PmBase
  srcScale : PmBase
  dstScale : PmBase
  dims : List PmDim
  padValue : Nat
  boxTensor : Nat
  deriving DecidableEq, Repr

/-- A body item (Table 7.7). -/
inductive Item where
  | arrayOp (p : ArrayOp)
  | drain (p : DrainOp)
  | discard (groups : Nat)
  | vector (v : VecOp)
  | premutar (d : PmDesc)
  | windowSet (n cfg ptr : Nat)
  | aliasSet (enable : Bool) (bank : Nat)
  | barrier (mask : Nat)
  deriving DecidableEq, Repr

/-- A tensor descriptor (Table 7.2); the coarse scale is the store's copy (R176). -/
structure TensorD where
  fmt : Nat
  scaling : Nat
  watch : Nat
  coarse : Nat
  elements : Nat
  deriving DecidableEq, Repr

/-- A milestone declaration (Table 7.3). -/
structure DeclD where
  stride : Nat
  init : Bool
  remote : Bool
  cls : Nat
  relId : Nat
  value : Nat
  deriving DecidableEq, Repr

/-- A reference (Table 7.6): an input's target or an output's amount. -/
structure RefD where
  decl : Nat
  amount : Nat
  target : Nat
  deriving DecidableEq, Repr

/-- A waybill (Table 7.5) with its references and its own body. `banks` holds six owner codes. -/
structure WaybillD where
  vregs : Nat
  notify : Bool
  report : Bool
  stream : Nat
  array : Nat
  group : Nat
  banks : List Nat
  bodyOf : Option Nat
  ins : List RefD
  outs : List RefD
  body : List Item
  deriving DecidableEq, Repr

/-- A whole decoded image (Table 7.1); `tOff` is the offset of its tensor descriptors. -/
structure Image where
  bytes : Nat
  tOff : Nat
  tensors : List TensorD
  decls : List DeclD
  waybills : List WaybillD
  weights : List Nat
  step : Bool
  deadline : Nat
  runs2 : Bool
  deriving DecidableEq, Repr

/-- The unlisted waybill: what a table access past its end answers. -/
def noWaybill : WaybillD :=
  { vregs := 0, notify := false, report := false, stream := 0, array := 0, group := 0, banks := [], bodyOf := none,
    ins := [], outs := [], body := [] }

/-- The unlisted tensor. -/
def noTensor : TensorD := { fmt := 0, scaling := 0, watch := 0, coarse := 0, elements := 0 }

/-- The unlisted declaration. -/
def noDecl : DeclD := { stride := 0, init := false, remote := false, cls := 0, relId := 0, value := 0 }

end Sys2Proof.Machine
end

