-- ==== Sys2Proof/Machine/ElasticState.lean ====
section
/-! DEFINITION. The state of elastic jobs: re-shards, reclaims, parks, twins, restores, cargo sets (chapter 13). -/

namespace Sys2Proof.Machine

/-- A commit or resync on its way to the twin (R357, R359): step, tiles sent, and whether it is a resync. -/
structure Commit where
  step : Nat
  tiles : Nat
  resync : Bool
  deriving DecidableEq, Repr

/-- The source side of a twin registration (Table 13.3). `tiles` holds the local physical address of each 2 KiB tile in
copy order, ranges first and record area last, of whose last tile only 32 bytes are the area's; `dirty` the numbers of those written since they were last
taken; `journal` and `depth` what the partner registered; `ranges` the number of tiles before the record area; `owed` whether its resync is still to be
run. -/
structure TwinSrc where
  peerM : Nat
  peerH : Nat
  timeout : Nat
  journal : Nat
  depth : Nat
  ranges : Nat
  tiles : List Nat
  dirty : List Nat
  commit : Option Commit
  tag : Option Nat
  owed : Bool := false
  deriving DecidableEq, Repr

/-- A restore in progress (R362): the twin, step, step counter to set, long-command tag, and the numbers of the
tiles that have come. -/
structure Restore where
  peerM : Nat
  step : Nat
  counter : Nat
  tag : Nat
  got : List Nat
  deriving DecidableEq, Repr

/-- A park in progress (R350): image address, long-command tag, and whether quiescence was reached. -/
structure ParkSt where
  image : Nat
  tag : Nat
  quiesced : Bool
  deriving DecidableEq, Repr

/-- A reclaim in progress (R348): the arrays still to leave and the long-command tag. -/
structure Reclaim where
  arrays : List Nat
  tag : Nat
  deriving DecidableEq, Repr

/-- A pending re-shard (R344): E', s_at and the long-command tag. -/
structure Reshard where
  epoch : Nat
  sAt : Nat
  tag : Nat
  deriving DecidableEq, Repr

/-- The elastic state of a context slot (Tables 13.6, 13.7). `nextSrc` is a twin-set that waits for a commit to end (R370). -/
structure ElSt where
  twin : Nat
  lineage : Bool
  undoHeld : Nat
  twinM : Nat
  twinH : Nat
  lastAck : W64
  layoutRej : W64
  abandon : W64
  park : Option ParkSt
  reclaim : Option Reclaim
  reshard : Option Reshard
  src : Option TwinSrc
  nextSrc : Option TwinSrc
  restore : Option Restore
  deriving DecidableEq, Repr

/-- Elastic state at creation. -/
def elReset : ElSt :=
  { twin := 0, lineage := false, undoHeld := 0, twinM := 0, twinH := 0, lastAck := BitVec.allOnes 64, layoutRej := 0,
    abandon := 0, park := none, reclaim := none, reshard := none, src := none, nextSrc := none, restore := none }

/-- A 2 KiB tile in hand, with its poisoned 32 B granules. -/
structure TileBuf where
  data : List Byte
  poison : List Nat
  deriving DecidableEq, Repr

/-- No tile. -/
def noTile : TileBuf := { data := [], poison := [] }

/-- The twin side of a registration (Table 13.3, R358): owner handle, partner, depth, areas, the last commit (none before the first), the low bits of the
step whose tiles are in hand, whether these go straight into the copy (R359), the tiles in hand in order of arrival (with their bytes where the journal
does not hold them), and the commits that can be undone, newest first, each with the tiles whose pre-images its part of the undo area holds. The areas
are addresses in the owner's space. -/
structure TwinReg where
  ctx : Nat
  peerM : Nat
  peerH : Nat
  depth : Nat
  copy : Nat
  bytes : Nat
  journal : Nat
  jbytes : Nat
  undo : Nat
  last : Option Nat
  hand : Nat := 0
  direct : Bool := false
  inHand : List (Nat × TileBuf)
  undos : List (Nat × List Nat)
  deriving DecidableEq, Repr

/-- A cargo set (R365, Table 13.8). `pages` holds the local physical address of each 2 KiB tile, `left` the tiles still to
load, `fetches` the source tried for a tile and the tag of its read, `tag` the long command that waits, `next` the mode (SEED or not)
and sources of a swap that waits to drain, `sealed` whether a SEED load was sealed. -/
structure CargoSet where
  st : Nat
  keeper : Nat
  base : Nat
  bytes : Nat
  pages : List Nat
  sources : List Nat
  seed : Bool
  refetchUs : Nat
  bound : List Nat
  inFlight : Nat
  left : List Nat
  fetches : Tbl (Nat × Nat)
  tag : Option Nat
  next : Option (Bool × List Nat)
  sealed : Bool
  deriving DecidableEq, Repr

/-- An EMPTY set. -/
def cargoReset : CargoSet :=
  { st := 0, keeper := 0, base := 0, bytes := 0, pages := [], sources := [], seed := false, refetchUs := 0, bound := [],
    inFlight := 0, left := [], fetches := [], tag := none, next := none, sealed := false }

end Sys2Proof.Machine
end

