-- ==== Sys2Proof/Machine/CtxState.lean ====
section
/-! DEFINITION. The state of one context slot: parameters, posted manifests and runs, completion ring, membership and
serving (chapters 7, 8 and 10). -/

namespace Sys2Proof.Machine

/-- A record stamp (Table 1.8). -/
structure Stamp where
  counter : Nat
  step : Nat
  epoch : Nat
  kind : Nat
  flags : Nat
  ctx : Nat
  boot : Nat
  module : Nat
  deriving DecidableEq, Repr

/-- A stamp of zeros. -/
def noStamp : Stamp := { counter := 0, step := 0, epoch := 0, kind := 0, flags := 0, ctx := 0, boot := 0, module := 0 }

/-- States of a context slot (Table 8.1). -/
inductive CtxSt where
  | free | active | teardown | closed | parked
  deriving DecidableEq, Repr

/-- The code of a slot state (Table 8.1). -/
def ctxStCode : CtxSt → Nat
  | .free => 0
  | .active => 1
  | .teardown => 2
  | .closed => 3
  | .parked => 4

/-- One logical array of a block set: bank mask and share weight (Table 8.2). -/
structure ArrShare where
  array : Nat
  mask : Nat
  weight : Nat
  deriving DecidableEq, Repr

/-- The parameters of Table 8.2. -/
structure CtxPar where
  blocks : List ArrShare
  msCount : Nat
  storeBytes : Nat
  seed : Nat
  step0 : Nat
  portWeight : Nat
  seqEntries : Nat
  intakeSlots : Nat
  kvNear : Nat
  kvFar : Nat
  pageBytes : Nat
  kvGrow : Bool
  chunk : Nat
  maxTiles : Nat
  deriving DecidableEq, Repr

/-- Parameters of a slot never created. -/
def noPar : CtxPar :=
  { blocks := [], msCount := 0, storeBytes := 0, seed := 0, step0 := 0, portWeight := 0, seqEntries := 0,
    intakeSlots := 0, kvNear := 0, kvFar := 0, pageBytes := 0, kvGrow := false, chunk := 0, maxTiles := 0 }

/-- One row of a step's work list (R221): entry, DECODE bit, position. -/
structure RowRec where
  entry : Nat
  decode : Bool
  pos : Nat
  deriving DecidableEq, Repr

/-- One row-tile of a step's work list (R221). -/
structure TileRec where
  cargo : Nat
  rows : List RowRec
  deriving DecidableEq, Repr

/-- A run started, or built and about to start (R191, R220): its step, record, the waybills started and completed, the halt,
its work list, the cargo sets it keeps in flight (R365), and whether it is over and waits for its commit only (R357). -/
structure RunSt where
  run : Nat
  started : Bool
  built : Bool
  step : Nat
  seq : Nat
  startNs : Nat
  startedWbs : List Nat
  doneWbs : List Nat
  halted : Bool
  code : Nat
  failWb : Nat
  flags : Nat
  tiles : List TileRec
  sets : List Nat
  ended : Bool
  deriving DecidableEq, Repr

/-- A posted manifest (R190): its slot generation, post order, image, runs launched and in flight, the op_tag of a retire, and
the late consumers by run and waybill (R261), and where its image lies in the context's store (R176). -/
structure ManSt where
  gen : Nat
  order : Nat
  img : Image
  launched : Nat
  nextRun : Nat
  runs : List RunSt
  halted : Bool
  retiring : Option Nat
  late : List (Nat × Nat)
  place : Nat
  deriving DecidableEq, Repr

/-- States of a completion record (Table 7.11). -/
inductive RecSt where
  | empty | pending | done | error
  deriving DecidableEq, Repr

/-- A completion record (Table 7.11). `final` is set once bytes 8 to 63 are written; its header takes its final
state later (R200). -/
structure Rec where
  seq : Nat
  kind : Nat
  st : RecSt
  code : Nat
  flags : Nat
  wb : Nat
  man : Nat
  run : Nat
  duration : Nat
  stamp : Stamp
  final : Bool
  notify : Bool
  deriving DecidableEq, Repr

/-- An EMPTY completion slot. -/
def noRec : Rec :=
  { seq := 0, kind := 0, st := .empty, code := 0, flags := 0, wb := 0, man := 0, run := 0, duration := 0,
    stamp := noStamp, final := false, notify := false }

/-- The completion ring of a slot (R199, Table 7.13). -/
structure CrSt where
  ack : W32
  issued : W32
  bad : W32
  recs : Tbl Rec
  deriving DecidableEq, Repr

/-- A membership (R275). -/
structure Membership where
  id : Nat
  epoch : Nat
  carried : Nat
  carriedValid : Bool
  members : List Nat
  deriving DecidableEq, Repr

/-- The membership of a context that was never given one (R275). -/
def noMembership : Membership := { id := 0, epoch := 0, carried := 0, carriedValid := false, members := [] }

/-- States of an active-sequence entry (Table 8.4). -/
inductive SeqEntSt where
  | free | prefill | decode | finishing | preempted
  deriving DecidableEq, Repr

/-- An entry of the active-sequence table (Table 8.4), with the order in which it was admitted or preempted, its output
buffer, the virtual address of its page list, the pages it holds in position order (tier, 0 near and 1 far, and number: what the list names),
and the end it was given. -/
structure SeqEnt where
  st : SeqEntSt
  cargo : Nat
  intake : Nat
  flags : Nat
  tag : Nat
  prompt : Nat
  position : Nat
  maxNew : Nat
  generated : Nat
  served : Nat
  stops : List Nat
  admitted : Nat
  preempted : Nat
  tally : Nat
  outAddr : Nat
  listAddr : Nat
  pages : List (Nat × Nat)
  tokens : List Nat
  code : Nat
  deriving DecidableEq, Repr

/-- A FREE entry. -/
def noSeqEnt : SeqEnt :=
  { st := .free, cargo := 0, intake := 0, flags := 0, tag := 0, prompt := 0, position := 0, maxNew := 0, generated := 0,
    served := 0, stops := [], admitted := 0, preempted := 0, tally := 0, outAddr := 0, listAddr := 0, pages := [], tokens := [],
    code := 0 }

/-- The serving configuration (R222, R264, R369). -/
structure ServConf where
  man : Nat
  perPage : Nat
  stepBuf : Nat
  ptrTable : Nat
  binds : List (Nat × Nat)
  privates : List Nat
  deriving DecidableEq, Repr

/-- Serving state of a slot. `freeNear` and `freeFar` are the pages free, `zeroing` those in ZEROING; `switches` are
the pending pointer switches (R369): entry number, bytes and op_tag; `bindings` the bound cargo sets (R367). -/
structure ServSt where
  conf : Option ServConf
  seqBase : Nat
  entries : Tbl SeqEnt
  intake : Tbl (List Byte)
  tallies : Tbl W32
  lastTaken : Nat
  order : Nat
  freeNear : List Nat
  freeFar : List Nat
  zeroing : List (Nat × Nat)
  switches : List (Nat × List Byte × Nat)
  bindings : List Nat
  held : Bool
  steps : W64
  rows : W64
  tiles : W64
  preempt : W64
  deferred : W64
  deriving DecidableEq, Repr

/-- Serving state at reset and at creation (R232). -/
def noServ : ServSt :=
  { conf := none, seqBase := 0, entries := [], intake := [], tallies := [], lastTaken := 0, order := 0, freeNear := [],
    freeFar := [], zeroing := [], switches := [], bindings := [], held := false, steps := 0, rows := 0, tiles := 0,
    preempt := 0, deferred := 0 }

/-- One context slot. `gen` and `manGen` are the generations last used; `fence` is set from teardown until the next
creation; `memory` holds the ranges granted at creation (manifest store and page pools), `poolNear` and `poolFar` the pieces
of the two pools in page order, `stmtOut` the last statement issued. `acct` holds the 22
counters of Table 14.10 in its order, `carried` those an unpark brought in, `stmt` the statement sequence (R396, R398);
`closes` the steps closed, `closed` the last of them, `ran` whether a run has started, `ownRun` whether one has since the context was created here, an
image's runs in flight apart (R331, R335). -/
structure Ctx where
  st : CtxSt
  gen : Nat
  par : CtxPar
  msBase : Nat
  stepCtr : W64
  lastStep : W64
  layout : Nat
  mans : Tbl (Option ManSt)
  manGen : Tbl Nat
  posts : Nat
  cr : CrSt
  mem : Membership
  sv : ServSt
  orLate : W64
  orDirect : W64
  orSkipped : W64
  xrTimeout : W64
  xrRejected : W64
  memory : List (Nat × Nat)
  poolNear : List (Nat × Nat)
  poolFar : List (Nat × Nat)
  stmtOut : List Byte
  acct : Tbl W64
  carried : Tbl W64
  stmt : W32
  firstAct : Stamp
  lastAct : Stamp
  el : ElSt
  closes : W32
  closed : Option Nat
  ran : Bool
  ownRun : Bool := false
  deriving DecidableEq, Repr

/-- A slot at reset. (DESIGN CHOICE, log entry 6; DEDUCED, log entry 55) -/
def ctxReset : Ctx :=
  { st := .free, gen := 0, par := noPar, msBase := 0, stepCtr := 0, lastStep := 0, layout := 0, mans := [], manGen := [], posts := 0,
    cr := { ack := 0, issued := 0, bad := 0, recs := [] }, mem := noMembership, sv := noServ, orLate := 0, orDirect := 0,
    orSkipped := 0, xrTimeout := 0, xrRejected := 0, memory := [], poolNear := [], poolFar := [], stmtOut := [], acct := [],
    carried := [], stmt := 0, firstAct := noStamp, lastAct := noStamp,
    el := elReset, closes := 0, closed := none, ran := false }

end Sys2Proof.Machine
end

