-- ==== Sys2Proof/Machine/MgmtState.lean ====
section
/-! DEFINITION. The state of the management plane: mailboxes, long commands, events, the error log, dumps, interrupts,
firmware slots (chapters 14, 15 and 16). -/

namespace Sys2Proof.Machine

/-- The ports a Knaob command arrives at (Table 16.1). -/
inductive Port where
  | host | board | debug | factory
  deriving DecidableEq, Repr

/-- A Knaob request as it stands in the request area (R420): all but the opcode, which the row of the table fixes. `len`
is the header's payload-bytes field; `resv` are header bytes 8 to 15. -/
structure Req where
  port : Port
  tally : W16
  handle : W16
  len : Nat
  resv : List Byte
  payload : List Byte
  crc : W32
  deriving DecidableEq, Repr

/-- A request for the strongbox, and the numbers of the records or dumps whose copy in SRAM its code finds bad (R413). -/
structure StrongboxReq where
  req : Req
  bad : List Nat
  deriving DecidableEq, Repr

/-- Mailbox states (Table 16.2). -/
inductive MbxSt where
  | idle | busy | done | restarting
  deriving DecidableEq, Repr

/-- One port's mailbox: its state, the status of the response last written, the tally last accepted (none since boot or
restart where `accepted` is false), the response area, the status and bytes of the response to the request last accepted, which
a retry gets again (R421), and, while BUSY, the opcode and request in hand. -/
structure Mbx where
  st : MbxSt
  status : Nat
  tally : W16
  accepted : Bool
  resp : List Byte
  keptStatus : Nat
  kept : List Byte
  inHand : Option (Nat × Req)
  ignored : W64
  deriving DecidableEq, Repr

/-- A mailbox at reset. -/
def mbxReset : Mbx :=
  { st := .idle, status := 0, tally := 0, accepted := false, resp := [], keptStatus := 0, kept := [], inHand := none, ignored := 0 }

/-- A long command in progress (R423): its op_tag, port, opcode, the object it waits for, and its outcome once known:
status and result. `waits` are the tags of requests that must be answered first (R277). -/
structure LongOp where
  tag : Nat
  port : Port
  opcode : Nat
  subject : Nat
  outcome : Option (Nat × Nat)
  waits : List Nat
  deriving DecidableEq, Repr

/-- An event record (Table 16.8). -/
structure Event where
  seq : Nat
  code : Nat
  contexts : Nat
  subject : Nat
  unit : Nat
  detail : List Byte
  stamp : Stamp
  deriving DecidableEq, Repr

/-- An event record never written. -/
def noEvent : Event := { seq := 0, code := 0, contexts := 0, subject := 0, unit := 0, detail := [], stamp := noStamp }

/-- An event ring (R433, R434): head and acknowledged sequence, records by slot, events lost since the last OVERFLOW,
and the dropped counts of MP_EVT_DROPPED by class field: corrected, fatal, contained, information. -/
structure EvRing where
  cap : Nat
  head : W32
  ack : W32
  ackBad : W32
  recs : Tbl Event
  lost : Nat
  dropped : List W16
  deriving DecidableEq, Repr

/-- An error-log record (Table 15.6). -/
structure LogRec where
  stamp : Stamp
  code : Nat
  cls : Nat
  flags : Nat
  unit : Nat
  count : Nat
  dump : Nat
  detail : List Byte
  round : Nat
  deriving DecidableEq, Repr

/-- A log slot never written. -/
def noLog : LogRec :=
  { stamp := noStamp, code := 0, cls := 0, flags := 0, unit := 0, count := 0, dump := 0, detail := [], round := 0 }

/-- A unit recorded in a dump, with the state code of Table 15.4. What its state bytes hold the manual does not give
(Config.unitState). -/
structure DumpUnit where
  unit : Nat
  st : Nat
  deriving DecidableEq, Repr

/-- A dump (Table 15.3). -/
structure Dump where
  num : Nat
  rung : Nat
  finalRung : Nat
  domain : Nat
  trigger : Nat
  stamp : Stamp
  collectNs : Nat
  resetNs : Nat
  units : List DumpUnit
  deriving DecidableEq, Repr

/-- The part of the management flash that holds records (R388): the erase count of each 256 KiB sector, and the sector that holds each kind of record: 0 the
module records, 1 the ring of dump summaries, 2 the log records of a power-off. The two firmware slots take sectors 0 to 511, records 512 to 1,023. -/
structure Flash where
  erases : Tbl Nat
  held : Tbl Nat
  deriving DecidableEq, Repr

/-- A flash never written. -/
def flashNew : Flash := { erases := [], held := [] }

/-- The management island's state. `mirror` holds the captured telemetry groups by BAR0 offset: generation word and registers
(R39, R436); `msixMask` and `msixPend` the vectors masked and pending, `msixEntries` what the table holds beside the masks; `msgs` the
messages sent, oldest first; `held` the counters of R429: running count at the last capture, and count; `unitsAt` the activity units of
each slot at the last round (R397); `reqArea` what the host has written into its request area; `flashLog` the log
records written to flash as the input failed (R470); `ibi` the in-band interrupts raised at the board port (R417); `mirLog` the near-tier copy of the log
(R413); `accepted` the ports whose requests wait for the caravaneer, in order of acceptance (R419); `flash` the sectors that hold records; `bgUnits` the
activity units of background work in eighths, `roundTicks` and `roundHeld` the charges of block-cycles and those each slot held, since the last round (R397). -/
structure MgmtS where
  mbx : List Mbx
  ops : List LongOp
  nextTag : Nat
  hostRing : EvRing
  boardRing : EvRing
  msixMask : W64
  msixPend : W64
  msgs : List Nat
  log : Tbl LogRec
  logHead : W64
  dumps : List Dump
  summaries : List (Nat × List Byte)
  dumpCount : Nat
  mirror : Tbl (Nat × List Nat)
  held : Tbl (Nat × Nat)
  unitsAt : Tbl Nat
  msixEntries : Tbl Byte
  reqArea : Tbl Byte
  flashLog : List LogRec
  ibi : W64
  mirLog : Tbl LogRec
  accepted : List Port
  flash : Flash
  bgUnits : Nat
  roundTicks : Nat
  roundHeld : Tbl Nat
  deriving DecidableEq, Repr

/-- An event ring at reset. -/
def evReset (cap : Nat) : EvRing :=
  { cap := cap, head := 0, ack := 0, ackBad := 0, recs := [], lost := 0, dropped := [0, 0, 0, 0] }

/-- The management island at reset. The MSI-X vectors come up masked (log entry 7); the first op_tag is 1 (entry 5). -/
def mgmtReset : MgmtS :=
  { mbx := [mbxReset, mbxReset, mbxReset, mbxReset], ops := [], nextTag := 1, hostRing := evReset 4096,
    boardRing := evReset 256, msixMask := BitVec.allOnes 64, msixPend := 0, msgs := [], log := [], logHead := 0,
    dumps := [], summaries := [], dumpCount := 0, mirror := [], held := [],
    unitsAt := [], msixEntries := [], reqArea := [], flashLog := [],
    ibi := 0, mirLog := [], accepted := [], flash := flashNew, bgUnits := 0, roundTicks := 0, roundHeld := [] }

end Sys2Proof.Machine
end

