-- ==== Sys2Proof/Machine/BlockState.lean ====
section
/-! DEFINITION. The state of one physical block: array, scratchpad control, vector engine, Premutar, sequencer and
check-value unit (chapters 3 to 7 and 14). -/

namespace Sys2Proof.Machine

/-- States of an accumulation group (Table 3.3). -/
inductive GroupSt where
  | free | opened | closing | faulted
  deriving DecidableEq, Repr

/-- An entry of the accumulator file (R82): value, residue modulo 7, saturated bit, fresh bit. -/
structure Entry where
  val : Nat
  res : Nat
  sat : Bool
  fresh : Bool
  deriving DecidableEq, Repr

/-- An entry as ZERO opens it: it reads as +0 (R82, R89). -/
def freshEntry : Entry := { val := 0, res := 0, sat := false, fresh := true }

/-- An accumulation group (R88): its state, owner, kind, and the entries of the 1,024 cells by 32 × row + column. -/
structure Group where
  st : GroupSt
  ctx : Nat
  stream : Nat
  grp : Nat
  isInt : Bool
  t : Nat
  cells : Tbl Entry
  deriving DecidableEq, Repr

/-- A FREE group. -/
def freeGroup : Group := { st := .free, ctx := 0, stream := 0, grp := 0, isInt := false, t := 0, cells := [] }

/-- Which item of which running waybill a piece of work belongs to. -/
structure ItemRef where
  ctx : Nat
  man : Nat
  run : Nat
  wb : Nat
  item : Nat
  stream : Nat
  deriving DecidableEq, Repr

/-- A drain in the drain unit (R95): its payload with the valid counts in force, the coarse scales read at issue
(R176), the groups that were OPEN at issue (the others were FAULTED: nothing of them is drained, R100) and, where a cell reports a mismatch
while it runs, the group and line at which its writes stop. -/
structure DrainJob where
  ref : ItemRef
  op : DrainOp
  ca : Nat
  cb : Nat
  co : Nat
  seedWb : Nat
  live : List Nat
  stop : Option (Nat × Nat)
  deriving DecidableEq, Repr

/-- What the drain unit holds and runs in issue order (R89, R95): a drain, or the load of an array operation whose K-steps wait for it, with the
group on which a residue check of its pass fails, if one does. -/
inductive UnitJob where
  | drain (j : DrainJob)
  | load (ref : ItemRef) (op : ArrayOp) (mism : Option Nat)
  deriving DecidableEq, Repr

/-- The slot whose waybill issued a job of the drain unit. -/
def jobCtx : UnitJob → Nat
  | .drain j => j.ref.ctx
  | .load r _ _ => r.ctx

/-- The array of a block. -/
structure ArrSt where
  groups : Tbl Group
  queue : List UnitJob
  running : Option (ItemRef × Nat)
  busy : W64
  rowCycles : W64
  residue : W32
  tileFlags : Tbl W32
  tileFirst : Tbl W64
  tileFirstWb : Tbl W32
  deriving DecidableEq, Repr

/-- A scratchpad window (Tables 4.8, 4.9). -/
structure Win where
  enable : Bool
  ring : Bool
  ctx : Nat
  size : Nat
  base : Nat
  head : Nat
  tail : Nat
  deriving DecidableEq, Repr

/-- A window register pair at reset: disabled. -/
def noWin : Win := { enable := false, ring := false, ctx := 0, size := 0, base := 0, head := 0, tail := 0 }

/-- A request waiting at a bank port (R112): its master, context slot, the stream of its waybill if it serves one, offset in the stride, bytes to write (none for
a read), and the array cycles it has waited. `aliasOp` is set for a write through the alias ranges. -/
structure BankReq where
  master : Nat
  ctx : Nat
  stream : Nat
  off : Nat
  len : Nat
  data : Option (List Byte)
  aliasOp : Option Bool
  viaAlias : Bool
  waited : Nat
  deriving DecidableEq, Repr

/-- A pending write-back of a granule (R121): its offset and whether it writes the poison pattern. -/
structure WriteBack where
  addr : Nat
  poison : Bool
  deriving DecidableEq, Repr

/-- The scratchpad's control state (chapter 4). `owner` holds six owner codes of Table 4.4. -/
structure SpSt where
  owner : List Nat
  aliasOn : Bool
  aliasBank : Nat
  aliasCtx : Nat
  eccStatus : W32
  eccFirst : W32
  corrected : W32
  uncorrected : W32
  patrolPasses : W32
  patrolForced : W64
  nonOwner : Tbl W64
  nonOwnerWait : Tbl W64
  wins : Tbl Win
  rdQueue : Tbl (List BankReq)
  wrQueue : Tbl (List BankReq)
  wb : List WriteBack
  patrolPos : Tbl Nat
  deriving DecidableEq, Repr

/-- What a remote gather or scatter has yet to do, in element order (R138 to R141): ask for 32 B of a row, for a destination address and a
place in the output stream; send 32 B of a row; write zeros over address runs; count an adjusted index; or stop with a code, at a faulting
index where there is one. -/
inductive VeAct where
  | get (va dst pos e : Nat)
  | put (opcode sub va : Nat) (data : List Byte) (e : Nat)
  | zero (runs : List (Nat × Nat))
  | adjust
  | stop (code : Nat) (idx : Option (Nat × Int))
  deriving DecidableEq, Repr

/-- A running vector operation (Table 5.7): its item, opcode, and remote requests still out. For a remote table: `rows` holds where each
awaited 32 B go (tag, destination address, place in the output stream), `todo` what is not yet done, `fmt` the format of the rows, `poisoned`
whether a row came poisoned, `nf` the output elements found to be NaN or infinite, `frame` the address runs of the output, `code` the
code the operation ends its waybill with, and `ends` the streams whose RING pointers are still to move, with their elements and whether they
are outputs (R116). -/
structure VeRun where
  ref : ItemRef
  opcode : Nat
  tags : List Nat
  rows : List (Nat × Nat × Nat)
  todo : List VeAct
  fmt : Nat
  poisoned : Bool
  nf : List Nat
  frame : List (Nat × Nat)
  code : Nat
  ringStall : Bool
  ends : List (StreamD × Nat × Bool) := []
  deriving DecidableEq, Repr

/-- The vector engine of a block (chapter 5). `late` holds the requests of completed operations that the network has taken and no answer has
come for yet, each with its item (R141). -/
structure VeSt where
  running : Option VeRun
  late : List (Nat × ItemRef)
  busy : W64
  elements : W64
  flags : Tbl W32
  first : Tbl W64
  firstWb : Tbl W32
  idxFirst : Tbl W64
  idxAdj : Tbl W64
  deriving DecidableEq, Repr

/-- A strong box in absolute destination indices, low and high bound by dimension (R158). -/
abbrev Box := List (Int × Int)

/-- An entry of the box history (R161): the manifest by its handle, and the entry's number among the descriptors the engine issued. -/
structure HistEnt where
  man : Nat
  tensor : Nat
  box : Box
  seq : Nat
  deriving DecidableEq, Repr

/-- What a descriptor has yet to do at other modules: ask for a line or granule, or send bytes with their poisoned granules. -/
inductive PmAct where
  | get (va n : Nat)
  | put (va : Nat) (data : List Byte) (poison : List Nat)
  deriving DecidableEq, Repr

/-- A descriptor in flight (R163): its full destination box, the bounding ranges of what it reads and writes with their spaces, its manifest's
handle and its number among the descriptors the engine issued (R161), whether its lanes have been moved, whether its writes to other modules go
out, whether one was refused, what it has yet to do, the tags of writes not yet acknowledged and of reads not yet answered with the address of
each, the lines that have come, the granules that came poisoned, the lines that were refused with the customs reason, the bytes, lines
(latest first) and poisoned granules it has for other modules, and the lines of alias ranges it may not write (R120), and the cargo tiles whose repair failed while it waited for them (R252). -/
structure Flight where
  ref : ItemRef
  desc : PmDesc
  fullBox : Box
  srcRange : List (Nat × Int × Int)
  dstRange : List (Nat × Int × Int)
  man : Nat
  issue : Nat
  moved : Bool
  sending : Bool
  failed : Bool
  todo : List PmAct
  writeTags : List Nat
  readTags : List (Nat × Nat)
  got : Tbl (List Byte)
  gotPoison : List Nat
  nacked : List (Nat × Nat)
  far : Tbl Byte
  farLines : List Nat
  farPz : List Nat
  aliasBad : List Nat := []
  badTiles : List Nat := []
  deriving DecidableEq, Repr

/-- Whether every write of a descriptor in flight has been performed or acknowledged (R163). -/
def flightOver (f : Flight) : Bool :=
  f.moved && (f.sending || f.failed) && f.todo.isEmpty && f.readTags.isEmpty && f.writeTags.isEmpty

/-- The Premutar of a block (chapter 6). `stalled` is the descriptor that waits on a RING window (R166): it is in flight, and the engine
issues no other until it starts. `issued` counts the descriptors issued. -/
structure PmSt where
  flight : List Flight
  held : List ItemRef
  stalled : Option Flight
  issued : Nat
  hist : Tbl (List HistEnt)
  busy : W64
  bytes : W64
  flags : Tbl W32
  faultAddr : Tbl W64
  faultPos : Tbl W64
  faultWb : Tbl W32
  serialised : Tbl W64
  suppressed : Tbl W64
  deriving DecidableEq, Repr

/-- Progress of a body item. -/
inductive ItemSt where
  | waiting | issued | done
  deriving DecidableEq, Repr

/-- A running waybill (R192): what it runs, its granted registers (by 128 × register + word), its lane generators, the
flags of its record, its end code, its completion sequence number and its start time; and, while its remote advances await the acknowledgement of
its writes, whether its tokens are released and its local outputs issued. -/
structure RunWb where
  ctx : Nat
  man : Nat
  run : Nat
  wb : Nat
  stream : Nat
  seedWb : Nat
  step : Nat
  items : List ItemSt
  vregs : Nat
  regs : Tbl W32
  gens : List (Nat × W32)
  flags : W32
  code : Nat
  seq : Option Nat
  startNs : Nat
  freed : Bool := false
  advanced : Bool := false
  deriving DecidableEq, Repr

/-- The sequencer of a block (chapters 7 and 8). `vtime` and `pass` are kept by slot and by 4 × slot + stream; `ready` lists
the streams, by 4 × slot + stream, that had a ready waybill at the last evaluation (R194, R211). -/
structure SeqSt where
  holder : Option Nat
  heldCycles : Nat
  vtime : Tbl Nat
  pass : Tbl Nat
  running : List RunWb
  starts : W64
  idle : Tbl W64
  view : Tbl W32
  ready : List Nat
  deriving DecidableEq, Repr

/-- The check-value unit of a block (R380 to R385); `frameQ` holds tapped frames it has yet to judge. -/
structure CvSt where
  cfg : W64
  poly : W64
  init : W64
  expect : W64
  last : W64
  tally : W32
  started : Bool
  cvFlags : W32
  cvFirst : W64
  frames : W64
  mismatch : W64
  rep : W64
  gap : W64
  frameQ : List (List Byte)
  deriving DecidableEq, Repr

/-- One physical block. `cordon` is set while the block is fenced (R403), `halted` while a D2 session holds its
sequencer (R455). `occ` holds the occurrence counts of W1C flags that have no register
of their own (R429), by the number `occKey` gives each flag. -/
structure Blk where
  arr : ArrSt
  sp : SpSt
  ve : VeSt
  pm : PmSt
  seq : SeqSt
  cv : CvSt
  cordon : Bool
  halted : Bool
  occ : Tbl W32
  deriving DecidableEq, Repr

/-- An array at reset. -/
def arrReset : ArrSt :=
  { groups := [], queue := [], running := none, busy := 0, rowCycles := 0, residue := 0, tileFlags := [], tileFirst := [],
    tileFirstWb := [] }
/-- Scratchpad control at reset. -/
def spReset : SpSt :=
  { owner := [0, 0, 0, 0, 0, 0], aliasOn := false, aliasBank := 0, aliasCtx := 0, eccStatus := 0, eccFirst := 0,
    corrected := 0, uncorrected := 0, patrolPasses := 0, patrolForced := 0, nonOwner := [], nonOwnerWait := [],
    wins := [], rdQueue := [], wrQueue := [], wb := [], patrolPos := [] }
/-- A vector engine at reset. -/
def veReset : VeSt :=
  { running := none, late := [], busy := 0, elements := 0, flags := [], first := [], firstWb := [], idxFirst := [], idxAdj := [] }
/-- A Premutar at reset. -/
def pmReset : PmSt :=
  { flight := [], held := [], stalled := none, issued := 0, hist := [], busy := 0, bytes := 0, flags := [], faultAddr := [],
    faultPos := [], faultWb := [], serialised := [], suppressed := [] }
/-- A sequencer at reset. -/
def seqReset : SeqSt :=
  { holder := none, heldCycles := 0, vtime := [], pass := [], running := [], starts := 0, idle := [], view := [],
    ready := [] }
/-- A check-value unit at reset. -/
def cvReset : CvSt :=
  { cfg := 0, poly := 0, init := 0, expect := 0, last := 0, tally := 0, started := false, cvFlags := 0, cvFirst := 0,
    frames := 0, mismatch := 0, rep := 0, gap := 0, frameQ := [] }
/-- A block at reset. -/
def blkReset : Blk :=
  { arr := arrReset, sp := spReset, ve := veReset, pm := pmReset, seq := seqReset, cv := cvReset, cordon := false,
    halted := false, occ := [] }

end Sys2Proof.Machine
end

