-- ==== Sys2Proof/Machine/ConvoyState.lean ====
section
/-! DEFINITION. The state of convoys, collectives and channels (chapter 11). -/

namespace Sys2Proof.Machine

/-- A collective descriptor (Table 11.5) with the 64 bytes it was posted as. -/
structure CollD where
  op : Nat
  twoLevel : Bool
  accum : Bool
  isMax : Bool
  fmt : Nat
  whole : Bool
  chunk : Nat
  root : Nat
  trigger : Nat
  target : Nat
  stride : Nat
  done : Nat
  amount : Nat
  count : Nat
  send : Nat
  recv : Nat
  extra : Nat
  raw : List Byte
  deriving DecidableEq, Repr

/-- A convoy record (Table 11.1): `members` holds, by rank, module identifier and context handle. -/
structure ConvRec where
  id : Nat
  ctx : Nat
  epoch : Nat
  rank : Nat
  node : Nat
  timeout : Nat
  members : List (Nat × Nat)
  deriving DecidableEq, Repr

/-- The record of a slot never set. -/
def noConvRec : ConvRec := { id := 0, ctx := 0, epoch := 0, rank := 0, node := 0, timeout := 0, members := [] }

/-- Bytes in hand for one share, with the poisoned 32 B granules among them. -/
structure ShareBuf where
  data : List Byte
  poison : List Nat
  deriving DecidableEq, Repr

/-- A load of a collective that is still out: its tag, the share and the offset in it that its bytes go to, the bytes of the answer to skip and
those to take. -/
structure ConvLoad where
  tag : Nat
  share : Nat
  off : Nat
  skip : Nat
  len : Nat
  deriving DecidableEq, Repr

/-- A running collective (R302 to R313): the descriptor and occurrence, the layout epoch it started under, the bytes of
each share and the shares that hold copied data, the steps opened (R312), the packets received (256 × chunk + packet), the chunks it may
send and has sent, the chunks it has granted, loads and writes still out, and the relay steps stored and finished. -/
structure Coll where
  d : Nat
  occ : Nat
  op : Nat
  layout : Nat
  acc : Tbl ShareBuf
  copied : List Nat
  opened : Nat
  seen : List Nat
  granted : List Nat
  sent : List Nat
  gave : List Nat
  loads : List ConvLoad
  writes : List Nat
  stepsLanded : Nat
  stepsDone : Nat
  deriving DecidableEq, Repr

/-- A convoy slot (Tables 11.2, 11.9, 11.10). `st` is the code of Table 11.2, `next` the number of the next occurrence in
schedule order, `disc` the discard fields stale, ahead, not_member and late, `occ` the running occurrence counts of the
three flags. -/
structure ConvSlot where
  st : Nat
  rc : ConvRec
  sched : List CollD
  next : Nat
  coll : Option Coll
  flags : W32
  abort : W64
  disc : List W16
  bytes : W64
  occ : Tbl W32
  deriving DecidableEq, Repr

/-- A convoy slot at reset. -/
def convReset : ConvSlot :=
  { st := 0, rc := noConvRec, sched := [], next := 0, coll := none, flags := 0, abort := 0, disc := [0, 0, 0, 0],
    bytes := 0, occ := [] }

/-- A send half (R320): where it drains, its peer, its unit in bytes, the credits it holds, and units sent. -/
structure ChSend where
  array : Nat
  window : Nat
  peerM : Nat
  peerC : Nat
  unit : Nat
  timeout : Nat
  credits : Nat
  sent : Nat
  deriving DecidableEq, Repr

/-- A unit held in the caravanserai, with its poisoned 32 B granules and whether the check-value unit has seen it. -/
structure ChUnit where
  data : List Byte
  poison : List Nat
  judged : Bool
  deriving DecidableEq, Repr

/-- A receive half (R320, R321): minimum and quota in 2 KiB units, credits granted and not yet used, the units held and
the parts of units still arriving, by 256 × unit + part, the unit it waits for, and the units credited so far. -/
structure ChRecv where
  array : Nat
  window : Nat
  peerM : Nat
  peerC : Nat
  unit : Nat
  min : Nat
  quota : Nat
  timeout : Nat
  out : Nat
  held : List ChUnit
  parts : Tbl ShareBuf
  next : Nat
  credited : Nat
  deriving DecidableEq, Repr

/-- A channel entry (R320, Table 11.11): the owning handle, its halves, and units delivered. -/
structure Chan where
  ctx : Nat
  send : Option ChSend
  recv : Option ChRecv
  units : W32
  deriving DecidableEq, Repr

/-- A closed channel entry. -/
def chanReset : Chan := { ctx := 0, send := none, recv := none, units := 0 }

/-- Convoys, channels, and packets of no convoy (R325). -/
structure ConvS where
  slots : Tbl ConvSlot
  chans : Tbl Chan
  unmatched : W64
  deriving DecidableEq, Repr

/-- The convoy engine at reset. -/
def convSReset : ConvS := { slots := [], chans := [], unmatched := 0 }

end Sys2Proof.Machine
end

