-- ==== Sys2Proof/Machine/ParkState.lean ====
section
/-! DEFINITION. What a park image holds (Table 13.1). The manual gives its parts and not their bytes. -/

namespace Sys2Proof.Machine

/-- A park image: the slot, the context's own state, each block of its set by logical array (its windows, alias and per-slot
registers are the image's), the bytes and poisoned granules of its banks by array and offset, the bytes of the
manifest store by offset, milestone values, the numerics record, convoy records with schedule and next occurrence, and channel halves. -/
structure ParkImg where
  slot : Nat
  ctx : Ctx
  blks : List (Nat × Blk)
  banks : List (Nat × List (Nat × Byte) × List Nat)
  store : List (Nat × Byte)
  ms : List Nat
  record : List Byte
  convs : List (Nat × ConvRec × List CollD × Nat)
  chans : List (Nat × Chan)
  deriving DecidableEq, Repr

/-- What a Knaob command that the caravaneer performs in a round meets outside the module's own state, as the operands of the commands' own rows say it: bytes
that other modules answer with, whether a signature verifies, a park image, the flags set in the same cycle, where a twin's areas lie, and which of the
strongbox's copies in SRAM fail their code. -/
structure CmdFacts where
  ext : List Byte
  sig : Bool
  image : Nat
  good : Bool
  img : Option ParkImg
  flagSets : List (Nat × W32)
  sets : W32
  copy : Nat
  journal : Nat
  depth : Nat
  held : Bool
  badLog : List Nat
  badDump : Bool
  deriving DecidableEq, Repr

/-- Nothing met. -/
def noFacts : CmdFacts :=
  { ext := [], sig := false, image := 0, good := false, img := none, flagSets := [], sets := 0, copy := 0, journal := 0, depth := 0, held := false, badLog := [],
    badDump := false }

/-- What a management round finds outside the module's own counts (R389, R397, R477): the input energy of the round in µJ, the input
power as an FP32 pattern in W, the die and stack temperatures in °C, and the margins measured: quantity, unit, result (Table 14.8); and what the commands
that the caravaneer performs in the round meet, in order (R418, R419). -/
structure RoundFacts where
  energy : Nat
  watts : Nat
  die : List Int
  stackT : List Int
  margins : List (Nat × Nat × Int)
  cmds : List CmdFacts
  deriving DecidableEq, Repr

end Sys2Proof.Machine
end

