-- ==== Sys2Proof/Syntax.lean ====
section
/-! DEFINITION. The commands: one constructor per row of the opcode table, with the row's operands. A row that is a Knaob command carries its
request (R420); a row that is an event carries what tells one such event from another, and the facts that only the event itself can bring:
what a check, a sensor or a signature verification found, what a packet or a measurement holds. -/

namespace Sys2Proof

open Sys2Proof.Machine

/-- A command of the module, as the opcode table lists them. -/
inductive Instr where
  /-- STATUS (R417): with opcode 0 the command itself; another opcode that the table does not list is the unknown one of R421. -/
  | status (opcode : Nat) (r : Req)
  /-- CTX_CREATE (R207). -/
  | ctxCreate (r : Req)
  /-- CTX_CLOSE (R213). -/
  | ctxClose (r : Req)
  /-- TEARDOWN_END (R213): slot `c`. -/
  | teardownEnd (c : Nat)
  /-- CTX_EXTEND (R347). -/
  | ctxExtend (r : Req)
  /-- CTX_RECLAIM (R348). -/
  | ctxReclaim (r : Req)
  /-- RECLAIM_BLOCK_LEAVE (R348): slot `c`, logical array `a`. -/
  | reclaimBlockLeave (c : Nat) (a : Nat)
  /-- RECLAIM_DEADLINE (R349): slot `c`. -/
  | reclaimDeadline (c : Nat)
  /-- CTX_PARK (R350). -/
  | ctxPark (r : Req)
  /-- PARK_QUIESCED (R350): slot `c`. -/
  | parkQuiesced (c : Nat)
  /-- PARK_DEADLINE (R350): slot `c`. -/
  | parkDeadline (c : Nat)
  /-- PARK_COMPLETE (R351): slot `c`. -/
  | parkComplete (c : Nat)
  /-- CTX_UNPARK (R353): `image` is the local address of the image read, `good` says whether what stands there is still what was written. -/
  | ctxUnpark (image : Nat) (good : Bool) (r : Req)
  /-- CTX_UNPARK_IMAGE (R354): `img` is the image found at the address, none where its checks fail. -/
  | ctxUnparkImage (img : Option ParkImg) (r : Req)
  /-- CTX_RESHARD (R344). -/
  | ctxReshard (r : Req)
  /-- RESHARD_EFFECT (R345): slot `c`. -/
  | reshardEffect (c : Nat)
  /-- MANIFEST_POST (R190): `ext` holds the bytes of the image that lie on other modules. -/
  | manifestPost (ext : List Byte) (r : Req)
  /-- MANIFEST_LAUNCH (R191). -/
  | manifestLaunch (r : Req)
  /-- MANIFEST_RETIRE (R193). -/
  | manifestRetire (r : Req)
  /-- FLAGS_CLEAR (R430): `sets` are the flags set in the same cycle, by target. -/
  | flagsClear (sets : List (Nat × W32)) (r : Req)
  /-- NUMERICS_SAVE (R336). -/
  | numericsSave (r : Req)
  /-- NUMERICS_LOAD (R336): `ext` holds the bytes of the record that lie on other modules. -/
  | numericsLoad (ext : List Byte) (r : Req)
  /-- WATCH_OPEN (R327). -/
  | watchOpen (r : Req)
  /-- WATCH_CLOSE (R327). -/
  | watchClose (r : Req)
  /-- ORDERED_OPEN (R255). -/
  | orderedOpen (r : Req)
  /-- CV_CONFIGURE (R380). -/
  | cvConfigure (r : Req)
  /-- SERVING_CONFIG (R222). -/
  | servingConfig (r : Req)
  /-- CARGO_LOAD (R366). -/
  | cargoLoad (r : Req)
  /-- CARGO_SEAL (R366). -/
  | cargoSeal (r : Req)
  /-- CARGO_SET_READY (R366): set `k`. -/
  | cargoSetReady (k : Nat)
  /-- CARGO_BIND (R367). -/
  | cargoBind (r : Req)
  /-- CARGO_UNBIND (R367). -/
  | cargoUnbind (r : Req)
  /-- CARGO_SWAP (R368). -/
  | cargoSwap (r : Req)
  /-- SWAP_DRAINED (R368): set `k`. -/
  | swapDrained (k : Nat)
  /-- CARGO_SWITCH (R369). -/
  | cargoSwitch (r : Req)
  /-- CARGO_SWITCH_APPLY (R369): slot `c`. -/
  | cargoSwitchApply (c : Nat)
  /-- SEQ_READ (R216). -/
  | seqRead (r : Req)
  /-- STATEMENT (R398). -/
  | statement (r : Req)
  /-- LOG_READ (R414): `q` has the request, and the records that stand bad in SRAM (R413). -/
  | logRead (q : StrongboxReq)
  /-- DUMP_READ (R406): as `logRead`, with dumps. -/
  | dumpRead (q : StrongboxReq)
  /-- COUNTER_READ (R431). -/
  | counterRead (r : Req)
  /-- BOARD_EVENTS (R433). -/
  | boardEvents (r : Req)
  /-- POWER_CAP (R474). -/
  | powerCap (r : Req)
  /-- CLOCK_LIMIT (R474). -/
  | clockLimit (r : Req)
  /-- POWER_STATE (R475). -/
  | powerState (r : Req)
  /-- POWER_QUERY (R427). -/
  | powerQuery (r : Req)
  /-- FW_STAGE (R441). -/
  | fwStage (r : Req)
  /-- FW_VERIFY (R441): `sig` says whether the signature verifies. -/
  | fwVerify (sig : Bool) (r : Req)
  /-- FW_ACTIVATE (R441). -/
  | fwActivate (r : Req)
  /-- FW_QUERY (R439). -/
  | fwQuery (r : Req)
  /-- FW_COMMIT (R442). -/
  | fwCommit (r : Req)
  /-- TRY_BOOT_TIMEOUT (R440): `f` is what the boot that follows meets. -/
  | tryBootTimeout (f : BootFacts)
  /-- LIFECYCLE_QUERY (R465). -/
  | lifecycleQuery (r : Req)
  /-- OWNER_ENROL (R453): `sig` says whether the signature verifies. -/
  | ownerEnrol (sig : Bool) (r : Req)
  /-- POLICY_SET (R454): `sig` says whether the signature verifies. -/
  | policySet (sig : Bool) (r : Req)
  /-- DEBUG_UNLOCK (R452): `sig` says whether the signature verifies. -/
  | debugUnlock (sig : Bool) (r : Req)
  /-- DEBUG_LOCK (R456). -/
  | debugLock (r : Req)
  /-- DEBUG_SESSION_EXPIRY (R456). -/
  | debugSessionExpiry
  /-- ZEROISE (R461): `sig` says whether the signature verifies. -/
  | zeroise (sig : Bool) (r : Req)
  /-- LIFECYCLE_SET (R445): `sig` says whether the signature verifies. -/
  | lifecycleSet (sig : Bool) (r : Req)
  /-- CERT_READ (R448). -/
  | certRead (r : Req)
  /-- RESET (R407). -/
  | reset (r : Req)
  /-- OOS_SET (R410). -/
  | oosSet (r : Req)
  /-- RETURN_TO_SERVICE (R411). -/
  | returnToService (r : Req)
  /-- RETAIN_FLOOR (R393). -/
  | retainFloor (r : Req)
  /-- WDT_SET (R400). -/
  | wdtSet (r : Req)
  /-- RETIRE_THRESHOLD (R247). -/
  | retireThreshold (r : Req)
  /-- ECC_CLEAR (R267): `sets` are the flags set in the same cycle. -/
  | eccClear (sets : W32) (r : Req)
  /-- HEALTH_QUERY (R427). -/
  | healthQuery (r : Req)
  /-- MODULE_ID_SET (R270). -/
  | moduleIdSet (r : Req)
  /-- MEMBERSHIP_SET (R276). -/
  | membershipSet (r : Req)
  /-- WAYMAP_MAP (R273). -/
  | waymapMap (r : Req)
  /-- WAYMAP_UNMAP (R277). -/
  | waymapUnmap (r : Req)
  /-- WAYMAP_READ (R272). -/
  | waymapRead (r : Req)
  /-- RESP_TIMEOUT_SET (R292). -/
  | respTimeoutSet (r : Req)
  /-- CONVOY_SET (R297): `ext` holds the bytes of the record that lie on other modules. -/
  | convoySet (ext : List Byte) (r : Req)
  /-- CONVOY_REMOVE (R297). -/
  | convoyRemove (r : Req)
  /-- SCHEDULE_POST (R303): `ext` holds the bytes of the schedule that lie on other modules. -/
  | schedulePost (ext : List Byte) (r : Req)
  /-- CHANNEL_OPEN (R320). -/
  | channelOpen (r : Req)
  /-- CHANNEL_CLOSE (R323). -/
  | channelClose (r : Req)
  /-- TWIN_ACCEPT (R355). -/
  | twinAccept (r : Req)
  /-- TWIN_SET (R355): `copy`, `journal` and `depth` are what the twin registered for this source. -/
  | twinSet (copy : TwinCopy) (journal : Nat) (depth : Nat) (r : Req)
  /-- RESTORE (R362). -/
  | restore (r : Req)
  /-- CUSTOMS_CLEAR (R296): `sets` are the flags set in the same cycle. -/
  | customsClear (sets : W32) (r : Req)
  /-- OP_DONE (R423): the command with op_tag `tag`. -/
  | opDone (tag : Nat)
  /-- CHP_CR_ACK (R201): slot `c`; `whole` says that the write is of 4 aligned bytes. -/
  | chpCrAck (c : Nat) (value : Nat) (whole : Bool)
  /-- MP_EVT_ACK (R433): `whole` says that the write is of 4 aligned bytes. -/
  | mpEvtAck (value : Nat) (whole : Bool)
  /-- MSIX_UNMASK (R432): vector `v`. -/
  | msixUnmask (v : Nat)
  /-- REGISTER_WRITE (R15): `a` is an offset in BAR0 or a local address of a block's window (R124). -/
  | registerWrite (a : Nat) (data : RegData)
  /-- BAR2_READ (R233): `n` bytes at `a`; what the code found, and `ondie` corrections within the dies or on the link. -/
  | bar2Read (a : Nat) (n : Nat) (found : CodeFacts) (ondie : Nat)
  /-- BAR2_WRITE (R233): as `bar2Read`. -/
  | bar2Write (a : Nat) (data : List Byte) (found : CodeFacts) (ondie : Nat)
  /-- INPUT_POWER_RISE (R471): `f` is what the boot meets. -/
  | inputPowerRise (f : BootFacts)
  /-- INPUT_UNDERVOLTAGE (R470). -/
  | inputUndervoltage
  /-- ALWAYS_ON_LOSS (R470). -/
  | alwaysOnLoss
  /-- INPUT_OVERVOLTAGE (R470). -/
  | inputOvervoltage
  /-- WAKE (R467): `cool` says that every die sensor reads below 70 °C, `f` is what the boot meets. -/
  | wake (cool : Bool) (f : BootFacts)
  /-- PERST (R468). -/
  | perst (asserted : Bool)
  /-- POWER_LOOP_SAMPLE (R474): `w` watts. -/
  | powerLoopSample (w : Nat)
  /-- FAST_TRIP (R474). -/
  | fastTrip
  /-- THERMAL_STEP (R477). -/
  | thermalStep
  /-- THERMAL_SHUTDOWN (R478). -/
  | thermalShutdown
  /-- SUPPLY_DROOP (R374): region `r`. -/
  | supplyDroop (r : Nat)
  /-- RAIL_OUT_OF_RANGE (R374). -/
  | railOutOfRange
  /-- CLOCK_LOSS (R374). -/
  | clockLoss (k : ClockLost)
  /-- LOCKSTEP_MISMATCH (R409). -/
  | lockstepMismatch
  /-- MP_RESTART_DONE (R409). -/
  | mpRestartDone
  /-- DUPLICATE_MISMATCH (R377): unit `u` (Table 15.4). -/
  | duplicateMismatch (u : Nat)
  /-- ALARM_CONDITION (R457): conditions 0 to 3 of Table 17.7. -/
  | alarmCondition (cond : Nat)
  /-- FUSE_INTEGRITY_CHECK (R457): `bad` says that a mismatch was found. -/
  | fuseIntegrityCheck (bad : Bool)
  /-- GET_VERSION (R449): `board` says that it arrives at the board port and not at the host port. -/
  | getVersion (board : Bool)
  /-- GET_CAPABILITIES (R449): `board` says that it arrives at the board port and not at the host port. -/
  | getCapabilities (board : Bool)
  /-- NEGOTIATE_ALGORITHMS (R449): the masks offered. -/
  | negotiateAlgorithms (board : Bool) (spec : Nat) (asym : Nat) (hash : Nat)
  /-- GET_DIGESTS (R449): `board` says that it arrives at the board port and not at the host port. -/
  | getDigests (board : Bool)
  /-- GET_CERTIFICATE (R449): `n` bytes from `off` on. -/
  | getCertificate (board : Bool) (slot : Nat) (off : Nat) (n : Nat)
  /-- CHALLENGE (R449): `what` is the measurement summary asked for. -/
  | challenge (board : Bool) (slot : Nat) (what : Nat)
  /-- GET_MEASUREMENTS (R450): `op` is the operation: 0, an index, or 0xFF. -/
  | getMeasurements (board : Bool) (signed : Bool) (slot : Nat) (op : Nat)
  /-- KEY_PROG (R468): `mse` is Memory Space Enable as the message finds it. -/
  | keyProg (ix : Nat) (key : List Byte) (mse : Bool)
  /-- K_SET_GO (R468): as `keyProg`. -/
  | kSetGo (mse : Bool)
  /-- MANAGEMENT_ROUND (R38): `f` is what the round measures and what the commands it performs meet. -/
  | managementRound (f : RoundFacts)
  /-- HEALTH_SCORE_SAVE (R391). -/
  | healthScoreSave
  /-- WAYBILL_START (R194): block `p`. -/
  | waybillStart (p : Nat)
  /-- WAYBILL_COMPLETE (R192): block `p`, stream `stream`. -/
  | waybillComplete (p : Nat) (stream : Nat)
  /-- SEQ_STEP_BUILD (R220): slot `c`; `bad` says that duplicated logic disagrees (R379). -/
  | seqStepBuild (c : Nat) (bad : Bool)
  /-- RUN_START (R191): manifest slot `k` of slot `c`. -/
  | runStart (c : Nat) (k : Nat)
  /-- RUN_COMPLETE (R191): run `run` of manifest slot `k` of slot `c`. -/
  | runComplete (c : Nat) (k : Nat) (run : Nat)
  /-- COMPLETION_RECORD (R200): completion slot `q` of slot `c`. -/
  | completionRecord (c : Nat) (q : Nat)
  /-- BLOCK_HANDOVER (R211): block `p`. -/
  | blockHandover (p : Nat)
  /-- ARRAY_OP (R90): block `p`, stream `stream`; `mism` is the group whose residue disagrees, if one does. -/
  | arrayOp (p : Nat) (stream : Nat) (mism : Option Nat)
  /-- ARRAY_OP_COMPLETE (R188): block `p`. -/
  | arrayOpComplete (p : Nat)
  /-- DRAIN (R93): as `arrayOp`; `mism` also names the pass. -/
  | drain (p : Nat) (stream : Nat) (mism : Option (Nat × Nat))
  /-- DRAIN_COMPLETE (R95): block `p`. -/
  | drainComplete (p : Nat)
  /-- DISCARD (R91): block `p`, stream `stream`. -/
  | discard (p : Nat) (stream : Nat)
  /-- WINDOW_SET (R118): block `p`, stream `stream`; `bad` says that duplicated logic disagrees (R379). -/
  | windowSet (p : Nat) (stream : Nat) (bad : Bool)
  /-- ALIAS_SET (R120): as `windowSet`. -/
  | aliasSet (p : Nat) (stream : Nat) (bad : Bool)
  /-- BARRIER (R188): block `p`, stream `stream`. -/
  | barrier (p : Nat) (stream : Nat)
  /-- PREMUTAR (R163): block `p`, stream `stream`. -/
  | premutar (p : Nat) (stream : Nat)
  /-- PREMUTAR_COMPLETE (R163): block `p`. -/
  | premutarComplete (p : Nat)
  /-- ADD (R130): block `p`, stream `stream`; `mism` is the group of a register residue that disagrees, if one does. -/
  | vadd (p : Nat) (stream : Nat) (mism : Option Nat)
  /-- SUB (R130): block `p`, stream `stream`; `mism` is the group of a register residue that disagrees, if one does. -/
  | vsub (p : Nat) (stream : Nat) (mism : Option Nat)
  /-- MUL (R130): block `p`, stream `stream`; `mism` is the group of a register residue that disagrees, if one does. -/
  | vmul (p : Nat) (stream : Nat) (mism : Option Nat)
  /-- FMA (R130): block `p`, stream `stream`; `mism` is the group of a register residue that disagrees, if one does. -/
  | vfma (p : Nat) (stream : Nat) (mism : Option Nat)
  /-- DIV (R130): block `p`, stream `stream`; `mism` is the group of a register residue that disagrees, if one does. -/
  | vdiv (p : Nat) (stream : Nat) (mism : Option Nat)
  /-- SQRT (R130): block `p`, stream `stream`; `mism` is the group of a register residue that disagrees, if one does. -/
  | vsqrt (p : Nat) (stream : Nat) (mism : Option Nat)
  /-- RECIP_RSQRT_EXP2_LOG2 (R130): block `p`, stream `stream`; `mism` is the group of a register residue that disagrees, if one does. -/
  | vfunc (p : Nat) (stream : Nat) (mism : Option Nat)
  /-- MAX_MIN (R62): block `p`, stream `stream`; `mism` is the group of a register residue that disagrees, if one does. -/
  | vmaxMin (p : Nat) (stream : Nat) (mism : Option Nat)
  /-- ABS_NEG_COPYSIGN (R130): block `p`, stream `stream`; `mism` is the group of a register residue that disagrees, if one does. -/
  | vsign (p : Nat) (stream : Nat) (mism : Option Nat)
  /-- CMP (R130): block `p`, stream `stream`; `mism` is the group of a register residue that disagrees, if one does. -/
  | vcmp (p : Nat) (stream : Nat) (mism : Option Nat)
  /-- SELECT (R137): block `p`, stream `stream`; `mism` is the group of a register residue that disagrees, if one does. -/
  | vselect (p : Nat) (stream : Nat) (mism : Option Nat)
  /-- CVT (R131): block `p`, stream `stream`; `mism` is the group of a register residue that disagrees, if one does. -/
  | vcvt (p : Nat) (stream : Nat) (mism : Option Nat)
  /-- SH16_ENC (R132): block `p`, stream `stream`; `mism` is the group of a register residue that disagrees, if one does. -/
  | sh16Enc (p : Nat) (stream : Nat) (mism : Option Nat)
  /-- SH16_DEC (R132): block `p`, stream `stream`; `mism` is the group of a register residue that disagrees, if one does. -/
  | sh16Dec (p : Nat) (stream : Nat) (mism : Option Nat)
  /-- REDUCE (R136): block `p`, stream `stream`; `mism` is the group of a register residue that disagrees, if one does. -/
  | vreduce (p : Nat) (stream : Nat) (mism : Option Nat)
  /-- FINALIZE (R136): block `p`, stream `stream`; `mism` is the group of a register residue that disagrees, if one does. -/
  | vfinalize (p : Nat) (stream : Nat) (mism : Option Nat)
  /-- REGLOAD (R135): block `p`, stream `stream`; `mism` is the group of a register residue that disagrees, if one does. -/
  | regLoad (p : Nat) (stream : Nat) (mism : Option Nat)
  /-- REGSTORE (R135): block `p`, stream `stream`; `mism` is the group of a register residue that disagrees, if one does. -/
  | regStore (p : Nat) (stream : Nat) (mism : Option Nat)
  /-- COMPRESS (R137): block `p`, stream `stream`; `mism` is the group of a register residue that disagrees, if one does. -/
  | vcompress (p : Nat) (stream : Nat) (mism : Option Nat)
  /-- EXPAND (R137): block `p`, stream `stream`; `mism` is the group of a register residue that disagrees, if one does. -/
  | vexpand (p : Nat) (stream : Nat) (mism : Option Nat)
  /-- GATHER (R138): block `p`, stream `stream`; `mism` is the group of a register residue that disagrees, if one does. -/
  | gather (p : Nat) (stream : Nat) (mism : Option Nat)
  /-- SCATTER (R138): block `p`, stream `stream`; `mism` is the group of a register residue that disagrees, if one does. -/
  | scatter (p : Nat) (stream : Nat) (mism : Option Nat)
  /-- SCATTER_ADD (R140): block `p`, stream `stream`; `mism` is the group of a register residue that disagrees, if one does. -/
  | scatterAdd (p : Nat) (stream : Nat) (mism : Option Nat)
  /-- LH_SLICE (R142): block `p`, stream `stream`; `mism` is the group of a register residue that disagrees, if one does. -/
  | lhSlice (p : Nat) (stream : Nat) (mism : Option Nat)
  /-- LH_RECOMBINE (R143): block `p`, stream `stream`; `mism` is the group of a register residue that disagrees, if one does. -/
  | lhRecombine (p : Nat) (stream : Nat) (mism : Option Nat)
  /-- TOPK (R144): block `p`, stream `stream`; `mism` is the group of a register residue that disagrees, if one does. -/
  | topk (p : Nat) (stream : Nat) (mism : Option Nat)
  /-- SIGNC (R144): block `p`, stream `stream`; `mism` is the group of a register residue that disagrees, if one does. -/
  | signc (p : Nat) (stream : Nat) (mism : Option Nat)
  /-- VECTOR_OP_COMPLETE (R141): block `p`. -/
  | vectorOpComplete (p : Nat)
  /-- RING_ACCESS_START (R116): block `p`, and whether its window is found bad. -/
  | ringAccessStart (p : PlaceFacts)
  /-- SP_ACCESS (R107): offset `off` of block `p`, `n` bytes read or `data` written; `busy` says whether the port is taken. -/
  | spAccess (p : Nat) (master : Nat) (c : Nat) (stream : Nat) (off : Nat) (n : Nat) (data : Option (List Byte)) (busy : Bool) (single : List Nat) (double : List Nat)
  /-- ALIAS_WRITE (R119): as `spAccess`; `bad` says that BLK_SP_ALIAS is found with an error of several bits (R379). -/
  | aliasWrite (p : Nat) (master : Nat) (c : Nat) (stream : Nat) (off : Nat) (data : List Byte) (busy : Bool) (bad : Bool) (found : CodeFacts)
  /-- NON_OWNER_SERVICE (R112): the port of a bank; `waited` cycles. -/
  | nonOwnerService (p : Nat) (bank : Nat) (write : Bool) (waited : Nat) (single : List Nat) (double : List Nat)
  /-- SP_ECC_WRITEBACK (R121): block `p`. -/
  | spEccWriteback (p : Nat)
  /-- SP_PATROL_READ (R122): bank `bank` of block `p`. -/
  | spPatrolRead (p : Nat) (bank : Nat) (forced : Bool) (single : List Nat) (double : List Nat)
  /-- MILESTONE_ADVANCE (R182): milestone `n`; `bad` says that duplicated logic disagrees (R379). -/
  | milestoneAdvance (n : Nat) (bad : Bool)
  /-- MILESTONE_MULTICAST (R183): milestone `n`, block `p`. -/
  | milestoneMulticast (n : Nat) (p : Nat)
  /-- CV_FRAME (R382): block `p`. -/
  | cvFrame (p : Nat)
  /-- ASSAYER_SUMMARY (R329). -/
  | assayerSummary
  /-- END_OF_RUN_MARKER (R331). -/
  | endOfRunMarker
  /-- STEP_CLOSE (R331): slot `c`. -/
  | stepClose (c : Nat)
  /-- CLOSE_TIMEOUT (R332): slot `c`. -/
  | closeTimeout (c : Nat)
  /-- TIER_ACCESS (R237): `n` bytes at `a` read or `data` written, for context `who` and item `ref`; `ondie` corrections within the die; `joins` says
  that a read of the same granule is in progress. -/
  | tierAccess (a : Nat) (n : Nat) (data : Option (List Byte)) (who : Option Nat) (ref : Option (Nat × ItemRef)) (single : List Nat) (double : List Nat) (ondie : Nat) (joins : Bool)
  /-- TIER_ECC_WRITEBACK (R242): controller `k`. -/
  | tierEccWriteback (k : Nat)
  /-- TIER_PATROL_READ (R246): the granule at `a`; what the code found in it; `ends` says that it is the last of its pass; `ondie` corrections within
  the dies or on the link. -/
  | tierPatrolRead (a : Nat) (found : GranuleFacts) (ends : Bool) (ondie : Nat)
  /-- RETIREMENT_COPY_DONE (R248): controller `k`; the copy took `ns`. -/
  | retirementCopyDone (k : Nat) (ns : Nat)
  /-- REFRESH_EVALUATION (R250): controller `k`; `hot` says that a die is at 85 °C or more. -/
  | refreshEvaluation (k : Nat) (hot : Bool)
  /-- CARGO_SOURCE_TIMEOUT (R251): the request with tag `tag`. -/
  | cargoSourceTimeout (tag : Nat)
  /-- CARGO_REFETCH_DEADLINE (R252). -/
  | cargoRefetchDeadline (set : Nat) (tile : Nat)
  /-- ORDERED_CLOSE (R256): window `n`. -/
  | orderedClose (n : Nat)
  /-- ORDERED_SHARE_CLOSED (R256): window `n`. -/
  | orderedShareClosed (n : Nat)
  /-- OUTRIDER_DEADLINE (R261): waybill `w` of run `run` of manifest slot `k` of slot `c`. -/
  | outriderDeadline (c : Nat) (k : Nat) (run : Nat) (w : Nat)
  /-- ZEROING_COMPLETE (R215): the range that begins at `a`. -/
  | zeroingComplete (a : Nat)
  /-- PERIODIC_CALIBRATION (R386): channel `ch` of controller `k`; `d` is the margin found above its warning level. -/
  | periodicCalibration (k : Nat) (ch : Nat) (d : Int)
  /-- WAYMAP_PATROL (R386): the ways found with one and with more bits in error. -/
  | waymapPatrol (single : List Nat) (double : List Nat)
  /-- PACKET_SEND (R285). -/
  | packetSend
  /-- FLIT (R281): link `k`, the bytes received and the symbols corrected in them. -/
  | flit (k : Nat) (raw : List Byte) (fec : Nat)
  /-- CONTROL_FLIT (R281): link `k`; `ok` says that its CRC holds. -/
  | controlFlit (k : Nat) (ok : Bool) (tolls : List Nat)
  /-- REPLAY_TIMEOUT (R283): link `k`. -/
  | replayTimeout (k : Nat)
  /-- LANE_FAILURE (R284). -/
  | laneFailure (k : Nat) (lane : Nat)
  /-- LANE_RETRAIN_COMPLETE (R284): link `k`; it took `ns`. -/
  | laneRetrainComplete (k : Nat) (ns : Nat)
  /-- PORT_SILENT (R284): link `k`. -/
  | portSilent (k : Nat)
  /-- LINK_RETRAIN_ATTEMPT (R284): link `k`; the lanes that train. -/
  | linkRetrainAttempt (k : Nat) (lanes : List Nat)
  /-- LINK_DOWN_PERSISTENT (R393): link `k`. -/
  | linkDownPersistent (k : Nat)
  /-- UNREACH (R285): the header returned on link `k`. -/
  | unreach (k : Nat) (dst : Nat) (opcode : Nat) (sequence : Nat) (tag : Nat)
  /-- REACH_RESTORE (R285): link `k`, module `dst`. -/
  | reachRestore (k : Nat) (dst : Nat)
  /-- REORDER_HOLE_EXPIRY (R280): module `src`, source slot `slot`. -/
  | reorderHoleExpiry (src : Nat) (slot : Nat)
  /-- LOAD (R287): the oldest released packet of this opcode. -/
  | load
  /-- STORE (R287): the oldest released packet of this opcode. -/
  | store
  /-- MOVE (R287): the oldest released packet of this opcode. -/
  | move
  /-- MOVE_READ (R287): the oldest released packet of this opcode. -/
  | moveRead
  /-- ACCUM (R253): the oldest released packet of this opcode. -/
  | accum
  /-- FETCH (R253): the oldest released packet of this opcode. -/
  | fetch
  /-- ADVANCE (R181): the oldest released packet of this opcode. -/
  | advance
  /-- DATA (R287). -/
  | data
  /-- ACK (R287). -/
  | ack
  /-- NACK (R288). -/
  | nack
  /-- RESPONSE_TIMEOUT (R292): the request with tag `tag`. -/
  | responseTimeout (tag : Nat)
  /-- COLLECTIVE_TRIGGER (R304): convoy slot `n`, and whether it is found bad. -/
  | collectiveTrigger (n : PlaceFacts)
  /-- GRANT (R302). -/
  | grant
  /-- CDATA (R307). -/
  | cdata
  /-- PROGRESS_TIMER_EXPIRY (R314): convoy slot `n`. -/
  | progressTimerExpiry (n : Nat)
  /-- ABORT (R316). -/
  | abort
  /-- CHANNEL_UNIT_SEND (R322): channel `n`. -/
  | channelUnitSend (n : Nat)
  /-- CH_DATA (R322). -/
  | chData
  /-- CHANNEL_UNIT_PRODUCE (R322): channel `n`. -/
  | channelUnitProduce (n : Nat)
  /-- CH_CREDIT (R322). -/
  | chCredit
  /-- CH_CLOSE (R323). -/
  | chClose
  /-- CHANNEL_CREDIT_TIMEOUT (R323): channel `n`. -/
  | channelCreditTimeout (n : Nat)
  /-- STEP_COMMIT (R357): slot `c`. -/
  | stepCommit (c : Nat)
  /-- TWIN_TILE (R358). -/
  | twinTile
  /-- TWIN_SEAL (R358). -/
  | twinSeal
  /-- TWIN_ACK (R359). -/
  | twinAck
  /-- TWIN_NACK (R359). -/
  | twinNack
  /-- COMMIT_TIMEOUT (R359): slot `c`. -/
  | commitTimeout (c : Nat)
  /-- RESTORE_REQ (R360). -/
  | restoreReq
  /-- RESTORE_DATA (R362). -/
  | restoreData
  /-- RESTORE_END (R362). -/
  | restoreEnd
  /-- RESTORE_TIMEOUT (R364): slot `c`. -/
  | restoreTimeout (c : Nat)
  /-- WATCHDOG_EXPIRY (R399): unit `u` (Table 15.4). -/
  | watchdogExpiry (u : Nat)
  /-- STALL (R401): slot `c`. -/
  | stall (c : Nat)
  /-- CORDON_TIMEOUT (R403): the domain with root unit `dom`. -/
  | cordonTimeout (dom : Nat)
  /-- COLLECTION_UNIT_TIMEOUT (R405): unit `u` of the domain with root unit `dom`. -/
  | collectionUnitTimeout (dom : Nat) (u : Nat)
  /-- RESET_COMPLETE (R407): the domain with root unit `dom`; `f` is what the boot of a chip warm reset meets. -/
  | resetComplete (dom : Nat) (f : BootFacts)
  /-- RUNG_WATCHDOG_EXPIRY (R407): the domain, or for a teardown the context unit; `missed` are the units a teardown waits for. -/
  | rungWatchdogExpiry (dom : Nat) (missed : List Nat)
  /-- MANAGEMENT_ISLAND_RESTART_TIMEOUT (R409). -/
  | managementIslandRestartTimeout
  /-- TAMPER_LATCH_SET (R462). -/
  | tamperLatchSet
  /-- HALT_AND_STEP (R455). -/
  | haltAndStep (a : DebugAct)
  deriving DecidableEq, Repr

end Sys2Proof
end

