-- ==== Sys2Proof/Machine/AssState.lean ====
section
/-! DEFINITION. The state of the assayer (chapter 12). -/

namespace Sys2Proof.Machine

/-- A tile summary on its way to the assayer (R329, Table 12.2); `amax` is an FP32 pattern. -/
structure TileSum where
  watch : Nat
  ctx : Nat
  step : Nat
  elements : Nat
  zeros : Nat
  saturated : Nat
  nonfinite : Nat
  underflow : Nat
  amax : Nat
  deriving DecidableEq, Repr

/-- An end-of-run marker on its way to the assayer (R331). -/
structure Marker where
  ctx : Nat
  step : Nat
  man : Nat
  run : Nat
  p : Nat
  deriving DecidableEq, Repr

/-- The six statistics of one tensor in one step (Table 12.2). -/
structure Stats where
  elements : Nat
  zeros : Nat
  saturated : Nat
  nonfinite : Nat
  underflow : Nat
  amax : Nat
  deriving DecidableEq, Repr

/-- No element yet. -/
def noStats : Stats := { elements := 0, zeros := 0, saturated := 0, nonfinite := 0, underflow := 0, amax := 0 }

/-- A watch slot (Tables 12.1, 12.4, 12.7). `st` is the code of Table 12.4; `hist` the sixteen history entries, `valid`
those that are valid, `newest` the step of the newest; `open_` the statistics of steps not yet closed; `loaded` the state
a numerics record gave it (R335); `late` is set for a slot opened after the context's first run; `occ` the running count
of proposal_fault. -/
structure Watch where
  st : Nat
  ctx : Nat
  threshold : Nat
  k : Nat
  limit : Nat
  addr : Nat
  silentRun : Nat
  underRun : Nat
  stats : Stats
  coarse : Nat
  prop : Nat
  flags : W32
  silent : W64
  under : W64
  hist : Tbl Nat
  valid : List Nat
  newest : Nat
  open_ : Tbl Stats
  loaded : Option Nat
  late : Bool
  occ : W32
  deriving DecidableEq, Repr

/-- A CLOSED watch slot. -/
def watchReset : Watch :=
  { st := 0, ctx := 0, threshold := 0, k := 0, limit := 0, addr := 0, silentRun := 0, underRun := 0, stats := noStats,
    coarse := 0, prop := 0, flags := 0, silent := 0, under := 0, hist := [], valid := [], newest := 0, open_ := [],
    loaded := none, late := false, occ := 0 }

/-- A close that stopped before its end (Table 12.3): slot and step. -/
abbrev StoppedClose := Nat × Nat

/-- The assayer. `arrived` holds the markers that have come, `stopped` the closes CLOSE_TIMEOUT stopped. -/
structure AssS where
  sums : List TileSum
  markers : List Marker
  arrived : List Marker
  watches : Tbl Watch
  stopped : List StoppedClose
  deriving DecidableEq, Repr

/-- The assayer at reset. -/
def assReset : AssS := { sums := [], markers := [], arrived := [], watches := [], stopped := [] }

end Sys2Proof.Machine
end

