-- ==== Sys2Proof/Machine/FabState.lean ====
section
/-! DEFINITION. The state of the fabric side: waymap, packets, links, customs (chapter 10). -/

namespace Sys2Proof.Machine

/-- A waymap entry (Table 10.1) with the base address its tag covers (R272). -/
structure WayEnt where
  valid : Bool
  isIn : Bool
  size : Nat
  read : Bool
  write : Bool
  atomic : Bool
  advance : Bool
  cargo : Bool
  module : Nat
  owner : Nat
  peer : Nat
  epoch : Nat
  target : Nat
  base : Nat
  deriving DecidableEq, Repr

/-- An invalid entry. -/
def noWay : WayEnt :=
  { valid := false, isIn := false, size := 0, read := false, write := false, atomic := false, advance := false,
    cargo := false, module := 0, owner := 0, peer := 0, epoch := 0, target := 0, base := 0 }

/-- A packet (Table 10.3): header fields, data, and the poisoned 32 B granules of the data. -/
structure Packet where
  opcode : Nat
  keyed : Bool
  saturated : Bool
  poison : List Nat
  cls : Nat
  ordered : Bool
  relaxed : Bool
  length : Nat
  src : Nat
  dst : Nat
  addr : Nat
  membership : Nat
  peer : Nat
  epoch : Nat
  sequence : Nat
  subcode : Nat
  srcSlot : Nat
  tag : Nat
  data : List Byte
  deriving DecidableEq, Repr

/-- Which engine holds a request's tag, and what the answer is for. -/
inductive Holder where
  | premutar (p : Nat)
  | vector (p : Nat)
  | advance (p : Nat)
  | repair (ctl : Nat)
  | cargo (set : Nat)
  | twin (reg : Nat)
  | restore (reg : Nat)
  | convoy (n : Nat)
  | sequence (c : Nat)
  | watch (n : Nat)
  deriving DecidableEq, Repr

/-- A request that waits for its response (R292). `virt` is the requester's own address for the data. -/
structure OutReq where
  tag : Nat
  holder : Holder
  opcode : Nat
  ctx : Nat
  man : Nat
  run : Nat
  wb : Nat
  virt : Nat
  len : Nat
  issued : Nat
  deriving DecidableEq, Repr

/-- A background bucket (R387): its level when it was last drawn on, in 1/10,000 B, and when that was, in ns. -/
structure Bucket where
  level : Nat
  since : Nat
  deriving DecidableEq, Repr

/-- An empty bucket. -/
def noBucket : Bucket := { level := 0, since := 0 }

/-- A flit of the retry buffer (R283): its sequence, its 244 packet bytes, and the packets that end in it. -/
structure SentFlit where
  seq : Nat
  body : List Byte
  pks : List Packet
  deriving DecidableEq, Repr

/-- A flit on the wire (Table 10.5): one of packets, with its sequence, acknowledgement field and packet bytes, or a control flit, with its
acknowledgement field and the toll counts of the three classes. -/
inductive LineFlit where
  | packets (seq ack : Nat) (body : List Byte)
  | control (ack : Nat) (tolls : List Nat)
  deriving DecidableEq, Repr

/-- A write of part of a 32 B granule of another module that waits for the granule (log entry 83): the tag of the read, the place of the bytes
in the granule, the bytes, and whether they are poisoned. -/
structure Merge where
  tag : Nat
  off : Nat
  data : List Byte
  poison : Bool
  deriving DecidableEq, Repr

/-- States of a link (R284). -/
inductive LinkSt where
  | down | training | up
  deriving DecidableEq, Repr

/-- One Xitriver link: registers of Table 10.13 and link-layer state (R281 to R284). `failed` are the lanes declared failed, `rx` the packet
bytes that have come and do not yet make a whole packet, `heard` whether a flit has been received in order; `tolls` by class. `sent` is
the retry buffer, `part` and `partPks` the bytes of the flit being filled and the packets that end in it, `line` the flits put on the
wire, newest last. `arb` is the slot the arbiter served last and `deficit` what each slot has left (R212); `bktOut` and `bktIn` are the
background buckets of the two directions (R387). -/
structure LinkS where
  st : LinkSt
  lanes : List Nat
  failed : List Nat
  rx : List Byte
  replay : W64
  fec : W64
  down : W32
  tolls : List Nat
  nextSeq : Nat
  lastRecv : Nat
  heard : Bool
  sent : List SentFlit
  part : List Byte
  partPks : List Packet
  line : List LineFlit
  sameReplays : Nat
  nakSent : Bool
  retraining : Bool
  downSince : Option Nat
  arb : Nat
  deficit : Tbl Nat
  bktOut : Bucket
  bktIn : Bucket
  deriving DecidableEq, Repr

/-- A link at reset: no lane trained. (DESIGN CHOICE, log entry 89) -/
def linkReset : LinkS :=
  { st := .down, lanes := [], failed := [], rx := [], replay := 0, fec := 0, down := 0, tolls := [0, 0, 0], nextSeq := 0, lastRecv := 0xFFE,
    heard := false, sent := [], part := [], partPks := [], line := [], sameReplays := 0, nakSent := false, retraining := false,
    downSince := none, arb := 0, deficit := [], bktOut := noBucket, bktIn := noBucket }

/-- The fabric state of the module. `reachClear` lists cleared reach bits as (destination, link); `seqOut` and `seqIn`
are kept by 16 × module + slot; `reorder` holds out-of-order arrivals; `released` packets await customs; `txq` packets
await a link, and before them those of `again`, which a link had already taken (R284, R285); `wire` holds those handed
to a link, with its number, newest last; `merges` are writes of part of a granule that wait to be merged; `seen` are the packets outside the ordered streams that came last, by what tells one from its
duplicate (R284). -/
structure FabS where
  module : Option Nat
  respTimeout : Nat
  waymap : Tbl WayEnt
  wayPatrol : Nat
  wayBad : List Nat
  customs : Tbl W64
  customsFlags : W32
  customsFirst : W64
  links : Tbl LinkS
  reachClear : List (Nat × Nat)
  seqOut : Tbl Nat
  seqIn : Tbl Nat
  reorder : List Packet
  released : List Packet
  again : List Packet
  txq : List Packet
  wire : List (Nat × Packet)
  out : List OutReq
  merges : List Merge
  nextTag : Nat
  seen : List (List Nat)
  deriving DecidableEq, Repr

/-- The fabric at reset (Table 10.13). (DESIGN CHOICE, log entry 8; DESIGN CHOICE, log entry 17) -/
def fabReset : FabS :=
  { module := none, respTimeout := 0x14, waymap := [], wayPatrol := 0, wayBad := [], customs := [], customsFlags := 0,
    customsFirst := 0, links := [], reachClear := [], seqOut := [], seqIn := [], reorder := [], released := [], again := [],
    txq := [], wire := [], out := [], merges := [], nextTag := 1, seen := [] }

end Sys2Proof.Machine
end

