-- ==== Sys2Proof/Machine/FaultState.lean ====
section
/-! DEFINITION. What the module records keep about faults: quarantine history, health, resets, watchdog settings
(chapters 14 and 15). -/

namespace Sys2Proof.Machine

/-- The quarantine history of a physical block (R377): times of residue mismatches, uncorrectable granules, corrections
with their bank, and block resets. -/
structure QHist where
  residue : List Nat
  unc : List Nat
  corr : List (Nat × Nat)
  resets : List Nat
  deriving DecidableEq, Repr

/-- A block with no history. -/
def noQHist : QHist := { residue := [], unc := [], corr := [], resets := [] }

/-- Health and availability (R390 to R394, Table 14.11). `evUnc`, `evMis` and `evRst` are the times of counted events,
`margins` the last 24 h of results of each margin (R389), by 2^32 × quantity + unit: time, and what was measured; `terms` the penalties in the order of
CHP_HEALTH_TERMS; `above`, `low` and `changed` are the publisher's. `downSince` is set from a device-fatal error until
host-ready; `saved` is the published score last saved in the module records (R391). -/
structure HealthS where
  hist : Tbl QHist
  retired : List Nat
  published : Nat
  raw : Nat
  floor : Nat
  replace : Bool
  reduced : Bool
  terms : List Nat
  unavail : W64
  evUnc : List Nat
  evMis : List Nat
  evRst : List Nat
  margins : Tbl (List (Nat × Int))
  above : Option Nat
  low : Nat
  changed : Nat
  longDown : List Nat
  downSince : Option Nat
  saved : Nat
  deriving DecidableEq, Repr

/-- Health at the first boot (Table 14.11). -/
def healthReset : HealthS :=
  { hist := [], retired := [], published := 1000, raw := 1000, floor := 100, replace := false,
    reduced := false, terms := [0, 0, 0, 0, 0, 0, 0], unavail := 0, evUnc := [], evMis := [], evRst := [], margins := [],
    above := none, low := 0, changed := 0, longDown := [], downSince := none, saved := 1000 }

/-- A reset in progress (R407): its rung and the rung it began at, its domain's root unit, the unit it began from, the log code
that started it, whether it counts neither toward R410 nor toward unavailable time because it was asked for, the op_tags of the
commands that asked, its dump number, the stamp made when collection began and the units recorded so far. -/
structure RstJob where
  rung : Nat
  first : Nat
  domain : Nat
  origin : Nat
  trigger : Nat
  requested : Bool
  tags : List Nat
  dump : Nat
  stamp : Stamp
  units : List DumpUnit
  deriving DecidableEq, Repr

/-- What waits on the caravaneer while it is stopped (R33, R34): the substitution of a quarantined block, with the slots it tells (R378
steps 3 and 4), and the teardown of a slot, with its trigger. -/
inductive MpTask where
  | substitute (p : Nat) (slots : List Nat)
  | teardown (c trigger : Nat)
  deriving DecidableEq, Repr

/-- Reset registers and settings (Tables 15.8 to 15.10) and the resets in progress. `counted` are the times of the resets
of R410, `engineHung` the last engine resets by unit (rung 3 of Table 15.5), `inReset` marks the module held by R412,
`restarting` a management-island restart, `restartAt` the time of the last one and `restartCause` its cause: 0 lockstep,
1 heartbeat; `waiting` is what waits for the caravaneer to run again, first in first out; `chipEvent` the dump
of a chip warm reset whose events are still to be written (R435). -/
structure RstS where
  engineMs : Nat
  stallDs : Nat
  lastRung : Nat
  oos : Bool
  reason : Nat
  threshold : Nat
  windowH : Nat
  counts : List W64
  counted : List Nat
  jobs : List RstJob
  engineHung : Tbl Nat
  oosNext : Bool
  inReset : Bool
  restarting : Bool
  restartAt : Option Nat
  restartCause : Nat
  waiting : List MpTask
  chipEvent : Option Nat
  deriving DecidableEq, Repr

/-- Reset registers at the first boot. -/
def rstReset : RstS :=
  { engineMs := 100, stallDs := 100, lastRung := 0, oos := false, reason := 0, threshold := 3, windowH := 24,
    counts := [0, 0, 0, 0, 0], counted := [], jobs := [], engineHung := [], oosNext := false, inReset := false,
    restarting := false, restartAt := none, restartCause := 0, waiting := [], chipEvent := none }

end Sys2Proof.Machine
end

