-- ==== Sys2Proof/Machine/TierState.lean ====
section
/-! DEFINITION. The state of the tiers: controllers, ordered windows, outrider registrations, cargo repair (chapter 9). -/

namespace Sys2Proof.Machine

/-- One correction or detection kept for the sliding windows of R247 and R250: time, channel or page, granule. -/
structure ErrAt where
  ns : Nat
  place : Nat
  granule : Nat
  deriving DecidableEq, Repr

/-- A request at a controller (R237): `n` bytes at `a`, the bytes of a write, the context it serves, the block and item of a waybill that
consumes it, the granules in which the code finds one and more bad symbols, the repairs the die reports, whether a narrow read of the same
granule is still outstanding, and whether it is a host request. Of what waits for a tile under repair (R251), `pk` is a fabric request, and `pm` the
block and item of a descriptor. -/
structure TierReq where
  a : Nat
  n : Nat
  data : Option (List Byte)
  who : Option Nat
  ref : Option (Nat × ItemRef)
  single : List Nat
  double : List Nat
  ondie : Nat
  joins : Bool
  host : Bool
  pk : Option Packet := none
  pm : Option (Nat × ItemRef) := none
  deriving DecidableEq, Repr

/-- A stack or package controller (Tables 9.9 to 9.14). `st` is the state field of Tables 9.10 and 9.11. `remap` holds
retired pages and their spare pages (R250). `narrow` holds the narrow reads outstanding: granule and requests joined
(R259). `crossed` are channels past a limit of R247 that wait for the copy of another, `late` the crossings that found the pool spent and
`alert` the alert bit toward the caravaneer (R248, R249); `copies` the pages whose copy waits for the background bucket `bkt` (R387), and
`input` the requests behind a stalled input (R251). -/
structure Ctl where
  st : Nat
  slow : Bool
  retired : List Nat
  poolSpent : Bool
  retiring : Option Nat
  refreshX2 : Bool
  coolSince : Nat
  eccStatus : W32
  eccFirst : W64
  corrected : W64
  uncorrected : W64
  ondie : W64
  addSat : W64
  combined : W64
  ordDirect : W64
  refetchOk : W32
  refetchBad : W32
  passes : W32
  threshold : W32
  pagesRetired : W64
  spareFree : Nat
  remap : List (Nat × Nat)
  corr : List ErrAt
  unc : List ErrAt
  wb : List Nat
  narrow : List (Nat × Nat)
  crossed : List Nat
  late : Nat
  alert : Bool
  copies : List Nat
  bkt : Bucket
  input : List TierReq
  deriving DecidableEq, Repr

/-- A controller at reset (Tables 9.10, 9.11, 9.14). (DEDUCED, log entry 37; DESIGN CHOICE, log entry 89) -/
def ctlReset : Ctl :=
  { st := 0, slow := false, retired := [], poolSpent := false, retiring := none, refreshX2 := false, coolSince := 0,
    eccStatus := 0, eccFirst := 0, corrected := 0, uncorrected := 0, ondie := 0, addSat := 0, combined := 0,
    ordDirect := 0, refetchOk := 0, refetchBad := 0, passes := 0, threshold := 0x010000, pagesRetired := 0,
    spareFree := 0x40000, remap := [], corr := [], unc := [], wb := [], narrow := [], crossed := [], late := 0,
    alert := false, copies := [], bkt := noBucket, input := [] }

/-- One logged contribution of an ordered window (R255): element address, value bits, key, poison. -/
structure OrdEnt where
  addr : Nat
  val : Nat
  key : Nat
  poison : Bool
  deriving DecidableEq, Repr

/-- An ordered-accumulate window (R255, R256). `shares` lists the controllers that have still to close. -/
structure OrdWin where
  ctx : Nat
  target : Nat
  bytes : Nat
  fmt : Nat
  closeMs : Nat
  closeTarget : Nat
  doneMs : Nat
  logAddr : Nat
  nMax : Nat
  closing : Bool
  shares : List Nat
  log : List OrdEnt
  deriving DecidableEq, Repr

/-- A piece, of one 2 KiB tile at most, of a registered outrider descriptor (R263): where it copies from and to, and whether its tile is
filled. -/
structure OutReg where
  near : Nat
  far : Nat
  bytes : Nat
  filled : Bool
  p : Nat
  ref : ItemRef
  deriving DecidableEq, Repr

/-- A cargo repair in progress (R251): controller, set, tile, source tried, tag of its read, start time, the uncorrectable granules found, and
the requests held. -/
structure Repair where
  ctl : Nat
  set : Nat
  tile : Nat
  source : Nat
  tag : Nat
  started : Nat
  got : List Byte
  bad : List Nat
  held : List TierReq
  deriving DecidableEq, Repr

/-- The tiers. -/
structure TierS where
  ctls : Tbl Ctl
  wins : Tbl (Option OrdWin)
  regs : List OutReg
  repairs : List Repair
  deriving DecidableEq, Repr

/-- The tiers at reset. -/
def tierReset : TierS := { ctls := [], wins := [], regs := [], repairs := [] }

end Sys2Proof.Machine
end

