-- ==== Sys2Proof/Machine/State.lean ====
section
/-! DEFINITION. The state of the module: everything the spec gives it, the queue of commands that wait, and the state
right after reset, before power-up runs. -/

namespace Sys2Proof.Machine

/-- A milestone (Table 7.18). -/
structure Milestone where
  value : W32
  owner : Nat
  declared : Bool
  frozen : Bool
  remote : Bool
  deriving DecidableEq, Repr

/-- A milestone at reset: unowned, value zero. -/
def noMs : Milestone := { value := 0, owner := 0, declared := false, frozen := false, remote := false }

/-- An entry of a block map (Table 1.3). -/
structure MapEnt where
  valid : Bool
  subst : Bool
  phys : Nat
  deriving DecidableEq, Repr

/-- A map entry at reset. -/
def noMap : MapEnt := { valid := false, subst := false, phys := 0 }

/-- A region: its block map (Tables 1.3, 1.4), its free spares (by physical block number within the region), how many arrays are
absent, and whether a cordon is raised (R403). -/
structure Rgn where
  map : Tbl MapEnt
  gen : W16
  spares : List Nat
  absent : Nat
  cordon : Bool
  deriving DecidableEq, Repr

/-- A region at reset: its map not yet built. -/
def rgnReset : Rgn := { map := [], gen := 0, spares := [], absent := 0, cordon := false }

/-- What the fuses hold for good (Table 0.2, R25, R451). -/
structure FuseS where
  variant : Nat
  stepping : Nat
  bad : List Nat
  serial : List Byte
  deriving DecidableEq, Repr

/-- Time (R32, R41, R42). -/
structure TimeS where
  counter : W64
  boot : W32
  round : W64
  deriving DecidableEq, Repr

/-- The module, but for what only its lifecycle and its queue hold. -/
structure Mach where
  fuse : FuseS
  time : TimeS
  mem : List Host.Cell
  poison : Tbl Bool
  zeroing : List (Nat × Nat)
  rgns : Tbl Rgn
  blocks : Tbl Blk
  ctxs : Tbl Ctx
  ms : Tbl Milestone
  msQueue : List (Nat × Nat)
  msRefused : W32
  fab : FabS
  tier : TierS
  ass : AssS
  mgmt : MgmtS
  conv : ConvS
  health : HealthS
  rst : RstS
  sec : SecS
  pwr : PwrS
  pcie : PcieS
  cargo : Tbl CargoSet
  parked : Tbl (Option ParkImg)
  twins : Tbl (Option TwinReg)
  freeCtr : Nat
  deriving DecidableEq, Repr

/-- Why a step faults. No meaning of this model raises one: wherever the spec lets a command fail it says what the
module answers instead. -/
inductive Fault where
  /-- Raised by nobody (safe): kept so that the type has a name for an address the spec gives no unit to. -/
  | noSuchAddress
  deriving DecidableEq, Repr

/-- Why a step refuses. -/
inductive Refusal where
  /-- Raised by Dispatch's arm of a command whose meaning is not written (safe: the model stops). -/
  | notModelled (mnemonic : String)
  deriving DecidableEq, Repr

/-- The whole state: the module, what its lifecycle keeps, and the commands that wait, first in first out. -/
structure State where
  nv : NonVol
  m : Mach
  pending : List Instr
  deriving DecidableEq, Repr

/-- What fuses and flash hold on a module as it leaves the factory (R439, R444, R454; log entries 1 and 10): PRODUCTION, with its identity key,
slot 0 ACTIVE, no owner, and the default policy. -/
def nvReset : NonVol :=
  { lifecycle := 1, returnCount := 0, keyHeld := true, chain := [], idKey := [], keyLatch := false, fusedMin := 0,
    slots := [{ fwEmpty with st := .active }, fwEmpty], owner := none, policy := policyDefault, nextPolicy := none,
    alarms := List.replicate 7 0, fails := [], failTotal := 0, tamper := false }

/-- The module with no power applied: every register at its Reset column, the counters since manufacture at zero, memory with nothing
listed. (DESIGN CHOICE, log entry 1) -/
def machReset : Mach :=
  { fuse := { variant := 0, stepping := 0, bad := [], serial := List.replicate 16 0 }, time := { counter := 0, boot := 0, round := 0 },
    mem := [], poison := [], zeroing := [], rgns := [], blocks := [], ctxs := [], ms := [], msQueue := [], msRefused := 0, fab := fabReset,
    tier := tierReset, ass := assReset, mgmt := mgmtReset, conv := convSReset, health := healthReset, rst := rstReset, sec := secReset,
    pwr := pwrReset, pcie := pcieReset, cargo := [], parked := [], twins := [], freeCtr := 0 }

/-- The state right after reset: no power applied yet, no command waiting. INPUT_POWER_RISE runs the power-up of Table 18.3. -/
def State.reset : State := { nv := nvReset, m := machReset, pending := [] }

end Sys2Proof.Machine
end

