-- ==== Sys2Proof/Machine/Crc.lean ====
section
/-! DEFINITION. The cyclic checks: CRC-32C of images, records and requests (R173, R406, R420), and the configurable check
of R382. -/

namespace Sys2Proof.Machine

/-- One bit of CRC-32C, least significant bit first. -/
def crcBit (c : Nat) : Nat := if c % 2 = 1 then (c / 2) ^^^ 0x82F63B78 else c / 2

/-- One byte of CRC-32C. -/
def crcByte (c : Nat) (b : Byte) : Nat := (List.range 8).foldl (fun c _ => crcBit c) (c ^^^ b.toNat)

/-- CRC-32C of bytes: polynomial 0x1EDC_6F41 reflected, initial value and final inversion all ones. -/
def crc32c (bs : List Byte) : Nat := (bs.foldl crcByte 0xFFFFFFFF) ^^^ 0xFFFFFFFF

/-- The low `w` bits of `n` in reverse order. -/
def revBits (n w : Nat) : Nat := (List.range w).foldl (fun a i => 2 * a + (n >>> i) % 2) 0

/-- The settings of a check (R382). -/
structure CvCfg where
  width : Nat
  poly : Nat
  init : Nat
  reflectIn : Bool
  reflectOut : Bool
  invert : Bool
  deriving DecidableEq, Repr

/-- One bit of the check of R382. -/
def cvBit (g : CvCfg) (b c i : Nat) : Nat :=
  let fb := (c >>> (g.width - 1)) % 2 != (b >>> i) % 2
  let c := (c <<< 1) % 2 ^ g.width
  if fb then c ^^^ g.poly else c

/-- One byte of the check of R382, most significant bit first after reflection. -/
def cvByte (g : CvCfg) (c : Nat) (x : Byte) : Nat :=
  let b := if g.reflectIn then revBits x.toNat 8 else x.toNat
  (List.range 8).foldl (fun c k => cvBit g b c (7 - k)) c

/-- The check value of a frame (R382). -/
def checkValue (g : CvCfg) (frame : List Byte) : Nat :=
  let c := frame.foldl (cvByte g) g.init
  let c := if g.reflectOut then revBits c g.width else c
  if g.invert then c ^^^ (2 ^ g.width - 1) else c

end Sys2Proof.Machine
end

