-- ==== Sys2Proof/Config.lean ====
section
/-! DEFINITION. The values the manual leaves open. None has a body: nothing can evaluate one, so whatever is proved of
the model holds for every value they may have. -/

namespace Sys2Proof

/-- The n-th free byte (R121, R242, R100: data the manual calls undefined or not covered). -/
opaque Config.freeByte : Nat → BitVec 8

/-- The n-th free number, for a choice or a measured value the manual does not give. -/
opaque Config.freeNat : Nat → Nat

/-- SHA-512 (R439, R450, R453, R465): the manual names the standard and gives no algorithm. Its 64 bytes are taken through
`padTo`. -/
opaque Config.sha512 : List (BitVec 8) → List (BitVec 8)

/-- The number of the coefficient set of the firmware release (R397). -/
opaque Config.coeffSet : Nat

/-- The code of an error-log record for a detection that no code of Table 16.10 names (R376): 0 waymap entry corrected, 1 waymap
entry uncorrectable, 2 supply droop, 3 firmware slot that fails its check, 4 watchdog of a rung, 5 forced power-off, 6 a context's state lost (R379), 7 duplicated
logic of a block, 8 strongbox SRAM. -/
opaque Config.logCode : Nat → Nat

/-- The doublewords at a block's place of the telemetry mirror (R436), by the registers captured and the doubleword. -/
opaque Config.blkMirror : List Nat → Nat → BitVec 64

/-- The state bytes a dump holds of a unit (R406), by dump number and unit. -/
opaque Config.unitState : Nat → Nat → List (BitVec 8)

/-- The time the collection of a unit took in ns (Table 15.4), by dump number and unit. -/
opaque Config.scanNs : Nat → Nat → Nat

/-- A free number from which the collection time of a dump is taken (Table 15.3), by dump number. -/
opaque Config.dumpNs : Nat → Nat

/-- The cause byte of an MP_RESTART event (Table 16.10): 0 lockstep, 1 heartbeat. -/
opaque Config.mpCause : Nat → Nat

/-- The period in ms an event about a hang of the caravaneer names (Table 16.10): 5.99 ms is no whole number. -/
opaque Config.mpPeriodMs : Nat

/-- The contents of the boot ROM (Table 17.3a). -/
opaque Config.romBytes : List (BitVec 8)

/-- The bytes of the fused block map and fuse configuration that a measurement covers (Table 17.3a), by variant, stepping and the
fused bad blocks. -/
opaque Config.fuseBytes : Nat → Nat → List Nat → List (BitVec 8)

/-- The virtual fabric address at which a context's pools are mapped (R223), by handle, tier (0 near, 1 far) and page: the manual says that creation maps
them, and not where. -/
opaque Config.pageVirt : Nat → Nat → Nat → Nat

/-- The pages of a far-tier package that share a DRAM row with page `n` (R250): the manual gives no row layout. -/
opaque Config.rowPages : Nat → List Nat

/-- The bytes of a log entry of an ordered window (R255), by element address, value, key and poison: the manual says what an entry holds and not
where. -/
opaque Config.logEntry : Nat → Nat → Nat → Bool → List (BitVec 8)

/-- The bytes in which a control flit carries its toll counts (R281): the manual lays out no control flit. -/
opaque Config.tollBytes : List Nat → List (BitVec 8)

/-- The tolls a link grants for a class (R282), by link, class and free units: the manual gives neither the sizes of the buffers of
responses and collective packets nor the links' shares. -/
opaque Config.tollGrant : Nat → Nat → Nat → Nat

/-- The 256 B units in which the module can place responses (R282). -/
opaque Config.respRoom : Nat

end Sys2Proof
end

