-- ==== Sys2Proof/Machine/Flags.lean ====
section
/-! DEFINITION. The W1C flags of a block with their occurrence counts (R15, R428, R429), and the clearing of flags. -/

namespace Sys2Proof.Machine

/-- Key of a block flag without a counter register (R429): class 0 tile, 1 vector, 2 Premutar, 3 check value. -/
def occKey (cls slot bit : Nat) : Nat := cls * 0x1000 + slot * 32 + bit

/-- Counts one occurrence of a flag (R428, R429). -/
def occur (b : Blk) (key : Nat) : Blk := { b with occ := tmod 0 b.occ key (fun x => wrapAdd x 1) }

/-- Sets a bit of a word. -/
def setBit {n : Nat} (x : BitVec n) (i : Nat) : BitVec n := x ||| BitVec.ofNat n (1 <<< i)

/-- Sets bit `i` of BLK_TILE_FLAGS_c (R102) and counts the occurrence. -/
def setTileFlag (b : Blk) (c i : Nat) : Blk :=
  occur { b with arr := { b.arr with tileFlags := tmod 0 b.arr.tileFlags c (setBit · i) } } (occKey 0 c i)
/-- Sets bit `i` of BLK_VE_FLAGS_c (R147) and counts the occurrence. -/
def setVeFlag (b : Blk) (c i : Nat) : Blk :=
  occur { b with ve := { b.ve with flags := tmod 0 b.ve.flags c (setBit · i) } } (occKey 1 c i)
/-- Sets bit `i` of BLK_PM_FLAGS_c (R172) and counts the occurrence. -/
def setPmFlag (b : Blk) (c i : Nat) : Blk :=
  occur { b with pm := { b.pm with flags := tmod 0 b.pm.flags c (setBit · i) } } (occKey 2 c i)

/-- The word a W1C register holds after the bits of `clear` are written, where the bits of `sets` are set in the same
cycle: a set wins (R15). -/
def w1c {n : Nat} (old clear sets : BitVec n) : BitVec n := (old &&& ~~~clear) ||| sets

/-- The bits at which a set met a clear (R430). -/
def racedBits {n : Nat} (clear sets : BitVec n) : BitVec n := clear &&& sets

/-- Whether bit `i` is cleared and no set of it arrives in the same cycle. -/
def clearedBit {n : Nat} (clear sets : BitVec n) (i : Nat) : Bool := clear.getLsbD i && !sets.getLsbD i

end Sys2Proof.Machine
end

