-- ==== Sys2Proof/Machine/Float.lean ====
section
/-! DEFINITION. FP16, FP32 and FP64 (Table 2.2): exact values, the one rounding of each operation (R64, R65), the random
generators (R66, R67), SH16 encoding (R69), the dot product of a cell (R53 to R60) and the integer path (R70, R71). -/

namespace Sys2Proof.Machine

/-- A stored float format: exponent and fraction widths (Table 2.2). -/
structure Fmt where
  ebits : Nat
  fbits : Nat
  deriving DecidableEq, Repr

/-- FP16 of Table 2.2. -/
def fp16 : Fmt := { ebits := 5, fbits := 10 }
/-- FP32 of Table 2.2. -/
def fp32 : Fmt := { ebits := 8, fbits := 23 }
/-- FP64 of Table 2.2. -/
def fp64 : Fmt := { ebits := 11, fbits := 52 }

/-- Bits of a stored value. -/
def fmtWidth (f : Fmt) : Nat := 1 + f.ebits + f.fbits
/-- The exponent of the subnormal ulp. -/
def fmtEmin (f : Fmt) : Int := 2 - (2 ^ (f.ebits - 1) : Nat) - (f.fbits : Int)
/-- The largest exponent of a finite value. -/
def fmtEmax (f : Fmt) : Int := (2 ^ (f.ebits - 1) : Nat) - 1
/-- The bit pattern of infinity without its sign. -/
def fmtInf (f : Fmt) : Nat := (2 ^ f.ebits - 1) <<< f.fbits
/-- The canonical quiet NaN (R48). -/
def fmtNan (f : Fmt) : Nat := fmtInf f + 2 ^ (f.fbits - 1)
/-- The sign bit. -/
def fmtSign (f : Fmt) (neg : Bool) : Nat := b2n neg <<< (f.ebits + f.fbits)

/-- A value before it is rounded: a NaN, an infinity, or `± m × 2^e` with, where `more` is set, a further magnitude
that is greater than zero and below one unit `2^e`. -/
inductive Val where
  | nan
  | inf (neg : Bool)
  | fin (neg : Bool) (m : Nat) (e : Int) (more : Bool)
  deriving DecidableEq, Repr

/-- The value `±0`. -/
def valZero (neg : Bool) : Val := .fin neg 0 0 false

/-- The value a stored pattern has (R47, R49): subnormals are kept and a signalling NaN is a NaN. -/
def decodeF (f : Fmt) (bits : Nat) : Val :=
  let neg := tbit bits (f.ebits + f.fbits)
  let ex := fld bits f.fbits f.ebits
  let fr := fld bits 0 f.fbits
  if ex = 2 ^ f.ebits - 1 then (if fr = 0 then .inf neg else .nan)
  else if ex = 0 then .fin neg fr (fmtEmin f) false
  else .fin neg (2 ^ f.fbits + fr) (fmtEmin f + (ex : Int) - 1) false

/-- Bits needed to write `n` (0 for 0). -/
def bitLen (n : Nat) : Nat := if n = 0 then 0 else n.log2 + 1

/-- floor(log2) of the magnitude `m × 2^e`, `m` not zero. -/
def ilog2 (m : Nat) (e : Int) : Int := (n : Int) + e where n := m.log2

/-- `m × 2^k` for a shift of either sign, rounded toward zero. -/
def shiftInt (m : Nat) (k : Int) : Nat := if 0 ≤ k then m <<< k.toNat else m >>> (-k).toNat

/-- The rounding modes (R64, R65). -/
inductive RMode where
  | rne | stochastic
  deriving DecidableEq, Repr

/-- One draw (R66): the new generator state, whose bits 31:20 are the draw. -/
def drawNext (g : W32) : W32 :=
  let x := g ^^^ (g <<< 13)
  let x := x ^^^ (x >>> 17)
  x ^^^ (x <<< 5)

/-- The 12-bit value of a draw whose new state is `g` (R66). -/
def drawOf (g : W32) : Nat := g.toNat >>> 20

/-- The seed of a generator (R67). -/
def laneSeed (ctxSeed step : Nat) (laneIndex waybill : Nat) : W32 :=
  let word := (waybill <<< 32 ||| laneIndex) % 2 ^ 64
  let m := (ctxSeed ^^^ (step * 0x9E3779B97F4A7C15) % 2 ^ 64 ^^^ (word * 0xC2B2AE3D27D4EB4F) % 2 ^ 64) % 2 ^ 64
  let s := (m >>> 32) ^^^ (m % 2 ^ 32)
  if s = 0 then 0x6D2B79F5 else BitVec.ofNat 32 s

/-- What a rounding answers: the stored pattern, the generator after it, and whether the value was changed. -/
structure Rounded where
  bits : Nat
  gen : W32
  inexact : Bool
  deriving DecidableEq, Repr

/-- Rounds a value once to a format (R64, R65). A stochastic rounding takes one draw exactly when the value is not exact
in the format and is below the top binade's end. (DEDUCED, log entry 67) -/
def roundF (f : Fmt) (mode : RMode) (g : W32) (v : Val) : Rounded :=
  match v with
  | .nan => { bits := fmtNan f, gen := g, inexact := false }
  | .inf neg => { bits := fmtSign f neg + fmtInf f, gen := g, inexact := false }
  | .fin neg m e more =>
    if m = 0 && !more then { bits := fmtSign f neg, gen := g, inexact := false }
    else
      -- at least fbits + 16 bits of magnitude stand above the extra part
      let up : Nat := if more then 16 + f.fbits else 0
      let m1 := m <<< up
      let e1 := e - (up : Int)
      let top : Int := if m1 = 0 then fmtEmin f - 64 else ilog2 m1 e1
      let u : Int := max (top - (f.fbits : Int)) (fmtEmin f)
      if fmtEmax f < top then { bits := fmtSign f neg + fmtInf f, gen := g, inexact := true }
      else if u ≤ e1 then
        -- exact in the format unless an extra part stands below
        let q := m1 <<< (e1 - u).toNat
        let base := q + ((u - fmtEmin f).toNat <<< f.fbits)
        match mode with
        | .rne => { bits := fmtSign f neg + base, gen := g, inexact := more }
        | .stochastic => { bits := fmtSign f neg + base, gen := if more then drawNext g else g, inexact := more }
      else
        let sh := (u - e1).toNat
        let q := m1 >>> sh
        let rem := m1 % 2 ^ sh
        let exact := rem = 0 && !more
        let base := q + ((u - fmtEmin f).toNat <<< f.fbits)
        match mode with
        | .rne =>
          let half := 2 ^ (sh - 1)
          let upw := rem > half || (rem = half && (more || q % 2 = 1))
          { bits := fmtSign f neg + min (base + b2n upw) (fmtInf f), gen := g, inexact := !exact }
        | .stochastic =>
          if exact then { bits := fmtSign f neg + base, gen := g, inexact := false }
          else
            let t := (rem * 4096) >>> sh
            let g' := drawNext g
            { bits := fmtSign f neg + min (base + b2n (decide (4096 ≤ t + drawOf g'))) (fmtInf f), gen := g',
              inexact := true }

/-- Rounds to nearest even and gives the stored pattern. -/
def rne (f : Fmt) (v : Val) : Nat := (roundF f .rne 0 v).bits

/-- True for a stored NaN or infinity. -/
def isNonfinite (f : Fmt) (bits : Nat) : Bool := fld bits f.fbits f.ebits = 2 ^ f.ebits - 1

/-- True for a stored positive, finite, normal value (R52). -/
def isPosNormal (f : Fmt) (bits : Nat) : Bool :=
  !tbit bits (f.ebits + f.fbits) && fld bits f.fbits f.ebits != 0 && !isNonfinite f bits

/-! ### Exact operations -/

/-- The signed integer of `± m` at the finer exponent `e0`. -/
def alignTo (neg : Bool) (m : Nat) (e e0 : Int) : Int :=
  let k : Int := ((m <<< (e - e0).toNat : Nat) : Int)
  if neg then -k else k

/-- The exact sum of two values (R57, R59): an exact zero is +0 unless both are −0. -/
def vadd (a b : Val) : Val :=
  match a, b with
  | .nan, _ => .nan
  | _, .nan => .nan
  | .inf s, .inf t => if s = t then .inf s else .nan
  | .inf s, .fin _ _ _ _ => .inf s
  | .fin _ _ _ _, .inf t => .inf t
  | .fin s m e _, .fin t n k _ =>
    let e0 := if m = 0 then k else if n = 0 then e else min e k
    let r := (if m = 0 then 0 else alignTo s m e e0) + (if n = 0 then 0 else alignTo t n k e0)
    if r = 0 then valZero (if m = 0 && n = 0 then s && t else false)
    else .fin (r < 0) r.natAbs e0 false

/-- The exact product of two values. -/
def vmul (a b : Val) : Val :=
  match a, b with
  | .nan, _ => .nan
  | _, .nan => .nan
  | .inf s, .inf t => .inf (s != t)
  | .inf s, .fin t n _ _ => if n = 0 then .nan else .inf (s != t)
  | .fin s m _ _, .inf t => if m = 0 then .nan else .inf (s != t)
  | .fin s m e _, .fin t n k _ => .fin (s != t) (m * n) (e + k) false

/-- A value with its sign changed. -/
def vneg : Val → Val
  | .nan => .nan
  | .inf s => .inf (!s)
  | .fin s m e x => .fin (!s) m e x

/-- A value times `2^k`. -/
def vscale (k : Int) : Val → Val
  | .nan => .nan
  | .inf s => .inf s
  | .fin s m e x => .fin s m (e + k) x

/-- Precision in bits kept of a quotient or root before the one rounding. -/
def workBits : Nat := 160

/-- The quotient (IEEE 754-2019 division): exact to `workBits` bits, with the rest noted. -/
def vdiv (a b : Val) : Val :=
  match a, b with
  | .nan, _ => .nan
  | _, .nan => .nan
  | .inf _, .inf _ => .nan
  | .inf s, .fin t _ _ _ => .inf (s != t)
  | .fin s _ _ _, .inf t => valZero (s != t)
  | .fin s m e _, .fin t n k _ =>
    if n = 0 then (if m = 0 then .nan else .inf (s != t))
    else
      let sh := workBits + bitLen n
      let num := m <<< sh
      .fin (s != t) (num / n) (e - k - (sh : Int)) (num % n != 0)

/-- Newton's iteration for the integer root, from above. -/
def isqrtLoop (n : Nat) : Nat → Nat → Nat
  | 0, x => x
  | fuel + 1, x => let y := (x + n / x) / 2; if y < x then isqrtLoop n fuel y else x

/-- floor(sqrt n). -/
def isqrt (n : Nat) : Nat := if n = 0 then 0 else isqrtLoop n 4096 (2 ^ (n.log2 / 2 + 1))

/-- The square root (IEEE 754-2019 squareRoot): −0 gives −0, a negative value NaN. -/
def vsqrt : Val → Val
  | .nan => .nan
  | .inf s => if s then .nan else .inf false
  | .fin s m e _ =>
    if m = 0 then valZero s
    else if s then .nan
    else
      let odd := e % 2 != 0
      let m2 := (if odd then m <<< 1 else m) <<< (2 * workBits)
      let e2 := (if odd then e - 1 else e) / 2 - (workBits : Int)
      let r := isqrt m2
      .fin false r e2 (r * r != m2)

/-- The reciprocal square root (IEEE 754-2019 rSqrt): ±0 gives the infinity of its sign. -/
def vrsqrt : Val → Val
  | .nan => .nan
  | .inf s => if s then .nan else valZero false
  | .fin s m e _ =>
    if m = 0 then .inf s
    else if s then .nan
    else
      let odd := e % 2 != 0
      let m2 := if odd then m <<< 1 else m
      let e2 := (if odd then e - 1 else e) / 2
      let sh := 2 * (workBits + bitLen m2)
      let num := 2 ^ sh
      let q := num / m2
      let r := isqrt q
      .fin false r (-(e2 + ((workBits + bitLen m2 : Nat) : Int))) (r * r * m2 != num)

/-- The signed integer nearest below a finite value, and the fraction left in units of `2^-256`, with what that drops. -/
def splitInt (neg : Bool) (m : Nat) (e : Int) : Int × Nat × Bool :=
  if 0 ≤ e then (let k : Int := ((m <<< e.toNat : Nat) : Int); (if neg then -k else k, 0, false))
  else
    let sh := (-e).toNat
    let ip := m >>> sh
    let fr := m % 2 ^ sh
    if !neg then (ip, if sh ≤ 256 then fr <<< (256 - sh) else fr >>> (sh - 256), 256 < sh && fr % 2 ^ (sh - 256) != 0)
    else if fr = 0 then (-(ip : Int), 0, false)
    else
      let fr' := 2 ^ sh - fr
      (-(ip : Int) - 1, if sh ≤ 256 then fr' <<< (256 - sh) else fr' >>> (sh - 256),
        256 < sh && fr' % 2 ^ (sh - 256) != 0)

/-- `2^(fraction)` in units of `2^-320`: the product of the roots `2^(2^-i)` of the fraction's set bits, high bit first. -/
def exp2Loop (fr : Nat) : Nat → Nat → Nat → Nat
  | 0, _, acc => acc
  | i + 1, root, acc =>
    let root' := isqrt (root <<< 320)
    exp2Loop fr i root' (if tbit fr i then (acc * root') >>> 320 else acc)

/-- exp2 with at least 240 exact bits before the one rounding (correctly rounded, as R130 asks). (DEDUCED, log entry 59) -/
def vexp2 : Val → Val
  | .nan => .nan
  | .inf s => if s then valZero false else .inf false
  | .fin s m e _ =>
    if m = 0 then .fin false 1 0 false
    else if 13 < ilog2 m e then (if s then .fin false 0 (-4096) true else .fin false 1 8192 false)
    else
      let p := splitInt s m e
      if p.2.1 = 0 && !p.2.2 then .fin false 1 p.1 false
      else .fin false (exp2Loop p.2.1 256 (2 ^ 321) (2 ^ 320) >>> 80) (p.1 - 240) true

/-- Fraction bits of log2 by repeated squaring of `y`, which stands in [1, 2) in units of `2^-640`. -/
def log2Loop : Nat → Nat → Nat → Nat
  | 0, _, acc => acc
  | i + 1, y, acc =>
    let y2 := (y * y) >>> 640
    if 2 ^ 641 ≤ y2 then log2Loop i (y2 / 2) (2 * acc + 1) else log2Loop i y2 (2 * acc)

/-- log2 with 240 fraction bits before the one rounding (correctly rounded, as R130 asks). (DEDUCED, log entry 59) -/
def vlog2 : Val → Val
  | .nan => .nan
  | .inf s => if s then .nan else .inf false
  | .fin s m e _ =>
    if m = 0 then .inf true
    else if s then .nan
    else
      let k := m.log2
      let ex : Int := (k : Int) + e
      if m = 2 ^ k then (if ex = 0 then valZero false else .fin (ex < 0) ex.natAbs 0 false)
      else
        let y := m <<< (640 - k)
        let fr := log2Loop 240 y 0
        if 0 ≤ ex then .fin false (ex.toNat * 2 ^ 240 + fr) (-240) true
        else .fin true (ex.natAbs * 2 ^ 240 - fr - 1) (-240) true

/-- −1, 0 or 1: the order of two values, none where either is a NaN. −0 and +0 are equal. -/
def vcmp (a b : Val) : Option Int :=
  match a, b with
  | .nan, _ => none
  | _, .nan => none
  | .inf s, .inf t => some (if s = t then 0 else if s then -1 else 1)
  | .inf s, .fin _ _ _ _ => some (if s then -1 else 1)
  | .fin _ _ _ _, .inf t => some (if t then 1 else -1)
  | .fin s m e _, .fin t n k _ =>
    let e0 := if m = 0 then k else if n = 0 then e else min e k
    let x := if m = 0 then 0 else alignTo s m e e0
    let y := if n = 0 then 0 else alignTo t n k e0
    some (if x < y then -1 else if x = y then 0 else 1)

/-- True for a value with its sign set. -/
def valNeg : Val → Bool
  | .nan => false
  | .inf s => s
  | .fin s _ _ _ => s

/-- maximumNumber and minimumNumber on stored patterns (R62). -/
def maxMinF (f : Fmt) (isMax : Bool) (a b : Nat) : Nat :=
  let va := decodeF f a
  let vb := decodeF f b
  match va, vb with
  | .nan, .nan => fmtNan f
  | .nan, _ => b
  | _, .nan => a
  | _, _ =>
    match vcmp va vb with
    | some (-1) => if isMax then b else a
    | some 1 => if isMax then a else b
    | _ => if isMax then (if valNeg va then b else a) else (if valNeg va then a else b)

/-- RNE32(x + y) on stored FP32 patterns. -/
def addF32 (a b : Nat) : Nat := rne fp32 (vadd (decodeF fp32 a) (decodeF fp32 b))
/-- The FP64 sum of stored patterns, rounded to nearest even. -/
def addF64 (a b : Nat) : Nat := rne fp64 (vadd (decodeF fp64 a) (decodeF fp64 b))

/-! ### The dot product of a cell -/

/-- A product of a cycle: its value, and for a finite non-zero one the integer and exponent of R54. -/
def cellProduct (f : Fmt) (a b : Nat) : Val := vmul (decodeF f a) (decodeF f b)

/-- The largest exponent among the finite, non-zero products (R55). -/
def qmaxOf : List Val → Option Int
  | [] => none
  | .fin _ m e _ :: ps =>
    match qmaxOf ps with
    | none => if m = 0 then none else some e
    | some q => if m = 0 then some q else some (max q e)
  | _ :: ps => qmaxOf ps

/-- One term of the window (R55): trunc(P × 2^(q − qmax + 24)), toward zero. -/
def windowTerm (q : Int) : Val → Int
  | .fin s m e _ => let k := ((shiftInt m (e - q + 24) : Nat) : Int); if s then -k else k
  | _ => 0

/-- The partial sum of one array cycle (R55 to R60). Products that are not all zero and cancel exactly give +0, as R59 gives where only the truncated sum is
zero. (DEDUCED, log entry 75) `fine` is the sum of the two fine scales, none where either is
the invalid byte 0x80 (Table 2.5). -/
def cyclePartial (fine : Option Int) (ps : List Val) : Val :=
  match fine with
  | none => .nan
  | some sc =>
    if ps.any (· == .nan) then .nan
    else
      let pos := ps.any (· == .inf false)
      let neg := ps.any (· == .inf true)
      if pos && neg then .nan
      else if pos then .inf false
      else if neg then .inf true
      else
        match qmaxOf ps with
        | none => valZero (ps.all valNeg)
        | some q =>
          let s := (ps.map (windowTerm q)).foldl (· + ·) 0
          if s = 0 then valZero false else .fin (s < 0) s.natAbs (q - 24 + sc) false

/-- One accumulate of a float partial sum into an FP32 entry (R57, R59, Table 2.5). -/
def accumF (a : Nat) (p : Val) : Nat := rne fp32 (vadd (decodeF fp32 a) p)

/-- Accumulates a partial sum into an INT32 entry: the entry and its saturated bit (R70). -/
def accumI (a : Int) (sat : Bool) (p : Int) : Int × Bool :=
  if sat then (a, true)
  else
    let s := a + p
    if s < -2 ^ 31 then (-2 ^ 31, true) else if 2 ^ 31 - 1 < s then (2 ^ 31 - 1, true) else (s, false)

/-! ### SH16 -/

/-- A fine-scale byte as an exponent; the byte 0x80 is invalid (R47). -/
def fineScale (b : Byte) : Option Int := if b = 0x80 then none else some b.toInt

/-- What encoding a run answers (R69): element patterns at the written positions, the byte, the generators after it, the
first non-finite written position, and how many non-zero values became zero. -/
structure ShRun where
  elems : List (Option Nat)
  scale : Byte
  gens : List W32
  nonfinite : Option Nat
  underflow : Nat
  deriving DecidableEq, Repr

/-- The first index at which a list holds true. -/
def firstTrue : List Bool → Nat → Option Nat
  | [], _ => none
  | b :: bs, i => if b then some i else firstTrue bs (i + 1)

/-- floor(log2) of the largest magnitude of a list of finite values; none when all are zero. -/
def runTop : List (Option Val) → Option Int
  | [] => none
  | some (.fin _ m e _) :: vs =>
    let r := runTop vs
    if m = 0 then r else match r with
      | none => some (ilog2 m e)
      | some t => some (max t (ilog2 m e))
  | _ :: vs => runTop vs

/-- True for NaN and the infinities. -/
def valNonfinite : Val → Bool
  | .fin _ _ _ _ => false
  | _ => true

/-- Rounds each written element of a run with the generator of its own lane. -/
def shElems (mode : RMode) (sc : Int) : List (Option Val) → List W32 → List (Option Nat) × List W32
  | [], _ => ([], [])
  | none :: vs, g :: gs => let r := shElems mode sc vs gs; (none :: r.1, g :: r.2)
  | some v :: vs, g :: gs =>
    let x := roundF fp16 mode g (vscale (-sc) v)
    let r := shElems mode sc vs gs
    (some x.bits :: r.1, x.gen :: r.2)
  | none :: vs, [] => let r := shElems mode sc vs []; (none :: r.1, r.2)
  | some v :: vs, [] =>
    let r := shElems mode sc vs []
    (some (roundF fp16 mode 0 (vscale (-sc) v)).bits :: r.1, r.2)

/-- True where a non-zero value was stored as a zero. -/
def becameZero : Option Val → Option Nat → Bool
  | some (.fin _ m _ _), some b => m != 0 && b % 2 ^ 15 == 0
  | _, _ => false

/-- SH16 encoding of a run (R69). An absent value is a masked position: neither examined nor written. `bad` is set
where a coarse scale of the drain is invalid (R52). `gens` holds one generator for each position. The recorded position of an invalid run is
its first written position whose value is not finite, or its first written position where only the scale is invalid. (DEDUCED, log entry 79) -/
def shEncode (mode : RMode) (bad : Bool) (vs : List (Option Val)) (gens : List W32) : ShRun :=
  let nf := firstTrue (vs.map (fun v => match v with | some x => bad || valNonfinite x | none => false)) 0
  match nf with
  | some i => { elems := vs.map (fun v => v.map (fun _ => 0x7E00)), scale := 0x80, gens := gens, nonfinite := some i,
                underflow := 0 }
  | none =>
    if bad then { elems := vs.map (fun v => v.map (fun _ => 0x7E00)), scale := 0x80, gens := gens, nonfinite := none,
                  underflow := 0 }
    else
    match runTop vs with
    | none => { elems := vs.map (fun v => v.map (fun x => fmtSign fp16 (valNeg x))), scale := 0, gens := gens,
                nonfinite := none, underflow := 0 }
    | some top =>
      let sc := max (-127) (min 127 (top - 14))
      let r := shElems mode sc vs gens
      { elems := r.1, scale := BitVec.ofInt 8 sc, gens := r.2,
        nonfinite := firstTrue (r.1.map (fun b => match b with | some x => isNonfinite fp16 x | none => false)) 0,
        underflow := ((vs.zip r.1).filter (fun p => becameZero p.1 p.2)).length }

/-! ### Draining one entry -/

/-- The drain multiplier m = RNE32(RNE32(ca × cb) / co) (R63), none where a coarse scale is invalid (R52). -/
def drainScale (ca cb co : Nat) : Option Nat :=
  if isPosNormal fp32 ca && isPosNormal fp32 cb && isPosNormal fp32 co then
    some (rne fp32 (vdiv (decodeF fp32 (rne fp32 (vmul (decodeF fp32 ca) (decodeF fp32 cb)))) (decodeF fp32 co)))
  else none

/-- v = A × m, exact (R63). -/
def drainVal (a m : Nat) : Val := vmul (decodeF fp32 a) (decodeF fp32 m)

/-- An INT32 entry drained to `w`-bit integer output: the pattern and whether it was cut (R71). -/
def drainInt (w : Nat) (a : Int) : Nat × Bool :=
  let lo : Int := -2 ^ (w - 1)
  let hi : Int := 2 ^ (w - 1) - 1
  if a < lo then (unsign lo w, true) else if hi < a then (unsign hi w, true) else (unsign a w, false)

end Sys2Proof.Machine
end

