-- ==== Sys2Proof/Machine/Ops.lean ====
section
/-! DEFINITION. The named operations every meaning is built from: places, time and stamps, the error log and events,
memory with poison, flags with their occurrence counts, and the ends of waybills. -/

namespace Sys2Proof.Machine

/-! ### Places -/

/-- Physical block `p`. -/
def getBlk (m : Mach) (p : Nat) : Blk := tget blkReset m.blocks p
/-- Puts physical block `p`. -/
def setBlk (m : Mach) (p : Nat) (b : Blk) : Mach := { m with blocks := tset blkReset m.blocks p b }
/-- Changes physical block `p`. -/
def modBlk (m : Mach) (p : Nat) (f : Blk → Blk) : Mach := setBlk m p (f (getBlk m p))
/-- Context slot `c`. -/
def getCtx (m : Mach) (c : Nat) : Ctx := tget ctxReset m.ctxs c
/-- Puts context slot `c`. -/
def setCtx (m : Mach) (c : Nat) (x : Ctx) : Mach := { m with ctxs := tset ctxReset m.ctxs c x }
/-- Changes context slot `c`. -/
def modCtx (m : Mach) (c : Nat) (f : Ctx → Ctx) : Mach := setCtx m c (f (getCtx m c))
/-- Region `r`. -/
def getRgn (m : Mach) (r : Nat) : Rgn := tget rgnReset m.rgns r
/-- Puts region `r`. -/
def setRgn (m : Mach) (r : Nat) (x : Rgn) : Mach := { m with rgns := tset rgnReset m.rgns r x }
/-- Controller `k`: stack s is controller s, package p is controller 16 + p. -/
def getCtl (m : Mach) (k : Nat) : Ctl := tget ctlReset m.tier.ctls k
/-- Changes controller `k`. -/
def modCtl (m : Mach) (k : Nat) (f : Ctl → Ctl) : Mach :=
  { m with tier := { m.tier with ctls := tmod ctlReset m.tier.ctls k f } }
/-- Milestone `n`. -/
def getMs (m : Mach) (n : Nat) : Milestone := tget noMs m.ms n
/-- Changes milestone `n`. -/
def modMs (m : Mach) (n : Nat) (f : Milestone → Milestone) : Mach := { m with ms := tmod noMs m.ms n f }

/-- The physical block behind a logical array (R19, R25), none while it is absent. -/
def physOf (m : Mach) (array : Nat) : Option Nat :=
  let e := tget noMap (getRgn m (array / 256)).map (array % 256)
  if array < 1024 && e.valid then some (272 * (array / 256) + e.phys) else none

/-- The logical array a physical block carries, if any. -/
def arrayOf (m : Mach) (p : Nat) : Option Nat :=
  let r := p / 272
  ((getRgn m r).map.find? (fun e => e.2.valid && e.2.phys == p % 272)).map (fun e => 256 * r + e.1)

/-- The current handle of slot `c` (R204): zero while the slot was never created. -/
def handleOf (m : Mach) (c : Nat) : Nat :=
  let x := getCtx m c
  if x.st = .free then 0 else c * 4096 + x.gen

/-- True where `h` is the current handle of an existing context (R206). -/
def handleLive (m : Mach) (h : Nat) : Bool :=
  let x := getCtx m (h / 4096)
  x.st != .free && x.gen == h % 4096 && h != 0

/-- The share of a block set that names logical array `a`. -/
def shareOf (c : Ctx) (a : Nat) : Option ArrShare := c.par.blocks.find? (·.array == a)

/-! ### Time, stamps, the error log and events -/

/-- The local counter in ns (R41). (DESIGN CHOICE, log entry 62) -/
def now (m : Mach) : Nat := m.time.counter.toNat

/-- What a background bucket holds now, for a rate in 1/10,000 B a ns and a limit in B (R387). -/
def bktLevel (m : Mach) (b : Bucket) (rate cap : Nat) : Nat := min (10000 * cap) (b.level + rate * (now m - b.since))
/-- Draws bytes from a bucket. -/
def bktDraw (m : Mach) (b : Bucket) (rate cap n : Nat) : Bucket := { level := bktLevel m b rate cap - 10000 * n, since := now m }
/-- The module identifier bits of a stamp, with the flag bit that says one is assigned (Table 1.8). -/
def modId (m : Mach) : Nat := m.fab.module.getD 0

/-- A stamp made now (R43), for context slot `c` if one is concerned. (DEDUCED, log entry 68) -/
def stampNow (m : Mach) (c : Option Nat) (step : Option Nat) (kind epoch : Nat) : Stamp :=
  { counter := now m, step := step.getD (2 ^ 64 - 1), epoch := epoch, kind := kind,
    flags := b2n c.isSome + 2 * b2n m.fab.module.isSome, ctx := match c with | some s => handleOf m s | none => 0,
    boot := m.time.boot.toNat, module := modId m }

/-- The step a stamp of slot `c` names (Table 1.8): the step of the run last started, none while the context has started no run. -/
def stepOf (m : Mach) (c : Nat) : Option Nat :=
  let x := getCtx m c
  if x.ran then some x.lastStep.toNat else none

/-- The 32 bytes of a stamp (Table 1.8). (DEDUCED, log entry 68) -/
def stampBytes (s : Stamp) : List Byte :=
  leBytes 8 s.counter ++ leBytes 8 s.step ++ leBytes 4 s.epoch ++ leBytes 1 s.kind ++ leBytes 1 s.flags ++
    leBytes 2 s.ctx ++ leBytes 4 s.boot ++ leBytes 2 s.module ++ leBytes 2 0

/-- Identifiers of units (Table 15.4). -/
def unitBlk (p sub : Nat) : Nat := p <<< 16 ||| sub
/-- A region unit. -/
def unitRgn (r sub : Nat) : Nat := 1 <<< 28 ||| r <<< 16 ||| sub
/-- A chip unit. -/
def unitChip (sub : Nat) : Nat := 2 <<< 28 ||| sub
/-- A context, by slot and handle. -/
def unitCtx (c h : Nat) : Nat := 3 <<< 28 ||| c <<< 16 ||| h
/-- The unit of a tier controller. -/
def unitCtl (k : Nat) : Nat := if k < 16 then unitRgn (k / 3) (0x10 + k) else unitRgn ((k - 16) / 4) (0x20 + (k - 16))

/-- Signals MSI-X vector `v` (R432): a masked vector sets its pending bit. (DESIGN CHOICE, log entry 7) -/
def signal (m : Mach) (v : Nat) : Mach :=
  if m.mgmt.msixMask.getLsbD v then
    { m with mgmt := { m.mgmt with msixPend := m.mgmt.msixPend ||| BitVec.ofNat 64 (1 <<< v) } }
  else { m with mgmt := { m.mgmt with msgs := m.mgmt.msgs ++ [v] } }

/-- The log class numbers of Table 15.6. -/
def clsCorrected : Nat := 0
/-- Contained. -/
def clsContained : Nat := 1
/-- Region-fatal. -/
def clsRegion : Nat := 2
/-- Device-fatal. -/
def clsDevice : Nat := 3
/-- Information. -/
def clsInfo : Nat := 4

/-- Writes one error-log record (R376, R414). Corrected events of one unit and code within one management round merge
into one record. -/
def logRec (m : Mach) (code cls unit dump flags : Nat) (ctx : Option Nat) (detail : List Byte) : Mach :=
  let g := m.mgmt
  let rnd := m.time.round.toNat
  let old := if cls = clsCorrected then
      g.log.find? (fun e => e.2.cls == 0 && e.2.code == code && e.2.unit == unit && e.2.round == rnd && e.2.stamp.boot == m.time.boot.toNat && e.2.count != 0)
    else none
  match old with
  | some e => { m with mgmt := { g with log := tset noLog g.log e.1 { e.2 with count := e.2.count + 1 } } }
  | none =>
    let r : LogRec :=
      { stamp := stampNow m ctx (ctx.bind (stepOf m)) 0 0, code := code, cls := cls,
        flags := flags, unit := unit, count := 1, dump := dump, detail := padTo 16 detail, round := rnd }
    { m with mgmt := { g with log := tset noLog g.log (g.logHead.toNat % 65536) r, logHead := satAdd g.logHead 1 } }

/-- Whether an event ring holds a free slot (R434). -/
def ringRoom (r : EvRing) : Bool := (r.head - r.ack).toNat < r.cap

/-- Puts a record into a ring that has room. -/
def ringPut (r : EvRing) (e : Event) : EvRing :=
  let q := r.head + 1
  { r with head := q, recs := tset noEvent r.recs (q.toNat % r.cap) { e with seq := q.toNat } }

/-- The field of MP_EVT_DROPPED for a class (R434): corrected 0, fatal 1, contained 2, information 3. -/
def dropField (cls : Nat) : Nat := if cls = clsCorrected then 0 else if cls = clsContained then 2 else if cls = clsInfo then 3 else 1

/-- Writes an event to a ring, or counts it as dropped where the ring is full (R434). -/
def ringEvent (r : EvRing) (cls : Nat) (e : Event) : EvRing :=
  if ringRoom r then ringPut r e
  else { r with lost := r.lost + 1, dropped := modNth r.dropped (dropField cls) (fun x => satAdd x 1) }

/-- Whether a code of Table 16.10 goes to the host ring. -/
def toHost (code : Nat) : Bool :=
  (0x2000 < code && code < 0x3000) || code == 0x1006 || code == 0x3001 || code == 0x4001 || code == 0x5004
/-- Whether a code of Table 16.10 goes to the board ring; every region-fatal and device-fatal event does (Table 16.9). -/
def toBoard (code cls : Nat) : Bool :=
  code == 0x1003 || code == 0x1004 || code == 0x1005 || code == 0x1006 || (0x5000 < code && code < 0x6000) ||
    cls == clsRegion || cls == clsDevice

/-- Writes an event record to the host ring and signals vector 1 where it was written (R432, R433). -/
def hostEvent (m : Mach) (cls : Nat) (e : Event) : Mach :=
  let room := ringRoom m.mgmt.hostRing
  let m := { m with mgmt := { m.mgmt with hostRing := ringEvent m.mgmt.hostRing cls e } }
  if room then signal m 1 else m

/-- The free sector with the lowest erase count that a record may go to (R388): not in use, not retired at 100,000 erases. (DESIGN CHOICE, log entry 104) -/
def freeSector (f : Flash) : Option Nat :=
  ((List.range 512).map (512 + ·)).foldl (fun r k =>
    if f.held.any (fun e => e.2 == k) || 100000 ≤ tget 0 f.erases k then r
    else match r with
      | some j => if tget 0 f.erases k < tget 0 f.erases j then some k else r
      | none => some k) none

/-- A record of a kind is written to flash: to the free sector that wears least, which is erased for it; the sector that held it before is free (R388). -/
def flashWrite (m : Mach) (kind : Nat) : Mach :=
  let f := m.mgmt.flash
  match freeSector f with
  | some k => { m with mgmt := { m.mgmt with flash := { erases := tset 0 f.erases k (tget 0 f.erases k + 1), held := tset 0 f.held kind k } } }
  | none => m

/-- Background work done, in eighths of an activity unit (R397). -/
def bgWork (m : Mach) (u : Nat) : Mach := { m with mgmt := { m.mgmt with bgUnits := m.mgmt.bgUnits + u } }

/-- The board ring takes new contents; a record it received raises the in-band interrupt of the board port (R417). -/
def putBoard (m : Mach) (r : EvRing) : Mach :=
  { m with mgmt := { m.mgmt with boardRing := r, ibi := if r.head = m.mgmt.boardRing.head then m.mgmt.ibi else satAdd m.mgmt.ibi 1 } }

/-- Writes an event into the board ring. -/
def boardEvent (m : Mach) (cls : Nat) (e : Event) : Mach := putBoard m (ringEvent m.mgmt.boardRing cls e)

/-- One event: its error-log record and the rings Table 16.10 sends it to (R376, R435). `contexts` is the slot mask,
`ctx` the slot its stamp names. -/
def report (m : Mach) (code cls unit : Nat) (ctx : Option Nat) (contexts subject : Nat) (detail : List Byte) : Mach :=
  let m := logRec m code cls unit 0 0 ctx detail
  let e : Event :=
    { seq := 0, code := code, contexts := contexts, subject := subject, unit := unit, detail := padTo 16 detail,
      stamp := stampNow m ctx (ctx.bind (stepOf m)) 0 0 }
  let m := if toHost code then hostEvent m cls e else m
  if toBoard code cls then boardEvent m cls e else m

/-- A contained event of slot `c`. (DEDUCED, log entry 34) -/
def reportCtx (m : Mach) (code unit c subject : Nat) (detail : List Byte) : Mach :=
  report m code clsContained unit (some c) (1 <<< c) subject detail

/-- The key of the counter the caravaneer holds for flag `i` of watch slot `n`. -/
def watchKey (n i : Nat) : Nat := 0x100000000 + 4 * n + i
/-- The key of the counter the caravaneer holds for flag `i` of convoy slot `n`. -/
def convKey (n i : Nat) : Nat := 0x200000000 + 4 * n + i
/-- Zeroes a held counter: the running count of this moment becomes its reference (R429). -/
def heldZero (m : Mach) (key run : Nat) : Mach :=
  { m with mgmt := { m.mgmt with held := tset (0, 0) m.mgmt.held key (run, 0) } }

/-! ### Memory -/

/-- Where the scratchpad strides begin (R24). -/
def spBase : Nat := 0x40000000000
/-- The local physical address of offset `off` in the stride of block `p` (R24). -/
def spAddr (p off : Nat) : Nat := spBase + p * 0x100000 + off
/-- What an unlisted byte of memory reads as (log entry 2). -/
def memDefault : Byte := 0
/-- The unit of error correction at an address: 8 B in scratchpads, 32 B in the tiers (R106, R242). -/
def granSize (a : Nat) : Nat := if spBase ≤ a then 8 else 32
/-- The base of the granule an address lies in. -/
def granOf (a : Nat) : Nat := a / granSize a * granSize a

/-- One byte as stored. (DESIGN CHOICE, log entry 2) -/
def memByte (mem : List Host.Cell) (a : Nat) : Byte := tget memDefault mem a
/-- The canonical form of memory: addresses strictly rise and no byte equals what an unlisted address reads as. -/
abbrev memWf (mem : List Host.Cell) : Prop := TblWf memDefault mem
/-- One byte stored. -/
def memPut (mem : List Host.Cell) (a : Nat) (b : Byte) : List Host.Cell := tset memDefault mem a b
/-- Bytes stored at consecutive addresses. -/
def memPutAll (mem : List Host.Cell) (a : Nat) : List Byte → List Host.Cell
  | [] => mem
  | b :: bs => memPutAll (memPut mem a b) (a + 1) bs

/-- The bases of the granules that bytes `a` to `a + n - 1` touch. -/
def granules (a n : Nat) : List Nat :=
  if n = 0 then [] else
    let g := granSize a
    (List.range ((a + n - 1) / g - a / g + 1)).map (fun i => (a / g + i) * g)

/-- Whether the granule at `g` is poisoned. -/
def isPoison (m : Mach) (g : Nat) : Bool := tget false m.poison g
/-- Marks or clears a granule's poison. -/
def setPoison (m : Mach) (g : Nat) (on : Bool) : Mach := { m with poison := tset false m.poison g on }

/-- Where a read of a near-tier byte is served from: the far-tier source while a registered outrider has not filled the
tile (R263). -/
def readSource (m : Mach) (a : Nat) : Nat :=
  match m.tier.regs.find? (fun r => r.near ≤ a && a < r.near + r.bytes && !r.filled) with
  | some r => r.far + (a - r.near)
  | none => a

/-- One byte as a read returns it. -/
def rdByte (m : Mach) (a : Nat) : Byte := memByte m.mem (readSource m a)
/-- `n` bytes as a read returns them. -/
def rdBytes (m : Mach) (a n : Nat) : List Byte := (List.range n).map (fun i => rdByte m (a + i))
/-- The little-endian number a read of `n` bytes returns. -/
def rdNat (m : Mach) (a n : Nat) : Nat := leNat (rdBytes m a n)
/-- Whether a read of `n` bytes meets a poisoned granule. -/
def rdPoison (m : Mach) (a n : Nat) : Bool :=
  (granules a n).any (fun g => isPoison m (granOf (readSource m g)))

/-- The part of bytes `a` to `a + bs.length - 1` that lies in the granule at `g`: first address and bytes. -/
def partOf (a : Nat) (bs : List Byte) (g size : Nat) : Nat × List Byte :=
  let lo := max a g
  let hi := min (a + bs.length) (g + size)
  (lo, (bs.drop (lo - a)).take (hi - lo))

/-- A write into one granule (R109, R121, R244): a write of part of a poisoned granule is not merged, a write of the
whole granule clears the poison. -/
def wrGran (m : Mach) (g : Nat) (a : Nat) (bs : List Byte) : Mach :=
  if bs.length = granSize g then { setPoison m g false with mem := memPutAll m.mem a bs }
  else if isPoison m g then m
  else { m with mem := memPutAll m.mem a bs }

/-- Marks the tiles of a twin's source that a write of `n` bytes at `a` touches (R356). -/
def dirtySrc (s : TwinSrc) (a n : Nat) : TwinSrc :=
  let hit := (List.range s.tiles.length).filter (fun i => let t := nthN s.tiles i; t < a + n && a < t + 2048)
  { s with dirty := hit.foldl (fun d i => insNat i d) s.dirty }

/-- Takes the narrow reads of the granules a write touches out of the list of those a later read may join (R259). -/
def dropNarrow (m : Mach) (a n : Nat) : Mach :=
  if m.tier.ctls.all (fun e => e.2.narrow.isEmpty) then m
  else
    let ctls := m.tier.ctls.map (fun e => (e.1, { e.2 with narrow := e.2.narrow.filter (fun q => q.1 + 32 ≤ a || a + n ≤ q.1) }))
    { m with tier := { m.tier with ctls := ctls.filter (fun e => e.2 != ctlReset) } }

/-- Marks every twin range a write touches (R356). -/
def markDirty (m : Mach) (a n : Nat) : Mach :=
  let m := dropNarrow m a n
  if m.ctxs.all (fun e => e.2.el.src.isNone) then m
  else { m with ctxs := m.ctxs.map (fun e => (e.1, { e.2 with el := { e.2.el with src := e.2.el.src.map (fun s => dirtySrc s a n) } })) }

/-- A write of bytes at consecutive addresses, granule by granule. -/
def wrBytes (m : Mach) (a : Nat) (bs : List Byte) : Mach :=
  (granules a bs.length).foldl (fun m g => let q := partOf a bs g (granSize g); wrGran m g q.1 q.2) (markDirty m a bs.length)

/-- Writes every granule that bytes `a` to `a + n - 1` touch as poisoned. -/
def wrPoison (m : Mach) (a n : Nat) : Mach := (granules a n).foldl (fun m g => setPoison m g true) (markDirty m a n)

/-- Overwrites whole granules with zeros and clears their poison (R215). Bytes that already read as zero are not
listed, so taking every listed byte of the range out writes zeros over all of it. -/
def zeroRange (m : Mach) (a n : Nat) : Mach :=
  let m := markDirty m a n
  { m with mem := m.mem.filter (fun e => e.1 < a || a + n ≤ e.1),
           poison := m.poison.filter (fun e => e.1 < a || a + n ≤ e.1) }

/-- `n` free bytes, numbered from the counter (data the spec calls undefined). (DESIGN CHOICE, log entry 3) -/
def freeBytes (m : Mach) (n : Nat) : List Byte := (List.range n).map (fun i => Config.freeByte (m.freeCtr + i))
/-- The counter moved past `n` free values. (DESIGN CHOICE, log entry 3) -/
def freeStep (m : Mach) (n : Nat) : Mach := { m with freeCtr := m.freeCtr + n }

/-- The controller of a tier address (R234, R235): stack, or 16 + package; none outside the populated tiers. -/
def ctlOf (a : Nat) : Option Nat :=
  if a < 0x10000000000 then
    let r := a / 0x4000000000
    let o := a % 0x4000000000
    if o < 0x37E11D6000 then some (3 * r + (o / 4096) % 3) else none
  else if a < 0x30000000000 then
    let r := (a - 0x10000000000) / 0x8000000000
    let o := (a - 0x10000000000) % 0x8000000000
    if o < 0x7735940000 then some (16 + 4 * r + (o / 4096) % 4) else none
  else none

/-- True for a byte of the module-reserved area (R236). -/
def isReserved (a : Nat) : Bool :=
  a < 0x10000000000 && 0x37A11D6000 ≤ a % 0x4000000000 && a % 0x4000000000 < 0x37E11D6000

/-- True for a byte of a scratchpad stride. -/
def isSp (a : Nat) : Bool := spBase ≤ a && a < spBase + 1088 * 0x100000

/-- True for a byte that host BAR2 requests and mappings may reach (R233, R271). -/
def isPopulated (a : Nat) : Bool := ((ctlOf a).isSome && !isReserved a) || isSp a

/-- Whether the whole module is behind a cordon: a chip warm reset is under way, or the module is held in reset (R403, R412). -/
def chipFenced (m : Mach) : Bool := m.rst.inReset || m.rst.jobs.any (fun j => j.rung == 5)

/-- Whether the caravaneer is stopped: it restarts, or a D2 session holds it (R34, R409, R455). -/
def mpStopped (m : Mach) : Bool := m.rst.restarting || m.sec.mpHalted

/-- What waits for the caravaneer stands in line until it runs again (R33, R34). (DEDUCED, log entry 71) -/
def waitForMp (m : Mach) (t : MpTask) : Mach :=
  if m.rst.waiting.any (· == t) then m else { m with rst := { m.rst with waiting := m.rst.waiting ++ [t] } }

/-- Whether the regions are powered and run: not before boot, in P3, out of service or in a chip warm reset (R403, R411, R475). -/
def regionsOn (m : Mach) : Bool := m.pwr.boot == .running && m.pwr.st < 3 && !m.rst.oos && !chipFenced m

/-- Whether an address lies in a domain behind a cordon: a block's stride, or anything of a fenced region (R403). -/
def fenced (m : Mach) (a : Nat) : Bool :=
  chipFenced m || if isSp a then
    let p := (a - spBase) / 0x100000
    (getBlk m p).cordon || (getRgn m (p / 272)).cordon
  else match ctlOf a with
    | some k => (getRgn m (if k < 16 then k / 3 else (k - 16) / 4)).cordon
    | none => false

/-- The cargo set and tile whose page holds an address (R251). -/
def cargoAt (m : Mach) (a : Nat) : Option (Nat × Nat) :=
  m.cargo.findSome? (fun e =>
    if e.2.st != 2 && e.2.st != 3 then none
    else (e.2.pages.findIdx? (fun g => g ≤ a && a < g + 2048)).map (fun t => (e.1, t)))

/-- The repair of a tile in progress. -/
def repairOf (m : Mach) (set tile : Nat) : Option Repair := m.tier.repairs.find? (fun r => r.set == set && r.tile == tile)

/-- The bytes of a request at a controller. -/
def reqLen (q : TierReq) : Nat := match q.data with | some d => d.length | none => q.n

/-- The repair that a new access to a granule waits for (R251): that of its tile, or one that holds an earlier access to the granule, which it must not
pass (R237). -/
def repairAt (m : Mach) (g : Nat) : Option Repair :=
  if m.tier.repairs.isEmpty then none else
  match (cargoAt m g).bind (fun q => repairOf m q.1 q.2) with
  | some r => some r
  | none => m.tier.repairs.find? (fun r => r.held.any (fun q => q.a < g + 32 && g < q.a + reqLen q))

/-- Whether an access to a granule waits for a repair. -/
def underRepair (m : Mach) (a : Nat) : Bool := (repairAt m a).isSome

/-- Whether the controller of a granule has its input stalled (R251). -/
def inputStalled (m : Mach) (g : Nat) : Bool := match ctlOf g with | some k => !(getCtl m k).input.isEmpty | none => false

/-- The accesses held by repairs at a controller. -/
def heldAt (m : Mach) (k : Nat) : Nat := (m.tier.repairs.filter (fun r => r.ctl == k)).foldl (fun s r => s + r.held.length) 0

/-- Changes the repair of a tile. -/
def modRepair (m : Mach) (set tile : Nat) (f : Repair → Repair) : Mach :=
  { m with tier := { m.tier with repairs := m.tier.repairs.map (fun r => if r.set = set && r.tile = tile then f r else r) } }

/-- Everything that waits at controllers for a repair or behind a stalled input. -/
def waiting (m : Mach) : List TierReq := m.tier.repairs.flatMap (·.held) ++ m.tier.ctls.flatMap (fun e => e.2.input)

/-! ### Running waybills -/

/-- The posted manifest in a slot of a context. -/
def getMan (m : Mach) (c k : Nat) : Option ManSt := tget none (getCtx m c).mans k
/-- Where the manifest store of a context begins in the near tier: the first range its creation gave it (R176, R207). -/
def storeBase (x : Ctx) : Option Nat := x.memory.head?.map (·.1)
/-- The handle of a posted manifest (R190). -/
def manHandle (m : Mach) (c k : Nat) : Nat := match getMan m c k with | some q => c * 4096 + k * 256 + q.gen | none => 0

/-- Changes a posted manifest. -/
def modMan (m : Mach) (c k : Nat) (f : ManSt → ManSt) : Mach :=
  modCtx m c (fun x => { x with mans := tmod none x.mans k (Option.map f) })
/-- Changes a run of a manifest. -/
def modRun (m : Mach) (c k r : Nat) (f : RunSt → RunSt) : Mach :=
  modMan m c k (fun x => { x with runs := x.runs.map (fun q => if q.run = r then f q else q) })
/-- A run of a manifest. -/
def getRun (x : ManSt) (r : Nat) : Option RunSt := x.runs.find? (·.run == r)
/-- A waybill of an image. -/
def wbOf (i : Image) (w : Nat) : WaybillD := i.waybills.getD w noWaybill
/-- The body a waybill runs (R185). -/
def bodyOf (i : Image) (w : Nat) : List Item :=
  match (wbOf i w).bodyOf with
  | some j => (wbOf i j).body
  | none => (wbOf i w).body

/-- The running waybill of a stream on a block (R192: at most one). -/
def runningOn (b : Blk) (stream : Nat) : Option RunWb := b.seq.running.find? (·.stream == stream)
/-- Changes the running waybill of a stream. -/
def modRunning (b : Blk) (stream : Nat) (f : RunWb → RunWb) : Blk :=
  { b with seq := { b.seq with running := b.seq.running.map (fun w => if w.stream = stream then f w else w) } }
/-- Gives a running waybill its end code, where it has none yet (R196). -/
def endWb (m : Mach) (p stream code : Nat) : Mach :=
  modBlk m p (fun b => modRunning b stream (fun w => if w.code = 0 then { w with code := code } else w))
/-- Sets the state of a body item. -/
def markItem (m : Mach) (p stream i : Nat) (st : ItemSt) : Mach :=
  modBlk m p (fun b => modRunning b stream (fun w => { w with items := setNth w.items i st }))
/-- Sets a flag of the running waybill's record (Table 7.11). -/
def recFlag (b : Blk) (stream i : Nat) : Blk := modRunning b stream (fun w => { w with flags := setBit w.flags i })

/-- End codes of Table 7.10. -/
def cGroupState : Nat := 0x0101
/-- GROUP_LEFT_OPEN. -/
def cGroupLeftOpen : Nat := 0x0102
/-- ARITH_RESIDUE. -/
def cArithResidue : Nat := 0x0103
/-- SP_WINDOW. -/
def cSpWindow : Nat := 0x0201
/-- SP_ADDRESS. -/
def cSpAddress : Nat := 0x0202
/-- SP_UNCORRECTABLE. -/
def cSpUncorrectable : Nat := 0x0203
/-- VE_LENGTH. -/
def cVeLength : Nat := 0x0301
/-- VE_OVERLAP. -/
def cVeOverlap : Nat := 0x0302
/-- VE_COUNT. -/
def cVeCount : Nat := 0x0303
/-- VE_CAPACITY. -/
def cVeCapacity : Nat := 0x0304
/-- VE_INDEX. -/
def cVeIndex : Nat := 0x0305
/-- PM_TRANSLATION, and with kind k the code of Table 6.2. -/
def cPm (kind : Nat) : Nat := if kind = 6 then 0x0201 else 0x0400 + kind
/-- MEM_POISON. -/
def cMemPoison : Nat := 0x0501
/-- MS_REMOTE. -/
def cMsRemote : Nat := 0x0601
/-- RUN_HALTED. -/
def cRunHalted : Nat := 0x0701
/-- TEARDOWN. -/
def cTeardown : Nat := 0x0702

/-- The engines whose items keep body order (R188): array and drain 0, vector engine 1, Premutar 2, sequencer 3. -/
def engineOf : Item → Nat
  | .arrayOp _ => 0
  | .drain _ => 0
  | .discard _ => 0
  | .vector _ => 1
  | .premutar _ => 2
  | .windowSet _ _ _ => 3
  | .aliasSet _ _ => 3
  | .barrier _ => 3

/-- Whether a BARRIER's mask names an engine (Table 7.7). -/
def barrierNames (mask e : Nat) : Bool := e < 3 && tbit mask e

/-- Whether an earlier item `e`, in state `st`, lets a later item start (R188): a barrier, window-set or alias-set must
be done; an item of the later item's engine must be issued, and before a barrier that names it, done; a window-set or
alias-set takes its turn among the items of every engine. -/
def letsStart (later e : Item) (st : ItemSt) : Bool :=
  match e with
  | .barrier _ => st == .done
  | .windowSet _ _ _ => st == .done
  | .aliasSet _ _ => st == .done
  | _ =>
    match later with
    | .barrier mask => !barrierNames mask (engineOf e) || st == .done
    | .windowSet _ _ _ => st != .waiting
    | .aliasSet _ _ => st != .waiting
    | _ => engineOf e != engineOf later || st != .waiting

/-- Whether every item before `i` lets item `i` start (R188). -/
def itemReady (body : List Item) (sts : List ItemSt) (i : Nat) : Bool :=
  match body[i]? with
  | none => false
  | some it => ((body.zip sts).take i).all (fun q => letsStart it q.1 q.2)

/-- Whether engine `e` of block `p` is behind the cordon of its own reset (R403): 0 array and drain, 1 vector engine, 2 Premutar, 3
check-value unit. -/
def engineInReset (m : Mach) (p e : Nat) : Bool := m.rst.jobs.any (fun j => j.rung == 2 && j.domain == unitBlk p (e + 1))

/-- Whether the engine of an item of a running waybill is in reset. -/
def itemFenced (m : Mach) (x : Image) (w : RunWb) (it : Item) : Bool :=
  if engineOf it = 3 || m.rst.jobs.isEmpty then false
  else match physOf m (wbOf x w.wb).array with
    | some p => engineInReset m p (engineOf it)
    | none => false

/-- The first waiting item of a running waybill that `want` accepts, with its number, where it may start now. -/
def nextItem (m : Mach) (w : RunWb) (want : Item → Bool) : Option (Nat × Item) :=
  if w.code != 0 then none else
  match getMan m w.ctx w.man with
  | none => none
  | some x =>
    let body := bodyOf x.img w.wb
    let cand := (List.range body.length).find? (fun i =>
      (w.items.getD i .done == .waiting) && (match body[i]? with | some it => want it | none => false))
    match cand with
    | some i =>
      match body[i]? with
      | some it => if itemReady body w.items i && !itemFenced m x.img w it then some (i, it) else none
      | none => none
    | none => none

/-- Whether a vector operation or a descriptor goes through window `w`. -/
def usesWindow (it : Item) (w : Nat) : Bool :=
  match it with
  | .vector v => (v.ins ++ v.outs).any (fun s => s.viaWindow && s.window == w)
  | .premutar d => [d.src, d.dst, d.srcScale, d.dstScale].any (fun s => s.space == 1 && s.window == w)
  | _ => false

/-- Whether an item is a window-set. -/
def isWindowSet (it : Item) : Bool := match it with | .windowSet _ _ _ => true | _ => false

/-- Whether a window-set of a running waybill waits for window `n`. -/
def setWaits (m : Mach) (b : Blk) (n : Nat) : Bool :=
  b.seq.running.any (fun w => match nextItem m w isWindowSet with
    | some (_, .windowSet k _ _) => k == n
    | _ => false)

/-- Whether an item's accesses go through a window that a window-set of a running waybill waits for: they stall until it takes effect
(R118). -/
def windowHeld (m : Mach) (b : Blk) (it : Item) : Bool := (List.range 16).any (fun n => usesWindow it n && setWaits m b n)

/-- The item a reference names. -/
def refOf (w : RunWb) (i : Nat) : ItemRef :=
  { ctx := w.ctx, man := w.man, run := w.run, wb := w.wb, item := i, stream := w.stream }

/-- The generator of a lane of a running waybill (R68): the state its earlier draws left, or its seed. -/
def laneGen (m : Mach) (p : Nat) (w : RunWb) (lane : Nat) : W32 :=
  tget (laneSeed (getCtx m w.ctx).par.seed w.step (256 * ((arrayOf m p).getD 0) + lane) w.seedWb) w.gens lane

/-- The streams in pick order: rising pass, ties forward, backward, update (R194). -/
def streamOrder (b : Blk) (c : Nat) : List Nat := sortKey (fun s => tget 0 b.seq.pass (4 * c + s)) [1, 2, 3]

/-- The running waybills of a block in the order R128 and R163 take them: the rank of their streams, in the current cycle (R195). -/
def runOrder (b : Blk) : List RunWb := sortKey (fun w => 4 * tget 0 b.seq.pass (4 * w.ctx + w.stream) + w.stream) b.seq.running

/-- The stream whose waybill an engine serves next: the first in that order with something for it (R128, R163, R195). -/
def turnOf (b : Blk) (has : RunWb → Bool) : Option Nat := ((runOrder b).find? has).map (·.stream)

end Sys2Proof.Machine
end

