-- ==== Sys2Proof/Machine/Halts.lean ====
section
/-! DEFINITION. Halting manifests (R197), accounting (R396), and the taps of the check-value unit (R381). -/

namespace Sys2Proof.Machine

/-! ### Accounting -/

/-- Adds to counter `i` of Table 14.10 of slot `c`: 0 to 2 array cycles by stream, 3 row cycles, 4 vector cycles,
5 to 8 near and far bytes read and written, 9 and 10 fabric bytes out and in, 11 energy, 12 + k idle cycles. -/
def acctAdd (m : Mach) (c i k : Nat) : Mach :=
  if k = 0 then m else
    modCtx m c (fun x => { x with acct := tmod 0 x.acct i (fun v => satAdd v k), lastAct := stampNow m (some c) none 0 0,
                                  firstAct := if x.firstAct = noStamp then stampNow m (some c) none 0 0 else x.firstAct })

/-- The activity units of a slot since its creation, in eighths (R397): row cycles, 32 times the vector cycles, near bytes by 8, far
and fabric bytes by 2. -/
def unitsOf (x : Ctx) : Nat :=
  let k := fun (i : Nat) => (tget 0 x.acct i).toNat
  8 * k 3 + 256 * k 4 + (k 5 + k 6) + 4 * (k 7 + k 8) + 4 * (k 9 + k 10)

/-- Takes the present units of a slot as those of the last round: nothing of them is charged again. -/
def syncUnits (m : Mach) (c : Nat) : Mach := { m with mgmt := { m.mgmt with unitsAt := tset 0 m.mgmt.unitsAt c (unitsOf (getCtx m c)) } }

/-- The tier an address lies in: 0 near, 1 far. -/
def tierOf (a : Nat) : Option Nat := (ctlOf a).map (fun k => if k < 16 then 0 else 1)

/-- Charges `n` tier bytes at an address to slot `c` (R396). -/
def acctTier (m : Mach) (c a n : Nat) (write : Bool) : Mach :=
  match tierOf a with
  | some t => acctAdd m c (5 + 2 * t + b2n write) n
  | none => m

/-! ### Check-value taps -/

/-- Whether the unit of block `p` taps `tap` for slot `c` (Tables 14.4, 14.5). -/
def cvTaps (m : Mach) (p tap c : Nat) : Bool :=
  let g := (getBlk m p).cv.cfg.toNat
  tbit g 63 && fld g 61 2 == tap && fld g 28 4 == c

/-- Hands one frame to the unit of block `p` where its tap is `tap`. -/
def cvTap (m : Mach) (p tap c : Nat) (frame : List Byte) : Mach :=
  if cvTaps m p tap c then modBlk m p (fun b => { b with cv := { b.cv with frameQ := b.cv.frameQ ++ [frame] } }) else m

/-! ### Halts -/

/-- Whether a waybill of an image sits on array `a` with a stream and group. -/
def imgHasGroup (i : Image) (a stream grp : Nat) : Bool :=
  i.waybills.any (fun w => w.array == a && w.stream == stream && w.group == grp)

/-- Frees the groups that runs of a halted manifest leave OPEN or FAULTED on block `p` (R197). -/
def discardLeft (m : Mach) (c k p : Nat) : Mach :=
  match getMan m c k, arrayOf m p with
  | some x, some a =>
    let b := getBlk m p
    let idle := fun (g : Group) => !b.seq.running.any (fun w => w.ctx == c && w.man == k && w.stream == g.stream)
    let gs := (List.range 8).filter (fun i =>
      let g := tget freeGroup b.arr.groups i
      (g.st == .opened || g.st == .faulted) && g.ctx == c && imgHasGroup x.img a g.stream g.grp && idle g)
    if gs.isEmpty then m else
      modBlk m p (fun b => { b with arr := { b.arr with groups := gs.foldl (fun t i => tdel t i) b.arr.groups } })
  | _, _ => m

/-- The physical blocks of a context's block set. -/
def blocksOf (m : Mach) (c : Nat) : List Nat := (getCtx m c).par.blocks.filterMap (fun s => physOf m s.array)

/-- Halts a posted manifest (R197): its runs in flight halt with the first failing waybill's code and index, nothing of
it starts or is launched again, and the groups it leaves are freed. -/
def haltMan (m : Mach) (c k code wb : Nat) : Mach :=
  match getMan m c k with
  | none => m
  | some x =>
    if x.halted then m else
    let m := modMan m c k (fun x =>
      { x with halted := true, runs := x.runs.map (fun r =>
          if r.ended then r else if r.started then { r with halted := true, code := code, failWb := wb } else { r with halted := true }) })
    (blocksOf m c).foldl (fun m p => discardLeft m c k p) m

/-- Whether a posted manifest has a waybill on array `a`. -/
def manOn (x : ManSt) (a : Nat) : Bool := x.img.waybills.any (fun w => w.array == a)

/-- The code and index of the first waybill of a run that runs on a block and has failed. -/
def failedOn (m : Mach) (p c k run : Nat) : Option (Nat × Nat) :=
  ((getBlk m p).seq.running.find? (fun w => w.ctx == c && w.man == k && w.run == run && w.code != 0)).map (fun w => (w.code, w.wb))

/-- Halts every posted manifest of a slot with a waybill on array `a` (Table 14.3 step 2). A run whose waybill on the array has failed
takes that waybill's code and index (R197). -/
def haltOnArray (m : Mach) (c a : Nat) : Mach :=
  (List.range 16).foldl (fun m k =>
    match getMan m c k with
    | some x =>
      if !manOn x a || x.halted then m else
      let m := haltMan m c k cRunHalted 0xFFFFFFFF
      match physOf m a with
      | none => m
      | some p => modMan m c k (fun x => { x with runs := x.runs.map (fun r =>
          match failedOn m p c k r.run with
          | some q => if r.ended then r else { r with code := q.1, failWb := q.2 }
          | none => r) })
    | none => m) m

/-- The slots in use whose block set names array `a`. -/
def sharersOf (m : Mach) (a : Nat) : List Nat :=
  (List.range 16).filter (fun c =>
    let x := getCtx m c
    (x.st == .active || x.st == .teardown) && (shareOf x a).isSome)

/-- Every running waybill of a block ends with RUN_HALTED, unless it has a code already. -/
def endAllOn (m : Mach) (p : Nat) : Mach :=
  (getBlk m p).seq.running.foldl (fun m w => endWb m p w.stream cRunHalted) m

end Sys2Proof.Machine
end

