-- ==== Sys2Proof/Machine/Customs.lean ====
section
/-! DEFINITION. Translation through the waymap (R167, R272 to R275), the customs checks (R287 to R289), the operations
of the memory side (R237, R253 to R257), and the sending of requests (R278 to R280). -/

namespace Sys2Proof.Machine

/-- Bytes of a segment of size code `z` (Table 10.1). -/
def segBytes (z : Nat) : Nat := if z = 0 then 2 ^ 21 else if z = 1 then 2 ^ 28 else 2 ^ 34

/-- The set an entry is placed in (R272). -/
def waymapSet (kind slot z addr : Nat) : Nat :=
  let page := addr >>> (if z = 0 then 21 else if z = 1 then 28 else 34)
  let key := if kind = 0 then slot <<< 2 ||| z else 0x40 ||| z
  let x := (page * 0x9E3779B97F4A7C15) % 2 ^ 64 ^^^ ((key + 1) * 0xC2B2AE3D27D4EB4F) % 2 ^ 64
  x >>> 45

/-- Whether an entry covers bytes `a` to `a + n - 1`. -/
def wayCovers (e : WayEnt) (a n : Nat) : Bool := e.valid && e.base ≤ a && a + n ≤ e.base + segBytes e.size

/-- Whether an entry carries the current membership epoch of a context (R275). -/
def epochCurrent (x : Membership) (e : Nat) : Bool := e == x.epoch || (x.carriedValid && e == x.carried)

/-- Page `k` of a pool made of whole pages in several ranges. -/
def poolAddr (size : Nat) : List (Nat × Nat) → Nat → Nat
  | [], _ => 0
  | (a, n) :: rs, k => if k < n / size then a + k * size else poolAddr size rs (k - n / size)

/-- The local physical address of a page (R223): tier, 0 near and 1 far, and number. -/
def pageAddr (x : Ctx) (pg : Nat × Nat) : Nat := poolAddr x.par.pageBytes (if pg.1 = 0 then x.poolNear else x.poolFar) pg.2

/-- The virtual fabric address of a page of a slot's pools (R223). At which addresses a creation maps the pools the manual does not say. (DESIGN
CHOICE, log entry 73) -/
def pageVirt (m : Mach) (c : Nat) (pg : Nat × Nat) : Nat := Config.pageVirt (handleOf m c) pg.1 pg.2 % 2 ^ 57

/-- The pages of a slot's pools. -/
def poolPages (x : Ctx) : List (Nat × Nat) := (List.range x.par.kvNear).map (fun k => (0, k)) ++ (List.range x.par.kvFar).map (fun k => (1, k))

/-- What maps a slot's pool page (R223): it is the slot's own, in this module, to read, write and accumulate into. -/
def poolEntry (m : Mach) (c : Nat) (isIn : Bool) (base target : Nat) : WayEnt :=
  let x := (getCtx m c).mem
  { valid := true, isIn := isIn, size := 0, read := true, write := true, atomic := true, advance := false, cargo := false, module := modId m,
    owner := handleOf m c, peer := if isIn then x.id else handleOf m c, epoch := x.epoch, target := target, base := base }

/-- The page of a slot's pools whose virtual addresses cover an access. -/
def poolOut (m : Mach) (c a n : Nat) : Option WayEnt :=
  let x := getCtx m c
  ((poolPages x).find? (fun g => pageVirt m c g ≤ a && a + n ≤ pageVirt m c g + x.par.pageBytes)).map (fun g =>
    poolEntry m c false (pageVirt m c g) (pageAddr x g))

/-- What admits an access of a slot to local physical bytes of its own pools. -/
def poolIn (m : Mach) (c a n : Nat) : Option WayEnt :=
  let x := getCtx m c
  ((x.poolNear ++ x.poolFar).find? (fun r => r.1 ≤ a && a + n ≤ r.1 + r.2)).map (fun r => poolEntry m c true r.1 0)

/-- The OUT entry of a slot that covers an address, or the page of its pools that does. -/
def outEntry (m : Mach) (slot a n : Nat) : Option WayEnt :=
  match m.fab.waymap.find? (fun e => !e.2.isIn && e.2.owner / 4096 == slot && wayCovers e.2 a n && !has m.fab.wayBad e.1) with
  | some e => some e.2
  | none => poolOut m slot a n
/-- The IN entry that covers local physical bytes. -/
def inEntry (m : Mach) (a n : Nat) : Option WayEnt :=
  (m.fab.waymap.find? (fun e => e.2.isIn && wayCovers e.2 a n && !has m.fab.wayBad e.1)).map (·.2)
/-- The IN entry that an access of a context of this module (`self`) or of another meets: for its own pools a context needs none of the map commands'. -/
def inFor (m : Mach) (self : Bool) (peer a n : Nat) : Option WayEnt :=
  match inEntry m a n with
  | some e => some e
  | none => if self then poolIn m (peer / 4096) a n else none

/-- What a translation answers: the kind of Table 6.2, or the entry and the destination's local physical address. -/
inductive Xlat where
  | fault (kind : Nat)
  | ok (e : WayEnt) (phys : Nat)
  deriving DecidableEq, Repr

/-- Whether an OUT entry grants a packet's operation (Table 10.1). -/
def grants (e : WayEnt) (opcode : Nat) : Bool :=
  match opcode with
  | 0x01 => e.read
  | 0x04 => e.read
  | 0x02 => e.write
  | 0x03 => e.write
  | 0x05 => e.atomic
  | 0x06 => e.atomic
  | 0x07 => e.advance
  | _ => false

/-- Translates a virtual fabric address of a slot for an operation (R167). -/
def translate (m : Mach) (slot opcode a n : Nat) : Xlat :=
  match outEntry m slot a n with
  | none => .fault 1
  | some e =>
    if !grants e opcode then .fault 2
    else if e.owner != handleOf m slot then .fault 3
    else if !epochCurrent (getCtx m slot).mem e.epoch then .fault 4
    else .ok e (e.target + (a - e.base))

/-- The milestone array (R271). -/
def msArray : Nat := 0x7F002000000
/-- The milestone an address of the array lies in: check 2 of Table 10.6 asks for no alignment. (DEDUCED, log entry 110) -/
def msAt (a : Nat) : Option Nat := if msArray ≤ a && a < msArray + 8 * 65536 then some ((a - msArray) / 8) else none

/-- The test of R181: declared by a posted manifest of its owner, remote bit set, the owner named, not frozen. -/
def msAccepts (x : Milestone) (peer : Nat) : Bool := x.declared && x.remote && x.owner == peer && !x.frozen

/-- The alias an address of a stride lies in, if any: true for bit-clear, with the data offset it names (R119). -/
def aliasOf (m : Mach) (a : Nat) : Option (Bool × Nat) :=
  if !isSp a then none else
    let o := (a - spBase) % 0x100000
    let p := (a - spBase) / 0x100000
    if o < 0xC0000 then none
    else some (0xE0000 ≤ o, spAddr p ((getBlk m p).sp.aliasBank * 0x20000 + o % 0x20000))

/-- Whether R120 allows an access of `n` bytes at an address of a stride to slot `c`: outside the alias ranges always;
inside them the alias must be enabled for the slot, the bytes lie in one range, and a write be 4 B, 8 B or a line,
aligned to its length. -/
def aliasAllows (m : Mach) (c a n : Nat) (write : Bool) : Bool :=
  if !isSp a then true else
    let o := (a - spBase) % 0x100000
    if o + n ≤ 0xC0000 then true
    else
      let s := (getBlk m ((a - spBase) / 0x100000)).sp
      let one := (0xC0000 ≤ o && o + n ≤ 0xE0000) || (0xE0000 ≤ o && o + n ≤ 0x100000)
      one && s.aliasOn && s.aliasCtx == c && (!write || ((n == 4 || n == 8 || n == 128) && o % n == 0))

/-- Elements of an adder format in bytes (Table 10.4): FP32, FP16, INT32, INT64. -/
def adderBytes (f : Nat) : Nat := if f = 0 then 4 else if f = 1 then 2 else if f = 2 then 4 else 8

/-- Whether length and subcode are ones Table 10.4 allows for the opcode. -/
def lengthOk (pk : Packet) : Bool :=
  match pk.opcode with
  | 0x01 => (pk.length == 32 || pk.length == 64) && pk.subcode == 0
  | 0x02 => (pk.length == 32 || pk.length == 64) && pk.subcode == 0
  | 0x03 => 128 ≤ pk.length && pk.length ≤ 4096 && pk.length % 128 == 0 && pk.subcode == 0
  | 0x04 => 128 ≤ pk.length && pk.length ≤ 4096 && pk.length % 128 == 0 && pk.subcode == 0
  | 0x05 => (if pk.keyed then pk.length == 64 || pk.length == 96 else pk.length == 32 || pk.length == 64) && pk.subcode < 8
  | 0x06 => if pk.subcode / 4 == 2 then pk.length == 32 && 2 ≤ pk.subcode % 4
            else (pk.length == 32 || pk.length == 64) && pk.subcode < 8
  | 0x07 => pk.length == 32 && pk.subcode == 0
  | _ => false

/-- The bytes of its target a request covers: for a CAS one element, for an ACCUM its elements. -/
def targetLen (pk : Packet) : Nat :=
  if pk.opcode = 0x06 && pk.subcode / 4 == 2 then (if pk.subcode % 4 = 3 then 8 else 4)
  else if pk.opcode = 0x05 && pk.keyed then pk.length - 32 else pk.length

/-- Whether the addressed memory can perform the operation (R253): adders stand at the tiers only, at element-aligned
addresses. -/
def memoryCan (pk : Packet) : Bool :=
  if pk.opcode = 0x05 || pk.opcode = 0x06 then
    (ctlOf pk.addr).isSome && !isReserved pk.addr && pk.addr % adderBytes (pk.subcode % 4) == 0
  else if pk.opcode = 0x07 then true
  else isPopulated pk.addr && isPopulated (pk.addr + targetLen pk - 1)

/-- The reason an epoch check gives (R287): 4 stale, 5 ahead, none where equal. -/
def epochReason (e pkt : Nat) : Option Nat :=
  if pkt = e then none else if (e + 2 ^ 32 - pkt) % 2 ^ 32 < 2 ^ 31 then some 4 else some 5

/-- Checks 2 to 7 of Table 10.6 on a request: the reason of the first that fails. `self` marks a request the module
addresses to itself, whose grant is not checked again (R287: checks 2 to 6); what the memory or the milestone unit
cannot perform is refused all the same. -/
def customsReason (m : Mach) (pk : Packet) (self : Bool) : Option Nat :=
  if pk.opcode = 0x07 then
    match msAt pk.addr with
    | none => some 1
    | some n =>
      let x := getMs m n
      let c := getCtx m (x.owner / 4096)
      if x.owner != pk.peer || x.owner == 0 || c.st != .active then some 3
      else if pk.membership != c.mem.id then some 3
      else match epochReason c.mem.epoch pk.epoch with
        | some r => some r
        | none =>
          if !has c.mem.members pk.src then some 6
          else if !self && !lengthOk pk then some 2
          else if !msAccepts x pk.peer then some 7 else none
  else
    match inFor m self pk.peer pk.addr (targetLen pk) with
    | none => some 1
    | some e =>
      let c := getCtx m (e.owner / 4096)
      if e.owner != pk.peer || c.st != .active then some 3
      else if pk.membership != c.mem.id || pk.membership != e.peer then some 3
      else match epochReason c.mem.epoch pk.epoch with
        | some r => some r
        | none =>
          if !has c.mem.members pk.src || !epochCurrent c.mem e.epoch then some 6
          else if !self && !(grants e pk.opcode && lengthOk pk) then some 2
          else if !memoryCan pk then some 2
          else if !aliasAllows m (e.owner / 4096) pk.addr (targetLen pk) (pk.opcode == 0x02 || pk.opcode == 0x03) then some 2
          else none

/-- The end code a customs reason gives the sender's waybill (Table 10.6). -/
def reasonCode (r : Nat) : Nat :=
  match r with
  | 1 => 0x0401
  | 2 => 0x0402
  | 3 => 0x0403
  | 4 => 0x0404
  | 5 => 0x0404
  | 6 => 0x0403
  | 7 => 0x0601
  | _ => 0x0501

/-! ### Memory-side operations -/

/-- The sum or maximum of two stored elements (R253), and whether an integer add saturated. -/
def adderOp (fmt : Nat) (isMax : Bool) (a b : Nat) : Nat × Bool :=
  match fmt with
  | 0 => (if isMax then maxMinF fp32 true a b else addF32 a b, false)
  | 1 => (if isMax then maxMinF fp16 true a b else rne fp16 (vadd (decodeF fp16 a) (decodeF fp16 b)), false)
  | _ =>
    let w := if fmt = 2 then 32 else 64
    if isMax then (if signed a w < signed b w then b else a, false)
    else
      let s := signed a w + signed b w
      let lo : Int := -2 ^ (w - 1)
      let hi : Int := 2 ^ (w - 1) - 1
      if s < lo then (unsign lo w, true) else if hi < s then (unsign hi w, true) else (unsign s w, false)

/-- Counts one saturated add at the controller of an address. -/
def countSat (m : Mach) (a : Nat) : Mach :=
  match ctlOf a with
  | some k => modCtl m k (fun c => { c with addSat := satAdd c.addSat 1 })
  | none => m

/-- The open ordered window an ADD at an address falls in (R255). -/
def ordWinAt (m : Mach) (a : Nat) : Option (Nat × OrdWin) :=
  m.tier.wins.findSome? (fun e => match e.2 with
    | some w => if w.target ≤ a && a < w.target + w.bytes then some (e.1, w) else none
    | none => none)

/-- Log entries one controller's share holds: an equal part for each controller of the window's region (R257). -/
def ordShare (w : OrdWin) : Nat := w.nMax / (if w.target < 0x10000000000 then 3 else 4)

/-- One element of an adder operation on a target (R253, R254): the memory after it, and whether it saturated. A target
or contribution that is poisoned leaves the granule poisoned. -/
def adderElem (m : Mach) (a fmt : Nat) (isMax poisoned : Bool) (v : Nat) : Mach × Bool :=
  let n := adderBytes fmt
  let m := dropNarrow m a n
  if poisoned then (wrPoison m (granOf a) 1, false)
  else if isPoison m (granOf a) then (m, false)
  else
    let r := adderOp fmt isMax (rdNat m a n) v
    let m := wrBytes m a (leBytes n r.1)
    (if r.2 then countSat m a else m, r.2)

/-- The 32 bytes of a log entry, which hold the element, the value and the key (R255); their places are free. (DESIGN CHOICE, log entry 99) -/
def logEntry (e : OrdEnt) : List Byte := padTo 32 (Config.logEntry e.addr e.val e.key e.poison)

/-- One element of an accumulate-write (R255 to R257): logged while an ordered window covers it, else applied. -/
def accumElem (m : Mach) (a fmt : Nat) (isMax poisoned : Bool) (key v : Nat) : Mach × Bool :=
  match (if isMax then none else ordWinAt m a) with
  | none => adderElem m a fmt isMax poisoned v
  | some (i, w) =>
    let k := (ctlOf a).getD 0
    let mine := (w.log.filter (fun e => (ctlOf e.addr).getD 0 == k)).length
    if w.closing || ordShare w ≤ mine then
      adderElem (modCtl m k (fun c => { c with ordDirect := satAdd c.ordDirect 1 })) a fmt isMax poisoned v
    else
      let e : OrdEnt := { addr := a, val := v, key := key, poison := poisoned }
      let m := wrBytes (dropNarrow m a (adderBytes fmt)) (w.logAddr + 32 * w.log.length) (logEntry e)
      let w' : OrdWin := { w with log := w.log ++ [e] }
      ({ m with tier := { m.tier with wins := tset none m.tier.wins i (some w') } }, false)

/-- Whether byte `off` of a packet's data lies in a poisoned granule. -/
def dataPoison (pk : Packet) (off : Nat) : Bool := has pk.poison (off / 32)

/-- The elements of an ACCUM or FETCH, in ascending offset: offset in the data and value. -/
def packetElems (pk : Packet) : List (Nat × Nat) :=
  let n := adderBytes (pk.subcode % 4)
  let skip := if pk.opcode = 0x05 && pk.keyed then 32 else 0
  (List.range ((pk.length - skip) / n)).map (fun i => (skip + i * n, recNat pk.data (skip + i * n) n))

/-- A response to a request (R278). No context sends it: the fields that name a sending context are zero (DEDUCED, log entry 14). -/
def mkResp (pk : Packet) (opcode : Nat) (data : List Byte) (poison : List Nat) (reason : Nat) (sat : Bool) : Packet :=
  { opcode := opcode, keyed := false, saturated := sat, poison := poison, cls := 1, ordered := false, relaxed := false,
    length := data.length, src := pk.dst, dst := pk.src, addr := reason, membership := 0, peer := 0,
    epoch := 0, sequence := 0, subcode := 0, srcSlot := 0, tag := pk.tag, data := data }

/-- The poisoned 32 B granules of `n` bytes read at `a`. -/
def poisonMask (m : Mach) (a n : Nat) : List Nat :=
  (List.range (ceilDiv n 32)).filter (fun i => rdPoison m (a + 32 * i) (min 32 (n - 32 * i)))

/-- A write through an alias range (R119): OR with the data, or AND with its complement. A poisoned granule stays as it
is (R109). -/
def aliasWrite (m : Mach) (clear : Bool) (a : Nat) (bs : List Byte) : Mach :=
  (granules a bs.length).foldl (fun m g =>
    if isPoison m g then m else
      let q := partOf a bs g (granSize g)
      let old := rdBytes m q.1 q.2.length
      wrBytes m q.1 ((old.zip q.2).map (fun x => if clear then x.1 &&& ~~~x.2 else x.1 ||| x.2))) m

/-- Where a read at an address of a stride takes its bytes (R120). -/
def aliasRead (m : Mach) (a : Nat) : Nat := match aliasOf m a with | some q => q.2 | none => a

/-- The answer of a fenced domain (R403): a read returns every granule poisoned, a write is acknowledged with poison. -/
def fencedResp (pk : Packet) : Packet :=
  if pk.opcode = 0x01 || pk.opcode = 0x04 || pk.opcode = 0x06 then
    mkResp pk 0x10 (List.replicate pk.length 0) (List.range (ceilDiv pk.length 32)) 0 false
  else mkResp pk 0x11 [] [0] 0 false

/-- An advance that arrives at a home behind the cordon of its region is held at the boundary; else it is added to the milestone
(R404). -/
def advanceAt (m : Mach) (n amount : Nat) : Mach :=
  if (getRgn m (n / 16384)).cordon then { m with msQueue := m.msQueue ++ [(n, amount)] }
  else modMs m n (fun x => { x with value := wrapAdd x.value amount })

/-- Counts a non-owner request served on a bank, and what it waited (R112). -/
def countNonOwner (m : Mach) (p bank waited : Nat) : Mach :=
  modBlk m p (fun b => { b with sp := { b.sp with nonOwner := tmod 0 b.sp.nonOwner bank (fun x => satAdd x 1),
                                                  nonOwnerWait := tmod 0 b.sp.nonOwnerWait bank (fun x => satAdd x waited) } })

/-- Changes the scratchpad control of a block. -/
def modSp (m : Mach) (p : Nat) (f : SpSt → SpSt) : Mach := modBlk m p (fun b => { b with sp := f b.sp })

/-- The granules of an access with an error among those it reads: all of a read, the partly written ones of a write
(R109). -/
def touched (off n : Nat) (write : Bool) : List Nat :=
  (List.range ((off + n - 1) / 8 - off / 8 + 1)).map (fun i => (off / 8 + i) * 8) |>.filter (fun g =>
    !write || g < off || off + n < g + 8)

/-- Cancels write-backs of granules that a write of `n` bytes at `off` serves first (R121). -/
def cancelWb (m : Mach) (p off n : Nat) : Mach :=
  modSp m p (fun s => { s with wb := s.wb.filter (fun w => w.addr + 8 ≤ off || off + n ≤ w.addr) })

/-- Whether the port of a bank has queued requests, and how many. (DEDUCED, log entry 69) -/
def bankQueue (s : SpSt) (bank : Nat) (write : Bool) : List BankReq := tget [] (if write then s.wrQueue else s.rdQueue) bank

/-- What a bank does with a request once its code is checked (R106 to R109, R119 to R121). Data through an alias range is merged. A poisoned
granule that is read ends the reader's waybill with SP_UNCORRECTABLE. -/
def serveReq (m : Mach) (p : Nat) (r : BankReq) : Mach :=
  match r.data with
  | none => if (touched r.off r.len false).any (fun g => isPoison m (spAddr p g)) then endWb m p r.stream cSpUncorrectable else m
  | some bs =>
    let m := cancelWb m p r.off r.len
    match r.aliasOp with
    | some clear => aliasWrite m clear (spAddr p r.off) bs
    | none => wrBytes m (spAddr p r.off) bs

/-- Counts a non-owner request that waited for a cycle its bank's owner left idle, or behind an older one: the array cycles it waited are a free
number (R112). (DEDUCED, log entry 69) -/
def countWaited (m : Mach) (p bank : Nat) : Mach := countNonOwner (freeStep m 1) p bank (Config.freeNat m.freeCtr)

/-- Serves the requests queued at a port of a bank, in order: they are older than the one about to be served (R112). (DEDUCED, log entry 69) -/
def flushPort (m : Mach) (p bank : Nat) (write : Bool) : Mach :=
  let q := bankQueue (getBlk m p).sp bank write
  if q.isEmpty then m else
  q.foldl (fun m r => countWaited (serveReq m p r) p bank)
    (modSp m p (fun s => if write then { s with wrQueue := tdel s.wrQueue bank } else { s with rdQueue := tdel s.rdQueue bank }))

/-- An access of a master to `n` bytes at an offset of a stride, line by line: a bank whose token it does not hold serves what is queued first, then
the line once no owner uses the port, and counts it (R107, R112). A write takes the write-backs it serves first out of hand (R121). (DEDUCED, log
entry 69) -/
def portAccess (m : Mach) (p master off n : Nat) (write : Bool) : Mach :=
  if n = 0 then m else
  let m := if write && !(getBlk m p).sp.wb.isEmpty then cancelWb m p off n else m
  (List.range ((off + n - 1) / 128 - off / 128 + 1)).foldl (fun m i =>
    let bank := (off / 128 + i) * 128 / 0x20000
    let owner := nthN (getBlk m p).sp.owner bank
    if 6 ≤ bank || owner = master then m
    else if owner = 0 && (bankQueue (getBlk m p).sp bank write).isEmpty then countNonOwner m p bank 0
    else countWaited (flushPort m p bank write) p bank) m

/-- The same for an address: by `master` in the stride of block `p`, by the fabric receive, master 6, in another's. -/
def portAt (m : Mach) (p master a n : Nat) (write : Bool) : Mach :=
  if !isSp a then m else
  let q := (a - spBase) / 0x100000
  portAccess m q (if q = p then master else 6) ((a - spBase) % 0x100000) n write

/-- An access of the fabric receive to scratchpad bytes (R107, R112). -/
def portLines (m : Mach) (a n : Nat) (write : Bool) : Mach := portAt m 0 6 a n write

/-- Outstanding narrow reads a controller holds (R259). -/
def narrowCap (k : Nat) : Nat := if k < 16 then 1024 else 256

/-- A granule of a narrow read opens an outstanding read; the oldest beyond what a controller holds is over. (DEDUCED, log entry 98) -/
def openNarrow (k : Nat) (x : Ctl) (g : Nat) : Ctl :=
  let l := x.narrow.filter (fun q => q.1 != g) ++ [(g, 1)]
  { x with narrow := l.drop (l.length - narrowCap k) }

/-- A LOAD takes the narrow path of its controller (R259): each granule joins a read of it that is outstanding, or opens one. Whether one that was opened
is still outstanding is a matter of time: a free value says. (DEDUCED, log entry 98) -/
def narrowLoad (m : Mach) (a n : Nat) : Mach :=
  (granules a n).foldl (fun m g =>
    match ctlOf g with
    | none => m
    | some k =>
      if (getCtl m k).narrow.any (fun e => e.1 == g && e.2 < 64) && Config.freeNat m.freeCtr % 2 == 1 then
        modCtl (freeStep m 1) k (fun x =>
          { x with combined := satAdd x.combined 1, narrow := x.narrow.map (fun e => if e.1 = g then (e.1, e.2 + 1) else e) })
      else modCtl (freeStep m 1) k (fun x => openNarrow k x g)) m

/-- Performs a request that passed its checks and gives its response (Table 10.4, R289, R290, R403). -/
def performReq (m : Mach) (pk : Packet) : Mach × Packet :=
  if pk.opcode != 0x07 && fenced m pk.addr then (m, fencedResp pk) else
  match pk.opcode with
  | 0x02 | 0x03 =>
    match aliasOf m pk.addr with
    | some q =>
      let m := aliasWrite (portLines m q.2 pk.data.length true) q.1 q.2 pk.data
      (pk.poison.foldl (fun m i => wrPoison m (q.2 + 32 * i) (min 32 (pk.data.length - 32 * i))) m, mkResp pk 0x11 [] [] 0 false)
    | none =>
      let m := wrBytes (portLines m pk.addr pk.data.length true) pk.addr pk.data
      (pk.poison.foldl (fun m i => wrPoison m (pk.addr + 32 * i) (min 32 (pk.data.length - 32 * i))) m, mkResp pk 0x11 [] [] 0 false)
  | 0x01 | 0x04 =>
    let a := aliasRead m pk.addr
    let m := portLines m a pk.length false
    let m := if pk.opcode = 0x01 then narrowLoad m a pk.length else m
    (m, mkResp pk 0x10 (rdBytes m a pk.length) (poisonMask m a pk.length) 0 false)
  | 0x05 =>
    let skip := if pk.keyed then 32 else 0
    let key := if pk.keyed then recNat pk.data 0 8 else 2 ^ 64 - 1
    let bad := poisonMask m pk.addr (pk.length - skip)
    let r := (packetElems pk).foldl (fun (q : Mach × Bool) e =>
      let x := accumElem q.1 (pk.addr + (e.1 - skip)) (pk.subcode % 4) (tbit pk.subcode 2) (dataPoison pk e.1) key e.2
      (x.1, q.2 || x.2)) (m, false)
    (r.1, mkResp pk 0x11 [] (if bad.isEmpty then [] else [0]) 0 r.2)
  | 0x06 =>
    let fmt := pk.subcode % 4
    let n := adderBytes fmt
    if pk.subcode / 4 = 2 then
      let bad := poisonMask m pk.addr n
      let old := rdBytes m pk.addr n
      let m := dropNarrow m pk.addr n
      let m := if !bad.isEmpty then m
        else if dataPoison pk 0 then wrPoison m (granOf pk.addr) 1
        else if leNat old = recNat pk.data 0 n then wrBytes m pk.addr (leBytes n (recNat pk.data n n)) else m
      (m, mkResp pk 0x10 (padTo 32 old) bad 0 false)
    else
      let bad := poisonMask m pk.addr pk.length
      let old := rdBytes m pk.addr pk.length
      let m := (packetElems pk).foldl (fun m e =>
        (adderElem m (pk.addr + e.1) fmt (pk.subcode / 4 == 1) (dataPoison pk e.1) e.2).1) m
      (m, mkResp pk 0x10 old bad 0 false)
  | 0x07 =>
    match msAt pk.addr with
    | some n => (advanceAt m n (recNat pk.data 0 4), mkResp pk 0x11 [] [] 0 false)
    | none => (m, mkResp pk 0x11 [] [] 0 false)
  | _ => (m, mkResp pk 0x11 [] [] 0 false)

/-- Counts a customs failure (R288): its counter and flag, and the first packet while the register is empty. The word is
that of Table 10.12. (DEDUCED, log entry 45) -/
def countCustoms (m : Mach) (pk : Packet) (r : Nat) : Mach :=
  let f := m.fab
  let word := BitVec.ofNat 64 (1 <<< 63 ||| r <<< 59 ||| pk.src <<< 46 ||| pk.addr % 2 ^ 43)
  let f' : FabS :=
    { f with customs := tmod 0 f.customs r (fun x => satAdd x 1), customsFlags := setBit f.customsFlags r,
             customsFirst := if f.customsFirst.getLsbD 63 then f.customsFirst else word }
  { m with fab := f', msRefused := if r = 7 then satAdd m.msRefused 1 else m.msRefused }

/-- A request of a slot to this module itself that its own customs refuses (R287, R288): counted there, and as a NACK received. (DEDUCED, log entry 45) -/
def ownNack (m : Mach) (pk : Packet) (r : Nat) : Mach :=
  modCtx (countCustoms m pk r) pk.srcSlot (fun x => { x with xrRejected := satAdd x.xrRejected 1 })

/-- Charges the tier bytes a request reads and writes to slot `c`, adder targets included (R396). -/
def acctReq (m : Mach) (c : Nat) (pk : Packet) : Mach :=
  let n := targetLen pk
  match pk.opcode with
  | 0x01 | 0x04 => acctTier m c pk.addr pk.length false
  | 0x02 | 0x03 => acctTier m c pk.addr pk.length true
  | 0x05 | 0x06 => acctTier (acctTier m c pk.addr n false) c pk.addr n true
  | _ => m

/-! ### Sending -/

/-- A request packet of a slot through an OUT entry (R278). (DESIGN CHOICE, log entry 17) -/
def mkReq (m : Mach) (slot : Nat) (e : WayEnt) (opcode subcode phys len : Nat) (data : List Byte) (poison : List Nat)
    (relaxed keyed : Bool) (tag : Nat) : Packet :=
  let x := (getCtx m slot).mem
  { opcode := opcode, keyed := keyed, saturated := false, poison := poison, cls := 0, ordered := !relaxed,
    relaxed := relaxed, length := len, src := modId m, dst := e.module, addr := phys, membership := x.id, peer := e.peer,
    epoch := x.epoch, sequence := 0, subcode := subcode, srcSlot := slot, tag := tag, data := data }

/-- What a fabric access answers: a translation fault, a refusal by this module's own customs, a response given at once
by this module, or a request on its way under a tag. -/
inductive Access where
  | fault (kind : Nat)
  | nack (m : Mach) (reason : Nat)
  | done (m : Mach) (resp : Packet)
  | sent (m : Mach) (tag : Nat)

/-- The source of an ordered request: module and slot (R279, R280). -/
def pairOf (pk : Packet) : Nat := 16 * pk.src + pk.srcSlot

/-- The first granule at which a request waits: for a tile under repair, or behind a stalled input (R251). -/
def waitsAt (m : Mach) (pk : Packet) : Option Nat :=
  if pk.opcode = 0x07 then none else (granules pk.addr (targetLen pk)).find? (fun g => underRepair m g || inputStalled m g)

/-- Whether a request waits at a controller (R251). -/
def reqAwaits (m : Mach) (pk : Packet) : Bool := (waitsAt m pk).isSome

/-- Whether one of the listed packets is an earlier ordered request of the stream of an ordered request (R279). -/
def behind (qs : List Packet) (pk : Packet) : Bool :=
  pk.ordered && qs.any (fun q => q.cls == 0 && q.ordered && q.dst == pk.dst && pairOf q == pairOf pk)

/-- The fabric requests that wait at controllers. -/
def heldPks (m : Mach) : List Packet := (waiting m).filterMap (·.pk)

/-- Issues a request of a slot at a virtual fabric address (R167, R270, R287): to this module itself it is checked and
performed at once, or waits on the on-chip network while it would wait at its controller or stand behind an earlier request of its ordered stream
(R251, R279); to another it is queued for the links and waits for its
response. -/
def fabAccess (m : Mach) (ref : ItemRef) (holder : Holder) (opcode subcode virt len : Nat) (data : List Byte)
    (poison : List Nat) (relaxed keyed : Bool) : Access :=
  match translate m ref.ctx opcode virt (if keyed then len - 32 else len) with
  | .fault k => .fault k
  | .ok e phys =>
    let tag := m.fab.nextTag
    let pk := mkReq m ref.ctx e opcode subcode phys len data poison relaxed keyed tag
    let own := m.fab.module = some e.module
    match (if own then customsReason m pk true else none) with
    | some r => .nack (ownNack m pk r) r
    | none =>
      if own && !reqAwaits m pk && !behind (m.fab.released ++ m.fab.txq ++ m.fab.again ++ heldPks m) pk then let q := performReq (acctReq m ref.ctx pk) pk; .done q.1 q.2
      else
      let req : OutReq :=
        { tag := tag, holder := holder, opcode := opcode, ctx := ref.ctx, man := ref.man, run := ref.run, wb := ref.wb,
          virt := virt, len := len, issued := now m }
      let f := m.fab
      let f' : FabS :=
        { f with nextTag := (tag + 1) % 2 ^ 32, out := f.out ++ [req], txq := if own then f.txq else f.txq ++ [pk],
                 released := if own then f.released ++ [pk] else f.released }
      .sent (acctAdd { m with fab := f' } ref.ctx 9 data.length) tag

/-- A request on its way for a piece of a longer move: its tag, the offset of the piece in the move, the bytes of its answer to skip and those
to take. -/
structure FarPiece where
  tag : Nat
  off : Nat
  skip : Nat
  len : Nat

/-- What a longer move through the waymap answers: a failed piece with its kind or customs reason (as an end code), or
the data read, its poisoned 32 B granules, and the requests on their way. -/
inductive FabRes where
  | bad (m : Mach) (code : Nat)
  | ok (m : Mach) (data : List Byte) (poison : List Nat) (out : List FarPiece)

/-- The pieces of `n` bytes at `a` that lie in one 4 KiB aligned block each (R278): offset and length. -/
def blocks4K (a n : Nat) : List (Nat × Nat) :=
  if n = 0 then [] else
    (List.range ((a + n - 1) / 4096 - a / 4096 + 1)).map (fun i =>
      let lo := max a ((a / 4096 + i) * 4096)
      (lo - a, min (a + n) ((a / 4096 + i + 1) * 4096) - lo))

/-- Whether bytes of a slot's space lie in another module. -/
def isFar (m : Mach) (slot a n : Nat) : Bool :=
  match outEntry m slot a n with
  | some e => m.fab.module != some e.module
  | none => false

/-- The packets for bytes `a` to `b - 1` of another module, which lie in one 4 KiB block (Table 10.4): whole lines in a move, whole granules in 64 B
and 32 B, and a part of a granule on its own. Address and length. -/
def farCuts (b : Nat) : Nat → Nat → List (Nat × Nat)
  | 0, _ => []
  | fuel + 1, a =>
    if b ≤ a then []
    else
      let n := if a % 128 = 0 && a + 128 ≤ b then (b - a) / 128 * 128
        else if a % 64 = 0 && a + 64 ≤ b then 64
        else min b ((a / 32 + 1) * 32) - a
      (a, n) :: farCuts b fuel (a + n)

/-- The pieces of `n` bytes of a slot's space, by address and length: one for each 4 KiB block, and in another module one for each packet. -/
def fabPieces (m : Mach) (slot a n : Nat) : List (Nat × Nat) :=
  (blocks4K a n).flatMap (fun q =>
    if isFar m slot (a + q.1) q.2 then farCuts (a + q.1 + q.2) 8 (a + q.1) else [(a + q.1, q.2)])

/-- The 32 B units of a stream that take bytes of a poisoned granule `g` of a piece: `off` is the piece's place in the stream, `skip` the bytes of
its first granule before it, `n` its length. -/
def streamUnits (off skip n g : Nat) : List Nat :=
  let lo := off + (32 * g - skip)
  let hi := off + min n (32 * g + 32 - skip)
  (List.range (ceilDiv hi 32 - lo / 32)).map (lo / 32 + ·)

/-- Reads `n` bytes of a slot's virtual space, piece by piece; of another module whole granules are asked for (R170, Table 10.4). -/
def fabRead (m : Mach) (ref : ItemRef) (h : Holder) (a n : Nat) : FabRes :=
  (fabPieces m ref.ctx a n).foldl (fun r q =>
    match r with
    | .bad m c => .bad m c
    | .ok m d p out =>
      let skip := if q.2 < 32 then q.1 % 32 else 0
      let far := isFar m ref.ctx q.1 q.2
      let va := if far = true then q.1 - skip else q.1
      let len := if far && q.2 < 32 then 32 else q.2
      match fabAccess m ref h (if len ≤ 64 then 0x01 else 0x04) 0 va len [] [] false false with
      | .fault k => .bad m (cPm k)
      | .nack m k => .bad m (reasonCode k)
      | .done m resp => .ok m (d ++ resp.data) (p ++ resp.poison.flatMap (streamUnits (q.1 - a) 0 q.2)) out
      | .sent m tag => .ok m (d ++ List.replicate q.2 0) p (out ++ [{ tag := tag, off := q.1 - a, skip := skip, len := q.2 }])) (.ok m [] [] [])

/-- Writes part of a granule of another module: the granule is read, and written whole once it comes. (DESIGN CHOICE, log entry 83) -/
def fabMerge (m : Mach) (ref : ItemRef) (h : Holder) (va : Nat) (data : List Byte) (poison : Bool) : Access :=
  match fabAccess m ref h 0x01 0 (va / 32 * 32) 32 [] [] false false with
  | .sent m tag =>
    .sent { m with fab := { m.fab with merges := m.fab.merges ++ [{ tag := tag, off := va % 32, data := data, poison := poison }] } } tag
  | r => r

/-- Writes bytes to a slot's virtual space, piece by piece, with the poisoned 32 B units among them. -/
def fabWrite (m : Mach) (ref : ItemRef) (h : Holder) (a : Nat) (bs : List Byte) (poison : List Nat) : FabRes :=
  (fabPieces m ref.ctx a bs.length).foldl (fun r q =>
    match r with
    | .bad m c => .bad m c
    | .ok m d p out =>
      let off := q.1 - a
      let pz := (List.range (ceilDiv q.2 32)).filter (fun i =>
        poison.any (fun g => 32 * g < off + 32 * i + 32 && off + 32 * i < 32 * g + 32 && 32 * g < off + q.2))
      let part := (bs.drop off).take q.2
      let far := isFar m ref.ctx q.1 q.2
      let r := if far && q.2 < 32 then fabMerge m ref h q.1 part (!pz.isEmpty)
        else fabAccess m ref h (if q.2 ≤ 64 then 0x02 else 0x03) 0 q.1 q.2 part pz false false
      match r with
      | .fault k => .bad m (cPm k)
      | .nack m k => .bad m (reasonCode k)
      | .done m _ => .ok m d p out
      | .sent m tag => .ok m d p (out ++ [{ tag := tag, off := off, skip := 0, len := q.2 }])) (.ok m [] [] [])

/-- Whether every 4 KiB piece of `n` bytes translates for an operation (R305). -/
def fabCovers (m : Mach) (slot opcode a n : Nat) : Bool :=
  (blocks4K a n).all (fun q => match translate m slot opcode (a + q.1) q.2 with | .ok _ _ => true | .fault _ => false)

/-- The reference of a unit that acts for slot `c` outside any waybill. -/
def unitRef (c : Nat) : ItemRef := { ctx := c, man := 16, run := 0, wb := 0, item := 0, stream := 0 }

end Sys2Proof.Machine
end

