-- ==== Sys2Proof/Machine/Operands.lean ====
section
/-! DEFINITION. The operand forms of the block engines: windows (R115 to R118), streams (R126, R127) and register
operands (R135, R483). -/

namespace Sys2Proof.Machine

/-- Window `n` of a block. -/
def getWin (b : Blk) (n : Nat) : Win := tget noWin b.sp.wins n
/-- Changes window `n` of a block. -/
def modWin (b : Blk) (n : Nat) (f : Win → Win) : Blk := { b with sp := { b.sp with wins := tmod noWin b.sp.wins n f } }

/-- Bytes of a window. -/
def winBytes (w : Win) : Nat := w.size * 2048
/-- Bytes a RING window holds (R116). -/
def winFill (w : Win) : Nat := (w.tail + 2 * winBytes w - w.head) % (2 * winBytes w)
/-- Bytes a RING window has room for (R116). -/
def winFree (w : Win) : Nat := winBytes w - winFill w
/-- A pointer moved by `n` bytes (R116). -/
def winMove (w : Win) (ptr n : Nat) : Nat := (ptr + n) % (2 * winBytes w)
/-- The data offset of byte `i` of an access at `x` through a window (R116). -/
def winOff (w : Win) (x i : Nat) : Nat := w.base * 2048 + (x + i) % winBytes w
/-- Whether slot `c` may go through a window for `n` bytes at offset `x` (R116, R117). -/
def winAllows (w : Win) (c x n : Nat) : Bool :=
  w.enable && w.ctx == c && x % 128 == 0 && n % 128 == 0 && n ≤ winBytes w

/-- Bits of an element of a stream format (Table 5.2). -/
def elemBits (fmt : Nat) : Nat :=
  match fmt with
  | 0 => 32
  | 1 => 64
  | 2 => 16
  | 3 => 16
  | 4 => 32
  | 5 => 16
  | 6 => 64
  | 7 => 1
  | _ => 8

/-- The float format of a stream format (Table 5.2). -/
def fmtF (fmt : Nat) : Fmt := if fmt = 1 then fp64 else if fmt = 0 then fp32 else fp16
/-- True for the float formats. -/
def isFloatFmt (fmt : Nat) : Bool := fmt < 4

/-- A pattern as an operation passes it on: the payload of a NaN does not travel (R48). -/
def canonPat (fmt b : Nat) : Nat :=
  if isFloatFmt fmt && decodeF (fmtF fmt) b == .nan then fmtNan (fmtF fmt) else b

/-- The first `n` numbers of `k` bytes each that a list of bytes spells. -/
def patsOf (k : Nat) : Nat → List Byte → List Nat
  | 0, _ => []
  | n + 1, bs => leNat (bs.take k) :: patsOf k n (bs.drop k)

/-- The whole elements of a list of bytes. -/
def rowPats (fmt : Nat) (bs : List Byte) : List Nat := let k := max 1 (elemBits fmt / 8); patsOf k (bs.length / k) bs

/-- The bytes of rows as an operation passes them on (R48). -/
def canonBytes (fmt : Nat) (bs : List Byte) : List Byte :=
  if isFloatFmt fmt then
    let k := elemBits fmt / 8
    ((rowPats fmt bs).map (fun b => leBytes k (canonPat fmt b))).flatten ++ bs.drop (bs.length / k * k)
  else bs

/-- Bytes of `n` elements. -/
def streamBytes (fmt n : Nat) : Nat := ceilDiv (n * elemBits fmt) 8

/-- Where the bytes of a stream lie: a direct stream's offset and stripe, or a window and the offset in it. -/
inductive Place where
  | direct (off stripe : Nat)
  | window (w : Win) (x : Nat)
  deriving DecidableEq, Repr

/-- The offset in the stride of byte `j` of a stream (R116, R126). -/
def placeOff (pl : Place) (j : Nat) : Nat :=
  match pl with
  | .direct off s =>
    (off / 0x20000 + (j / 128) % max s 1) * 0x20000 + off % 0x20000 + (j / 128 / max s 1) * 128 + j % 128
  | .window w x => winOff w x j

/-- The lines that bytes `j` to `j + n - 1` of a stream lie in: the first byte in each and how many there are. -/
def lineParts (j n : Nat) : List (Nat × Nat) :=
  (List.range (ceilDiv (j % 128 + n) 128)).map (fun k =>
    let a := max j (j / 128 * 128 + 128 * k)
    (a, min (j + n) (j / 128 * 128 + 128 * k + 128) - a))

/-- The contiguous pieces of bytes `j` to `j + n - 1` of a stream, as first byte and length: the whole of a stripe-1 stream, else lines. -/
def piecesAt (pl : Place) (j n : Nat) : List (Nat × Nat) :=
  if n = 0 then [] else
  match pl with
  | .direct _ s => if s ≤ 1 then [(j, n)] else lineParts j n
  | .window _ _ => lineParts j n

/-- The contiguous pieces of a stream of `n` bytes. -/
def pieces (pl : Place) (n : Nat) : List (Nat × Nat) := piecesAt pl 0 n

/-- The offset intervals of a stream of `n` bytes: low and high end of each piece. -/
def intervals (pl : Place) (n : Nat) : List (Nat × Nat) :=
  (pieces pl n).map (fun q => (placeOff pl q.1, placeOff pl q.1 + q.2))

/-- The accesses of a master to a stream of `n` bytes at the banks of a block (R112). -/
def placePorts (m : Mach) (p master : Nat) (pl : Place) (n : Nat) (write : Bool) : Mach :=
  (intervals pl n).foldl (fun m q => portAccess m p master q.1 (q.2 - q.1) write) m

/-- Whether two lists of intervals meet. -/
def meets (a b : List (Nat × Nat)) : Bool := a.any (fun x => b.any (fun y => x.1 < y.2 && y.1 < x.2))

/-- The banks a stream touches. -/
def banksOf (pl : Place) (n : Nat) : List Nat :=
  (intervals pl n).foldl (fun bs q => insNat (q.1 / 0x20000) (insNat ((q.2 - 1) / 0x20000) bs)) []

/-- Whether a direct stream keeps within the lines of its banks (R126). -/
def placeFits (pl : Place) (n : Nat) : Bool :=
  match pl with
  | .direct off s =>
    let lines := ceilDiv (ceilDiv n 128) (max s 1)
    off / 0x20000 + max s 1 - 1 ≤ 5 &&
      (if s ≤ 1 then off % 0x20000 + n ≤ 0x20000 else off % 0x20000 + lines * 128 ≤ 0x20000)
  | .window _ _ => true

/-- Byte `j` of a stream as read. -/
def placeByte (m : Mach) (p : Nat) (pl : Place) (j : Nat) : Byte := rdByte m (spAddr p (placeOff pl j))

/-- `n` bytes of a stream from byte `j` on, as read. -/
def placeBytes (m : Mach) (p : Nat) (pl : Place) (j n : Nat) : List Byte :=
  (List.range n).map (fun i => placeByte m p pl (j + i))

/-- The stored pattern of element `e` of a stream: a MASK element is one bit (R137). -/
def placeElem (m : Mach) (p : Nat) (pl : Place) (fmt e : Nat) : Nat :=
  if fmt = 7 then b2n ((placeByte m p pl (e / 8)).getLsbD (e % 8))
  else let k := elemBits fmt / 8; leNat (placeBytes m p pl (e * k) k)

/-- Whether element `e` of a stream takes a byte from a poisoned granule (R484). -/
def placePoison (m : Mach) (p : Nat) (pl : Place) (fmt e : Nat) : Bool :=
  if fmt = 7 then rdPoison m (spAddr p (placeOff pl (e / 8))) 1
  else let k := elemBits fmt / 8; rdPoison m (spAddr p (placeOff pl (e * k))) k

/-- Writes bytes at byte `j` of a stream, piece by piece. -/
def placeWriteAt (m : Mach) (p : Nat) (pl : Place) (j : Nat) (bs : List Byte) : Mach :=
  (piecesAt pl j bs.length).foldl (fun m q => wrBytes m (spAddr p (placeOff pl q.1)) ((bs.drop (q.1 - j)).take q.2)) m

/-- Writes bytes at the start of a stream. -/
def placeWrite (m : Mach) (p : Nat) (pl : Place) (bs : List Byte) : Mach := placeWriteAt m p pl 0 bs

/-- Joins writes of bytes that follow each other in a stream, so that a granule they cover together is written whole (R109, R121). -/
def joinWrites : List (Nat × List Byte) → List (Nat × List Byte)
  | [] => []
  | q :: rest =>
    match joinWrites rest with
    | [] => [q]
    | r :: t => if q.1 + q.2.length = r.1 then (q.1, q.2 ++ r.2) :: t else q :: r :: t

/-- Writes a list of bytes at places in a stream. -/
def placeWrites (m : Mach) (p : Nat) (pl : Place) (ws : List (Nat × List Byte)) : Mach :=
  (joinWrites ws).foldl (fun m q => placeWriteAt m p pl q.1 q.2) m

/-! ### Registers -/

/-- Word `k` of vector register `v` of a running waybill. -/
def regWord (w : RunWb) (v k : Nat) : Nat := (tget 0 w.regs (128 * v + k)).toNat
/-- Writes word `k` of vector register `v`. -/
def setRegWord (w : RunWb) (v k n : Nat) : RunWb := { w with regs := tset 0 w.regs (128 * v + k) (BitVec.ofNat 32 n) }

/-- A register operand for element `e` in a working format of `bits` (R135): SCALAR and LANE forms. -/
def regOperand (w : RunWb) (form v period bits e : Nat) : Nat :=
  let i := if form = 1 then 0 else e % period
  if bits = 64 then regWord w v (2 * i) + regWord w v (2 * i + 1) * 2 ^ 32 else regWord w v i

/-- The MASK form (R135). -/
def regMask (w : RunWb) (v period e : Nat) : Bool := let k := e % period; (regWord w v (k / 32)).testBit (k % 32)

/-- The length of a stream (R126): of the descriptor, or of a register word read as INT32. -/
def streamLen (w : RunWb) (s : StreamD) : Int := if s.lenReg then signed (regWord w s.lenV s.lenWord) 32 else s.length

/-- What readying a stream finds. -/
inductive Ready where
  | ok (pl : Place)
  | stall
  | bad (code : Nat)
  deriving DecidableEq, Repr

/-- Whether a stream keeps the constraints R126 puts on its stripe, its offset and its length in bytes, whatever its window holds. -/
def streamFormOk (s : StreamD) (bytes : Nat) : Bool :=
  if s.viaWindow then s.stripe == 1 && s.offset % 128 == 0 && bytes % 128 == 0
  else s.offset % (if 7 ≤ s.fmt then 1 else elemBits s.fmt / 8) == 0 && (s.stripe == 1 || s.offset % 128 == 0) &&
    placeFits (.direct s.offset s.stripe) bytes

/-- Readies one stream of `bytes` bytes (R116, R117, R126): `isOut` marks an output, a produce through a RING window. A length that came from
a register, with a stream that breaks R126, gives VE_LENGTH; another breach of the window's rules gives SP_WINDOW. -/
def readyStream (b : Blk) (c : Nat) (s : StreamD) (bytes : Nat) (isOut : Bool) : Ready :=
  let w := getWin b s.window
  if s.lenReg && (!streamFormOk s bytes || (s.viaWindow && w.enable && w.ctx == c && w.ring && (s.offset != 0 || winBytes w < bytes))) then
    .bad 0x0301
  else if s.viaWindow then
    let x := if w.ring then 0 else s.offset
    if !winAllows w c x bytes || (w.ring && s.offset != 0) then .bad 0x0201
    else if w.ring then
      if isOut then (if bytes ≤ winFree w then .ok (.window w (w.tail % winBytes w)) else .stall)
      else (if bytes ≤ winFill w then .ok (.window w (w.head % winBytes w)) else .stall)
    else .ok (.window w x)
  else
    let pl := Place.direct s.offset s.stripe
    if placeFits pl bytes then .ok pl else .bad 0x0301

/-- Moves the pointer of a RING stream once its access is done (R116). -/
def finishStream (b : Blk) (s : StreamD) (n : Nat) (isOut : Bool) : Blk :=
  if s.viaWindow && (getWin b s.window).ring then
    modWin b s.window (fun w =>
      if isOut then { w with tail := winMove w w.tail (streamBytes s.fmt n) }
      else { w with head := winMove w w.head (streamBytes s.fmt n) })
  else b

/-- Intervals in stream order with those that go on where the one before ends joined to it: equal for two streams exactly where each byte of one
lies where that of the other does. -/
def joinRuns : List (Nat × Nat) → List (Nat × Nat)
  | [] => []
  | q :: rest =>
    match joinRuns rest with
    | [] => [q]
    | r :: t => if q.2 = r.1 then (q.1, r.2) :: t else q :: r :: t

/-- Whether an output of `nb` bytes overlaps a stream of `na` bytes in a way R127 forbids: an output may coincide with
one input byte for byte, in the same order. -/
def badOverlap (a : Place) (na : Nat) (b : Place) (nb : Nat) (isIn : Bool) : Bool :=
  if isIn && joinRuns (intervals a na) == joinRuns (intervals b nb) then false else meets (intervals a na) (intervals b nb)

/-- Whether two members of a list of bank sets meet. -/
def banksClash : List (List Nat) → Bool
  | [] => false
  | x :: xs => xs.any (fun y => x.any (has y)) || banksClash xs

end Sys2Proof.Machine
end

