-- ==== Sys2Proof/Machine/Collective.lean ====
section
/-! DEFINITION. Convoys and their collectives (R297 to R319): steps, grants, chunks, reductions, completion, abort. -/

namespace Sys2Proof.Machine

/-- Convoy slot `n`. -/
def getConv (m : Mach) (n : Nat) : ConvSlot := tget convReset m.conv.slots n
/-- Changes convoy slot `n`. -/
def modConv (m : Mach) (n : Nat) (f : ConvSlot → ConvSlot) : Mach :=
  { m with conv := { m.conv with slots := tmod convReset m.conv.slots n f } }
/-- Changes the running collective of a slot. -/
def modColl (m : Mach) (n : Nat) (f : Coll → Coll) : Mach := modConv m n (fun s => { s with coll := s.coll.map f })

/-- Sets a flag of CHP_CV_FLAGS_n and counts the occurrence: 0 nonfinite, 1 saturated, 2 aborted. -/
def setConvFlag (m : Mach) (n i : Nat) : Mach :=
  modConv m n (fun s => { s with flags := setBit s.flags i, occ := tmod 0 s.occ i (fun x => wrapAdd x 1) })

/-- The test of R178. -/
def msMet (value target : Nat) : Bool := (value % 2 ^ 32 + 2 ^ 32 - target % 2 ^ 32) % 2 ^ 32 < 2 ^ 31

/-- A local advance on its way to its home (R192). -/
def advanceMs (m : Mach) (n amount : Nat) : Mach := { m with msQueue := m.msQueue ++ [(n, amount)] }

/-- Hands a packet to the links, or to the on-chip network where it is for this module. -/
def sendPk (m : Mach) (pk : Packet) : Mach :=
  let f := m.fab
  if f.module = some pk.dst then { m with fab := { f with released := f.released ++ [pk] } }
  else { m with fab := { f with txq := f.txq ++ [pk] } }

/-- A collective packet to a rank (R300): `word` is the 32 bits of bytes 28 to 31. -/
def collPk (m : Mach) (r : ConvRec) (opcode sub rank op word : Nat) (data : List Byte) (poison : List Nat) : Packet :=
  let c := getCtx m (r.ctx / 4096)
  let dest := r.members.getD rank (0, 0)
  { opcode := opcode, keyed := false, saturated := false, poison := poison, cls := 2, ordered := false, relaxed := false,
    length := alignUp data.length 32, src := modId m, dst := dest.1,
    addr := r.epoch <<< 32 ||| r.id <<< 16 ||| r.rank, membership := c.mem.id, peer := dest.2, epoch := c.mem.epoch,
    sequence := op, subcode := sub, srcSlot := r.ctx / 4096, tag := word, data := data }

/-! ### Steps -/

/-- One step of an operation at this member: subcode, phase, whether received data is reduced, the ranks it receives
from and sends to, and the shares it receives and sends. -/
structure CStep where
  sub : Nat
  phase : Nat
  add : Bool
  pred : Option Nat
  succ : Option Nat
  recv : List Nat
  send : List Nat
  deriving DecidableEq, Repr

/-- The steps of one ring phase (R307): shares pass from rank to rank in ring order. -/
def ringSteps (phase sub : Nat) (add : Bool) (ring : List Nat) (pos : Nat) (sh : Nat → List Nat) : List CStep :=
  let q := ring.length
  (List.range (q - 1)).map (fun t0 =>
    let t := t0 + 1
    { sub := sub, phase := phase, add := add, pred := ring[(pos + q - 1) % q]?, succ := ring[(pos + 1) % q]?,
      recv := sh (if add then (pos + 2 * q - 1 - t) % q else (pos + q - t) % q),
      send := sh (if add then (pos + q - t) % q else (pos + q + 1 - t) % q) })

/-- The steps of a chain from a root (BCAST, R307). -/
def chainSteps (phase : Nat) (ring : List Nat) (pos rootPos : Nat) (inRing : Bool) : List CStep :=
  let q := ring.length
  let k := (pos + q - rootPos) % q
  (List.range (q - 1)).map (fun t0 =>
    { sub := 2, phase := phase, add := false, pred := if inRing && k == t0 + 1 then ring[(pos + q - 1) % q]? else none,
      succ := if inRing && k == t0 then ring[(pos + 1) % q]? else none, recv := [0], send := [0] })

/-- The steps of an operation at this member (Table 11.6, R307, R308, R311 to R313). In TWO_LEVEL the shares of local
index l are those with number l modulo the node size. -/
def collSteps (r : ConvRec) (d : CollD) : List CStep :=
  let n := r.members.length
  let nd := max r.node 1
  let l := r.rank % nd
  let x := r.rank / nd
  let full := List.range n
  let nodeR := (List.range nd).map (x * nd + ·)
  let interR := (List.range (n / nd)).map (· * nd + l)
  let one := fun b => [b]
  let nodeSh := fun b => (List.range (n / nd)).map (· * nd + b)
  let interSh := fun b => [b * nd + l]
  let rowSh := fun b => (List.range nd).map (b * nd + ·)
  match d.op with
  | 1 => if d.twoLevel then ringSteps 0 0 true nodeR l nodeSh ++ ringSteps 1 0 true interR x interSh
         else ringSteps 0 0 true full r.rank one
  | 2 => if d.twoLevel then ringSteps 0 1 false nodeR l (fun b => [x * nd + b]) ++ ringSteps 1 1 false interR x rowSh
         else ringSteps 0 1 false full r.rank one
  | 3 => if d.twoLevel then
           ringSteps 0 0 true nodeR l nodeSh ++ ringSteps 1 0 true interR x interSh ++
             ringSteps 2 1 false interR x interSh ++ ringSteps 3 1 false nodeR l nodeSh
         else ringSteps 0 0 true full r.rank one ++ ringSteps 1 1 false full r.rank one
  | 4 => if d.twoLevel then
           chainSteps 0 ((List.range (n / nd)).map (· * nd + d.root % nd)) x (d.root / nd) (l == d.root % nd) ++
             chainSteps 1 nodeR l (d.root % nd) true
         else chainSteps 0 full r.rank d.root true
  | 5 => ringSteps 0 1 false interR x interSh ++ (if d.whole then ringSteps 1 1 false nodeR l nodeSh else [])
  | 6 => ringSteps 0 3 false full r.rank one
  | _ => ringSteps 0 4 false full r.rank one

/-- Bytes of an element in memory and on the wire of a reduction (R306). -/
def collE (d : CollD) : Nat := elemBits d.fmt / 8
/-- The wire size. -/
def collW (d : CollD) : Nat := if d.fmt = 2 && !d.isMax then 4 else collE d
/-- Bytes of one share in a step. -/
def shareBytes (d : CollD) (s : CStep) : Nat := d.count * (if s.add then collW d else collE d)
/-- Bytes of a chunk. -/
def chunkBytes (d : CollD) : Nat := 2 ^ d.chunk
/-- Chunk numbers a step takes up in the numbering of the operation. -/
def stepChunks (d : CollD) (s : CStep) : Nat :=
  if d.op = 7 then ceilDiv d.extra (chunkBytes d) else ceilDiv (s.recv.length * shareBytes d s) (chunkBytes d)
/-- The number of the first chunk of step `i`. -/
def chunkBase (d : CollD) (steps : List CStep) (i : Nat) : Nat := (steps.take i).foldl (fun a s => a + stepChunks d s) 0

/-- An empty buffer. -/
def noShare : ShareBuf := { data := [], poison := [] }
/-- The buffer of a share. -/
def getAcc (c : Coll) (j : Nat) : ShareBuf := tget noShare c.acc j
/-- Changes the buffer of a share. -/
def setAcc (c : Coll) (j : Nat) (b : ShareBuf) : Coll := { c with acc := tset noShare c.acc j b }

/-- The size a segment's header gives it, pad included; none where n, kind or size breaks R313. -/
def segSize (d : CollD) (hdr : List Byte) : Option Nat :=
  let n := recNat hdr 0 4
  let k := recNat hdr 4 4
  let kind := recNat hdr 8 1
  let body := if kind = 1 then 8 * k else if kind = 2 then 6 * k else ceilDiv n 8
  let size := alignUp (16 + if tbit (recNat hdr 9 1) 0 then 0 else body) 16
  if n != d.count || kind < 1 || 3 < kind || d.extra < size then none else some size

/-- Bytes a step receives, once known: a segment's from its header. -/
def rxBytes (d : CollD) (c : Coll) (base : Nat) (s : CStep) : Option Nat :=
  if d.op = 7 then (if has c.seen (256 * base) then segSize d (getAcc c (s.recv.headD 0)).data else none)
  else some (s.recv.length * shareBytes d s)

/-- Whether chunk `j` of a step has been received in full. -/
def gotChunk (d : CollD) (c : Coll) (base : Nat) (s : CStep) (j : Nat) : Bool :=
  match rxBytes d c base s with
  | none => false
  | some n => (List.range (ceilDiv (min (chunkBytes d) (n - j * chunkBytes d)) 4096)).all (fun k => has c.seen (256 * (base + j) + k))

/-- Whether a step has been received in full; a step that receives nothing has. -/
def gotStep (d : CollD) (c : Coll) (base : Nat) (s : CStep) : Bool :=
  s.pred.isNone || (match rxBytes d c base s with
    | none => false
    | some n => (List.range (ceilDiv n (chunkBytes d))).all (gotChunk d c base s))

/-- `l` with the granules that bytes `lo` to `hi` meet. -/
def spanGrans (l : List Nat) (lo hi : Nat) : List Nat :=
  (List.range (ceilDiv hi 32 - lo / 32)).foldl (fun l i => insNat (lo / 32 + i) l) l

/-- The bytes a step sends, and the granules of them that hold a poisoned byte (R310). -/
def txStream (c : Coll) (s : CStep) : ShareBuf :=
  s.send.foldl (fun a j =>
    let b := getAcc c j
    { data := a.data ++ b.data, poison := b.poison.foldl (fun l g => spanGrans l (a.data.length + 32 * g) (a.data.length + min b.data.length (32 * g + 32))) a.poison }) noShare

/-- Whether chunk `j` of step `i` may be sent: its data is at hand (R307, R312). -/
def canSend (d : CollD) (c : Coll) (steps : List CStep) (i j : Nat) : Bool :=
  match steps[i]? with
  | none => false
  | some s =>
    i < c.opened && c.loads.isEmpty &&
      (List.range i).all (fun q => match steps[q]? with
        | some t => t.phase == s.phase || gotStep d c (chunkBase d steps q) t
        | none => true) &&
      (i == 0 || (match steps[i - 1]? with
        | some t => t.phase != s.phase || t.pred.isNone || gotChunk d c (chunkBase d steps (i - 1)) t j
        | none => true))

/-- The step and the chunk within it that a chunk number names. -/
def findChunk (d : CollD) (steps : List CStep) (k : Nat) : Option (Nat × Nat) :=
  (List.range steps.length).findSome? (fun i =>
    let b := chunkBase d steps i
    match steps[i]? with
    | some s => if b ≤ k && k < b + stepChunks d s then some (i, k - b) else none
    | none => none)

/-! ### Abort -/

/-- The end code of an abort at its origin (Table 11.8). -/
def abortCode (reason : Nat) : Nat := 0x0801 + reason

/-- Fills the receive buffer of an aborted collective with free bytes: recv is undefined (R316). -/
def freeRecv (m : Mach) (slot a n : Nat) : Mach :=
  (blocks4K a n).foldl (fun m q =>
    match translate m slot 0x02 (a + q.1) q.2 with
    | .ok e phys => if m.fab.module = some e.module then freeStep (wrBytes m phys (freeBytes m q.2)) q.2 else m
    | .fault _ => m) m

/-- Bytes of the receive buffer of an operation (Table 11.6). -/
def recvBytes (r : ConvRec) (d : CollD) : Nat :=
  let n := r.members.length
  let u := d.count * collE d
  match d.op with
  | 1 => u
  | 4 => u
  | 5 => if d.whole then n * u else n / max r.node 1 * u
  | 6 => 2 * u
  | 7 => 4 * d.count + n * d.extra
  | _ => n * u

/-- Whether a posted manifest has an input on one of the milestones. -/
def manWaitsOn (i : Image) (rels : List Nat) : Bool :=
  i.waybills.any (fun w => w.ins.any (fun r =>
    let q := i.decls.getD r.decl noDecl
    q.cls < 4 && has rels q.relId))

/-- The milestones a schedule's done advances go to, relative to the range. -/
def doneRels (s : ConvSlot) : List Nat := s.sched.map (·.done)

/-- Halts the manifests with runs in flight that wait on a done milestone of the convoy (R316 point 4). -/
def haltWaiters (m : Mach) (c : Nat) (rels : List Nat) (code : Nat) : Mach :=
  (List.range 16).foldl (fun m k =>
    match getMan m c k with
    | some x => if x.runs.any (·.started) && manWaitsOn x.img rels then haltMan m c k code 0xFFFFFFFF else m
    | none => m) m

/-- The data of an ABORT packet (Table 11.3). (DESIGN CHOICE, log entry 58) -/
def abortData (op origin reason : Nat) : List Byte := padTo 32 (leBytes 4 op ++ leBytes 2 origin ++ leBytes 1 reason)

/-- A member aborts (R316). `self` says whether it is the origin; `ranks` are the members its ABORT goes to. -/
def abortConv (m : Mach) (n : Nat) (self : Bool) (reason origin op : Nat) (ranks : List Nat) : Mach :=
  let s := getConv m n
  let c := s.rc.ctx / 4096
  let m := match s.coll with
    | some q => match s.sched[q.d]? with
      | some d => freeRecv m c d.recv (recvBytes s.rc d)
      | none => m
    | none => m
  let m := ranks.foldl (fun m k => sendPk m (collPk m s.rc 0x22 0 k op 0 (abortData op origin reason) [])) m
  let word := 1 <<< 63 ||| b2n self <<< 62 ||| reason <<< 58 ||| origin <<< 45 ||| op % 2 ^ 24
  let m := setConvFlag (modConv m n (fun s => { s with st := 3, coll := none, abort := BitVec.ofNat 64 word })) n 2
  let m := if reason = 2 then
      modCtx m c (fun x => { x with el := { x.el with layoutRej := satAdd x.el.layoutRej 1 } }) else m
  let m := reportCtx m 0x2004 (unitChip 2) c n (leBytes 1 reason ++ leBytes 2 origin ++ leBytes 4 op)
  if self && reason = 7 then m
  else haltWaiters m c (doneRels s) (if self then abortCode reason else 0x0801)

/-- The operation number a slot is at (R304). -/
def convOp (s : ConvSlot) : Nat := match s.coll with | some q => q.op | none => s.next % 2 ^ 24

/-- An abort this member originates: every other member, in ascending rank. -/
def originAbort (m : Mach) (n reason : Nat) : Mach :=
  let s := getConv m n
  abortConv m n true reason s.rc.rank (convOp s) ((List.range s.rc.members.length).filter (· != s.rc.rank))

/-- The ranks a received ABORT is forwarded to. -/
def floodRanks (r : ConvRec) : List Nat :=
  let n := max r.members.length 1
  (List.range 13).foldl (fun a j =>
    let k := (r.rank + 2 ^ j) % n
    if k = r.rank || has a k then a else a ++ [k]) []

/-! ### Reduction -/

/-- One reduced element in the wire format (R62, R307) and whether an integer sum saturated. -/
def redElem (d : CollD) (a b : Nat) : Nat × Bool :=
  match d.fmt with
  | 0 => (if d.isMax then maxMinF fp32 true a b else addF32 a b, false)
  | 1 => (if d.isMax then maxMinF fp64 true a b else addF64 a b, false)
  | 2 => (if d.isMax then maxMinF fp16 true a b else addF32 a b, false)
  | 4 => adderOp 2 d.isMax a b
  | _ => adderOp 3 d.isMax a b

/-- The float format results of a descriptor are in, if any. -/
def collFloat (d : CollD) : Option Fmt :=
  match d.fmt with
  | 0 => some fp32
  | 1 => some fp64
  | 2 => some fp16
  | _ => none

/-- Whether any element of stored bytes is a NaN or an infinity. -/
def anyNonfinite (d : CollD) (bs : List Byte) : Bool :=
  match collFloat d with
  | some f => (List.range (bs.length / collE d)).any (fun i => isNonfinite f (recNat bs (i * collE d) (collE d)))
  | none => false

/-- FP16 contributions as FP32 partials (R307). -/
def widen (d : CollD) (b : ShareBuf) : ShareBuf :=
  if collW d = collE d then b else
    { data := ((List.range (b.data.length / 2)).map (fun i =>
        leBytes 4 (rne fp32 (decodeF fp16 (recNat b.data (2 * i) 2))))).flatten,
      poison := (b.poison.map (fun g => [2 * g, 2 * g + 1])).flatten }

/-- FP32 partials rounded once to FP16 at the share's owner (R307). -/
def narrow (d : CollD) (b : ShareBuf) : ShareBuf :=
  if collW d = collE d then b else
    { data := ((List.range (b.data.length / 4)).map (fun i =>
        leBytes 2 (rne fp16 (decodeF fp32 (recNat b.data (4 * i) 4))))).flatten,
      poison := b.poison.foldl (fun a g => insNat (g / 2) a) [] }

/-- Reduces a piece into bytes of a share, of which the granules `poison` take a poisoned byte (R310). -/
def reducePiece (d : CollD) (b : ShareBuf) (off : Nat) (piece : List Byte) (poison : List Nat) : ShareBuf × Bool :=
  let w := collW d
  let els := (List.range (piece.length / w)).map (fun i =>
    redElem d (recNat piece (i * w) w) (recNat b.data (off + i * w) w))
  ({ data := spliceBytes b.data off ((els.map (fun q => leBytes w q.1)).flatten),
     poison := poison.foldl (fun a g => insNat g a) b.poison }, els.any (·.2))

/-- Copies a piece into bytes of a share, of which the granules `poison` take a poisoned byte (R310). -/
def copyPiece (b : ShareBuf) (off : Nat) (piece : List Byte) (poison : List Nat) : ShareBuf :=
  { data := spliceBytes (padTo (max b.data.length off) b.data) off piece,
    poison := poison.foldl (fun a g => insNat g a) b.poison }

/-- Puts received bytes at an offset of a step's stream, share by share. The flag says whether a sum saturated. -/
def placePiece (d : CollD) (c : Coll) (s : CStep) (off : Nat) (piece : List Byte) (poison : List Nat) : Coll × Bool :=
  let u := if d.op = 7 then d.extra else shareBytes d s
  (List.range s.recv.length).foldl (fun q i =>
    let lo := max off (i * u)
    let hi := min (off + piece.length) ((i + 1) * u)
    if hi ≤ lo then q else
      let part := (piece.drop (lo - off)).take (hi - lo)
      let pz := (poison.filter (fun g => lo < off + 32 * g + 32 && off + 32 * g < hi)).foldl (fun l g =>
        spanGrans l (max lo (off + 32 * g) - i * u) (min hi (off + 32 * g + 32) - i * u)) []
      let j := nthN s.recv i
      if s.add then
        let r := reducePiece d (getAcc q.1 j) (lo - i * u) part pz
        (setAcc q.1 j r.1, q.2 || r.2)
      else
        let old := if has q.1.copied j then getAcc q.1 j else if d.op = 7 then noShare else { data := List.replicate u 0, poison := [] }
        ({ setAcc q.1 j (copyPiece old (lo - i * u) part pz) with copied := insNat j q.1.copied }, q.2)) (c, false)

/-! ### Results -/

/-- Where share `j` goes in the receive buffer (Table 11.6, R311, R312). -/
def recvAddr (r : ConvRec) (d : CollD) (j : Nat) : Nat :=
  let u := d.count * collE d
  match d.op with
  | 2 => d.recv + j * u
  | 3 => d.recv + j * u
  | 5 => if d.whole then d.recv + j * u else d.recv + j / max r.node 1 * u
  | 7 => d.recv + 4 * d.count + j * d.extra
  | _ => d.recv

/-- The adder subcode of a format (Table 10.4); 8 where the memory has no adder for it. -/
def adderSub (fmt : Nat) : Nat := if fmt = 0 then 0 else if fmt = 2 then 1 else if fmt = 4 then 2 else if fmt = 6 then 3 else 8

/-- An element whose addition changes nothing, in a format that has an adder: minus zero, or integer zero. -/
def idleElem (fmt : Nat) : Nat := if fmt = 0 then 0x80000000 else if fmt = 2 then 0x8000 else 0

/-- The pieces in which a share is added (R309): 64 B and 32 B (Table 10.4). A tail of fewer bytes goes with elements before it, or of a share of
less than 32 B with elements after it, that add nothing: offset in the share and data, with the offset of its own bytes in that.
(DESIGN CHOICE, log entry 92) -/
def accumPieces (d : CollD) (bs : List Byte) : List (Nat × List Byte × Nat) :=
  let n := bs.length
  let idle := fun k => (List.replicate (k / collE d) (leBytes (collE d) (idleElem d.fmt))).flatten
  let whole := (List.range (n / 64)).map (fun i => (64 * i, (bs.drop (64 * i)).take 64, 0))
  let half := if 32 ≤ n % 64 then [(n / 64 * 64, (bs.drop (n / 64 * 64)).take 32, 0)] else []
  let k := n % 32
  let tail := if k = 0 then [] else
    let rest := bs.drop (n - k)
    if n < 32 then [(0, rest ++ idle (32 - k), 0)] else [(n - 32, idle (32 - k) ++ rest, 32 - k)]
  whole ++ half ++ tail

/-- Adds a share into the receive buffer by keyed ACCUM packets (R309); false where its translation fails, before anything is added, or one is
refused. -/
def accumShare (m : Mach) (n : Nat) (d : CollD) (op rank a : Nat) (b : ShareBuf) : Mach × Bool :=
  let c := (getConv m n).rc.ctx / 4096
  let key := padTo 32 (leBytes 8 (op * 8192 + rank))
  if 8 ≤ adderSub d.fmt || !fabCovers m c 0x05 a b.data.length then (m, false) else
  (accumPieces d b.data).foldl (fun q e =>
    if !q.2 then q else
      let own := e.1 + e.2.2
      let pz := (List.range (e.2.1.length / 32)).filter (fun i =>
        b.poison.any (fun g => 32 * g < e.1 + 32 * i + 32 && max own (e.1 + 32 * i) < 32 * g + 32))
      match fabAccess q.1 (unitRef c) (.convoy n) 0x05 (adderSub d.fmt) (a + e.1) (32 + e.2.1.length) (key ++ e.2.1) (pz.map (· + 1)) false true with
      | .done m _ => (m, true)
      | .sent m tag => (modColl m n (fun x => { x with writes := x.writes ++ [tag] }), true)
      | .fault _ => (q.1, false)
      | .nack m _ => (m, false)) (m, true)

/-- Writes a share's final bytes into the receive buffer, or adds them there; false where the buffer's translation fails
(R305). -/
def storeShare (m : Mach) (n : Nat) (d : CollD) (a : Nat) (b : ShareBuf) : Mach × Bool :=
  let s := getConv m n
  let c := s.rc.ctx / 4096
  if d.accum then accumShare m n d (convOp s) s.rc.rank a b
  else if !fabCovers m c 0x02 a b.data.length then (m, false)
  else match fabWrite m (unitRef c) (.convoy n) a b.data b.poison with
    | .bad m _ => (m, false)
    | .ok m _ _ out => (modColl m n (fun x => { x with writes := x.writes ++ out.map (·.tag) }), true)

/-- Stores shares one after another; the first failure stops. -/
def storeShares (m : Mach) (n : Nat) (d : CollD) (js : List Nat) : Mach × Bool :=
  js.foldl (fun q j =>
    if !q.2 then q else
    match (getConv q.1 n).coll with
    | some c => storeShare q.1 n d (recvAddr (getConv q.1 n).rc d j) (getAcc c j)
    | none => q) (m, true)

/-- Adds one compressed segment to a sum of FP32 patterns (R313). -/
def addSegment (d : CollD) (sum : List Nat) (seg : List Byte) : List Nat :=
  let k := recNat seg 4 4
  let kind := recNat seg 8 1
  if kind = 3 then
    let s := recNat seg 12 4
    (sum.zip (List.range d.count)).map (fun q =>
      addF32 q.1 (if (recNat seg (16 + q.2 / 8) 1).testBit (q.2 % 8) then s ^^^ 0x80000000 else s))
  else
    (List.range k).foldl (fun sum i =>
      let ix := recNat seg (16 + 4 * i) 4
      let v := if kind = 1 then recNat seg (16 + 4 * k + 4 * i) 4
        else rne fp32 (decodeF fp16 (recNat seg (16 + 4 * k + 2 * i) 2))
      modNth sum ix (fun x => addF32 x v)) sum

/-- The merged result of a compressed exchange and whether it holds a NaN or infinity (R313). -/
def mergeSegments (r : ConvRec) (d : CollD) (c : Coll) : List Nat × Bool :=
  let segs := (List.range r.members.length).map (fun j => (getAcc c j).data)
  if segs.any (fun s => tbit (recNat s 9 1) 0) then (List.replicate d.count 0x7FC00000, true)
  else
    let v := segs.foldl (addSegment d) (List.replicate d.count 0)
    (v, v.any (isNonfinite fp32))

/-- The elements of the merged result that take a byte of a poisoned granule of segment `b` (R310): all of them where its header does.
(DEDUCED, log entry 93) -/
def segPoison (d : CollD) (b : ShareBuf) : List Nat :=
  if b.poison.isEmpty then [] else
  let bad := fun off => has b.poison (off / 32)
  let k := recNat b.data 4 4
  let kind := recNat b.data 8 1
  if bad 0 then List.range d.count
  else if kind = 3 then (List.range d.count).filter (fun i => bad (16 + i / 8))
  else
    let w := if kind = 1 then 4 else 2
    ((List.range k).filter (fun i => bad (16 + 4 * i) || bad (16 + 4 * k + w * i))).map (fun i => recNat b.data (16 + 4 * i) 4)

/-- Forms recv from every rank's segment (R313): false where it cannot be written. -/
def mergeRecv (m : Mach) (n : Nat) (d : CollD) : Mach × Bool :=
  let s := getConv m n
  match s.coll with
  | none => (m, true)
  | some c =>
    let v := mergeSegments s.rc d c
    let m := if v.2 then setConvFlag m n 0 else m
    let pz := ((List.range s.rc.members.length).flatMap (fun j => segPoison d (getAcc c j))).foldl (fun l i => insNat (i / 8) l) []
    storeShare m n d d.recv { data := (v.1.map (leBytes 4)).flatten, poison := pz }

/-- A collective completes (R304): the slot becomes IDLE and the done milestone advances, but for a relay, whose steps
have advanced it already (R312). -/
def completeColl (m : Mach) (n : Nat) (d : CollD) : Mach :=
  let s := getConv m n
  let base := (getCtx m (s.rc.ctx / 4096)).msBase
  let m := modConv m n (fun s => { s with st := 1, coll := none, next := s.next + 1 })
  if d.op = 6 then m else advanceMs m (base + d.done) d.amount

/-- Whether everything of a running collective has been received, sent and written. -/
def collDone (r : ConvRec) (d : CollD) (c : Coll) : Bool :=
  let steps := collSteps r d
  c.opened ≥ max steps.length 1 && c.loads.isEmpty && c.writes.isEmpty &&
    (List.range steps.length).all (fun i => match steps[i]? with
      | some s =>
        let b := chunkBase d steps i
        gotStep d c b s && (s.succ.isNone ||
          (List.range (ceilDiv (txStream c s).data.length (chunkBytes d))).all (fun j => has c.sent (b + j)))
      | none => true)

/-! ### Sending, granting -/

/-- Sends one chunk, packet by packet (R300, R302). -/
def sendChunk (m : Mach) (n : Nat) (d : CollD) (steps : List CStep) (i j : Nat) : Mach :=
  let s := getConv m n
  match s.coll, steps[i]? with
  | some c, some st =>
    match st.succ with
    | none => m
    | some dest =>
      let t := txStream c st
      let k := chunkBase d steps i + j
      let chunk := (t.data.drop (j * chunkBytes d)).take (chunkBytes d)
      let m := (List.range (ceilDiv chunk.length 4096)).foldl (fun m q =>
        let off := j * chunkBytes d + 4096 * q
        let pz := (t.poison.filter (fun g => off ≤ 32 * g && 32 * g < off + 4096)).map (· - off / 32)
        sendPk m (collPk m s.rc 0x21 st.sub dest c.op (256 * k + q) ((chunk.drop (4096 * q)).take 4096) pz)) m
      let m := acctAdd m (s.rc.ctx / 4096) 9 chunk.length
      modConv m n (fun s => { s with bytes := satAdd s.bytes chunk.length,
                                     coll := s.coll.map (fun c => { c with sent := c.sent ++ [k], granted := delNat k c.granted }) })
  | _, _ => m

/-- Sends every chunk that is granted and at hand. -/
def sendReady (m : Mach) (n : Nat) (d : CollD) (steps : List CStep) : Mach :=
  match (getConv m n).coll with
  | none => m
  | some c => c.granted.foldl (fun m k =>
      match findChunk d steps k, (getConv m n).coll with
      | some q, some c => if canSend d c steps q.1 q.2 then sendChunk m n d steps q.1 q.2 else m
      | _, _ => m) m

/-- The chunks a member may grant next to the rank `from`: up to 16 ahead of what it has received (R302). -/
def grantable (d : CollD) (c : Coll) (steps : List CStep) (src : Nat) : List Nat :=
  let mine := ((List.range (min c.opened steps.length)).map (fun i => match steps[i]? with
    | some s =>
      let b := chunkBase d steps i
      if s.pred != some src then [] else
        let k := match rxBytes d c b s with
          | some x => ceilDiv x (chunkBytes d)
          | none => 1
        (List.range k).map (fun j => (b + j, gotChunk d c b s j))
    | none => [])).flatten
  let open_ := (mine.filter (fun q => has c.gave q.1 && !q.2)).length
  ((mine.filter (fun q => !has c.gave q.1)).map (·.1)).take (16 - open_)

/-- The data of a GRANT (Table 11.3). -/
def grantData (c : Coll) (d : CollD) (first : Nat) : List Byte :=
  padTo 32 (leBytes 4 c.layout ++ leBytes 4 1 ++ leBytes 4 first ++ leBytes 4 (crc32c (spliceBytes d.raw 32 (List.replicate 16 0))))

/-- Whether a step is the last that adds, after which the share's owner has its result (R307). -/
def lastAddStep (steps : List CStep) (i : Nat) : Bool :=
  (match steps[i]? with | some st => st.add | none => false) && (steps.drop (i + 1)).all (fun t => !t.add)

/-- The bytes of the receive buffer that chunk `j` of step `i` goes into: address and length (Table 11.6). A sum that another rank completes goes
into none. -/
def chunkSpans (r : ConvRec) (d : CollD) (steps : List CStep) (i j : Nat) : List (Nat × Nat) :=
  match steps[i]? with
  | none => []
  | some st =>
    if st.add && !lastAddStep steps i then [] else
    let u := if d.op = 7 then d.extra else shareBytes d st
    let lo := j * chunkBytes d
    let hi := min (lo + chunkBytes d) (st.recv.length * u)
    (List.range st.recv.length).filterMap (fun x =>
      let a := max lo (x * u)
      let b := min hi ((x + 1) * u)
      let base := if d.op = 6 then d.recv + (i + 1) % 2 * d.count * collE d else recvAddr r d (nthN st.recv x)
      let scale := fun k => if st.add then k / collW d * collE d else k
      if b ≤ a then none else some (base + scale (a - x * u), scale (b - a)))

/-- Whether the receive space of a chunk is there: it is fixed before the chunk is granted (R302, R305). -/
def chunkCovered (m : Mach) (r : ConvRec) (d : CollD) (steps : List CStep) (k : Nat) : Bool :=
  match findChunk d steps k with
  | none => true
  | some q => (chunkSpans r d steps q.1 q.2).all (fun e => fabCovers m (r.ctx / 4096) (if d.accum then 0x05 else 0x02) e.1 e.2)

/-- Grants what may be granted, one GRANT a chunk; a chunk whose receive space does not translate aborts the collective (R302, R305). -/
def grantMore (m : Mach) (n : Nat) (d : CollD) (steps : List CStep) : Mach :=
  let s := getConv m n
  match s.coll with
  | none => m
  | some c =>
    if !c.loads.isEmpty then m else
    let froms := steps.foldl (fun a t => match t.pred with | some p => insNat p a | none => a) []
    froms.foldl (fun m src =>
      match (getConv m n).coll with
      | none => m
      | some c => (grantable d c steps src).foldl (fun m k =>
          if (getConv m n).coll.isNone then m
          else if !chunkCovered m s.rc d steps k then originAbort m n 4
          else modColl (sendPk m (collPk m s.rc 0x20 0 src c.op (256 * k) (grantData c d k) [])) n (fun c => { c with gave := c.gave ++ [k] })) m) m

/-- Advances the done milestone of a relay for the steps whose blocks have landed, their writes acknowledged (R312). -/
def relayDone (m : Mach) (n : Nat) (d : CollD) : Mach :=
  let s := getConv m n
  match s.coll with
  | none => m
  | some c =>
    if d.op != 6 || c.stepsLanded ≤ c.stepsDone || !c.writes.isEmpty then m
    else
      let k := c.stepsLanded - c.stepsDone
      advanceMs (modColl m n (fun c => { c with stepsDone := c.stepsLanded })) ((getCtx m (s.rc.ctx / 4096)).msBase + d.done) (k * d.amount)

/-- Moves a running collective on: sends, grants, and completes it where nothing is left (R302, R304). -/
def pumpConv (m : Mach) (n : Nat) : Mach :=
  let s := getConv m n
  match s.coll with
  | none => m
  | some q =>
    match s.sched[q.d]? with
    | none => m
    | some d =>
      let steps := collSteps s.rc d
      let m := relayDone (grantMore (sendReady m n d steps) n d steps) n d
      match (getConv m n).coll with
      | some c => if collDone s.rc d c then completeColl m n d else m
      | none => m

/-- Float results with every NaN canonical (R48, R307), as a result needs that no addition formed. -/
def canonShare (d : CollD) (b : ShareBuf) : ShareBuf := { b with data := canonBytes d.fmt b.data }

/-- The member's own share of a reduction is complete: it is rounded to the format, its NaNs and infinities are noted, and it is stored
(R306, R307). -/
def ownResult (m : Mach) (n : Nat) (d : CollD) : Mach × Bool :=
  let s := getConv m n
  match s.coll with
  | none => (m, true)
  | some c =>
    let own := canonShare d (narrow d (getAcc c s.rc.rank))
    let m := modColl m n (fun c => { setAcc c s.rc.rank own with copied := insNat s.rc.rank c.copied })
    storeShares (if anyNonfinite d own.data then setConvFlag m n 0 else m) n d [s.rc.rank]

/-- Notes NaNs and infinities among copied shares, which are results as well (R307). (DEDUCED, log entry 94) -/
def noteCopies (m : Mach) (n : Nat) (d : CollD) (js : List Nat) : Mach :=
  match (getConv m n).coll with
  | none => m
  | some c => if d.op != 7 && js.any (fun j => anyNonfinite d (getAcc c j).data) then setConvFlag m n 0 else m

/-- What follows when step `i` has been received in full: the share's owner rounds and stores, copies are stored, a relay
block lands, segments are staged and, the last one in, merged. -/
def stepLanded (m : Mach) (n i : Nat) (d : CollD) (steps : List CStep) : Mach :=
  let s := getConv m n
  match s.coll, steps[i]? with
  | some c, some st =>
    let r : Mach × Bool :=
      if st.add then (if lastAddStep steps i then ownResult m n d else (m, true))
      else if d.op = 6 then
        let r := storeShare (noteCopies m n d st.recv) n d (d.recv + (i + 1) % 2 * d.count * collE d) (getAcc c (st.recv.headD 0))
        (modColl r.1 n (fun c => { c with stepsLanded := c.stepsLanded + 1 }), r.2)
      else
        let r := storeShares (noteCopies m n d st.recv) n d st.recv
        let all := (List.range steps.length).all (fun k => match steps[k]? with
          | some t => gotStep d c (chunkBase d steps k) t
          | none => true)
        if r.2 && d.op = 7 && all then mergeRecv r.1 n d else r
    if r.2 then r.1 else originAbort r.1 n 4
  | _, _ => m

/-- A segment cut to the size its header gives it (R313). -/
def cutSeg (d : CollD) (b : ShareBuf) : ShareBuf :=
  match segSize d b.data with
  | some n => { data := b.data.take n, poison := b.poison.filter (fun g => 32 * g < n) }
  | none => b

/-- Begins once the own data is at hand: partials widen, the own share is stored where the operation keeps it, and a
segment is checked (R306, R313). A member alone has its result at once. -/
def beginColl (m : Mach) (n : Nat) : Mach :=
  let s := getConv m n
  match s.coll with
  | none => m
  | some q =>
    match s.sched[q.d]? with
    | none => m
    | some d =>
      let steps := collSteps s.rc d
      let me := s.rc.rank
      let opened := if d.op = 6 then 1 else max steps.length 1
      let m := modColl m n (fun c =>
        { c with opened := opened,
                 acc := if d.op = 1 || d.op = 3 then c.acc.map (fun e => (e.1, widen d e.2))
                   else if d.op = 7 then c.acc.map (fun e => (e.1, cutSeg d e.2)) else c.acc })
      let r : Mach × Bool × Nat :=
        if d.op = 2 || d.op = 5 then let x := storeShares (noteCopies m n d [me]) n d [me]; (x.1, x.2, 4)
        else if d.op = 4 && me == d.root then let x := storeShares (noteCopies m n d [0]) n d [0]; (x.1, x.2, 4)
        else if d.op = 7 then
          let ok := (segSize d (getAcc ((getConv m n).coll.getD q) me).data).isSome
          let x := if ok then storeShares m n d [me] else (m, false)
          let x := if x.2 && steps.isEmpty then mergeRecv x.1 n d else x
          (x.1, x.2, if ok then 4 else 5)
        else if (d.op = 1 || d.op = 3) && steps.all (fun t => !t.add) then let x := ownResult m n d; (x.1, x.2, 4)
        else (m, true, 4)
      if r.2.1 then pumpConv r.1 n else originAbort r.1 n r.2.2

/-- The spans of its send buffer a member loads: the share, its address, its bytes (Table 11.6). -/
def ownSpans (r : ConvRec) (d : CollD) : List (Nat × Nat × Nat) :=
  let u := d.count * collE d
  match d.op with
  | 1 => (List.range r.members.length).map (fun j => (j, d.send + j * u, u))
  | 3 => (List.range r.members.length).map (fun j => (j, d.send + j * u, u))
  | 4 => if r.rank = d.root then [(0, d.send, u)] else []
  | 7 => [(r.rank, d.send, d.extra)]
  | _ => [(r.rank, d.send, u)]

/-- Loads a share from a span of the slot's space (R305): false where the waymap does not cover it or a piece is refused. -/
def loadShare (m : Mach) (n : Nat) (e : Nat × Nat × Nat) : Mach × Bool :=
  let c := (getConv m n).rc.ctx / 4096
  if !fabCovers m c 0x04 e.2.1 e.2.2 then (m, false)
  else match fabRead m (unitRef c) (.convoy n) e.2.1 e.2.2 with
    | .bad m _ => (m, false)
    | .ok m data pz out =>
      (modColl m n (fun y => { setAcc y e.1 { data := data, poison := pz } with
        loads := y.loads ++ out.map (fun o => { tag := o.tag, share := e.1, off := o.off, skip := o.skip, len := o.len }) }), true)

/-- Starts occurrence `i` of descriptor `k` of a convoy's schedule (R304): the slot is RUNNING and its own data is read; what its waymap
does not cover aborts it. -/
def startColl (m : Mach) (n k i : Nat) (d : CollD) : Mach :=
  let s := getConv m n
  let c := s.rc.ctx / 4096
  let c0 : Coll :=
    { d := k, occ := i, op := s.next % 2 ^ 24, layout := (getCtx m c).layout, acc := [], copied := [], opened := 0, seen := [], granted := [],
      sent := [], gave := [], loads := [], writes := [], stepsLanded := 0, stepsDone := 0 }
  let m := modConv m n (fun s => { s with st := 2, coll := some c0 })
  let r := (ownSpans s.rc d).foldl (fun (q : Mach × Bool) e => if q.2 then loadShare q.1 n e else q) (m, true)
  if !r.2 then originAbort r.1 n 4
  else match (getConv r.1 n).coll with
    | some y => if y.loads.isEmpty then beginColl r.1 n else r.1
    | none => r.1

/-- Whether the slot's context is current and ACTIVE and a schedule is posted. -/
def convLive (m : Mach) (s : ConvSlot) : Bool :=
  let c := s.rc.ctx / 4096
  !s.sched.isEmpty && handleOf m c == s.rc.ctx && (getCtx m c).st == .active

/-- Whether the trigger of a descriptor's occurrence or step meets its milestone (R304, R312). -/
def trigMet (m : Mach) (s : ConvSlot) (d : CollD) (target : Nat) : Bool :=
  msMet (getMs m ((getCtx m (s.rc.ctx / 4096)).msBase + d.trigger)).value.toNat target

/-- COLLECTIVE_TRIGGER: the next occurrence starts where its trigger is met and the slot is IDLE (R304); of a running
relay the next step opens and reads the block it sends from the slot it landed in (R312). -/
def collectiveTrigger (n : Nat) (m : Mach) : Mach :=
  let s := getConv m n
  if !convLive m s then m else
  match s.coll with
  | some q =>
    match s.sched[q.d]? with
    | some d =>
      if d.op = 6 && 0 < q.opened && q.opened < (collSteps s.rc d).length && q.opened ≤ q.stepsDone &&
          trigMet m s d (d.target + q.occ * d.stride + q.opened) then
        let m := modColl m n (fun q => { q with opened := q.opened + 1 })
        let send := (((collSteps s.rc d)[q.opened]?).map (·.send)).getD []
        let r := loadShare m n (send.headD 0, d.recv + q.opened % 2 * d.count * collE d, d.count * collE d)
        if r.2 then pumpConv r.1 n else originAbort r.1 n 4
      else m
    | none => m
  | none =>
    if s.st != 1 then m else
    let k := s.next % s.sched.length
    let i := s.next / s.sched.length
    match s.sched[k]? with
    | none => m
    | some d => if trigMet m s d (d.target + i * d.stride) then startColl m n k i d else m

/-- Whether a request of a tag is one the running collective of a slot waits for. -/
def convOwns (m : Mach) (n tag : Nat) : Bool :=
  match (getConv m n).coll with
  | some c => c.loads.any (fun l => l.tag == tag) || has c.writes tag
  | none => false

/-- A request of a convoy is refused or expires: the collective that waits for it aborts with reason BUFFER (R305). What is left of one already
aborted changes nothing (R317). -/
def convFailed (m : Mach) (n tag : Nat) : Mach := if convOwns m n tag then originAbort m n 4 else m

/-- A response to one of a convoy's own requests: data for a load, or a write acknowledged. -/
def convResponse (m : Mach) (n tag : Nat) (data : List Byte) (poison : List Nat) : Mach :=
  match (getConv m n).coll with
  | none => m
  | some c =>
    match c.loads.find? (fun q => q.tag == tag) with
    | some q =>
      let b := getAcc c q.share
      let part := padTo q.len (data.drop q.skip)
      let b' : ShareBuf :=
        { data := spliceBytes b.data q.off part,
          poison := (poison.flatMap (streamUnits q.off q.skip q.len)).foldl (fun a g => insNat g a) b.poison }
      let m := modColl m n (fun c => { setAcc c q.share b' with loads := c.loads.filter (fun e => e.tag != tag) })
      match (getConv m n).coll with
      | some c => if !c.loads.isEmpty then m else if c.opened = 0 then beginColl m n else pumpConv m n
      | none => m
    | none => if has c.writes tag then pumpConv (modColl m n (fun c => { c with writes := delNat tag c.writes })) n else m

/-! ### Arriving packets -/

/-- Counts a discard in field `i` of CHP_CV_DISCARD_n. -/
def discardConv (m : Mach) (n i : Nat) : Mach := modConv m n (fun s => { s with disc := modNth s.disc i (fun x => satAdd x 1) })

/-- Counts a packet of no convoy or channel. -/
def countUnmatched (m : Mach) : Mach := { m with conv := { m.conv with unmatched := satAdd m.conv.unmatched 1 } }

/-- Takes the oldest released packet with an opcode. -/
def takeReleased (m : Mach) (opcode : Nat) : Option (Packet × Mach) :=
  match m.fab.released.findIdx? (fun q => q.opcode == opcode) with
  | some i => match m.fab.released[i]? with
    | some pk => some (pk, { m with fab := { m.fab with released := m.fab.released.eraseIdx i } })
    | none => none
  | none => none

/-- Checks 1 and 5 of Table 10.6 on a collective packet: the reason of a failure. -/
def customsColl (m : Mach) (pk : Packet) : Option Nat :=
  if m.fab.module != some pk.dst || pk.cls != 2 || pk.opcode < 0x20 || 0x40 ≤ pk.opcode then some 0
  else epochReason (getCtx m (pk.peer / 4096)).mem.epoch pk.epoch

/-- The slot of a convoy identifier owned by a handle. -/
def findConv (m : Mach) (id h : Nat) : Option Nat :=
  (m.conv.slots.find? (fun e => e.2.st != 0 && e.2.rc.id == id && e.2.rc.ctx == h)).map (·.1)

/-- Runs a meaning on an arriving convoy packet that passes customs and the checks of Table 11.4; a packet that fails one
is discarded and counted. ABORT packets pass check 4 for any operation. -/
def convArrive (m : Mach) (opcode : Nat) (f : Mach → Nat → Packet → Mach) : Mach :=
  match takeReleased m opcode with
  | none => m
  | some (pk, m) =>
    match customsColl m pk with
    | some r => countCustoms m pk r
    | none =>
      match findConv m (fld pk.addr 16 16) pk.peer with
      | none => countUnmatched m
      | some n =>
        let s := getConv m n
        match epochReason s.rc.epoch (fld pk.addr 32 32) with
        | some r => discardConv m n (r - 4)
        | none =>
          if (s.rc.members[fld pk.addr 0 13]?).map (·.1) != some pk.src then discardConv m n 2
          else if opcode != 0x22 && (s.st != 2 || convOp s != pk.sequence) then discardConv m n 3
          else f (acctAdd m (s.rc.ctx / 4096) 10 pk.data.length) n pk

/-- The check value of a descriptor a GRANT carries (Table 11.3). -/
def schedCheck (d : CollD) : Nat := crc32c (spliceBytes d.raw 32 (List.replicate 16 0))

/-- Takes the chunks a GRANT names that the member is to send to the rank that grants them, but for those sent or granted already, and moves the
collective on (R302). -/
def takeGrant (m : Mach) (n : Nat) (pk : Packet) (d : CollD) : Mach :=
  let steps := collSteps (getConv m n).rc d
  let mine := fun k => match findChunk d steps k with
    | some q => (steps[q.1]?).bind (·.succ) == some (fld pk.addr 0 13)
    | none => false
  let ks := ((List.range (recNat pk.data 4 4)).map (· + recNat pk.data 8 4)).filter mine
  pumpConv (modColl m n (fun c => { c with granted := c.granted ++ ks.filter (fun k => !has c.sent k && !has c.granted k) })) n

/-- GRANT: checked for layout and schedule, it lets chunks be sent (R302). -/
def grantRow (m : Mach) : Mach :=
  convArrive m 0x20 (fun m n pk =>
    let s := getConv m n
    match s.coll with
    | none => m
    | some c =>
      match s.sched[c.d]? with
      | none => m
      | some d =>
        if recNat pk.data 0 4 != c.layout then originAbort m n 2
        else if recNat pk.data 12 4 != schedCheck d then originAbort m n 3
        else takeGrant m n pk d)

/-- Whether a packet of chunk `j` of step `i` is one the member granted and has not had (R302, R307, Table 11.4). -/
def cdataFits (c : Coll) (st : CStep) (pk : Packet) : Bool :=
  st.pred == some (fld pk.addr 0 13) && st.sub == pk.subcode && has c.gave (pk.tag / 256) && !has c.seen pk.tag

/-- Places a packet of chunk `j` of step `i`: it is added or copied where it belongs, a whole step is stored, and the collective moves on
(R306, R307, R313). -/
def placeCdata (m : Mach) (n : Nat) (c : Coll) (d : CollD) (i j : Nat) (st : CStep) (pk : Packet) : Mach :=
  let steps := collSteps (getConv m n).rc d
  let b := chunkBase d steps i
  let off := j * chunkBytes d + 4096 * (pk.tag % 256)
  let want := if d.op = 7 then d.extra else st.recv.length * shareBytes d st
  let piece := pk.data.take (want - off)
  let r := placePiece d c st off piece pk.poison
  let c1 : Coll := { r.1 with seen := r.1.seen ++ [pk.tag] }
  let sh := st.recv.headD 0
  let c' : Coll := if d.op = 7 && has c1.seen (256 * b) then setAcc c1 sh (cutSeg d (getAcc c1 sh)) else c1
  let m := modConv m n (fun s => { s with coll := some c' })
  let m := if r.2 then setConvFlag m n 1 else m
  if d.op = 7 && has c'.seen (256 * b) && (segSize d (getAcc c' sh).data).isNone then originAbort m n 5
  else
    let m := if gotStep d c' b st then stepLanded m n i d steps else m
    pumpConv m n

/-- CDATA: a packet of a granted chunk is reduced or copied in ring order (R307). -/
def cdataRow (m : Mach) : Mach :=
  convArrive m 0x21 (fun m n pk =>
    let s := getConv m n
    match s.coll with
    | none => m
    | some c =>
      match s.sched[c.d]? with
      | none => m
      | some d =>
        match findChunk d (collSteps s.rc d) (pk.tag / 256) with
        | none => discardConv m n 3
        | some (i, j) =>
          match (collSteps s.rc d)[i]? with
          | none => m
          | some st => if cdataFits c st pk then placeCdata m n c d i j st pk else discardConv m n 3)

/-- ABORT: the first one for the convoy and epoch is acted on and forwarded; copies count as late (R316). -/
def abortRow (m : Mach) : Mach :=
  convArrive m 0x22 (fun m n pk =>
    let s := getConv m n
    if s.st = 3 then discardConv m n 3
    else abortConv m n false (recNat pk.data 6 1) (recNat pk.data 4 2) (recNat pk.data 0 4) (floodRanks s.rc))

/-- PROGRESS_TIMER_EXPIRY: a member that waits too long originates an abort (R314). -/
def progressExpiry (n : Nat) (m : Mach) : Mach := if (getConv m n).st = 2 then originAbort m n 1 else m

end Sys2Proof.Machine
end

