-- ==== Sys2Proof/Machine/Channel.lean ====
section
/-! DEFINITION. Channels and the caravanserai (R320 to R324). -/

namespace Sys2Proof.Machine

/-- Channel entry `n`. -/
def getChan (m : Mach) (n : Nat) : Chan := tget chanReset m.conv.chans n
/-- Changes channel entry `n`. -/
def modChan (m : Mach) (n : Nat) (f : Chan → Chan) : Mach :=
  { m with conv := { m.conv with chans := tmod chanReset m.conv.chans n f } }
/-- Changes the send half of a channel. -/
def modSend (m : Mach) (n : Nat) (f : ChSend → ChSend) : Mach := modChan m n (fun c => { c with send := c.send.map f })
/-- Changes the receive half of a channel. -/
def modRecv (m : Mach) (n : Nat) (f : ChRecv → ChRecv) : Mach := modChan m n (fun c => { c with recv := c.recv.map f })

/-- The receive halves whose array lies in region `r`. -/
def recvIn (m : Mach) (r : Nat) : List ChRecv :=
  m.conv.chans.filterMap (fun e => match e.2.recv with
    | some h => if h.array / 256 = r then some h else none
    | none => none)
/-- 2 KiB units of one channel unit. -/
def unitUnits (h : ChRecv) : Nat := h.unit / 2048
/-- 2 KiB units a half holds. -/
def heldUnits (h : ChRecv) : Nat := h.held.length * unitUnits h
/-- 2 KiB units a half holds or has promised by credits. -/
def boundUnits (h : ChRecv) : Nat := (h.held.length + h.out) * unitUnits h
/-- RGN_CSV_STATUS min_sum. -/
def csvMin (m : Mach) (r : Nat) : Nat := (recvIn m r).foldl (fun a h => a + h.min) 0
/-- RGN_CSV_STATUS used. -/
def csvUsed (m : Mach) (r : Nat) : Nat := (recvIn m r).foldl (fun a h => a + heldUnits h) 0
/-- The pool's unreserved space that nobody holds or was promised (R321). -/
def csvShared (m : Mach) (r : Nat) : Nat := 16384 - csvMin m r - (recvIn m r).foldl (fun a h => a + (boundUnits h - h.min)) 0

/-- Whether a half may promise space for one more unit (R321, R322). (DEDUCED, log entry 43) -/
def mayCredit (m : Mach) (h : ChRecv) : Bool :=
  let b := boundUnits h + unitUnits h
  b ≤ h.quota && (b ≤ h.min || b - max h.min (boundUnits h) ≤ csvShared m (h.array / 256))

/-- The owner handle of a slot's peer in a module: the peer field of an OUT entry of the slot that names the module (Table 10.3); free where it has
none. (DEDUCED, log entry 95) -/
def peerHandle (m : Mach) (slot peerM : Nat) : Nat :=
  match m.fab.waymap.find? (fun e => e.2.valid && !e.2.isIn && e.2.owner / 4096 == slot && e.2.module == peerM) with
  | some e => e.2.peer
  | none => Config.freeNat peerM % 2 ^ 16

/-- A channel packet (R300): the channel number of the peer, and the part within the unit. -/
def chanPk (m : Mach) (c : Nat) (opcode peerM peerC unit part : Nat) (data : List Byte) (poison : List Nat) : Packet :=
  let x := getCtx m (c / 4096)
  { opcode := opcode, keyed := false, saturated := false, poison := poison, cls := 2, ordered := false, relaxed := false,
    length := alignUp data.length 32, src := modId m, dst := peerM, addr := peerC <<< 16, membership := x.mem.id,
    peer := peerHandle m (c / 4096) peerM, epoch := x.mem.epoch, sequence := unit % 2 ^ 24, subcode := 0,
    srcSlot := c / 4096, tag := part, data := data }

/-- Gives the sender of a receive half `k` credits, where the half may: straight to a half on the same entry, which takes them when it opens where it
is not open yet, else by a CH_CREDIT packet, which carries the number of the first unit it credits. -/
def giveCredit (m : Mach) (n k : Nat) : Mach :=
  let c := getChan m n
  match c.recv with
  | none => m
  | some h =>
    let m := modRecv m n (fun h => { h with out := h.out + k, credited := h.credited + k })
    if c.send.isSome then modSend m n (fun s => { s with credits := s.credits + k })
    else if m.fab.module = some h.peerM && h.peerC == n then m
    else acctAdd (sendPk m (chanPk m c.ctx 0x25 h.peerM h.peerC h.credited 0 (padTo 32 (leBytes 4 k)) [])) (c.ctx / 4096) 9 32

/-- Grants one more credit where space allows. (DEDUCED, log entry 43) -/
def topUp (m : Mach) (n : Nat) : Mach :=
  match (getChan m n).recv with
  | some h => if mayCredit m h then giveCredit m n 1 else m
  | none => m

/-- Ends the waybills of slot `c` on block `p` stalled on window `w` with CHANNEL_CLOSED (R323). -/
def endStalled (m : Mach) (c p w : Nat) : Mach :=
  let b := getBlk m p
  let m := match b.ve.running with
    | some r =>
      if r.ringStall && r.ref.ctx == c then
        match getMan m r.ref.ctx r.ref.man with
        | some x => match (bodyOf x.img r.ref.wb)[r.ref.item]? with
          | some it => if usesWindow it w then
              endWb (modBlk m p (fun b => { b with ve := { b.ve with running := none } })) p r.ref.stream 0x0808 else m
          | none => m
        | none => m
      else m
    | none => m
  match b.pm.stalled with
  | some f =>
    if f.ref.ctx == c && usesWindow (.premutar f.desc) w then
      endWb (modBlk m p (fun b => { b with pm := { b.pm with stalled := none } })) p f.ref.stream 0x0808 else m
  | none => m

/-- Disables a half's window and ends the waybills stalled on it (R323). -/
def closeWindow (m : Mach) (c array w : Nat) : Mach :=
  match physOf m array with
  | none => m
  | some p =>
    let m := modBlk m p (fun b => modWin b w (fun x => if x.ctx = c then { x with enable := false } else x))
    endStalled m c p w

/-- Closes a channel entry (R323): its units go, its windows are disabled, and CH_CLOSE goes to the peer unless the peer
itself asked. CHP_CH_STATUS_n keeps its context and units until the entry is opened again (R326). -/
def closeChannel (m : Mach) (n : Nat) (tell : Bool) : Mach :=
  let c := getChan m n
  if c.send.isNone && c.recv.isNone then m else
  let slot := c.ctx / 4096
  let close := fun (m : Mach) peerM peerC => acctAdd (sendPk m (chanPk m c.ctx 0x26 peerM peerC 0 0 (List.replicate 32 0) [])) slot 9 32
  let both := c.send.isSome && c.recv.isSome
  let m := match c.send with
    | some s =>
      let m := closeWindow m slot s.array s.window
      if tell && !both then close m s.peerM s.peerC else m
    | none => m
  let m := match c.recv with
    | some h =>
      let m := closeWindow m slot h.array h.window
      if tell && !both then close m h.peerM h.peerC else m
    | none => m
  modChan m n (fun c => { c with send := none, recv := none })

/-- Stores a whole unit in the caravanserai (R322 step 3). -/
def storeUnit (m : Mach) (n : Nat) (u : ChUnit) : Mach :=
  topUp (modRecv m n (fun h => { h with held := h.held ++ [u], out := h.out - 1 })) n

/-- Whether a send half on block `p` can send: a credit, an enabled RING window of its context that no window-set waits for (R118), and one
unit of fill (R322). -/
def sendReadyChan (m : Mach) (c : Chan) (s : ChSend) (p : Nat) : Bool :=
  let w := getWin (getBlk m p) s.window
  s.credits != 0 && w.enable && w.ring && w.ctx == c.ctx / 4096 && s.unit ≤ winFill w && s.unit ≤ winBytes w &&
    !setWaits m (getBlk m p) s.window

/-- Consumes one unit of the source window of channel `n` and takes it to its receive half: straight into the caravanserai on one entry,
else by CH_DATA packets (R322 steps 1 to 3). -/
def sendUnit (m : Mach) (n : Nat) (c : Chan) (s : ChSend) (p : Nat) : Mach :=
  let w := getWin (getBlk m p) s.window
  let pl := Place.window w (w.head % winBytes w)
  let m := placePorts m p 6 pl s.unit false
  let data := placeBytes m p pl 0 s.unit
  let pz := (List.range (s.unit / 32)).filter (fun i => (List.range 4).any (fun k => rdPoison m (spAddr p (placeOff pl (32 * i + 8 * k))) 8))
  let m := modBlk m p (fun b => modWin b s.window (fun w => { w with head := winMove w w.head s.unit }))
  let m := modSend m n (fun s => { s with credits := s.credits - 1, sent := s.sent + 1 })
  if c.recv.isSome then storeUnit m n { data := data, poison := pz, judged := false }
  else
    let m := (List.range (ceilDiv s.unit 4096)).foldl (fun m i =>
      let part := (data.drop (4096 * i)).take 4096
      let pzi := (pz.filter (fun g => 128 * i ≤ g && g < 128 * (i + 1))).map (· - 128 * i)
      sendPk m (chanPk m c.ctx 0x24 s.peerM s.peerC s.sent i part pzi)) m
    acctAdd m (c.ctx / 4096) 9 s.unit

/-- CHANNEL_UNIT_SEND: a unit is consumed from the source window and sent, where one is ready and a credit is held
(R322 steps 1 and 2). -/
def channelSend (n : Nat) (m : Mach) : Mach :=
  let c := getChan m n
  match c.send with
  | none => m
  | some s =>
    match physOf m s.array with
    | none => m
    | some p => if sendReadyChan m c s p then sendUnit m n c s p else m

/-- Runs a meaning on an arriving channel packet that passes customs and checks 1 and 3 of Table 11.4. -/
def chanArrive (m : Mach) (opcode : Nat) (f : Mach → Nat → Packet → Mach) : Mach :=
  match takeReleased m opcode with
  | none => m
  | some (pk, m) =>
    match customsColl m pk with
    | some r => countCustoms m pk r
    | none =>
      let n := fld pk.addr 16 12
      let c := getChan m n
      if (c.send.isNone && c.recv.isNone) || c.ctx != pk.peer then countUnmatched m
      else
        let peer := match c.send, c.recv with
          | some s, _ => s.peerM
          | none, some h => h.peerM
          | none, none => 0
        if peer != pk.src then countUnmatched m else f m n pk

/-- The number under which a receive half holds a part of a unit until the unit is whole. -/
def partKey (unit part : Nat) : Nat := 256 * (unit % 2 ^ 24) + part
/-- The parts of the unit a receive half waits for. -/
def unitParts (h : ChRecv) : List Nat := (List.range (ceilDiv h.unit 4096)).map (partKey h.next)

/-- Stores every unit that is whole, in order (R322). -/
def storeWhole (m : Mach) (n : Nat) : Nat → Mach
  | 0 => m
  | fuel + 1 =>
    match (getChan m n).recv with
    | none => m
    | some h =>
      let want := unitParts h
      if !want.all (fun k => h.parts.any (fun e => e.1 == k)) then m
      else
        let got := want.map (fun k => tget noShare h.parts k)
        let data := (got.map (·.data)).flatten
        let pz := ((got.zip (List.range want.length)).map (fun q => q.1.poison.map (· + 128 * q.2))).flatten
        let m := modRecv m n (fun h => { h with parts := h.parts.filter (fun e => !has want e.1), next := h.next + 1 })
        storeWhole (storeUnit m n { data := data, poison := pz, judged := false }) n fuel

/-- Takes one part of a unit into a receive half; what is whole then is stored (R322). -/
def takePart (m : Mach) (n : Nat) (h : ChRecv) (pk : Packet) : Mach :=
  let m := acctAdd m ((getChan m n).ctx / 4096) 10 pk.data.length
  let parts := tput (partKey pk.sequence (pk.tag % 256)) { data := pk.data, poison := pk.poison } h.parts
  storeWhole (modRecv m n (fun h => { h with parts := parts })) n parts.length

/-- CH_DATA: a unit, or a part of one, arrives and the whole unit is stored in order (R322). -/
def chDataRow (m : Mach) : Mach :=
  chanArrive m 0x24 (fun m n pk =>
    match (getChan m n).recv with
    | none => countUnmatched m
    | some h => takePart m n h pk)

/-- Whether the check-value unit of block `p` taps channel `n` for slot `c`. -/
def cvTapsChannel (m : Mach) (p n c : Nat) : Bool := cvTaps m p 0 c && fld (getBlk m p).cv.cfg.toNat 16 12 == n

/-- Whether the destination window of a receive half on block `p` has room for the unit with no window-set waiting for it (R118), and the unit may
leave: a tapped one waits until the check-value unit has judged it (R322, Table 14.4). -/
def mayProduce (m : Mach) (n : Nat) (c : Chan) (h : ChRecv) (u : ChUnit) (p : Nat) : Bool :=
  let w := getWin (getBlk m p) h.window
  w.enable && w.ring && w.ctx == c.ctx / 4096 && h.unit ≤ winFree w && !setWaits m (getBlk m p) h.window && (!cvTapsChannel m p n (c.ctx / 4096) || u.judged)

/-- Produces unit `u` of channel `n` into the destination window of block `p`, counts it and returns a credit where one may be (R322 steps 4
and 5). -/
def produceUnit (m : Mach) (n : Nat) (h : ChRecv) (u : ChUnit) (rest : List ChUnit) (p : Nat) : Mach :=
  let w := getWin (getBlk m p) h.window
  let pl := Place.window w (w.tail % winBytes w)
  let m := placeWrite (placePorts m p 6 pl u.data.length true) p pl u.data
  let m := u.poison.foldl (fun m g =>
    (List.range 4).foldl (fun m k => wrPoison m (spAddr p (placeOff pl (32 * g + 8 * k))) 8) m) m
  let m := modBlk m p (fun b => modWin b h.window (fun w => { w with tail := winMove w w.tail h.unit }))
  let m := modChan (modRecv m n (fun h => { h with held := rest })) n (fun c => { c with units := satAdd c.units 1 })
  topUp m n

/-- CHANNEL_UNIT_PRODUCE: the oldest held unit is produced into the destination window and a credit is returned (R322
steps 4 and 5). -/
def channelProduce (n : Nat) (m : Mach) : Mach :=
  let c := getChan m n
  match c.recv with
  | none => m
  | some h =>
    match h.held, physOf m h.array with
    | u :: rest, some p => if mayProduce m n c h u p then produceUnit m n h u rest p else m
    | _, _ => m

/-- CH_CREDIT: credits arrive at the send half. -/
def chCreditRow (m : Mach) : Mach :=
  chanArrive m 0x25 (fun m n pk =>
    modSend (acctAdd m ((getChan m n).ctx / 4096) 10 pk.data.length) n (fun s => { s with credits := s.credits + recNat pk.data 0 4 }))

/-- CH_CLOSE: the peer half's close closes this one (R323). -/
def chCloseRow (m : Mach) : Mach := chanArrive m 0x26 (fun m n pk =>
  closeChannel (acctAdd m ((getChan m n).ctx / 4096) 10 pk.data.length) n false)

/-- CHANNEL_CREDIT_TIMEOUT: a send half that has held a unit ready without a credit for too long closes the channel
(R323). -/
def channelTimeout (n : Nat) (m : Mach) : Mach :=
  match (getChan m n).send with
  | some s => match physOf m s.array with
    | some p => if s.credits = 0 && s.unit ≤ winFill (getWin (getBlk m p) s.window) then closeChannel m n true else m
    | none => m
  | none => m

end Sys2Proof.Machine
end

