-- ==== Sys2Proof/Machine/Teardown.lean ====
section
/-! DEFINITION. Teardown of a context (R213 to R215, Table 8.3), the quarantine of blocks (R377, R378), and losses beyond
the spare pools with what follows from them (R393, R410, R411). -/

namespace Sys2Proof.Machine

/-! ### Long commands -/

/-- Gives the outcome of a long command: final status and result (R423). (DEDUCED, log entry 26) -/
def endOp (m : Mach) (tag status result : Nat) : Mach :=
  { m with mgmt := { m.mgmt with ops := m.mgmt.ops.map (fun o =>
      if o.tag = tag && o.outcome.isNone then { o with outcome := some (status, result) } else o) } }

/-- Ends every long command of slot `c` still in progress whose opcode is one of `codes`. -/
def endOps (m : Mach) (c : Nat) (codes : List Nat) (status : Nat) : Mach :=
  { m with mgmt := { m.mgmt with ops := m.mgmt.ops.map (fun o =>
      if o.subject = c && o.outcome.isNone && has codes o.opcode then { o with outcome := some (status, 0) } else o) } }

/-! ### Steps of Table 8.3 -/

/-- Whether a waybill body has a drain that writes a tensor watched by a slot in REBUILD (R335). -/
def drainsRebuild (m : Mach) (i : Image) (w : Nat) : Bool :=
  (bodyOf i w).any (fun it => match it with
    | .drain d =>
      let t := i.tensors.getD d.co noTensor
      t.watch != 0 && (tget watchReset m.ass.watches (t.watch - 1)).st == 3
    | _ => false)

/-- Writes the body of a record: bytes 8 to 63 (R200). -/
def fillRec (m : Mach) (c q code flags wb startNs step : Nat) : Mach :=
  let st := stampNow m (some c) (some step) 2 (getCtx m c).layout
  let d := now m - startNs
  let put := fun (r : Rec) => if r.seq = q && r.st = .pending && !r.final then
      ({ r with code := code, flags := flags, wb := wb, duration := d, stamp := st, final := true } : Rec) else r
  modCtx m c (fun x => { x with cr := { x.cr with recs := tmod noRec x.cr.recs (q % 4096) put } })

/-- The number of a record's state (Table 7.11). -/
def recState : RecSt → Nat
  | .empty => 0
  | .pending => 1
  | .done => 2
  | .error => 3

/-- The 64 bytes of a completion record (Table 7.11). -/
def recBytes (r : Rec) : List Byte :=
  leBytes 8 (r.kind <<< 40 ||| recState r.st <<< 32 ||| r.seq) ++ leBytes 4 (r.code <<< 16 ||| r.flags) ++ leBytes 4 r.wb ++
    leBytes 2 r.man ++ leBytes 2 0 ++ leBytes 4 r.run ++ leBytes 8 r.duration ++ stampBytes r.stamp

/-- The offset in BAR0 of the slot of record `q` of slot `c` (R199). -/
def recAddr (c q : Nat) : Nat := 0x1000000 + c * 0x40000 + q % 4096 * 64

/-- Finishes the record of every running reporting waybill of a slot, and of every run, with TEARDOWN (R198); a record whose body is final
already takes the state its code gives. -/
def endRecords (m : Mach) (c : Nat) : Mach :=
  let pend := (getCtx m c).cr.recs.filter (fun e => e.2.st == .pending)
  let runs := (getCtx m c).mans.flatMap (fun e => match e.2 with | some q => (q.runs.filter (·.started)).map (fun r => (e.1, r)) | none => [])
  let wbs := m.blocks.flatMap (fun e => e.2.seq.running.filter (fun w => w.ctx == c))
  let flagsOf := fun (w : RunWb) => match getMan m c w.man with
    | some q => w.flags.toNat ||| (if drainsRebuild m q.img w.wb then 0x100 else 0)
    | none => w.flags.toNat
  let m := wbs.foldl (fun m w => match w.seq with
    | some s => fillRec m c s cTeardown (flagsOf w) w.wb w.startNs w.step
    | none => m) m
  let m := runs.foldl (fun m e =>
    let all := (wbs.filter (fun w => w.man == e.1 && w.run == e.2.run)).foldl (fun a w => a ||| flagsOf w) e.2.flags
    fillRec m c e.2.seq cTeardown all e.2.failWb e.2.startNs e.2.step) m
  let m := modCtx m c (fun x => { x with cr := { x.cr with recs := x.cr.recs.map (fun e =>
    if e.2.st = .pending then (e.1, { e.2 with st := if e.2.code = 0 then .done else .error, final := true }) else e) } })
  if pend.any (fun e => e.2.notify) then signal m (2 + c) else m

/-- Freezes the milestones a handle owns (R182). -/
def freezeMs (m : Mach) (h : Nat) : Mach :=
  { m with ms := m.ms.map (fun e => if e.2.owner = h then (e.1, { e.2 with frozen := true }) else e) }

/-- The banks a running waybill holds. -/
def heldBanks (m : Mach) (w : RunWb) : List Nat :=
  match getMan m w.ctx w.man with
  | some x => (List.range 6).filter (fun i => nthN (wbOf x.img w.wb).banks i != 0)
  | none => []

/-- Releases bank tokens. -/
def freeBanks (b : Blk) (bs : List Nat) : Blk :=
  { b with sp := { b.sp with owner := bs.foldl (fun o i => setNth o i 0) b.sp.owner } }

/-- Takes queued requests that `gone` names out of a block's bank ports and answers them with errors: the waybill of each ends. -/
def answerReqs (m : Mach) (p : Nat) (gone : BankReq → Bool) (code : Nat) : Mach :=
  let s := (getBlk m p).sp
  let rs := ((s.rdQueue.map (·.2)).flatten ++ (s.wrQueue.map (·.2)).flatten).filter gone
  let keep := fun (t : Tbl (List BankReq)) => (t.map (fun e => (e.1, e.2.filter (fun r => !gone r)))).filter (fun e => !e.2.isEmpty)
  let m := modBlk m p (fun b => { b with sp := { b.sp with rdQueue := keep b.sp.rdQueue, wrQueue := keep b.sp.wrQueue } })
  rs.foldl (fun m r => if r.stream = 0 then m else endWb m p r.stream code) m

/-- Answers the requests waiting at a block's bank ports as expired. -/
def answerBanks (m : Mach) (p : Nat) : Mach := answerReqs m p (fun _ => true) cMemPoison

/-- Takes a slot's work off a block (R92, R114, R118, R120, R146, R171, R380): groups, drains, running operations,
descriptors, histories, tokens, queued requests, windows, alias and check-value unit. (DEDUCED, log entry 46) -/
def clearBlk (m : Mach) (c p : Nat) : Mach :=
  let m := answerReqs m p (fun r => r.ctx == c) cTeardown
  let b := getBlk m p
  let banks := (b.seq.running.filter (fun w => w.ctx == c)).map (heldBanks m)
  modBlk m p (fun b =>
    let b := banks.foldl freeBanks b
    let a := b.arr
    let arr : ArrSt :=
      { a with groups := a.groups.filter (fun e => e.2.ctx != c || e.2.st == .free), queue := a.queue.filter (fun j => jobCtx j != c),
               running := a.running.filter (fun q => q.1.ctx != c) }
    let s := b.sp
    let sp : SpSt :=
      { s with wins := s.wins.map (fun e => (e.1, if e.2.ctx = c then { e.2 with enable := false } else e.2)),
               aliasOn := s.aliasOn && s.aliasCtx != c }
    let pm : PmSt :=
      { b.pm with flight := b.pm.flight.filter (fun f => f.ref.ctx != c), held := b.pm.held.filter (fun r => r.ctx != c),
                  hist := tdel b.pm.hist c, stalled := b.pm.stalled.filter (fun f => f.ref.ctx != c) }
    let cv := if tbit b.cv.cfg.toNat 63 && fld b.cv.cfg.toNat 28 4 == c then
        { b.cv with cfg := b.cv.cfg &&& BitVec.ofNat 64 (2 ^ 63 - 1), frameQ := [] } else b.cv
    { b with arr := arr, sp := sp, ve := { b.ve with running := b.ve.running.filter (fun r => r.ref.ctx != c), late := b.ve.late.filter (fun q => q.2.ctx != c) },
             pm := pm,
             cv := cv, seq := { b.seq with running := b.seq.running.filter (fun w => w.ctx != c) } })

/-- Whether a slot holds blocks: ACTIVE, or TEARDOWN in progress. -/
def holdsBlocks (x : Ctx) : Bool := x.st == .active

/-- A block leaves a slot's hands: it passes to the one sharer left, or is free to be taken (R208, R211). -/
def releaseHolder (m : Mach) (c p : Nat) : Mach :=
  let rest := match arrayOf m p with
    | some a => (List.range 16).filter (fun d => d != c && holdsBlocks (getCtx m d) && (shareOf (getCtx m d) a).isSome)
    | none => []
  modBlk m p (fun b =>
    let s := b.seq
    let holder := if s.holder = some c || s.holder = none then (match rest with | [d] => some d | _ => none) else s.holder
    { b with seq := { s with holder := holder, heldCycles := if s.holder = some c then 0 else s.heldCycles,
                             vtime := tdel s.vtime c } })

/-- Zeroes the banks of a mask on a block. -/
def zeroBanks (m : Mach) (p mask : Nat) : Mach :=
  (List.range 6).foldl (fun m i => if tbit mask i then zeroRange m (spAddr p (i * 0x20000)) 0x20000 else m) m

/-- A slot leaves the blocks of its set (Table 8.3 steps 3 and 7). -/
def leaveBlocks (m : Mach) (c : Nat) : Mach :=
  (getCtx m c).par.blocks.foldl (fun m s =>
    match physOf m s.array with
    | some p => zeroBanks (releaseHolder (clearBlk m c p) c p) p s.mask
    | none => m) m

/-- The header of an output buffer (R231). -/
def outHeader (tally st code flags count tag : Nat) (stamp : Stamp) : List Byte :=
  leBytes 8 (st <<< 40 ||| tally) ++ leBytes 8 (code <<< 48 ||| flags <<< 32 ||| count) ++ leBytes 8 tag ++ leBytes 8 0 ++ stampBytes stamp

/-- Writes the final output header of an entry (R231). A write its waymap entries refuse is not made. -/
def writeOut (m : Mach) (c : Nat) (e : SeqEnt) (st code : Nat) : Mach :=
  let stamp := stampNow m (some c) (stepOf m c) 2 (getCtx m c).layout
  match fabWrite m (unitRef c) (.sequence c) e.outAddr (outHeader e.tally st code e.flags e.generated e.tag stamp) [] with
  | .ok m _ _ _ => m
  | .bad m _ => m

/-- Ends every entry of a slot with TEARDOWN (Table 8.3 step 6). -/
def endEntries (m : Mach) (c : Nat) : Mach :=
  let m := (getCtx m c).sv.entries.foldl (fun m e => if e.2.st = .free then m else writeOut m c e.2 3 cTeardown) m
  modCtx m c (fun x => { x with sv := { x.sv with entries := [] } })

/-- The tier ranges a handle's IN entries admit, cargo segments apart: the memory a teardown releases (R215). -/
def mappedRanges (m : Mach) (h : Nat) : List (Nat × Nat) :=
  (m.fab.waymap.filter (fun e => e.2.isIn && e.2.valid && e.2.owner == h && !e.2.cargo && (ctlOf e.2.base).isSome)).map
    (fun e => (e.2.base, segBytes e.2.size))

/-- Puts ranges into ZEROING. -/
def startZeroing (m : Mach) (rs : List (Nat × Nat)) : Mach := { m with zeroing := m.zeroing ++ rs }

/-- Unbinds a torn-down slot from every cargo set (R367): the keeper role passes to the lowest bound slot; a set no one is
bound to becomes EMPTY and its pages enter ZEROING. -/
def leaveCargo (m : Mach) (c : Nat) : Mach :=
  let one := fun (s : CargoSet) =>
    let bound := s.bound.filter (· != c)
    if s.keeper != c && !has s.bound c then (s, []) else
      match bound with
      | [] => if s.keeper = c || has s.bound c then (cargoReset, s.pages.map (fun a => (a, 2048))) else (s, [])
      | d :: ds => ({ s with bound := bound, keeper := if s.keeper = c then ds.foldl min d else s.keeper }, ([] : List (Nat × Nat)))
  m.cargo.foldl (fun m e =>
    let r := one e.2
    let m := match e.2.tag with
      | some t => if r.1 = cargoReset then endOp m t 0x50 0 else m
      | none => m
    startZeroing { m with cargo := tset cargoReset m.cargo e.1 r.1 } r.2) m

/-- The blocks of a run: those with a waybill of the manifest. -/
def runBlocks (m : Mach) (q : ManSt) : List Nat :=
  (q.img.waybills.foldl (fun a w => insNat w.array a) []).filterMap (physOf m)

/-- The end-of-run marker of every block of a run (R331). -/
def runMarks (m : Mach) (c k : Nat) (q : ManSt) (r : RunSt) : List Marker :=
  (runBlocks m q).map (fun p => { ctx := c, step := r.step, man := k, run := r.run, p := p })

/-- The runs a teardown ends send their markers: their steps are still to be closed (R331). -/
def endRuns (m : Mach) (c : Nat) : Mach :=
  let marks := (getCtx m c).mans.flatMap (fun e => match e.2 with
    | some q => (q.runs.filter (fun r => r.started && !r.ended)).flatMap (runMarks m c e.1 q)
    | none => [])
  { m with ass := { m.ass with markers := m.ass.markers ++ marks } }

/-- The long commands a teardown ends. -/
def ctxOps : List Nat := [0x0104, 0x0105, 0x0106, 0x0107, 0x0108, 0x010B, 0x0206, 0x0804, 0x080B, 0x080D, 0x080E]

/-- The runs of a slot that are in flight: started, not complete. -/
def inFlight (x : Ctx) : List RunSt := x.mans.flatMap (fun e => match e.2 with | some q => q.runs.filter (·.started) | none => [])

/-- Cargo set `k`. -/
def getCargo (m : Mach) (k : Nat) : CargoSet := tget cargoReset m.cargo k
/-- Changes cargo set `k`. -/
def modCargo (m : Mach) (k : Nat) (f : CargoSet → CargoSet) : Mach := { m with cargo := tmod cargoReset m.cargo k f }

/-- Counts the runs in flight of slot `c` in, or out, at the cargo sets they use (R365): a parked context has none (Table 13.5), and a torn down one no more. -/
def countSets (m : Mach) (c : Nat) (up : Bool) : Mach :=
  ((inFlight (getCtx m c)).flatMap (·.sets)).foldl (fun m n => modCargo m n (fun g => { g with inFlight := if up then g.inFlight + 1 else g.inFlight - 1 })) m

/-- Starts the teardown of a slot (R213): steps 1 to 7 of Table 8.3. `trigger` is the log code of what caused it, zero for
a command. A slot that is not ACTIVE or PARKED is left as it is. (DEDUCED, log entry 16) -/
def startTeardown (m : Mach) (c trigger : Nat) : Mach :=
  let x := getCtx m c
  if x.st != .active && x.st != .parked then m else
  let h := handleOf m c
  let was := x.st
  let m := modCtx m c (fun x => { x with st := .teardown })
  let m := freezeMs m h
  let m := endRuns (endRecords m c) c
  let m := if was = .active then leaveBlocks m c else m
  let m := endEntries m c
  let convs := (m.conv.slots.filter (fun e => e.2.st == 2 && e.2.rc.ctx == h)).map (·.1)
  let m := convs.foldl (fun m n => originAbort m n 7) m
  let chans := (m.conv.chans.filter (fun e => e.2.ctx == h && (e.2.send.isSome || e.2.recv.isSome))).map (·.1)
  let m := chans.foldl (fun m n => closeChannel m n true) m
  let m := startZeroing m (mappedRanges m h ++ (getCtx m c).memory)
  let f := m.fab
  let left := fun (k : Packet) => k.srcSlot != c || (k.cls != 0 && !(k.cls == 2 && (k.opcode == 0x38 || k.opcode == 0x39)))
  let m := { m with
    fab := { f with waymap := f.waymap.filter (fun e => e.2.owner != h), out := f.out.filter (fun o => o.ctx != c),
                    merges := f.merges.filter (fun g => f.out.any (fun o => o.tag == g.tag && o.ctx != c)),
                    txq := f.txq.filter left, again := f.again.filter left },
    tier := { m.tier with wins := m.tier.wins.filter (fun e => match e.2 with | some w => w.ctx != c | none => false),
                          regs := m.tier.regs.filter (fun r => r.ref.ctx != c) },
    twins := m.twins.filter (fun e => match e.2 with | some r => r.ctx != h | none => false),
    ass := { m.ass with stopped := m.ass.stopped.filter (fun q => q.1 != c) } }
  let m := leaveCargo (if was = .active then countSets m c false else m) c
  let m := modCtx m c (fun x => { x with
    mans := [], memory := [], poolNear := [], poolFar := [],
    el := { x.el with park := none, reclaim := none, reshard := none, src := none, restore := none },
    sv := { x.sv with conf := none, switches := [], bindings := [] } })
  let m := endOps m c ctxOps 0x50
  reportCtx m 0x200D (unitCtx c h) c 0 (leBytes 2 trigger)

/-- A teardown that an event asks for: it waits while the caravaneer, whose step 1 is (Table 8.3), is stopped (R33, R34). (DEDUCED, log entry 71) -/
def askTeardown (m : Mach) (c trigger : Nat) : Mach :=
  if mpStopped m && !chipFenced m then waitForMp m (.teardown c trigger) else startTeardown m c trigger

/-! ### Losses, out of service -/

/-- Logical arrays present. -/
def arraysPresent (m : Mach) : Nat := ((List.range 1024).filter (fun a => (physOf m a).isSome)).length

/-- The share of its rate a stack or package delivers, in 10,000ths (R241, R248): none while it is untrained or absent,
four fifths at its fall-back rate, 31 or 30 of 32 parts with one or two channels retired. -/
def ctlRate (x : Ctl) : Nat :=
  if x.st = 0 || x.st = 3 then 0 else (if x.slow then 8000 else 10000) * (32 - min 32 x.retired.length) / 32

/-- Lanes that carry data, and those still to train after a boot. -/
def lanesUp (m : Mach) : Nat :=
  m.fab.links.foldl (fun a e => a + if e.2.st = .up then e.2.lanes.length else 0) 0 +
    ((List.range 72).filter (fun i => m.pwr.training.any (fun q => q.1 == i / 4 && has q.2 (i % 4)))).length

/-- The capability of R393, in percent. -/
def capability (m : Mach) : Nat :=
  let n := (List.range 12).foldl (fun a s => a + ctlRate (getCtl m s)) 0
  let f := (List.range 16).foldl (fun a p => a + ctlRate (getCtl m (16 + p))) 0
  min (min (100 * arraysPresent m / 1024) (100 * n / 120000)) (min (100 * f / 160000) (100 * lanesUp m / 72))

/-- Tears every slot in use down. (DEDUCED, log entry 16) -/
def teardownAll (m : Mach) (trigger : Nat) : Mach := (List.range 16).foldl (fun m c => startTeardown m c trigger) m

/-- Tears every slot in use down as an event asks for it, once the caravaneer runs (R34). -/
def askTeardownAll (m : Mach) (trigger : Nat) : Mach := (List.range 16).foldl (fun m c => askTeardown m c trigger) m

/-- The key under which the caravaneer holds the counter of flag `k` of block `p` (R429). -/
def heldKey (p k : Nat) : Nat := p * 0x10000 + k

/-- Zeroes held counters of blocks: the running count of the moment is the reference (R429). -/
def zeroHeldBy (mine : Nat → Bool) (m : Mach) : Mach :=
  let refs := m.blocks.flatMap (fun e => (e.2.occ.filter (fun o => mine (heldKey e.1 o.1))).map (fun o => (heldKey e.1 o.1, o.2.toNat)))
  let kept := m.mgmt.held.filter (fun e => !mine e.1)
  { m with mgmt := { m.mgmt with held := refs.foldl (fun t q => tset (0, 0) t q.1 (q.2, 0)) kept } }

/-- Zeroes the held counters of a block, with the flags they count (R429). -/
def zeroBlkHeld (p : Nat) (m : Mach) : Mach := zeroHeldBy (fun k => k < 0x100000000 && k / 0x10000 == p) m

/-- A block after its reset (Table 15.5): all but the running occurrence counts, which nothing clears (R429). -/
def freshBlk (b : Blk) : Blk := { blkReset with occ := b.occ }

/-- The regions are power-gated with the tiers in self-refresh (R411, R475): what blocks hold is lost, and scratchpads read zero
afterwards. -/
def gateRegions (m : Mach) : Mach :=
  let ctls := m.tier.ctls.map (fun e => (e.1, if e.2.st = 1 then { e.2 with st := 2 } else e.2))
  let blks := (m.blocks.map (fun e => (e.1, freshBlk e.2))).filter (fun e => e.2 != blkReset)
  let m := zeroHeldBy (fun k => k < 0x100000000) m
  { m with blocks := blks, tier := { m.tier with ctls := ctls }, mem := m.mem.filter (fun e => e.1 < spBase),
           poison := m.poison.filter (fun e => e.1 < spBase) }

/-- Every link is held down (R411). -/
def holdLinks (m : Mach) : Mach :=
  let off := fun (x : LinkS) =>
    ({ linkReset with
        failed := x.failed, replay := x.replay, fec := x.fec, down := if x.st = .down then x.down else satAdd x.down 1,
        downSince := some (now m), bktOut := x.bktOut, bktIn := x.bktIn } : LinkS)
  { m with fab := { m.fab with links := m.fab.links.map (fun e => (e.1, off e.2)) } }

/-- Takes the module out of service (R410, R411): contexts go, regions are power-gated, links are held down, FAULT# is driven low
(R467). -/
def goOut (m : Mach) (reason : Nat) : Mach :=
  if m.rst.oos then m else
  let m := { m with rst := { m.rst with oos := true, reason := reason } }
  let m := askTeardownAll m 0x5004
  let m := holdLinks (gateRegions m)
  let m := flashWrite { m with pcie := { m.pcie with faultLow := true } } 0
  report m 0x5004 clsInfo (unitChip 5) none 0 0 (leBytes 1 reason)

/-- The comparison of R393, made at each loss beyond the pools and at each write of the floor. (DEDUCED, log entry 13; DEDUCED, log entry 38) -/
def compareFloor (m : Mach) (loss : Bool) : Mach :=
  let cap := capability m
  if cap < m.health.floor then goOut { m with health := { m.health with replace := true } } 2
  else if loss then
    report { m with health := { m.health with reduced := true } } 0x5002 clsInfo (unitChip 5) none 0 0 (leBytes 1 cap)
  else m

/-- The record of a retraining after a fault (R388) that moved no byte; how long it took is not the model's to know. (DEDUCED, log entry 103) -/
def recoveryRec (m : Mach) (unit : Nat) : Mach :=
  report (freeStep m 1) 0x1005 clsCorrected unit none 0 0 (leBytes 8 0 ++ leBytes 8 (Config.freeNat m.freeCtr))

/-! ### Quarantine -/

/-- The lowest free spare of a region (R26). -/
def lowestSpare (x : Rgn) : Option Nat := match x.spares with | [] => none | d :: ds => some (ds.foldl min d)

/-- Takes physical block `p` out of the map (R26 to R28, Table 14.3 step 3): the lowest free spare, zeroed, takes its
array, or the array becomes absent. Requests queued at the old block are answered with errors (R28). The array it carried and its new block are
answered. -/
def substitute (m : Mach) (p : Nat) : Mach × Option (Nat × Option Nat) :=
  let m := answerBanks m p
  match arrayOf m p with
  | none => (modRgn' m (p / 272) (p % 272), none)
  | some a =>
    let r := p / 272
    let x := getRgn m r
    match lowestSpare x with
    | some s =>
      let q := 272 * r + s
      let m := zeroRange m (spAddr q 0) 0x100000
      let m := setRgn m r { x with map := tset noMap x.map (a % 256) { valid := true, subst := true, phys := s },
                                   spares := delNat s x.spares, gen := x.gen + 1 }
      (zeroBlkHeld q (modBlk m q freshBlk), some (a, some q))
    | none =>
      let e := tget noMap x.map (a % 256)
      (setRgn m r { x with map := tset noMap x.map (a % 256) { e with valid := false }, absent := x.absent + 1, gen := x.gen + 1 },
       some (a, none))
where
  /-- A block that carries no array leaves the spares. -/
  modRgn' (m : Mach) (r b : Nat) : Mach := let x := getRgn m r; setRgn m r { x with spares := delNat b x.spares }

/-- Steps 3 and 4 of a quarantine, which are the caravaneer's (Table 14.3): substitution, and an event to each context concerned. -/
def substituteFor (m : Mach) (p : Nat) (cs : List Nat) : Mach :=
  let r := substitute m p
  let m := r.1
  match r.2 with
  | some (a, some q) =>
    let holder := (getBlk m p).seq.holder
    let m := modBlk m q (fun b => { b with seq := { b.seq with holder := holder } })
    cs.foldl (fun m c => reportCtx m 0x200B (unitBlk p 0) c a (leBytes 2 p ++ leBytes 2 q)) m
  | some (a, none) =>
    compareFloor (cs.foldl (fun m c => reportCtx m 0x200B (unitBlk p 0) c a (leBytes 2 p ++ leBytes 2 0xFFFF)) m) true
  | none => m

/-- The items of one engine of a block end: those in progress are over, and their waybills end with RUN_HALTED. -/
def endItems (m : Mach) (p e : Nat) : Mach :=
  (getBlk m p).seq.running.foldl (fun m w =>
    match getMan m w.ctx w.man with
    | none => m
    | some x =>
      let body := bodyOf x.img w.wb
      let hit := (List.range body.length).filter (fun i =>
        w.items.getD i .done == .issued && (match body[i]? with | some it => engineOf it == e | none => false))
      if hit.isEmpty then m else endWb (hit.foldl (fun m i => markItem m p w.stream i .done) m) p w.stream cRunHalted) m

/-- Drops the requests an engine of a block has sent out: their responses are discarded (R403). -/
def dropOut (m : Mach) (p e : Nat) : Mach :=
  let mine := fun (h : Holder) => match h with
    | .vector q => q == p && e == 1
    | .premutar q => q == p && e == 2
    | _ => false
  { m with fab := { m.fab with out := m.fab.out.filter (fun o => !mine o.holder) } }

/-- The state of an engine is discarded (Table 15.5 rung 2): 0 array and drain, 1 vector engine, 2 Premutar, 3 check-value unit. -/
def dropEngine (b : Blk) (e : Nat) : Blk :=
  match e with
  | 0 => { b with arr := { b.arr with groups := [], queue := [], running := none } }
  | 1 => { b with ve := { b.ve with running := none, late := [] } }
  | 2 => { b with pm := { b.pm with flight := [], held := [], stalled := none, hist := [] } }
  | _ => { b with cv := { b.cv with frameQ := [], started := false } }

/-- The requests a block behind its cordon has sent out are answered to nobody (R403): their responses are discarded, and the engine that
waits for them gives up its work. (DEDUCED, log entry 102) -/
def dropAwaited (m : Mach) (p : Nat) : Mach :=
  [1, 2].foldl (fun m e =>
    let n := dropOut m p e
    if n.fab.out.length = m.fab.out.length then m else modBlk (endItems n p e) p (fun b => dropEngine b e)) m

/-- Quarantines a block (R378): cordon and halts at once; substitution and events once the caravaneer runs (R34). (DEDUCED, log entry 71) -/
def quarantine (m : Mach) (p : Nat) : Mach :=
  if has m.health.retired p then m else
  let m := dropAwaited (endAllOn (modBlk m p (fun b => { b with cordon := true })) p) p
  let cs := match arrayOf m p with
    | some a => (sharersOf m a).filter (fun c => (List.range 16).any (fun k => match getMan m c k with | some x => manOn x a | none => false))
    | none => []
  let m := match arrayOf m p with
    | some a => cs.foldl (fun m c => haltOnArray m c a) m
    | none => m
  let m := flashWrite { m with health := { m.health with retired := insNat p m.health.retired } } 0
  if mpStopped m then waitForMp m (.substitute p cs) else substituteFor m p cs

/-- Nanoseconds of an hour. -/
def hourNs : Nat := 3600000000000

/-- The times of a list within a window before now. -/
def within (m : Mach) (span : Nat) (ts : List Nat) : List Nat := ts.filter (fun t => now m - t < span)

/-- The quarantine history of a block. -/
def getHist (m : Mach) (p : Nat) : QHist := tget noQHist m.health.hist p
/-- Changes the quarantine history of a block. -/
def modHist (m : Mach) (p : Nat) (f : QHist → QHist) : Mach :=
  { m with health := { m.health with hist := tmod noQHist m.health.hist p f } }

/-- A mismatch of residues, lockstep or duplicated logic counted for the health score. -/
def noteMismatch (m : Mach) : Mach :=
  { m with health := { m.health with evMis := within m (24 * hourNs) m.health.evMis ++ [now m] } }

/-- A residue mismatch of a block's array or vector engine (R377): the second within 24 h quarantines the block. -/
def noteResidue (m : Mach) (p : Nat) : Mach :=
  let ts := within m (24 * hourNs) (getHist m p).residue ++ [now m]
  let m := noteMismatch (modHist m p (fun h => { h with residue := ts }))
  if 2 ≤ ts.length then quarantine m p else m

/-- An uncorrectable memory event counted for the health score (Table 14.9). -/
def noteUnc (m : Mach) : Mach :=
  { m with health := { m.health with evUnc := within m (24 * hourNs) m.health.evUnc ++ [now m] } }

/-- An uncorrectable error destroys state a context cannot continue without (R379): one record of the detection (R376), counted for the health score, and
the context is torn down. -/
def stateLost (m : Mach) (c unit : Nat) : Mach := askTeardown (noteUnc (logRec m (Config.logCode 6) clsContained unit 0 0 (some c) [])) c 0x2002

/-- An uncorrectable granule of a block's scratchpad (R377): the second within 24 h quarantines the block. -/
def noteSpUnc (m : Mach) (p : Nat) : Mach :=
  let ts := within m (24 * hourNs) (getHist m p).unc ++ [now m]
  let m := noteUnc (modHist m p (fun h => { h with unc := ts }))
  if 2 ≤ ts.length then quarantine m p else m

/-- A correction in a bank (R377): more than 4,096 of one bank within an hour quarantine the block. -/
def noteSpCorr (m : Mach) (p bank : Nat) : Mach :=
  let ts := ((getHist m p).corr.filter (fun q => now m - q.2 < hourNs)) ++ [(bank, now m)]
  let m := modHist m p (fun h => { h with corr := ts })
  if 4096 < (ts.filter (fun q => q.1 == bank)).length then quarantine m p else m

/-- COLLECTIVE_TRIGGER: what the trigger of a convoy slot does; `bad` says that the engine finds the slot's state uncorrectable, which its context does not
survive (R379). -/
def convTrigger (n : Nat) (bad : Bool) (m : Mach) : Mach :=
  if bad && convLive m (getConv m n) then stateLost m ((getConv m n).rc.ctx / 4096) (unitChip 2) else collectiveTrigger n m

end Sys2Proof.Machine
end

