-- ==== Sys2Proof/Machine/Array.lean ====
section
/-! DEFINITION. The array (chapter 3): ARRAY_OP, ARRAY_OP_COMPLETE, DRAIN, DRAIN_COMPLETE, DISCARD. -/

namespace Sys2Proof.Machine

/-- Row-tiles and column-tiles of a shape (Table 3.2). -/
def shapeOf (s : Nat) : Nat × Nat :=
  match s with
  | 0 => (1, 1)
  | 1 => (1, 2)
  | 2 => (2, 1)
  | 3 => (2, 2)
  | 4 => (1, 4)
  | 5 => (4, 1)
  | 6 => (2, 4)
  | _ => (4, 2)

/-- Whether a pairing opens integer groups (R88). -/
def isIntPairing (p : Nat) : Bool := p == 2 || p == 3

/-- Bytes of an operand element (Table 2.1). -/
def pairBytes (p : Nat) : Nat := if p = 1 then 4 else 2

/-- Group `g` of an array. -/
def getGroup (a : ArrSt) (g : Nat) : Group := tget freeGroup a.groups g
/-- Puts group `g`. -/
def setGroup (a : ArrSt) (g : Nat) (x : Group) : ArrSt := { a with groups := tset freeGroup a.groups g x }
/-- Changes the array of a block. -/
def modArr (b : Blk) (f : ArrSt → ArrSt) : Blk := { b with arr := f b.arr }

/-- The offset in the stride of element (row `i`, K index `k`) of row-tile `r` on one operand side (R85, R150): a narrow
side reads G32 tiles, a wide side two half-tiles in consecutive banks. -/
def sideOff (sd : ArraySide) (wide : Bool) (e r i k : Nat) : Nat :=
  let t := sd.base + (k / 32) * sd.kstride + r * sd.tstride
  if wide then t + (i / 16) * 0x20000 + (i % 16) * 32 * e + (k % 32) * e
  else t + i * 32 * e + (k % 32) * e

/-- The offset of the fine-scale byte of (row `i`, block of `k`) of row-tile `r` (R151, R85). -/
def sideScaleOff (sd : ArraySide) (wide : Bool) (r i k : Nat) : Nat :=
  sd.scale + 32 * (((k / 32) * sd.kstride + r * sd.tstride) / (if wide then 1024 else 2048)) + i

/-- One operand element. -/
def sideElem (m : Mach) (p : Nat) (sd : ArraySide) (wide : Bool) (e r i k : Nat) : Nat :=
  rdNat m (spAddr p (sideOff sd wide e r i k)) e

/-- The fine scale of one operand fragment (R50, R56): 0 for an operand that is not SH16. -/
def sideFine (m : Mach) (p : Nat) (sd : ArraySide) (wide sh : Bool) (r i k : Nat) : Option Int :=
  if sh then fineScale (rdByte m (spAddr p (sideScaleOff sd wide r i k))) else some 0

/-- The sum of two fine scales, none where either is invalid. -/
def fineSum : Option Int → Option Int → Option Int
  | some a, some b => some (a + b)
  | _, _ => none

/-- The stored residue of an entry (R82, R98): of the magnitude of an integer, of the significand of a float. -/
def entryRes (isInt : Bool) (v : Nat) : Nat :=
  if isInt then (signed v 32).natAbs % 7
  else match decodeF fp32 v with
    | .fin _ s _ _ => s % 7
    | _ => 0

/-- One K-step of a 16-bit or FP32 float pairing into an entry (R53 to R60). -/
def stepFloat (m : Mach) (p : Nat) (o : ArrayOp) (r c i j : Nat) (e : Entry) (t : Nat) : Entry :=
  let f32 := o.pairing = 1
  let f := if f32 then fp32 else fp16
  let w := pairBytes o.pairing
  let ks := if f32 then [t] else [4 * t, 4 * t + 1, 4 * t + 2, 4 * t + 3]
  let ps := ks.map (fun k =>
    cellProduct f (sideElem m p o.a (o.wide == 1) w r i k) (sideElem m p o.b (o.wide == 2) w c j k))
  let part :=
    if f32 then ps.getD 0 .nan
    else cyclePartial (fineSum (sideFine m p o.a (o.wide == 1) o.shA r i (4 * t))
        (sideFine m p o.b (o.wide == 2) o.shB c j (4 * t))) ps
  let v := accumF (if e.fresh then 0 else e.val) part
  { val := v, res := entryRes false v, sat := false, fresh := false }

/-- One K-step of an integer pairing into an entry (R70). -/
def stepInt (m : Mach) (p : Nat) (o : ArrayOp) (r c i j : Nat) (e : Entry) (t : Nat) : Entry :=
  let s := ([4 * t, 4 * t + 1, 4 * t + 2, 4 * t + 3].map (fun k =>
    signed (sideElem m p o.a (o.wide == 1) 2 r i k) 16 * signed (sideElem m p o.b (o.wide == 2) 2 c j k) 16)).foldl
      (· + ·) 0
  let a := accumI (if e.fresh then 0 else signed e.val 32) e.sat s
  let v := unsign a.1 32
  { val := v, res := entryRes true v, sat := a.2, fresh := false }

/-- The K-steps of a pass (R84). -/
def kSteps (o : ArrayOp) : Nat := if o.pairing = 1 then o.k else o.k / 4

/-- The whole pass of one cell (R84, R87): K-steps in increasing order. -/
def runCell (m : Mach) (p : Nat) (o : ArrayOp) (r c i j : Nat) (e : Entry) : Entry :=
  (List.range (kSteps o)).foldl (fun e t =>
    if isIntPairing o.pairing then stepInt m p o r c i j e t else stepFloat m p o r c i j e t) e

/-- The pass of one group: row-tile `r`, column-tile `c`, and `valid` rows (R103). -/
def runGroup (m : Mach) (p : Nat) (o : ArrayOp) (r c valid : Nat) (g : Group) : Group :=
  let cells := (List.range valid).foldl (fun cs i =>
    (List.range 32).foldl (fun cs j =>
      tset freshEntry cs (32 * i + j) (runCell m p o r c i j (tget freshEntry cs (32 * i + j)))) cs) g.cells
  { g with cells := cells, t := g.t + kSteps o }

/-- The entries LOAD gives a group (R89): line k is tile row k, 128 B at the group's load address. -/
def loadCells (m : Mach) (p a : Nat) (isInt : Bool) : Tbl Entry :=
  (List.range 1024).foldl (fun cs n =>
    let v := rdNat m (spAddr p (a + 4 * n)) 4
    tset freshEntry cs n { val := v, res := entryRes isInt v, sat := false, fresh := false }) []

/-- The valid rows of row-tile `i` of a bound waybill (R222): those of tile `t + i` of the run's work list. -/
def boundRows (m : Mach) (w : RunWb) (i : Nat) : Option Nat :=
  match (getCtx m w.ctx).sv.conf with
  | none => none
  | some f =>
    if f.man != w.man then none else
    match f.binds.find? (fun q => q.1 == w.wb), (getMan m w.ctx w.man).bind (fun x => getRun x w.run) with
    | some q, some r => some (match r.tiles[q.2 + i]? with | some t => t.rows.length | none => 0)
    | _, _ => none

/-- What opening one group finds (R90, Table 3.4). -/
inductive OpenRes where
  | ok | wait | bad
  deriving DecidableEq, Repr

/-- Whether a group belongs to an owner (R88). -/
def ownsGroup (g : Group) (w : RunWb) (grp : Nat) : Bool := g.ctx == w.ctx && g.stream == w.stream && g.grp == grp

/-- The waybill group of a running waybill. -/
def wbGroup (m : Mach) (w : RunWb) : Nat :=
  match getMan m w.ctx w.man with
  | some x => (wbOf x.img w.wb).group
  | none => 0

/-- Whether group `g` may be opened in mode `md` (0 ZERO, 1 LOAD, 2 CONTINUE). -/
def canOpen (g : Group) (w : RunWb) (grp md : Nat) (isInt : Bool) : OpenRes :=
  if md = 2 then (if g.st = .opened && ownsGroup g w grp && g.isInt == isInt then .ok else .bad)
  else match g.st with
    | .free => .ok
    | .closing => .wait
    | _ => .bad

/-- Whether any byte an operand side reads is poisoned (R121). -/
def sidePoison (m : Mach) (p : Nat) (o : ArrayOp) (sd : ArraySide) (wide sh : Bool) (tiles rows : Nat) : Bool :=
  (List.range tiles).any (fun r => (List.range rows).any (fun i => (List.range (ceilDiv o.k 32)).any (fun kt =>
    rdPoison m (spAddr p (sideOff sd wide (pairBytes o.pairing) r i (32 * kt))) (32 * pairBytes o.pairing) ||
      (sh && rdPoison m (spAddr p (sideScaleOff sd wide r i (32 * kt))) 1))))

/-- Whether the next residue mismatch of a block's array quarantines it: the second within 24 h (R377). -/
def residueAgain (m : Mach) (p : Nat) : Bool := !(within m (24 * hourNs) (getHist m p).residue).isEmpty

/-- A residue mismatch (R100): the group becomes FAULTED, the mismatch is counted and flagged, and the alert raised. The waybill that drains the group ends
with ARITH_RESIDUE when its drain runs. A second mismatch within 24 h quarantines the block (R377), and the waybill that caused it ends with its code at
once (Table 14.3). -/
def residueMismatch (m : Mach) (p : Nat) (w : RunWb) (g : Nat) : Mach :=
  let m := modBlk m p (fun b =>
    let b := modArr b (fun a => { setGroup a g { getGroup a g with st := .faulted } with residue := satAdd a.residue 1 })
    setTileFlag b w.ctx 3)
  let m := if residueAgain m p then endWb m p w.stream cArithResidue else m
  let m := reportCtx m 0x2001 (unitBlk p 1) w.ctx ((arrayOf m p).getD 0) (leBytes 4 w.wb ++ leBytes 1 g)
  noteResidue m p

/-- Whether an item is an array operation. -/
def isArrayOp (it : Item) : Bool := match it with | .arrayOp _ => true | _ => false
/-- Whether an item is a drain. -/
def isDrain (it : Item) : Bool := match it with | .drain _ => true | _ => false
/-- Whether an item is a DISCARD. -/
def isDiscard (it : Item) : Bool := match it with | .discard _ => true | _ => false

/-- The numbers of the groups of an operation, counted from its base. -/
def opGroups (o : ArrayOp) : List Nat := List.range ((shapeOf o.shape).1 * (shapeOf o.shape).2)

/-- What opening each group of an operation comes to. -/
def opOpens (m : Mach) (b : Blk) (w : RunWb) (o : ArrayOp) : List OpenRes :=
  (opGroups o).map (fun i => canOpen (getGroup b.arr (o.base + i)) w (wbGroup m w) (nthN o.opens i) (isIntPairing o.pairing))

/-- The valid rows of each row-tile of an operation (R84, R222). -/
def opRows (m : Mach) (w : RunWb) (o : ArrayOp) : List Nat :=
  (List.range (shapeOf o.shape).1).map (fun i => (boundRows m w i).getD (nthN o.rows i))

/-- Opens or continues group `i` of an operation in an array's state, and runs the operation's pass over it (R80 to R91). -/
def passGroup (m : Mach) (p : Nat) (w : RunWb) (o : ArrayOp) (a : ArrSt) (i : Nat) : ArrSt :=
  let uv := shapeOf o.shape
  let isInt := isIntPairing o.pairing
  let g := o.base + i
  let g0 : Group := { st := .opened, ctx := w.ctx, stream := w.stream, grp := wbGroup m w, isInt := isInt, t := 0, cells := [] }
  let x := if nthN o.opens i = 2 then getGroup a g
    else if nthN o.opens i = 1 then { g0 with cells := loadCells m p (o.loadBase + 4096 * i) isInt } else g0
  setGroup a g (runGroup m p o (i / uv.2) (i % uv.2) (nthN (opRows m w o) (i / uv.2)) x)

/-- Whether any byte an operation reads is poisoned (R121). -/
def opPoison (m : Mach) (p : Nat) (o : ArrayOp) : Bool :=
  sidePoison m p o o.a (o.wide == 1) o.shA (shapeOf o.shape).1 32 || sidePoison m p o o.b (o.wide == 2) o.shB (shapeOf o.shape).2 32 ||
    (opGroups o).any (fun i => nthN o.opens i == 1 && rdPoison m (spAddr p (o.loadBase + 4096 * i)) 4096)

/-- Starts array operation `ix` of a running waybill: its groups take their values, it is in the array, and its cycles are counted (R80 to
R91, R102, R396). Poison among what it reads ends the waybill; `mism` as for ARRAY_OP. -/
def startArray (m : Mach) (p : Nat) (w : RunWb) (ix : Nat) (o : ArrayOp) (mism : Option Nat) : Mach :=
  let uv := shapeOf o.shape
  let cyc := uv.1 * uv.2 * kSteps o
  let rcyc := ((opRows m w o).foldl (· + ·) 0) * uv.2 * kSteps o
  let arr := (opGroups o).foldl (passGroup m p w o) (getBlk m p).arr
  let m1 := modBlk m p (fun b => modArr b (fun _ =>
    { arr with running := some (refOf w ix, o.wide), busy := satAdd arr.busy cyc, rowCycles := satAdd arr.rowCycles rcyc }))
  let m1 := markItem m1 p w.stream ix .issued
  let m1 := acctAdd (acctAdd m1 w.ctx (w.stream - 1) cyc) w.ctx 3 rcyc
  let m1 := if opPoison m p o then endWb m1 p w.stream cSpUncorrectable else m1
  match mism with
  | some g => if has ((opGroups o).map (o.base + ·)) g then residueMismatch m1 p w g else m1
  | none => m1

/-- Starts an array operation whose load stands behind jobs of the drain unit (R89, R95): its groups open, the load is queued, and its K-steps wait. All
LOAD groups of an operation are one load and take one of the eight places. (DEDUCED, log entry 105) -/
def queueLoad (m : Mach) (p : Nat) (w : RunWb) (ix : Nat) (o : ArrayOp) (mism : Option Nat) : Mach :=
  let g0 : Group := { st := .opened, ctx := w.ctx, stream := w.stream, grp := wbGroup m w, isInt := isIntPairing o.pairing, t := 0, cells := [] }
  let m := modBlk m p (fun b => modArr b (fun a =>
    let a := (opGroups o).foldl (fun a i => if nthN o.opens i = 2 then a else setGroup a (o.base + i) g0) a
    { a with running := some (refOf w ix, o.wide), queue := a.queue ++ [.load (refOf w ix) o mism] }))
  markItem m p w.stream ix .issued

/-- What became of the groups of an operation while its load was queued stands: a drain issued meanwhile left them CLOSING, a discard FREE. -/
def keepStates (before : ArrSt) (o : ArrayOp) (a : ArrSt) : ArrSt :=
  (opGroups o).foldl (fun a i =>
    let x := getGroup before (o.base + i)
    let y := getGroup a (o.base + i)
    if x.st = .free then setGroup a (o.base + i) freeGroup
    else if y.st = .opened then setGroup a (o.base + i) { y with st := x.st } else a) a

/-- The load at the front of the drain unit runs, and with it the pass of its operation. -/
def runLoad (m : Mach) (p : Nat) : Mach :=
  match (getBlk m p).arr.queue with
  | .load r o mism :: rest =>
    let m := modBlk m p (fun b => modArr b (fun a => { a with queue := rest }))
    match runningOn (getBlk m p) r.stream with
    | some w =>
      let before := (getBlk m p).arr
      modBlk (startArray m p w r.item o mism) p (fun b => modArr b (keepStates before o))
    | none => m
  | _ => m

/-- ARRAY_OP: the next array operation of the stream's waybill opens its groups and runs its pass (R80 to R91); an operation with a LOAD group takes its turn
in the drain unit.
`mism` names the group on which a residue check fails, if one does. (DESIGN CHOICE, log entry 48) -/
def arrayOp (p stream : Nat) (mism : Option Nat) (m : Mach) : Mach :=
  let b := getBlk m p
  match runningOn b stream with
  | none => m
  | some w =>
    match nextItem m w isArrayOp with
    | some (ix, .arrayOp o) =>
      if b.arr.running.isSome then m
      else if (opOpens m b w o).any (· == .bad) then endWb m p stream cGroupState
      else if (opOpens m b w o).any (· == .wait) then m
      else if has o.opens 1 && 8 ≤ b.arr.queue.length then m
      else if has o.opens 1 && !b.arr.queue.isEmpty then queueLoad m p w ix o mism
      else startArray m p w ix o mism
    | _ => m

/-- Whether the running operation of an array still waits for its load behind other jobs of the drain unit. -/
def loadWaits (a : ArrSt) : Bool := a.queue.any (fun j => match j with | .load _ _ _ => true | .drain _ => false)

/-- ARRAY_OP_COMPLETE: the last K-step of the running operation is written back (R188). An operation whose load is still queued runs it first, once it
stands at the front. -/
def arrayOpComplete (p : Nat) (m : Mach) : Mach :=
  let m := runLoad m p
  if loadWaits (getBlk m p).arr then m else
  match (getBlk m p).arr.running with
  | none => m
  | some q =>
    markItem (modBlk m p (fun b => modArr b (fun a => { a with running := none }))) p q.1.stream q.1.item .done

/-! ### Drain -/

/-- Whether a group's kind can take an output format (R93): 0 FP32, 2 FP16, 3 SH16 for floats; 4 INT32, 5 INT16. -/
def kindTakes (isInt : Bool) (fmt : Nat) : Bool := if isInt then fmt == 4 || fmt == 5 else fmt == 0 || fmt == 2 || fmt == 3

/-- Bytes of an output element. -/
def outBytes (fmt : Nat) : Nat := if fmt = 0 || fmt = 4 then 4 else 2

/-- The coarse scale of a tensor of a posted manifest. -/
def coarseOf (m : Mach) (c k t : Nat) : Nat :=
  match getMan m c k with
  | some x => (x.img.tensors.getD t noTensor).coarse
  | none => 0

/-- Whether a drain names a group it may not drain: one that is FREE or CLOSING, another owner's, or of a kind its format does not take (R93). -/
def drainBad (m : Mach) (b : Blk) (w : RunWb) (o : DrainOp) : Bool :=
  o.groups.any (fun g =>
    let x := getGroup b.arr g
    x.st == .free || x.st == .closing || !ownsGroup x w (wbGroup m w) || !kindTakes x.isInt o.outFmt)

/-- The job of a drain: its valid rows as R222 binds them, the coarse scales its tensors have now (R94), and the groups it will drain. -/
def drainJob (m : Mach) (b : Blk) (w : RunWb) (ix : Nat) (o : DrainOp) (mism : Option (Nat × Nat)) : DrainJob :=
  let o' := match boundRows m w 0 with
    | some r => if o.col then { o with nv := r } else { o with mv := r }
    | none => o
  { ref := refOf w ix, op := o', ca := coarseOf m w.ctx w.man o.ca, cb := coarseOf m w.ctx w.man o.cb,
    co := coarseOf m w.ctx w.man o.co, seedWb := w.seedWb,
    live := o.groups.filter (fun g => (getGroup b.arr g).st == .opened), stop := mism }

/-- Queues a drain: its OPEN groups become CLOSING (R93). -/
def queueDrain (m : Mach) (p : Nat) (w : RunWb) (ix : Nat) (o : DrainOp) (mism : Option (Nat × Nat)) : Mach :=
  let job := drainJob m (getBlk m p) w ix o mism
  let m := modBlk m p (fun b => modArr b (fun a =>
    let a := o.groups.foldl (fun a g =>
      let x := getGroup a g
      if x.st = .opened then setGroup a g { x with st := .closing } else a) a
    { a with queue := a.queue ++ [.drain job] }))
  markItem m p w.stream ix .issued

/-- DRAIN: the next drain item of the stream's waybill is issued: its groups become CLOSING and it is queued
(R93 to R96). `mism` names a group and line at which a residue check fails when the drain runs, if one does. (DESIGN CHOICE, log entry 48) -/
def drainIssue (p stream : Nat) (mism : Option (Nat × Nat)) (m : Mach) : Mach :=
  let b := getBlk m p
  match runningOn b stream with
  | none => m
  | some w =>
    match nextItem m w isDrain with
    | some (ix, .drain o) =>
      if drainBad m b w o then endWb m p stream cGroupState
      else if 8 ≤ b.arr.queue.length then m
      else queueDrain m p w ix o mism
    | _ => m

/-- What draining the lines of one tile answers so far. -/
structure TileOut where
  m : Mach
  gens : List (Nat × W32)
  nonfinite : Bool
  first : Option Nat
  saturated : Bool
  sum : TileSum

/-- The larger of two non-negative FP32 patterns. -/
def maxBits (a b : Nat) : Nat := if a < b then b else a

/-- |x| rounded toward +∞ to FP32, for a finite value (R329). -/
def roundUp32 (v : Val) : Nat :=
  match v with
  | .fin _ k e _ =>
    if k = 0 then 0 else
      let r := rne fp32 (.fin false k e false)
      if vcmp (decodeF fp32 r) (.fin false k e false) = some (-1) then r + 1 else r
  | _ => 0

/-- Adds one written float element to a tile summary (Table 12.2): its stored value, its magnitude in units of `co`
already applied, and whether it counts as saturated or underflowed. -/
def sumElem (s : TileSum) (bits : Nat) (f : Fmt) (mag : Val) (sat under : Bool) : TileSum :=
  { s with elements := s.elements + 1, zeros := s.zeros + b2n (bits % 2 ^ (fmtWidth f - 1) == 0),
           saturated := s.saturated + b2n sat, nonfinite := s.nonfinite + b2n (isNonfinite f bits),
           underflow := s.underflow + b2n under,
           amax := if isNonfinite f bits then s.amax else maxBits s.amax (roundUp32 mag) }

/-- The generator of drain lane `l` while a job runs (R68). -/
def jobGen (m : Mach) (p : Nat) (j : DrainJob) (step : Nat) (gens : List (Nat × W32)) (l : Nat) : W32 :=
  tget (laneSeed (getCtx m j.ref.ctx).par.seed step (256 * ((arrayOf m p).getD 0) + l) j.seedWb) gens l

/-- One line of a float drain to FP32 or FP16 (R63 to R65, R94). -/
def drainLineF (p : Nat) (j : DrainJob) (step dst line : Nat) (g : Group) (t : TileOut) : TileOut :=
  let o := j.op
  let f := if o.outFmt = 0 then fp32 else fp16
  let e := outBytes o.outFmt
  let scale := drainScale j.ca j.cb j.co
  let valid := if o.col then o.mv else o.nv
  let t1 := (List.range valid).foldl (fun (q : TileOut × List Nat) l =>
    let t := q.1
    let cell := tget freshEntry g.cells (if o.col then 32 * l + line else 32 * line + l)
    let gen := jobGen t.m p j step t.gens l
    let v : Val := match scale with
      | some k => drainVal cell.val k
      | none => .nan
    let r := roundF f (if o.stochastic then .stochastic else .rne) gen v
    let stored := decodeF f r.bits
    let past := isNonfinite f r.bits && !valNonfinite v
    let big := f == fp16 && !isNonfinite f r.bits && 0x7800 ≤ r.bits % 0x8000
    let zero := r.bits % 2 ^ (fmtWidth f - 1) == 0 && (match v with | .fin _ k _ _ => k != 0 | _ => false)
    ({ t with gens := tput l r.gen t.gens,
              first := if isNonfinite f r.bits && t.first.isNone then some (32 * line + l) else t.first,
              sum := sumElem t.sum r.bits f (vmul stored (decodeF fp32 j.co)) (past || big) zero },
     q.2 ++ [r.bits])) (t, [])
  let nf := t1.2.any (isNonfinite f)
  let m := wrBytes t.m (spAddr p (dst + line * o.lineStride)) (t1.2.map (leBytes e)).flatten
  { t1.1 with nonfinite := t.nonfinite || nf,
              m := if nf then modBlk m p (fun b => setTileFlag b j.ref.ctx 0) else m }

/-- The offset of the fine-scale byte of a line of the tile at `dst` (R151, R93): the scale plane is addressed against the
drain's first destination tile. A posted drain's is not negative (R93). DEDUCED (log entry 9). -/
def drainScaleInt (o : DrainOp) (dst line : Nat) : Int :=
  (o.dstScale : Int) + 32 * (((dst : Int) - (nthN o.dst 0 : Int)) / 2048) + (line : Int)

/-- That offset as a place in the stride. -/
def drainScaleOff (o : DrainOp) (dst line : Nat) : Nat := (drainScaleInt o dst line).toNat

/-- One line of an SH16 drain (R69, R93): 32 elements and the fine-scale byte of the line, which is written as a byte of its granule. (DEDUCED, log
entry 9; DEDUCED, log entry 105) -/
def drainLineSh (p : Nat) (j : DrainJob) (step dst line : Nat) (g : Group) (t : TileOut) : TileOut :=
  let o := j.op
  let scale := drainScale j.ca j.cb j.co
  let valid := if o.col then o.mv else o.nv
  let vs := (List.range 32).map (fun l =>
    if valid ≤ l then none else
      let cell := tget freshEntry g.cells (if o.col then 32 * l + line else 32 * line + l)
      some (match scale with | some k => drainVal cell.val k | none => .nan))
  let gens := (List.range 32).map (jobGen t.m p j step t.gens)
  let run := shEncode (if o.stochastic then .stochastic else .rne) scale.isNone vs gens
  let m := wrBytes t.m (spAddr p (dst + line * o.lineStride)) (run.elems.reduceOption.map (leBytes 2)).flatten
  let m := wrBytes m (spAddr p (drainScaleOff o dst line)) [run.scale]
  let clamped := run.scale == 127 && (match runTop vs with | some top => 141 < top | none => false)
  let exp := (fineScale run.scale).getD 0
  let sum := (vs.zip run.elems).foldl (fun s q =>
    match q.2 with
    | some x => sumElem s x fp16 (vscale exp (vmul (decodeF fp16 x) (decodeF fp32 j.co))) clamped (becameZero q.1 q.2)
    | none => s) t.sum
  let gens' := (List.range 32).foldl (fun gs l => tput l (run.gens.getD l 0) gs) t.gens
  let nf := run.nonfinite.isSome
  { t with m := if nf then modBlk m p (fun b => setTileFlag b j.ref.ctx 0) else m, gens := gens',
           nonfinite := t.nonfinite || nf,
           first := if t.first.isNone then run.nonfinite.map (32 * line + ·) else t.first, sum := sum }

/-- One line of an integer drain (R70, R71). -/
def drainLineI (p : Nat) (j : DrainJob) (dst line : Nat) (g : Group) (t : TileOut) : TileOut :=
  let o := j.op
  let e := outBytes o.outFmt
  let valid := if o.col then o.mv else o.nv
  let rs := (List.range valid).map (fun l =>
    let cell := tget freshEntry g.cells (if o.col then 32 * l + line else 32 * line + l)
    let r := drainInt (8 * e) (if cell.fresh then 0 else signed cell.val 32)
    (r.1, cell.sat || r.2))
  let sats := (rs.filter (·.2)).length
  let m := wrBytes t.m (spAddr p (dst + line * o.lineStride)) (rs.map (fun r => leBytes e r.1)).flatten
  { t with saturated := t.saturated || decide (sats ≠ 0),
           sum := { t.sum with elements := t.sum.elements + rs.length, zeros := t.sum.zeros + (rs.filter (·.1 == 0)).length,
                               saturated := t.sum.saturated + sats },
           m := if sats = 0 then m else modBlk m p (fun b => setTileFlag (setTileFlag b j.ref.ctx 1) j.ref.ctx 2) }

/-- The word of BLK_TILE_FIRST_c (Table 3.14). -/
def tileFirstWord (tile e g stream : Nat) : W64 := BitVec.ofNat 64 (tile <<< 32 ||| e <<< 22 ||| g <<< 19 ||| stream <<< 17 ||| 1 <<< 16)

/-- Free bytes at the written positions of the lines from `line` on, which the spec calls undefined (R94, R100). (DESIGN CHOICE, log entry 58) -/
def undefLines (p dst stride width line lines : Nat) (m : Mach) : Mach :=
  (List.range (lines - line)).foldl (fun m i =>
    freeStep (wrBytes m (spAddr p (dst + (line + i) * stride)) (freeBytes m width)) width) m

/-- A mismatch that a drain finds before line `line` of group `g` is written: the group is FAULTED, and the rest of its lines is undefined (R100). -/
def drainStops (m : Mach) (p : Nat) (j : DrainJob) (g dst width line lines : Nat) : Mach :=
  let o := j.op
  let m := match runningOn (getBlk m p) j.ref.stream with
    | some w => residueMismatch m p w g
    | none => m
  let m := undefLines p dst o.lineStride width line lines m
  if o.outFmt = 3 then (List.range (lines - line)).foldl (fun m i => undefLines p (drainScaleOff o dst (line + i)) 0 1 0 1 m) m else m

/-- The generators, flags and first position that the lines of a tile leave (R61, R102). -/
def drainFlags (p : Nat) (j : DrainJob) (n g : Nat) (t : TileOut) (had : Bool) (m : Mach) : Mach :=
  modBlk m p (fun b =>
    let b := match t.first with
      | some e => if had then b else modArr b (fun a =>
          { a with tileFirst := tset 0 a.tileFirst j.ref.ctx (tileFirstWord (nthN j.op.tiles n) e g j.ref.stream),
                   tileFirstWb := tset 0 a.tileFirstWb j.ref.ctx (BitVec.ofNat 32 j.ref.wb) })
      | none => b
    let b := modRunning b j.ref.stream (fun w => { w with gens := t.gens })
    let b := if t.nonfinite then recFlag b j.ref.stream 0 else b
    if t.saturated then recFlag (recFlag b j.ref.stream 1) j.ref.stream 2 else b)

/-- Drains a group that was OPEN at issue, the `n`-th of the job: writes its lines, its flags and its summary, and frees it (R94, R95). A mismatch found in it
stops its writes (R100). -/
def drainTile (p : Nat) (j : DrainJob) (step : Nat) (m : Mach) (n g : Nat) : Mach :=
  let o := j.op
  let grp := getGroup (getBlk m p).arr g
  let dst := nthN o.dst n
  let lines := if o.col then o.nv else o.mv
  let stopAt := match j.stop with
    | some q => if q.1 = g && q.2 < lines then some q.2 else none
    | none => none
  let todo := stopAt.getD lines
  let width := (if o.col then o.mv else o.nv) * outBytes o.outFmt
  let watch := match getMan m j.ref.ctx j.ref.man with
    | some x => (x.img.tensors.getD o.co noTensor).watch
    | none => 0
  let had := tbit (tget 0 (getBlk m p).arr.tileFlags j.ref.ctx).toNat 0
  let t0 : TileOut :=
    { m := m, gens := ((runningOn (getBlk m p) j.ref.stream).map (·.gens)).getD [], nonfinite := false, first := none, saturated := false,
      sum := { watch := watch - 1, ctx := j.ref.ctx, step := step, elements := 0, zeros := 0, saturated := 0,
               nonfinite := 0, underflow := 0, amax := 0 } }
  let t := (List.range todo).foldl (fun t line =>
    if grp.isInt then drainLineI p j dst line grp t
    else if o.outFmt = 3 then drainLineSh p j step dst line grp t
    else drainLineF p j step dst line grp t) t0
  let m := if stopAt.isSome then drainStops t.m p j g dst width todo lines else t.m
  let m := modBlk (drainFlags p j n g t had m) p (fun b => modArr b (fun a => setGroup a g freeGroup))
  let frame := ((List.range todo).map (fun line => rdBytes m (spAddr p (dst + line * o.lineStride)) width)).flatten
  let m := if stopAt.isSome then m else cvTap m p 3 j.ref.ctx frame
  let recompute := match getMan m j.ref.ctx j.ref.man with
    | some x => (wbOf x.img j.ref.wb).bodyOf.isSome
    | none => false
  if watch = 0 || recompute || stopAt.isSome || lines = 0 then m
  else { m with ass := { m.ass with sums := m.ass.sums ++ [t.sum] } }

/-- Whether a job drains group `g`: it was OPEN at issue and has not become FAULTED since. -/
def drains (a : ArrSt) (j : DrainJob) (g : Nat) : Bool := has j.live g && (getGroup a g).st != .faulted

/-- Drains group `g` of a job. One that is FAULTED is not read and nothing is written; it is freed, unless a discard or another drain has
freed it before (R91, R100). -/
def drainGroup (p : Nat) (j : DrainJob) (step : Nat) (m : Mach) (n g : Nat) : Mach :=
  if drains (getBlk m p).arr j g then drainTile p j step m n g
  else if (getGroup (getBlk m p).arr g).st = .faulted then modBlk m p (fun b => modArr b (fun a => setGroup a g freeGroup))
  else m

/-- Whether a drain ends its waybill with ARITH_RESIDUE: one of its groups is FAULTED, or a mismatch is found in it (R100). -/
def drainFaults (a : ArrSt) (j : DrainJob) : Bool :=
  j.op.groups.any (fun g => !drains a j g) ||
    (match j.stop with | some q => has j.op.groups q.1 && q.2 < (if j.op.col then j.op.nv else j.op.mv) | none => false)

/-- DRAIN_COMPLETE: the oldest drain of the drain unit runs to its last line, in ascending group order (R94 to R96). A load that stands before it or after it
runs in its turn. A drain of a FAULTED group ends its waybill with ARITH_RESIDUE (R100); its other groups are drained as usual. (DEDUCED, log entry 105) -/
def drainComplete (p : Nat) (m : Mach) : Mach :=
  let m := runLoad m p
  match (getBlk m p).arr.queue with
  | .drain j :: rest =>
    let step := ((runningOn (getBlk m p) j.ref.stream).map (·.step)).getD 0
    let faulted := drainFaults (getBlk m p).arr j
    let m := (j.op.groups.zip (List.range j.op.groups.length)).foldl (fun m q => drainGroup p j step m q.2 q.1) m
    let m := modBlk m p (fun b => modArr b (fun a => { a with queue := rest }))
    let m := if faulted then endWb (modBlk m p (fun b => recFlag b j.ref.stream 3)) p j.ref.stream cArithResidue else m
    runLoad (markItem m p j.ref.stream j.ref.item .done) p
  | _ => m

/-- Whether a DISCARD names a group of another owner (R91). -/
def discardBad (m : Mach) (b : Blk) (w : RunWb) (mask : Nat) : Bool :=
  ((List.range 8).filter (tbit mask)).any (fun g => let x := getGroup b.arr g; x.st != .free && !ownsGroup x w (wbGroup m w))

/-- Frees the OPEN and FAULTED groups of a mask. -/
def freeGroups (mask : Nat) (a : ArrSt) : ArrSt :=
  ((List.range 8).filter (tbit mask)).foldl (fun a g =>
    let x := getGroup a g
    if x.st = .opened || x.st = .faulted then setGroup a g freeGroup else a) a

/-- DISCARD: frees the named groups of the waybill's own owner (R91). -/
def discardGroups (p stream : Nat) (m : Mach) : Mach :=
  let b := getBlk m p
  match runningOn b stream with
  | none => m
  | some w =>
    match nextItem m w isDiscard with
    | some (ix, .discard mask) =>
      if discardBad m b w mask then endWb m p stream cGroupState
      else markItem (modBlk m p (fun b => modArr b (freeGroups mask))) p stream ix .done
    | _ => m

end Sys2Proof.Machine
end

