-- ==== Sys2Proof/Machine/VecMath.lean ====
section
/-! DEFINITION. The arithmetic of the vector engine, element by element and lane by lane (R130, R131, R136, R142 to
R145), on stored patterns. -/

namespace Sys2Proof.Machine

/-- True for the integer formats. -/
def isIntFmt (fmt : Nat) : Bool := fmt == 4 || fmt == 5 || fmt == 6
/-- The working format of an operation (R129): FP64 or FP32 for floats, INT64 or INT32 for integers. -/
def workFmt (fmts : List Nat) : Nat :=
  if has fmts 1 then 1 else if fmts.any isFloatFmt then 0 else if has fmts 6 then 6 else 4

/-- The value of an element. An integer element among float operands enters with its value (R483 does not speak of such records). (DESIGN
CHOICE, log entry 78) -/
def valOf (fmt bits : Nat) : Val :=
  if isIntFmt fmt then
    let w := if fmt = 6 then 64 else if fmt = 5 then 16 else 32
    .fin (signed bits w < 0) (signed bits w).natAbs 0 false
  else decodeF (fmtF fmt) bits

/-- An integer cut to `w` bits (R130): the pattern and whether it saturated. -/
def satInt (w : Nat) (v : Int) : Nat × Bool :=
  let lo : Int := -2 ^ (w - 1)
  let hi : Int := 2 ^ (w - 1) - 1
  if v < lo then (unsign lo w, true) else if hi < v then (unsign hi w, true) else (unsign v w, false)

/-- maximumNumber or minimumNumber of two values (R62). -/
def vMaxMin (isMax : Bool) (a b : Val) : Val :=
  match a, b with
  | .nan, .nan => .nan
  | .nan, y => y
  | x, .nan => x
  | x, y =>
    match vcmp x y with
    | some (-1) => if isMax then y else x
    | some 1 => if isMax then x else y
    | _ => if valNeg x == isMax then y else x

/-- A value with a given sign; a NaN stays a NaN (R130). -/
def withSign (neg : Bool) : Val → Val
  | .nan => .nan
  | .inf _ => .inf neg
  | .fin _ m e x => .fin neg m e x

/-- The exact float result of an element-wise opcode on its operand values; `sy` is the sign bit of the second operand
(R130). -/
def floatResult (opcode subop : Nat) (xs : List Val) (sy : Bool) : Val :=
  let x := xs.getD 0 .nan
  let y := xs.getD 1 .nan
  match opcode with
  | 0x01 => vadd x y
  | 0x02 => vadd x (vneg y)
  | 0x03 => vmul x y
  | 0x04 => vadd (vmul x y) (xs.getD 2 .nan)
  | 0x05 => vdiv x y
  | 0x06 => vsqrt x
  | 0x07 =>
    match subop with
    | 0 => vdiv (.fin false 1 0 false) x
    | 1 => vrsqrt x
    | 2 => vexp2 x
    | _ => vlog2 x
  | 0x0B => vMaxMin (subop == 0) x y
  | 0x0D => if subop = 0 then withSign false x else if subop = 1 then withSign (!valNeg x) x else withSign sy x
  | _ => x

/-- The exact integer result of an element-wise opcode (R130). -/
def intResult (opcode subop : Nat) (x y : Int) : Int :=
  match opcode with
  | 0x01 => x + y
  | 0x02 => x - y
  | 0x03 => x * y
  | 0x0B => if subop = 0 then max x y else min x y
  | _ => x

/-- A comparison (R130): EQ, NE, LT, LE, UNORD. -/
def cmpResult (subop : Nat) (r : Option Int) : Bool :=
  match subop with
  | 0 => r == some 0
  | 1 => r != some 0
  | 2 => r == some (-1)
  | 3 => r == some (-1) || r == some 0
  | _ => r == none

/-- A float rounded to an integer of `w` bits (R131): the pattern, the generator after it, and whether the element
counts as inexact (saturated or NaN). A finite value takes a draw where it has a fraction, within the bounds or beyond them: R65 excuses
from the draw what is exact in the format and what lies beyond a float format's top binade. (DEDUCED, log entry 67) -/
def floatToInt (w : Nat) (mode : RMode) (g : W32) (v : Val) : Nat × W32 × Bool :=
  match v with
  | .nan => (0, g, true)
  | .inf neg => (unsign (if neg then -2 ^ (w - 1) else 2 ^ (w - 1) - 1) w, g, true)
  | .fin neg m e _ =>
    let sh := (-e).toNat
    let q := if 0 ≤ e then m <<< e.toNat else m >>> sh
    let rem := if 0 ≤ e then 0 else m % 2 ^ sh
    let g' := drawNext g
    let up := match mode with
      | .rne => rem != 0 && (2 ^ sh < 2 * rem || (2 * rem == 2 ^ sh && q % 2 == 1))
      | .stochastic => rem != 0 && 4096 ≤ (rem * 4096) >>> sh + drawOf g'
    let mag : Int := ((q + b2n up : Nat) : Int)
    let r := satInt w (if neg then -mag else mag)
    (r.1, if mode = .stochastic && rem != 0 then g' else g, r.2)

/-- Stores one result in an output format: the pattern, the generator after it, and whether it counts as inexact. -/
def storeFloat (outFmt : Nat) (mode : RMode) (g : W32) (v : Val) : Nat × W32 × Bool :=
  if isIntFmt outFmt then floatToInt (elemBits outFmt) mode g v
  else let r := roundF (fmtF outFmt) mode g v; (r.bits, r.gen, false)

/-- Stores an integer result in an output format: a float output rounds it once. -/
def storeInt (outFmt : Nat) (mode : RMode) (g : W32) (v : Int) : Nat × W32 × Bool :=
  if isIntFmt outFmt then let r := satInt (elemBits outFmt) v; (r.1, g, r.2)
  else let r := roundF (fmtF outFmt) mode g (.fin (v < 0) v.natAbs 0 false); (r.bits, r.gen, false)

/-! ### Reductions (R136) -/

/-- The accumulator format of a reduction: 0 FP32, 1 FP64, 4 INT32, 6 INT64. -/
def accOf (accFmt inFmt : Nat) : Nat :=
  if accFmt = 1 then 0 else if accFmt = 2 then 1
  else if inFmt = 1 then 1 else if inFmt = 6 then 6 else if isIntFmt inFmt then 4 else 0

/-- Lanes of an accumulator format. -/
def accLanes (acc : Nat) : Nat := if acc = 1 || acc = 6 then 32 else 128
/-- Bits of an accumulator format. -/
def accBits (acc : Nat) : Nat := if acc = 1 || acc = 6 then 64 else 32

/-- A lane's partial in register `v`. -/
def laneGet (w : RunWb) (acc v l : Nat) : Nat :=
  if accBits acc = 64 then regWord w v (2 * l) + regWord w v (2 * l + 1) * 2 ^ 32 else regWord w v l
/-- Sets a lane's partial. -/
def laneSet (w : RunWb) (acc v l n : Nat) : RunWb :=
  if accBits acc = 64 then setRegWord (setRegWord w v (2 * l) n) v (2 * l + 1) (n / 2 ^ 32) else setRegWord w v l n

/-- RN(a + b) in a float accumulator. -/
def accAdd (acc a b : Nat) : Nat := rne (fmtF acc) (vadd (valOf acc a) (valOf acc b))
/-- RN(a − b). -/
def accSub (acc a b : Nat) : Nat := rne (fmtF acc) (vadd (valOf acc a) (vneg (valOf acc b)))
/-- RN(a × b). -/
def accMul (acc a b : Nat) : Nat := rne (fmtF acc) (vmul (valOf acc a) (valOf acc b))
/-- RN(a / b). -/
def accDiv (acc a b : Nat) : Nat := rne (fmtF acc) (vdiv (valOf acc a) (valOf acc b))
/-- A count as an exact value. -/
def natVal (n : Nat) : Val := .fin false n 0 false
/-- RN(a / n) for an exact count. -/
def accDivN (acc a n : Nat) : Nat := rne (fmtF acc) (vdiv (valOf acc a) (natVal n))
/-- A count converted exactly to the accumulator format. -/
def accOfNat (acc n : Nat) : Nat := rne (fmtF acc) (.fin false n 0 false)

/-- The empty partial of a sub-operation (R136). -/
def emptyPartial (acc subop : Nat) : Nat :=
  if subop < 2 || subop = 6 then 0
  else if isIntFmt acc then (if subop = 2 || subop = 4 then 2 ^ (accBits acc - 1) else 2 ^ (accBits acc - 1) - 1)
  else fmtNan (fmtF acc)

/-- Whether value `x` replaces a kept value `k` for ARGMAX (4) or ARGMIN (5): strictly greater or smaller (R136). +0 and −0 compare equal, as
in CMP, so the lower index stays; R62's order of zeros is that of maximum and minimum. (DEDUCED, log entry 76) -/
def argBeats (acc subop x k : Nat) : Bool :=
  if isIntFmt acc then
    (if subop = 4 then signed k (accBits acc) < signed x (accBits acc) else signed x (accBits acc) < signed k (accBits acc))
  else vcmp (valOf acc x) (valOf acc k) == some (if subop = 4 then 1 else -1)

/-- One value into a SUM, SUMSQ, MAX or MIN partial: the partial and whether an integer saturated. -/
def foldPartial (acc subop part x : Nat) : Nat × Bool :=
  if isIntFmt acc then
    let w := accBits acc
    let a := signed part w
    let b := signed x w
    match subop with
    | 0 => satInt w (a + b)
    | 1 => satInt w (a + b * b)
    | 2 => (unsign (max a b) w, false)
    | _ => (unsign (min a b) w, false)
  else
    match subop with
    | 0 => (accAdd acc part x, false)
    | 1 => (accAdd acc part (accMul acc x x), false)
    | 2 => (maxMinF (fmtF acc) true part x, false)
    | _ => (maxMinF (fmtF acc) false part x, false)

/-- Whether a float pattern is a NaN. -/
def isNanBits (f : Fmt) (b : Nat) : Bool := decodeF f b == .nan

/-- The bytes of the record FINALIZE writes (R136). -/
def finalBytes (acc subop : Nat) : Nat :=
  let k := accBits acc / 8
  if subop < 4 then k else if subop < 6 then k + 4 else 4 + 3 * k

/-- One element into a lane (R136): the registers after it, whether an integer saturated, and whether a WELFORD count
would pass its bound. -/
def reduceStep (acc : Nat) (op : VecOp) (l idx x : Nat) (w : RunWb) : RunWb × Bool × Bool :=
  if op.subop < 4 then
    let r := foldPartial acc op.subop (laneGet w acc op.ra l) x
    (laneSet w acc op.ra l r.1, r.2, false)
  else if op.subop < 6 then
    let none := regWord w op.rb l == 0xFFFFFFFF
    let nan := !isIntFmt acc && isNanBits (fmtF acc) x
    if nan then (w, false, false)
    else if none || argBeats acc op.subop x (laneGet w acc op.ra l) then
      (setRegWord (laneSet w acc op.ra l x) op.rb l (idx % 2 ^ 32), false, false)
    else (w, false, false)
  else
    let n := regWord w op.ra l + 1
    if (if acc = 0 then 2 ^ 24 else 2 ^ 31 - 1) < n then (w, false, true)
    else
      let mean := laneGet w acc op.rb l
      let m2 := laneGet w acc (op.rb + 1) l
      let d := accSub acc x mean
      let mean' := accAdd acc mean (accDivN acc d n)
      let m2' := accAdd acc m2 (accMul acc d (accSub acc x mean'))
      (laneSet (laneSet (setRegWord w op.ra l n) acc op.rb l mean') acc (op.rb + 1) l m2', false, false)

/-- Sets every lane's partials empty (R136, start). -/
def reduceStart (acc : Nat) (op : VecOp) (w : RunWb) : RunWb :=
  (List.range (accLanes acc)).foldl (fun w l =>
    if op.subop = 6 then laneSet (laneSet (setRegWord w op.ra l 0) acc op.rb l 0) acc (op.rb + 1) l 0
    else
      let w := laneSet w acc op.ra l (emptyPartial acc op.subop)
      if op.subop = 4 || op.subop = 5 then setRegWord w op.rb l 0xFFFFFFFF else w) w

/-- A lane of a FINALIZE tree: value or count, then index or mean, then M2. -/
structure Lane3 where
  a : Nat
  b : Nat
  c : Nat
  deriving DecidableEq, Repr

/-- Merges lane `y` into lane `x` (R136). -/
def mergeLane (acc subop : Nat) (x y : Lane3) : Lane3 :=
  if subop < 4 then { x with a := (foldPartial acc (if subop = 1 then 0 else subop) x.a y.a).1 }
  else if subop < 6 then
    if y.b = 0xFFFFFFFF then x
    else if x.b = 0xFFFFFFFF then y
    else if argBeats acc subop y.a x.a then y
    else if argBeats acc subop x.a y.a then x
    else if y.b < x.b then y else x
  else
    if y.a = 0 then x else if x.a = 0 then y else
      let n := x.a + y.a
      let d := accSub acc y.b x.b
      let f := rne (fmtF acc) (vdiv (natVal y.a) (natVal n))
      let mean := accAdd acc x.b (accMul acc d f)
      let af := rne (fmtF acc) (vmul (natVal x.a) (valOf acc f))
      let m2 := accAdd acc (accAdd acc x.c y.c) (accMul acc (accMul acc d d) af)
      { a := n, b := mean, c := m2 }

/-- Whether merging two lanes saturates an integer accumulator. -/
def mergeSat (acc subop : Nat) (x y : Lane3) : Bool := subop < 2 && (foldPartial acc 0 x.a y.a).2

/-- The fixed tree of FINALIZE (R136): halves the lanes until one is left. The second part notes a saturation. -/
def mergeTree (acc subop : Nat) : Nat → List Lane3 → Bool → Lane3 × Bool
  | 0, ls, s => (ls.getD 0 { a := 0, b := 0, c := 0 }, s)
  | fuel + 1, ls, s =>
    if ls.length ≤ 1 then (ls.getD 0 { a := 0, b := 0, c := 0 }, s)
    else
      let h := ls.length / 2
      let q := (ls.take h).zip (ls.drop h)
      mergeTree acc subop fuel (q.map (fun z => mergeLane acc subop z.1 z.2)) (s || q.any (fun z => mergeSat acc subop z.1 z.2))

/-- The record FINALIZE writes (R136). -/
def finalRecord (acc subop : Nat) (x : Lane3) : List Byte :=
  let k := accBits acc / 8
  if subop < 4 then leBytes k (canonPat acc x.a)
  else if subop < 6 then leBytes k (canonPat acc x.a) ++ leBytes 4 x.b
  else
    let nan := fmtNan (fmtF acc)
    let mean := if x.a = 0 then nan else canonPat acc x.b
    let var := if x.a = 0 then nan else if x.a = 1 then 0 else accDivN acc x.c x.a
    let uvar := if x.a < 2 then nan else accDivN acc x.c (x.a - 1)
    leBytes 4 x.a ++ leBytes k mean ++ leBytes k var ++ leBytes k uvar

/-! ### Long-haul (R72, R74, R142, R143) -/

/-- floor(log2 max|x|) + 1 over finite values, 0 when all are zero (R72). -/
def sliceExp (xs : List Val) : Int :=
  match runTop (xs.map some) with
  | some t => t + 1
  | none => 0

/-- Slice `k` of a value with exponent `ex` (R72): the signed integer trunc(t_k × 2^10), which is the `k`-th group of ten
bits of |x × 2^-ex| with the sign of x. -/
def sliceOf (ex : Int) (k : Nat) (x : Val) : Int :=
  match x with
  | .fin neg m e _ =>
    let d : Int := ((shiftInt m (e - ex + 10 * ((k : Int) + 1)) % 1024 : Nat) : Int)
    if neg then -d else d
  | _ => 0

/-- The pairs (p, q) of a class in the order stored: ascending p (R143). -/
def classPairs (wgt : Nat) : List (Nat × Nat) := (List.range (wgt + 1)).map (fun p => (p, wgt - p))

/-- Where the partial tile P(p, q) stands among the stored tiles: ascending class, then ascending p (R143). -/
def pairIndex (p q : Nat) : Nat := (p + q) * (p + q + 1) / 2 + p

/-- One class added into the running FP64 sum (R74): the class sum times 2^(E + F − 10(w + 2)), one rounding each. -/
def classAdd (sum : Option Nat) (cls : Int) (scale : Int) : Option Nat :=
  let term := rne fp64 (.fin (cls < 0) cls.natAbs scale false)
  match sum with
  | none => some term
  | some s => some (addF64 s term)

/-- One recombined element of a chunk (R74): classes from `s` − 1 down to 0. `part` reads a partial. -/
def recombine (part : Nat → Nat → Int) (s : Nat) (ef : Int) : Nat :=
  ((List.range s).foldl (fun sum i =>
    let wgt := s - 1 - i
    classAdd sum ((classPairs wgt).foldl (fun a q => a + part q.1 q.2) 0) (ef - 10 * ((wgt : Int) + 2))) none).getD 0

/-! ### Gradient compression (R144, R145) -/

/-- a_e = RNE32(g_e + r_e). -/
def feedback (g r : Val) : Nat := rne fp32 (vadd g r)

/-- The magnitude order of two FP32 patterns that are not NaN. -/
def mag32 (a : Nat) : Nat := a % 2 ^ 31

/-- Whether element `x` ranks before `y` for TOPK: larger magnitude, then lower index. -/
def ranksBefore (x y : Nat × Nat) : Bool := mag32 y.2 < mag32 x.2 || (mag32 x.2 == mag32 y.2 && x.1 < y.1)

/-- Inserts into a list kept in rank order. -/
def rankInsert (x : Nat × Nat) : List (Nat × Nat) → List (Nat × Nat)
  | [] => [x]
  | y :: ys => if ranksBefore x y then x :: y :: ys else y :: rankInsert x ys

/-- The indices TOPK keeps, in ascending order (R144). -/
def topkIndices (k : Nat) (as : List Nat) : List Nat :=
  let ranked := ((List.range as.length).zip as).foldl (fun l x => rankInsert x l) []
  ((ranked.take k).map (·.1)).foldl (fun l i => insNat i l) []

/-- The value TOPK sends for an element (R144): FP32, or FP16 with magnitudes above 65,504 cut. -/
def topkValue (half : Bool) (a : Nat) : Nat :=
  if half then
    let b := rne fp16 (decodeF fp32 a)
    if isNonfinite fp16 b then fmtSign fp16 (tbit a 31) + 0x7BFF else b
  else a

/-- FINALIZE SUM of a list in the lane order of R136: lanes of 128, then the tree. -/
def laneSum (as : List Nat) : Nat :=
  let lanes := (List.range 128).map (fun l =>
    ((List.range (ceilDiv as.length 128)).foldl (fun s k =>
      if 128 * k + l < as.length then accAdd 0 s (nthN as (128 * k + l)) else s) 0))
  (mergeTree 0 0 8 (lanes.map (fun v => { a := v, b := 0, c := 0 })) false).1.a

/-- The longest segment a compression can write (Table 5.5). -/
def segMax (v : VecOp) : Nat :=
  alignUp (16 + if v.opcode = 0x41 then v.param0 / 8 else if v.subop = 1 then 6 * v.param1 else 8 * v.param1) 16

/-- A segment (Table 5.5) with its pad to 16 B. -/
def segBytesOf (n count kind : Nat) (nonfinite : Bool) (scale : Nat) (body : List Byte) : List Byte :=
  let raw := leBytes 4 n ++ leBytes 4 count ++ leBytes 1 kind ++ leBytes 1 (b2n nonfinite) ++ leBytes 2 0 ++
    leBytes 4 scale ++ body
  padTo (alignUp raw.length 16) raw

/-- Sign bits packed, element e in bit (e mod 8) of byte floor(e / 8). -/
def packBits (bs : List Bool) : List Byte :=
  (List.range (ceilDiv bs.length 8)).map (fun i =>
    BitVec.ofNat 8 ((List.range 8).foldl (fun a k => a + b2n (bs.getD (8 * i + k) false) * 2 ^ k) 0))

end Sys2Proof.Machine
end

