-- ==== Sys2Proof/Machine/Vector.lean ====
section
/-! DEFINITION. The vector engine (chapter 5): one meaning for each operation of Table 5.3, over one shared way of
starting an operation, reading its streams, storing its results and noting its flags. -/

namespace Sys2Proof.Machine

/-- A readied stream: place, format, elements. -/
structure Str where
  pl : Place
  fmt : Nat
  n : Nat
  deriving DecidableEq, Repr

/-- The descriptor a record without one answers. -/
def noStream : StreamD :=
  { fmt := 0, stripe := 1, viaWindow := false, window := 0, offset := 0, length := 0, lenReg := false, lenV := 0,
    lenWord := 0 }

/-- A stream of nothing. -/
def noStr : Str := { pl := .direct 0 1, fmt := 0, n := 0 }

/-- What an operation works on: the module as it stood at the start, the block, the running waybill, the record with the
operation's index in the body, the readied streams, and the first element it must not process, with the code that then
ends the waybill (R484, Table 14.1). -/
structure VArgs where
  m : Mach
  p : Nat
  w : RunWb
  op : VecOp
  ix : Nat
  ins : List Str
  outs : List Str
  cut : Option (Nat × Nat)

/-- What an operation answers: the module with its writes, the running waybill with its registers and generators, an end
code, the non-finite output elements (stream, element), the elements that count as inexact, the array cycles its table lines take (R141), the
element it stopped at, where it did, and what a remote table has yet to do. -/
structure VOut where
  m : Mach
  w : RunWb
  code : Nat
  nf : List (Nat × Nat)
  inexact : List Nat
  tableCycles : Nat := 0
  stop : Option Nat := none
  todo : List VeAct := []

/-- An answer that changes nothing. -/
def vNothing (a : VArgs) : VOut := { m := a.m, w := a.w, code := 0, nf := [], inexact := [] }

/-- Elements to process of `n`: those before the cut. -/
def upTo (a : VArgs) (n : Nat) : Nat := match a.cut with | some q => min n q.1 | none => n
/-- The end code of a cut that `n` elements reach. -/
def cutCode (a : VArgs) (n : Nat) : Nat := match a.cut with | some q => if q.1 < n then q.2 else 0 | none => 0

/-- The input stream `i`. -/
def inS (a : VArgs) (i : Nat) : Str := a.ins.getD i noStr
/-- The output stream `i`. -/
def outS (a : VArgs) (i : Nat) : Str := a.outs.getD i noStr
/-- The stored pattern of element `e` of input `i`, as it stood at the start (R127: every line is read first). -/
def inElem (a : VArgs) (i e : Nat) : Nat := placeElem a.m a.p (inS a i).pl (inS a i).fmt e

/-- The rounding mode of a record. -/
def opMode (op : VecOp) : RMode := if op.rounding = 1 then .stochastic else .rne

/-- The generator lane of element `e` (R131): vector lane e mod 128, or 4 × (e mod 32) in an FP64 working format. -/
def vecLane (wide : Bool) (e : Nat) : Nat := 128 + (if wide then 4 * (e % 32) else e % 128)

/-- The bytes of stored patterns of a format. -/
def patBytes (fmt : Nat) (vs : List Nat) : List Byte :=
  if fmt = 7 then packBits (vs.map (· == 1)) else (vs.map (leBytes (elemBits fmt / 8))).flatten

/-- Writes the first elements of an output stream. In the last byte of a MASK the bits past them are kept. -/
def putElems (m : Mach) (p : Nat) (s : Str) (vs : List Nat) : Mach :=
  if s.fmt = 7 then
    let full := vs.length / 8
    let bs := (packBits (vs.map (· == 1)))
    let old := placeByte m p s.pl full
    let keep := vs.length % 8
    let bs := if keep = 0 then bs else
      bs.take full ++ [(bs.getD full 0) ||| (old &&& BitVec.ofNat 8 (256 - 2 ^ keep))]
    placeWrite m p s.pl bs
  else placeWrite m p s.pl (patBytes s.fmt vs)

/-- The elements of a list of patterns that are NaN or infinite (R133), as (output, element). -/
def nfElems (out fmt : Nat) (vs : List Nat) : List (Nat × Nat) :=
  if isFloatFmt fmt then
    ((List.range vs.length).zip vs).filterMap (fun q => if isNonfinite (fmtF fmt) q.2 then some (out, q.1) else none)
  else []

/-- Runs `f` over the elements with the generator of each element's lane, in element order (R131). `f` gives the
pattern, the generator after it and the inexact mark. -/
def mapDraw (a : VArgs) (wide : Bool) (n : Nat) (f : Nat → W32 → Nat × W32 × Bool) : List Nat × List Nat × RunWb :=
  (List.range n).foldl (fun (q : List Nat × List Nat × RunWb) e =>
    let l := vecLane wide e
    let r := f e (laneGen a.m a.p q.2.2 l)
    (q.1 ++ [r.1], if r.2.2 then q.2.1 ++ [e] else q.2.1,
      if opMode a.op = .stochastic then { q.2.2 with gens := tput l r.2.1 q.2.2.gens } else q.2.2)) ([], [], a.w)

/-- Stores a list of patterns as output `i` and gathers its marks. -/
def vStore (a : VArgs) (i : Nat) (r : List Nat × List Nat × RunWb) (n : Nat) : VOut :=
  let s := outS a i
  { m := putElems a.m a.p s r.1, w := r.2.2, code := cutCode a n, nf := nfElems i s.fmt r.1, inexact := r.2.1 }

/-! ### Element-wise operations (R130, R131, R483) -/

/-- The working format of an operation. -/
def vWork (a : VArgs) : Nat := workFmt ((a.ins.map (·.fmt)).filter (· < 7))

/-- Operand `k` of element `e` (Table 5.3a): streams fill the operands in order, then ra, then rb. The answer is the
format and the pattern. -/
def vOperand (a : VArgs) (k e : Nat) : Nat × Nat :=
  let wf := vWork a
  if k < a.ins.length then ((inS a k).fmt, inElem a k e)
  else
    let j := k - a.ins.length
    if j = 0 then (wf, regOperand a.w a.op.raForm a.op.ra a.op.period (accBits wf) e)
    else (wf, regOperand a.w a.op.rbForm a.op.rb a.op.period (accBits wf) e)

/-- Operands an element-wise opcode takes. -/
def arity (op : VecOp) : Nat :=
  match op.opcode with
  | 0x04 => 3
  | 0x06 => 1
  | 0x07 => 1
  | 0x0D => if op.subop = 2 then 2 else 1
  | 0x18 => 1
  | _ => 2

/-- One element of an element-wise operation. -/
def elemWise (a : VArgs) (outFmt e : Nat) (g : W32) : Nat × W32 × Bool :=
  let xs := (List.range (arity a.op)).map (fun k => vOperand a k e)
  let x := xs.getD 0 (0, 0)
  let y := xs.getD 1 (0, 0)
  if isIntFmt (vWork a) then
    let v := intResult a.op.opcode a.op.subop (signed x.2 (elemBits x.1)) (signed y.2 (elemBits y.1))
    let s := satInt (accBits (vWork a)) v
    let r := storeInt outFmt (opMode a.op) g (signed s.1 (accBits (vWork a)))
    (r.1, r.2.1, r.2.2 || s.2)
  else
    let v := floatResult a.op.opcode a.op.subop (xs.map (fun q => valOf q.1 q.2)) (y.2.testBit (elemBits y.1 - 1))
    storeFloat outFmt (opMode a.op) g v

/-- The shared body of the element-wise operations. -/
def vElementWise (a : VArgs) : VOut :=
  let n := (outS a 0).n
  vStore a 0 (mapDraw a (vWork a == 1) (upTo a n) (elemWise a (outS a 0).fmt)) n

/-- CMP: a MASK of the predicate (R130). -/
def vCompare (a : VArgs) : VOut :=
  let n := (outS a 0).n
  let f := fun e =>
    let x := vOperand a 0 e
    let y := vOperand a 1 e
    let r := if isIntFmt (vWork a) then
        (let s := signed x.2 (elemBits x.1); let t := signed y.2 (elemBits y.1)
         some (if s < t then (-1 : Int) else if s = t then 0 else 1))
      else vcmp (valOf x.1 x.2) (valOf y.1 y.2)
    b2n (cmpResult a.op.subop r)
  vStore a 0 ((List.range (upTo a n)).map f, [], a.w) n

/-- A pattern stored in another format, rounded once as the mode says (R131): the pattern, the generator after it, and whether it counts as
inexact. MASK and SCALE8 patterns are kept. -/
def convPat (inFmt outFmt : Nat) (mode : RMode) (g : W32) (b : Nat) : Nat × W32 × Bool :=
  if 7 ≤ inFmt || 7 ≤ outFmt then (b % 2 ^ elemBits outFmt, g, false)
  else if isIntFmt inFmt then storeInt outFmt mode g (signed b (elemBits inFmt))
  else storeFloat outFmt mode g (valOf inFmt b)

/-- SELECT: a where the mask is set, b elsewhere (R131, R137). -/
def vSelect (a : VArgs) : VOut :=
  let n := (outS a 0).n
  let f := fun e g => let i := if inElem a 0 e = 1 then 1 else 2; convPat (inS a i).fmt (outS a 0).fmt (opMode a.op) g (inElem a i e)
  vStore a 0 (mapDraw a (vWork a == 1) (upTo a n) f) n

/-- CVT between float and integer formats (R131). -/
def vConvert (a : VArgs) : VOut :=
  let n := (outS a 0).n
  vStore a 0 (mapDraw a (vWork a == 1) (upTo a n) (fun e g => convPat (inS a 0).fmt (outS a 0).fmt (opMode a.op) g (inElem a 0 e))) n

/-- SH16_ENC: runs of 32 encoded by R69 (R132). Runs wholly before a cut are written. -/
def vShEnc (a : VArgs) : VOut :=
  let n := (inS a 0).n
  let runs := upTo a n / 32
  let c := decodeF fp32 (regWord a.w a.op.ra 0)
  let r := (List.range runs).foldl (fun (q : List Nat × List Nat × RunWb × List (Nat × Nat)) k =>
    let vs := (List.range 32).map (fun i => some (vmul (valOf (inS a 0).fmt (inElem a 0 (32 * k + i))) c))
    let lanes := (List.range 32).map (fun i => vecLane false (32 * k + i))
    let run := shEncode (opMode a.op) false vs (lanes.map (laneGen a.m a.p q.2.2.1))
    let w := (lanes.zip run.gens).foldl (fun (w : RunWb) z => { w with gens := tput z.1 z.2 w.gens }) q.2.2.1
    (q.1 ++ run.elems.map (·.getD 0), q.2.1 ++ [run.scale.toNat], if opMode a.op = .stochastic then w else q.2.2.1,
      q.2.2.2 ++ (match run.nonfinite with | some i => [(0, 32 * k + i)] | none => []))) ([], [], a.w, [])
  let m := putElems a.m a.p (outS a 0) r.1
  let m := putElems m a.p (outS a 1) r.2.1
  { m := m, w := r.2.2.1, code := cutCode a n, nf := r.2.2.2, inexact := [] }

/-- SH16_DEC: RNE32(e × 2^f × c); a block with f = 0x80 decodes to NaN (R132). -/
def vShDec (a : VArgs) : VOut :=
  let n := (outS a 0).n
  let c := decodeF fp32 (regWord a.w a.op.ra 0)
  let f := fun e =>
    match fineScale (BitVec.ofNat 8 (inElem a 1 (e / 32))) with
    | none => fmtNan fp32
    | some s => rne fp32 (vmul (vscale s (valOf 2 (inElem a 0 e))) c)
  vStore a 0 ((List.range (upTo a n)).map f, [], a.w) n

/-! ### Reductions and registers -/

/-- REDUCE: every element into its lane, in increasing order (R136). -/
def vReduce (a : VArgs) : VOut :=
  let s := inS a 0
  let acc := accOf a.op.accFmt s.fmt
  let w0 := if tbit a.op.param0 0 then reduceStart acc a.op a.w else a.w
  let r := (List.range (upTo a s.n)).foldl (fun (q : RunWb × List Nat × Bool) e =>
    let b := inElem a 0 e
    let x := if isIntFmt acc then unsign (signed b (elemBits s.fmt)) (accBits acc) else rne (fmtF acc) (valOf s.fmt b)
    let z := reduceStep acc a.op (e % accLanes acc) (a.op.param1 + e) x q.1
    (z.1, if z.2.1 then q.2.1 ++ [e] else q.2.1, q.2.2 || z.2.2)) (w0, [], false)
  if r.2.2 then { vNothing a with code := cVeCount }
  else { m := a.m, w := r.1, code := cutCode a s.n, nf := [], inexact := r.2.1 }

/-- FINALIZE: the lanes combined in a fixed tree, one record written (R136). -/
def vFinalize (a : VArgs) : VOut :=
  let s := outS a 0
  let acc := if a.op.accFmt = 1 then 0 else if a.op.accFmt = 2 then 1 else s.fmt
  let lanes : List Lane3 := (List.range (accLanes acc)).map (fun l =>
    if a.op.subop < 4 then { a := laneGet a.w acc a.op.ra l, b := 0, c := 0 }
    else if a.op.subop < 6 then { a := laneGet a.w acc a.op.ra l, b := regWord a.w a.op.rb l, c := 0 }
    else { a := regWord a.w a.op.ra l, b := laneGet a.w acc a.op.rb l, c := laneGet a.w acc (a.op.rb + 1) l })
  let r := mergeTree acc a.op.subop 8 lanes false
  let bytes := finalRecord acc a.op.subop r.1
  let k := accBits acc / 8
  let vals := if a.op.subop < 6 then [recNat bytes 0 k] else [recNat bytes 4 k, recNat bytes (4 + k) k, recNat bytes (4 + 2 * k) k]
  let nf := isFloatFmt acc && vals.any (isNonfinite (fmtF acc))
  { m := placeWrite a.m a.p s.pl bytes, w := a.w, code := cutCode a 1, nf := if nf then [(0, 0)] else [],
    inexact := if r.2 then [0] else [] }

/-- REGLOAD: stream bytes into words from 0 up (R135); the bytes of the last word past the stream are zero. Before a poisoned element, the
words that the earlier elements fill are written (R484). (DEDUCED, log entry 77) -/
def vRegLoad (a : VArgs) : VOut :=
  let s := inS a 0
  let n := upTo a s.n
  let nb := if n < s.n then streamBytes s.fmt n / 4 * 4 else streamBytes s.fmt n
  let bs := placeBytes a.m a.p s.pl 0 nb
  let w := (List.range (ceilDiv nb 4)).foldl (fun w k => setRegWord w a.op.ra k (recNat bs (4 * k) 4)) a.w
  { vNothing a with w := w, code := cutCode a s.n }

/-- REGSTORE: a register's words to a stream (R48, R135). -/
def vRegStore (a : VArgs) : VOut :=
  let s := outS a 0
  let n := upTo a s.n
  let bs := ((List.range 128).map (fun k => leBytes 4 (regWord a.w a.op.ra k))).flatten
  let vs := (List.range n).map (fun e =>
    if s.fmt = 7 then b2n ((bs.getD (e / 8) 0).getLsbD (e % 8))
    else canonPat s.fmt (recNat bs (e * (elemBits s.fmt / 8)) (elemBits s.fmt / 8)))
  vStore a 0 (vs, [], a.w) s.n

/-! ### Compress and expand (R137) -/

/-- Whether element `e` of a COMPRESS or EXPAND is active: from the MASK stream, or from the register mask. -/
def maskBit (a : VArgs) (reg e : Nat) : Bool :=
  if 2 ≤ a.ins.length then inElem a 1 e == 1 else regMask a.w reg a.op.period e

/-- COMPRESS: the active elements packed densely, their count into word 0 of ra. -/
def vCompress (a : VArgs) : VOut :=
  let n := (inS a 0).n
  let k := upTo a n
  let act := (List.range k).filter (maskBit a a.op.rb)
  let kept := (act.take a.op.param0).map (fun e => canonPat (inS a 0).fmt (inElem a 0 e))
  let m := putElems a.m a.p (outS a 0) kept
  let w := if k < n then a.w else setRegWord a.w a.op.ra 0 act.length
  { m := m, w := w, code := if k < n then cutCode a n else if a.op.param0 < act.length then cVeCapacity else 0,
    nf := nfElems 0 (outS a 0).fmt kept, inexact := [] }

/-- Writes elements of an output stream, in rising order, and leaves the others. In the bytes of a MASK the bits of the others are kept. -/
def putAt (m : Mach) (p : Nat) (s : Str) (es : List (Nat × Nat)) : Mach :=
  if s.fmt = 7 then
    placeWrites m p s.pl ((es.foldl (fun l q => insNat (q.1 / 8) l) []).map (fun k =>
      (k, [(es.filter (fun q => q.1 / 8 == k)).foldl (fun b q =>
        let bit := BitVec.ofNat 8 (2 ^ (q.1 % 8))
        if q.2 = 1 then b ||| bit else b &&& ~~~bit) (placeByte m p s.pl k)])))
  else
    let size := elemBits s.fmt / 8
    placeWrites m p s.pl (es.map (fun q => (q.1 * size, leBytes size q.2)))

/-- Positions of an EXPAND to fill, and whether the dense stream runs out (R137): the positions past the last dense element are then not
written. -/
def expandSpan (a : VArgs) : Nat × Bool :=
  let n := upTo a (outS a 0).n
  let act := (List.range n).filter (maskBit a a.op.ra)
  let d := (inS a 0).n
  if act.length ≤ d then (n, false) else (if d = 0 then 0 else nthN act (d - 1) + 1, true)

/-- EXPAND: dense elements to the active positions; clear positions are left or take the SCALAR of rb, read in the working format and stored
in the output's (R137, R483). -/
def vExpand (a : VArgs) : VOut :=
  let s := outS a 0
  let wf := vWork a
  let span := expandSpan a
  let fill := regOperand a.w 1 a.op.rb 1 (accBits wf) 0
  let r := (List.range span.1).foldl (fun (q : List (Nat × Nat) × Nat × List Nat × RunWb) e =>
    let act := maskBit a a.op.ra e
    if !act && a.op.param0 != 1 then q else
    let l := vecLane (wf == 1) e
    let v := if act then (canonPat s.fmt (inElem a 0 q.2.1), 0, false)
      else convPat (if 7 ≤ s.fmt then s.fmt else wf) s.fmt (opMode a.op) (laneGen a.m a.p q.2.2.2 l) fill
    let w := if !act && opMode a.op == .stochastic then { q.2.2.2 with gens := tput l v.2.1 q.2.2.2.gens } else q.2.2.2
    (q.1 ++ [(e, v.1)], q.2.1 + b2n act, if v.2.2 then q.2.2.1 ++ [e] else q.2.2.1, w)) ([], 0, [], a.w)
  let bad := r.1.filter (fun q => isFloatFmt s.fmt && isNonfinite (fmtF s.fmt) q.2)
  { m := putAt a.m a.p s r.1, w := r.2.2.2, code := if span.2 then cVeCapacity else cutCode a s.n, nf := bad.map (fun q => (0, q.1)), inexact := r.2.2.1,
    stop := if span.2 then some span.1 else none }

/-! ### Gather and scatter (R138 to R141) -/

/-- What an index selects (Table 5.4): a row, nothing, or a fault; with whether it was adjusted. -/
inductive RowSel where
  | row (i : Nat) (adjusted : Bool)
  | none
  | fault
  deriving DecidableEq, Repr

/-- Table 5.4. -/
def selectRow (mode : Nat) (extent : Nat) (i : Int) : RowSel :=
  if 0 ≤ i && i < extent then .row i.toNat false
  else match mode with
    | 0 => .fault
    | 1 => if i < 0 && 0 ≤ i + extent then .row (i + extent).toNat false else .fault
    | 2 => .row (if i < 0 then 0 else extent - 1) true
    | _ => .none

/-- Geometry of a table: extent, row bytes, row stride. -/
def tableGeom (op : VecOp) : Nat × Nat × Nat :=
  match op.remote with
  | some r => (op.param0, r.rowBytes, r.rowStride)
  | none => (op.param0, op.param1 / 65536, (op.param1 % 65536) * 4)

/-- Running state of the walk of a gather or scatter: the module, the rows a gather has read, the code it stopped with, a faulting index,
adjusted indices, elements that saturated, elements done, table cycles, and what a remote table has yet to do. -/
structure GState where
  m : Mach
  rows : List Byte
  code : Nat
  idxFault : Option (Nat × Int)
  adj : Nat
  sats : List Nat
  done : Nat
  cycles : Nat
  todo : List VeAct

/-- The offset in the stride of a row of a local table. -/
def localRow (a : VArgs) (row : Nat) : Nat := ((a.op.ins.getD 0 noStream).offset) + row * (tableGeom a.op).2.2

/-- Lines that `n` bytes at an offset touch. -/
def linesOf (off n : Nat) : Nat := if n = 0 then 0 else (off + n - 1) / 128 - off / 128 + 1

/-- Whether `n` bytes at an offset lie in banks that the context may use on this array (R209). -/
def bankAllowed (m : Mach) (p c off n : Nat) : Bool :=
  match (arrayOf m p).bind (shareOf (getCtx m c)) with
  | some s => off + n ≤ 0xC0000 && tbit s.mask (off / 0x20000) && tbit s.mask ((off + n - 1) / 0x20000)
  | none => off + n ≤ 0xC0000

/-- The offsets in a remote row of the 32 B it is asked for or sent in. -/
def rowChunks (rowBytes : Nat) : List Nat := (List.range (rowBytes / 32)).map (32 * ·)

/-- The address runs of `n` bytes at byte `j` of a stream. -/
def streamRuns (p : Nat) (pl : Place) (j n : Nat) : List (Nat × Nat) :=
  (List.range (ceilDiv n 32)).map (fun k => (spAddr p (placeOff pl (j + 32 * k)), min 32 (n - 32 * k)))

/-- One element of a gather: the row of the table to the output. -/
def gatherRow (a : VArgs) (e row : Nat) (g : GState) : GState :=
  let rb := (tableGeom a.op).2.1
  match a.op.remote with
  | none =>
    let off := localRow a row
    if !bankAllowed a.m a.p a.w.ctx off rb then { g with code := cSpAddress }
    else if rdPoison a.m (spAddr a.p off) rb then { g with code := cSpUncorrectable }
    else { g with m := portAccess g.m a.p 4 off rb false, rows := g.rows ++ rdBytes a.m (spAddr a.p off) rb, done := g.done + 1,
                  cycles := g.cycles + linesOf off rb }
  | some t =>
    { g with done := g.done + 1,
             todo := g.todo ++ (rowChunks rb).map (fun k =>
               .get (t.base + row * t.rowStride + k) (spAddr a.p (placeOff (outS a 0).pl (e * rb + k))) (e * rb + k) e) }

/-- The adder format of a stream format for a remote SCATTER_ADD. -/
def adderFmt (fmt : Nat) : Nat := if fmt = 0 then 0 else if fmt = 2 || fmt = 3 then 1 else if fmt = 4 then 2 else 3

/-- The data row of element `e` of a scatter, as read at the start and passed on (R48). -/
def scatterBytes (a : VArgs) (e : Nat) : List Byte :=
  let rb := (tableGeom a.op).2.1
  let s := inS a 2
  let k := elemBits s.fmt / 8
  if k = 0 then placeBytes a.m a.p s.pl (e * rb) rb
  else
    let lo := e * rb / k
    let bs := ((List.range (ceilDiv (e * rb + rb) k - lo)).map (fun i => leBytes k (canonPat s.fmt (inElem a 2 (lo + i))))).flatten
    (bs.drop (e * rb - lo * k)).take rb

/-- One row added into another element by element (R140): the sums, and whether an integer saturated. -/
def addRow (fmt : Nat) (old new : List Byte) : List Byte × Bool :=
  let size := elemBits fmt / 8
  let rs := (List.range (old.length / size)).map (fun k =>
    let x := recNat old (k * size) size
    let y := recNat new (k * size) size
    if isIntFmt fmt then satInt (elemBits fmt) (signed x (elemBits fmt) + signed y (elemBits fmt))
    else (rne (fmtF fmt) (vadd (valOf fmt x) (valOf fmt y)), false))
  ((rs.map (fun q => leBytes size q.1)).flatten, rs.any (·.2))

/-- One element of a scatter or scatter-add: the data row to the table, in element order (R140). -/
def scatterRow (add : Bool) (a : VArgs) (e row : Nat) (g : GState) : GState :=
  let rb := (tableGeom a.op).2.1
  let fmt := (inS a 2).fmt
  let bs := scatterBytes a e
  match a.op.remote with
  | none =>
    let off := localRow a row
    if !bankAllowed a.m a.p a.w.ctx off rb then { g with code := cSpAddress }
    else if add && rdPoison g.m (spAddr a.p off) rb then { g with code := cSpUncorrectable }
    else
      let m := if add then portAccess g.m a.p 4 off rb false else g.m
      let g := { g with m := portAccess m a.p 4 off rb true, done := g.done + 1, cycles := g.cycles + (if add then 2 else 1) * linesOf off rb }
      if !add then { g with m := wrBytes g.m (spAddr a.p off) bs }
      else
        let r := addRow fmt (rdBytes g.m (spAddr a.p off) rb) bs
        { g with m := wrBytes g.m (spAddr a.p off) r.1, sats := if r.2 then g.sats ++ [e] else g.sats }
  | some t =>
    { g with done := g.done + 1,
             todo := g.todo ++ (rowChunks rb).map (fun k =>
               let data := (bs.drop k).take 32
               if add then .put 0x05 (adderFmt fmt) (t.base + row * t.rowStride + k) (padTo 32 (leBytes 8 (a.w.wb <<< 32 ||| e)) ++ data) e
               else .put 0x02 0 (t.base + row * t.rowStride + k) data e) }

/-- The walk of a gather or scatter over its indices (R139, Table 5.4). `onNone` is what a zero-filled or dropped element does. -/
def indexWalk (a : VArgs) (f : Nat → Nat → GState → GState) (onNone : Nat → GState → GState) : GState :=
  let ext := (tableGeom a.op).1
  let far := a.op.remote.isSome
  let note := fun (g : GState) => if far then { g with todo := g.todo ++ [.adjust] } else { g with adj := g.adj + 1 }
  let g : GState := (List.range (upTo a (inS a 1).n)).foldl (fun (g : GState) e =>
    if g.code != 0 then g else
    let i := signed (inElem a 1 e) 32
    match selectRow a.op.indexMode ext i with
    | .fault => { g with code := cVeIndex, idxFault := some (e, i) }
    | .row r adj => f e r (if adj then note g else g)
    | .none => let g := onNone e (note g); { g with done := g.done + 1 })
    { m := a.m, rows := [], code := 0, idxFault := none, adj := 0, sats := [], done := 0, cycles := 0, todo := [] }
  if g.code = 0 then { g with code := cutCode a (inS a 1).n } else g

/-- Records adjusted indices and a faulting one in the registers of a slot (R139, R147). -/
def indexNotes (m : Mach) (p c stream adj : Nat) (fault : Option (Nat × Int)) : Mach :=
  modBlk m p (fun b =>
    let b := if adj = 0 then b else
      let b := setVeFlag b c 3
      recFlag { b with ve := { b.ve with idxAdj := tmod 0 b.ve.idxAdj c (fun x => satAdd x adj) } } stream 4
    match fault with
    | none => b
    | some q =>
      let had := tbit (tget 0 b.ve.flags c).toNat 2
      let b := setVeFlag b c 2
      if had then b else
        let word := BitVec.ofNat 64 (unsign q.2 32 <<< 32 ||| 1 <<< 31 ||| q.1 % 2 ^ 24)
        { b with ve := { b.ve with idxFirst := tset 0 b.ve.idxFirst c word } })

/-- The end of the walk. A local table's rows are written and its notes made; a remote table's requests are still to be sent, the stop, where
there is one, after those of the elements before it (R139, R168). -/
def indexOut (a : VArgs) (g : GState) : VOut :=
  let s := outS a 0
  let stop := if g.code = 0 then none else some g.done
  if a.op.remote.isSome then
    { vNothing a with stop := stop, todo := g.todo ++ (if g.code = 0 then [] else [.stop g.code g.idxFault]) }
  else
    let bs := canonBytes s.fmt g.rows
    { m := indexNotes (if bs.isEmpty then g.m else placeWrite g.m a.p s.pl bs) a.p a.w.ctx a.w.stream g.adj g.idxFault, w := a.w, code := g.code,
      nf := nfElems 0 s.fmt (if bs.isEmpty then [] else rowPats s.fmt bs), inexact := g.sats, tableCycles := g.cycles, stop := stop }

/-- GATHER (R138): a zero-filled element writes a row of zero bytes. -/
def vGather (a : VArgs) : VOut :=
  let rb := (tableGeom a.op).2.1
  indexOut a (indexWalk a (gatherRow a) (fun e g =>
    if a.op.remote.isSome then { g with todo := g.todo ++ [.zero (streamRuns a.p (outS a 0).pl (e * rb) rb)] }
    else { g with rows := g.rows ++ List.replicate rb 0 }))

/-- SCATTER (R140). -/
def vScatter (a : VArgs) : VOut := indexOut a (indexWalk a (scatterRow false a) (fun _ g => g))
/-- SCATTER_ADD (R140). -/
def vScatterAdd (a : VArgs) : VOut := indexOut a (indexWalk a (scatterRow true a) (fun _ g => g))

/-! ### Remote tables (R138 to R141) -/

/-- Records a generated address that failed its check in the Premutar registers of a slot (R138, R168, Tables 6.7 to 6.9): the registers
while the flag was clear, then the flag. `index` is the descriptor's index in its body. -/
def genFault (b : Blk) (r : ItemRef) (kind side space window addr index lane : Nat) : Blk :=
  let had := tbit (tget 0 b.pm.flags r.ctx).toNat 0
  let b := setPmFlag b r.ctx 0
  if had then b else
    let pos := kind <<< 60 ||| side <<< 58 ||| index <<< 48 ||| 1 <<< 47 ||| r.stream <<< 45 ||| lane % 2 ^ 40
    let ad := space <<< 62 ||| window <<< 58 ||| addr
    { b with pm := { b.pm with faultAddr := tset 0 b.pm.faultAddr r.ctx (BitVec.ofNat 64 ad),
                               faultPos := tset 0 b.pm.faultPos r.ctx (BitVec.ofNat 64 pos),
                               faultWb := tset 0 b.pm.faultWb r.ctx (BitVec.ofNat 32 r.wb) } }

/-- The kind of Table 6.2 for a customs reason. -/
def reasonKind (r : Nat) : Nat := if r = 1 then 1 else if r = 2 then 2 else if r = 4 || r = 5 then 4 else 3

/-- A remote address of element `e` fails its check: the operation stops there, and the fault is recorded as Premutar records its own, with
the operation's index and the element as the lane (R138, R168). (DEDUCED, log entry 80) -/
def tableFault (m : Mach) (p : Nat) (r : VeRun) (va e kind code : Nat) : Mach × VeRun :=
  (modBlk m p (fun b => genFault b r.ref kind (if r.opcode = 0x30 then 0 else 1) 2 0 (va / 128 * 128 % 2 ^ 57) r.ref.item e), { r with code := code })

/-- 32 B of a row come: they are written where they go, poisoned where they came poisoned (Table 9.5), and their NaNs and infinities noted
(R133). -/
def rowIn (m : Mach) (r : VeRun) (dst pos : Nat) (data : List Byte) (poison : Bool) : Mach × VeRun :=
  if poison then (wrPoison m dst 32, { r with poisoned := true })
  else
    let bs := canonBytes r.fmt data
    let k := max 1 (elemBits r.fmt / 8)
    (wrBytes m dst bs, { r with nf := ((nfElems 0 r.fmt (rowPats r.fmt bs)).map (·.2 + pos / k)).foldl (fun l e => insNat e l) r.nf })

/-- Whether a waybill still runs on its block. -/
def stillRuns (m : Mach) (p : Nat) (r : ItemRef) : Bool :=
  (getBlk m p).seq.running.any (fun w => w.ctx == r.ctx && w.man == r.man && w.run == r.run && w.wb == r.wb)

/-- Ends the waybill of a reference, where it still runs. -/
def endRef (m : Mach) (p : Nat) (r : ItemRef) (code : Nat) : Mach := if stillRuns m p r then endWb m p r.stream code else m

/-- Sets inexact where an accumulate of a waybill saturated (R253). -/
def noteSat (m : Mach) (p : Nat) (r : ItemRef) (sat : Bool) : Mach :=
  if sat then modBlk m p (fun b =>
    let b := setVeFlag b r.ctx 1
    if stillRuns m p r then recFlag b r.stream 2 else b) else m

/-- Does one thing a remote table has to do. -/
def veDo (m : Mach) (p : Nat) (r : VeRun) : VeAct → Mach × VeRun
  | .get va dst pos e =>
    match fabAccess m r.ref (.vector p) 0x01 0 va 32 [] [] true false with
    | .fault f => tableFault m p r va e f (cPm f)
    | .nack m k => tableFault m p r va e (reasonKind k) (reasonCode k)
    | .done m resp => rowIn m r dst pos resp.data (!resp.poison.isEmpty)
    | .sent m tag => (m, { r with tags := r.tags ++ [tag], rows := r.rows ++ [(tag, dst, pos)] })
  | .put opcode sub va data e =>
    match fabAccess m r.ref (.vector p) opcode sub va data.length data [] (opcode == 0x05) (opcode == 0x05) with
    | .fault f => tableFault m p r va e f (cPm f)
    | .nack m k => tableFault m p r va e (reasonKind k) (reasonCode k)
    | .done m resp => (noteSat m p r.ref resp.saturated, { r with poisoned := r.poisoned || !resp.poison.isEmpty })
    | .sent m tag => (m, { r with tags := r.tags ++ [tag] })
  | .zero runs => (runs.foldl (fun m q => wrBytes m q.1 (List.replicate q.2 0)) m, r)
  | .adjust => (indexNotes m p r.ref.ctx r.ref.stream 1 none, r)
  | .stop code idx => (indexNotes m p r.ref.ctx r.ref.stream 0 idx, { r with code := code })

/-- Goes on with a remote table while fewer than 256 requests are outstanding (R141), up to the first failure. -/
def vePump (m : Mach) (p : Nat) (r : VeRun) : List VeAct → Mach × VeRun
  | [] => (m, { r with todo := [] })
  | x :: rest =>
    if 256 ≤ r.tags.length + (getBlk m p).ve.late.length then (m, { r with todo := x :: rest })
    else
      let q := veDo m p r x
      if q.2.code != 0 then (q.1, { q.2 with todo := [] }) else vePump q.1 p q.2 rest

/-! ### Long-haul and compression -/

/-- LH_SLICE (R72, R142): slice planes and exponents. Vectors wholly before a cut are written. -/
def vLhSlice (a : VArgs) : VOut :=
  let v := a.op.param0
  let kc := a.op.param1 % 65536
  let s := a.op.param1 / 65536 % 8
  let done := min v (upTo a (inS a 0).n / max kc 1)
  let vec := fun i => (List.range kc).map (fun k => valOf 1 (inElem a 0 (i * kc + k)))
  let exps := (List.range done).map (fun i => let xs := vec i; if xs.any valNonfinite then none else some (sliceExp xs))
  let rows := (List.range s).flatMap (fun k => (List.range done).map (fun i =>
    (2 * (k * v * kc + i * kc), match exps.getD i none with
      | none => freeBytes (freeStep a.m (2 * kc * (k * done + i))) (2 * kc)
      | some ex => ((vec i).map (fun x => leBytes 2 (unsign (sliceOf ex k x) 16))).flatten)))
  let m := placeWrites (freeStep a.m (2 * kc * s * done)) a.p (outS a 0).pl rows
  let m := placeWrite m a.p (outS a 1).pl ((exps.map (fun e => leBytes 4 (match e with
    | some x => unsign x 32
    | none => 0x80000000))).flatten)
  { m := m, w := a.w, code := cutCode a (inS a 0).n,
    nf := ((List.range done).zip exps).filterMap (fun q => if q.2.isNone then some (1, q.1) else none),
    inexact := [] }

/-- LH_RECOMBINE (R74, R143): one 32 × 32 FP64 tile from the partial tiles and exponents. -/
def vLhRecombine (a : VArgs) : VOut :=
  let s := a.op.param1 / 65536 % 8
  let part := fun el p q => signed (inElem a 0 (1024 * pairIndex p q + el)) 32
  let n := upTo a 1024
  let cell := fun el =>
    let e := signed (inElem a 1 (el / 32)) 32
    let f := signed (inElem a 2 (el % 32)) 32
    let r := if e = -2 ^ 31 || f = -2 ^ 31 then fmtNan fp64 else recombine (part el) s (e + f)
    if a.op.subop = 1 then addF64 (inElem a 3 el) r else r
  let pairs := (List.range s).flatMap classPairs
  let sat := (List.range n).filter (fun el =>
    pairs.any (fun q => let x := part el q.1 q.2; x == 2 ^ 31 - 1 || x == -2 ^ 31))
  let vs := (List.range n).map cell
  { m := putElems a.m a.p (outS a 0) vs, w := a.w, code := cutCode a 1024, nf := nfElems 0 1 vs, inexact := sat }

/-- The elements a_e of a segment (R144). -/
def segFeedback (a : VArgs) : List Nat :=
  (List.range a.op.param0).map (fun e => feedback (valOf (inS a 0).fmt (inElem a 0 e)) (valOf 0 (inElem a 1 e)))

/-- Writes a segment and the residuals that go with it, and notes the first non-finite residual: that of the first non-finite a_e, where there
is one (R133, R144). Every element takes part in the choice of those sent and in the scale, so an input that cannot be read leaves nothing
written: no output belongs to earlier elements alone (R484). (DEDUCED, log entry 77) -/
def segOut (a : VArgs) (seg : List Byte) (res : List Nat) : VOut :=
  if cutCode a a.op.param0 != 0 then { vNothing a with code := cutCode a a.op.param0 }
  else { vNothing a with m := putElems (placeWrite a.m a.p (outS a 0).pl seg) a.p (outS a 1) res, nf := nfElems 1 0 res }

/-- The first non-finite element of a list of FP32 patterns. -/
def firstBad (as : List Nat) : Option Nat := firstTrue (as.map (isNonfinite fp32)) 0

/-- TOPK (R144, R145). -/
def vTopk (a : VArgs) : VOut :=
  let n := a.op.param0
  let half := a.op.subop == 1
  let as := segFeedback a
  match firstBad as with
  | some _ => segOut a (segBytesOf n 0 (if half then 2 else 1) true 0 []) as
  | none =>
    let keep := topkIndices a.op.param1 as
    let val := fun i => topkValue half (nthN as i)
    let body := (keep.map (leBytes 4)).flatten ++ (keep.map (fun i => leBytes (if half then 2 else 4) (val i))).flatten
    let res := (List.range n).map (fun i =>
      let x := nthN as i
      if has keep i then
        rne fp32 (vadd (decodeF fp32 x) (vneg (if half then decodeF fp16 (val i) else decodeF fp32 (val i)))) else x)
    segOut a (segBytesOf n keep.length (if half then 2 else 1) false 0 body) res

/-- SIGNC (R144, R145). -/
def vSignc (a : VArgs) : VOut :=
  let n := a.op.param0
  let as := segFeedback a
  match firstBad as with
  | some _ => segOut a (segBytesOf n 0 3 true 0 []) as
  | none =>
    let s := accDivN 0 (laneSum (as.map mag32)) n
    let body := packBits (as.map (fun x => tbit x 31))
    let res := as.map (fun x =>
      rne fp32 (vadd (decodeF fp32 x) (if tbit x 31 then decodeF fp32 s else vneg (decodeF fp32 s))))
    segOut a (segBytesOf n n 3 false s body) res

/-! ### Starting and completing an operation -/

/-- Whether the first input is a table, which takes no part in the stream rules (R138). -/
def hasTable (op : VecOp) : Bool := op.opcode == 0x30 || op.opcode == 0x31 || op.opcode == 0x32

/-- The lane rate of an opcode (Table 5.3). -/
def laneRate (op : VecOp) (wide : Bool) : Nat :=
  match op.opcode with
  | 0x05 | 0x06 | 0x07 => if wide then 8 else 32
  | 0x20 => if op.subop = 6 then (if wide then 8 else 32) else if wide then 32 else 128
  | 0x21 => 1
  | 0x38 => 16
  | _ => if wide then 32 else 128

/-- The elements the lanes of an operation process, by the lengths of its input and output streams (R129, R142, R144). -/
def veElems (op : VecOp) (ins outs : List Nat) : Nat :=
  match op.opcode with
  | 0x21 => 1
  | 0x23 => nthN outs 0
  | 0x29 => nthN outs 0
  | 0x30 => nthN ins 1
  | 0x31 => nthN ins 1
  | 0x32 => nthN ins 1
  | _ => nthN ins 0

/-- The elements a stream of an operation moves while the lanes process `n` (R129): as many, but for scale bytes, registers, rows, slices and
segments, which have lengths of their own. `k` is the stream's number, `len` its length. -/
def streamElems (op : VecOp) (isOut : Bool) (k n len : Nat) : Nat :=
  match op.opcode with
  | 0x19 => if isOut && k = 1 then len else n
  | 0x1A => if !isOut && k = 1 then len else n
  | 0x21 => 0
  | 0x30 => len
  | 0x31 => len
  | 0x32 => len
  | 0x38 => len
  | 0x40 => if isOut && k = 0 then ceilDiv (8 * segMax op) (elemBits ((op.outs.getD 0 noStream).fmt)) else n
  | 0x41 => if isOut && k = 0 then ceilDiv (8 * segMax op) (elemBits ((op.outs.getD 0 noStream).fmt)) else n
  | _ => n

/-- Array cycles an operation takes (R129, R141 to R144): the slowest of its lanes, of its streams, and of the lines of a local table.
(DEDUCED, log entry 61) -/
def veCycles (op : VecOp) (ins outs : List Nat) (table : Nat) : Nat :=
  let wf := workFmt (((if op.ins.isEmpty then op.outs else op.ins).map (·.fmt)).filter (· < 7))
  let n := veElems op ins outs
  let lane := ceilDiv n (laneRate op (accBits wf == 64))
  let passes := if op.opcode = 0x40 then 3 * ceilDiv n 128 else if op.opcode = 0x41 then 2 * ceilDiv n 128 else if hasTable op then 0 else lane
  let lim := fun (isOut : Bool) (ss : List StreamD) (ls : List Nat) =>
    (List.range ss.length).foldl (fun a k =>
      let s := ss.getD k noStream
      if hasTable op && !isOut && k = 0 then a
      else max a (ceilDiv (streamElems op isOut k n (nthN ls k) * elemBits s.fmt) (max s.stripe 1 * 1024))) 0
  if op.opcode = 0x39 then
    let s := op.param1 / 65536 % 8
    max 32 (ceilDiv (16 * s * (s + 1)) (max ((op.ins.getD 0 noStream).stripe) 1))
  else max (max passes table) (max (lim false op.ins ins) (lim true op.outs outs))

/-- Whether the lengths of a record agree, register lengths once they are read (R126, R135, R136, R138, R142 to R145). A segment stream must hold
the longest segment the record can make. (DESIGN CHOICE, log entry 107) -/
def lengthsAgree (op : VecOp) (ins outs : List Nat) : Bool :=
  let i0 := nthN ins 0
  let o0 := nthN outs 0
  let s := op.param1 / 65536 % 8
  let kc := op.param1 % 65536
  if op.opcode ≤ 0x18 then ins.all (· == o0)
  else match op.opcode with
    | 0x19 => o0 == i0 && i0 % 32 == 0 && nthN outs 1 == i0 / 32
    | 0x1A => o0 == i0 && i0 % 32 == 0 && nthN ins 1 == i0 / 32
    | 0x20 => !(op.subop == 4 || op.subop == 5) || op.param1 + i0 ≤ 0xFFFFFFFF
    | 0x21 => o0 == 1
    | 0x22 => streamBytes ((op.ins.getD 0 noStream).fmt) i0 ≤ 512
    | 0x23 => streamBytes ((op.outs.getD 0 noStream).fmt) o0 ≤ 512
    | 0x28 => (ins.length < 2 || nthN ins 1 == i0) && o0 == op.param0
    | 0x29 => ins.length < 2 || nthN ins 1 == o0
    | 0x30 => o0 * elemBits ((op.outs.getD 0 noStream).fmt) == 8 * (tableGeom op).2.1 * nthN ins 1
    | 0x31 | 0x32 => nthN ins 2 * elemBits ((op.ins.getD 2 noStream).fmt) == 8 * (tableGeom op).2.1 * nthN ins 1
    | 0x38 => i0 == op.param0 * kc && o0 == s * op.param0 * kc && nthN outs 1 == op.param0
    | 0x39 => i0 == 512 * s * (s + 1) && nthN ins 1 == 32 && nthN ins 2 == 32 && (op.subop == 0 || nthN ins 3 == 1024) && o0 == 1024
    | 0x40 | 0x41 => i0 == op.param0 && nthN ins 1 == op.param0 && nthN outs 1 == op.param0 && segMax op ≤ streamBytes ((op.outs.getD 0 noStream).fmt) o0
    | _ => true

/-- The first element of an operation that takes a poisoned byte, over its input streams (R484). Elements are counted as
the operation counts them: rows for gathers, elements otherwise. -/
def poisonCut (m : Mach) (p : Nat) (op : VecOp) (ins : List Str) : Option Nat :=
  let perElem := fun (s : Str) (scale : Nat → Nat) =>
    ((List.range s.n).find? (fun e => placePoison m p s.pl s.fmt e)).map scale
  let cuts := (List.range ins.length).filterMap (fun i =>
    let s := ins.getD i noStr
    if hasTable op && i = 0 then none
    else if hasTable op && i = 2 then perElem s (fun e => e * elemBits s.fmt / 8 / max (tableGeom op).2.1 1)
    else if op.opcode = 0x1A && i = 1 then perElem s (· * 32)
    else if op.opcode = 0x39 && i = 0 then
      (((List.range s.n).filter (fun e => placePoison m p s.pl s.fmt e)).map (· % 1024)).min?
    else if op.opcode = 0x39 then perElem s (fun e => if i = 1 then 32 * e else e)
    else if op.opcode = 0x29 && i = 0 then none
    else perElem s id)
  cuts.foldl (fun a x => match a with | none => some x | some y => some (min x y)) none

/-- For EXPAND, the position that would take the first poisoned dense element. -/
def expandCut (a : VArgs) : Option Nat :=
  let s := inS a 0
  match (List.range s.n).find? (fun e => placePoison a.m a.p s.pl s.fmt e) with
  | none => none
  | some d => ((List.range (outS a 0).n).filter (maskBit a a.op.ra))[d]?

/-- The earlier of two cuts. -/
def minCut (x y : Option (Nat × Nat)) : Option (Nat × Nat) :=
  match x, y with
  | none, b => b
  | a, none => a
  | some a, some b => if a.1 ≤ b.1 then some a else some b

/-- Array cycles in which at least one of the listed elements of `n` is processed, when the whole takes `cyc` (R428). -/
def cyclesOf (es : List Nat) (n cyc : Nat) : Nat :=
  (es.foldl (fun (q : Nat × Option Nat) e => let c := e * cyc / max n 1; if q.2 = some c then q else (q.1 + 1, some c)) (0, none)).1

/-- Sets a per-slot flag once for each of `k` cycles. -/
def repeatFlag (f : Blk → Blk) (k : Nat) (b : Blk) : Blk := (List.range k).foldl (fun b _ => f b) b

/-- Notes the flags of an operation (R130, R133): nonfinite with its first position, inexact, and the record's flags. -/
def noteFlags (b : Blk) (r : ItemRef) (n cyc : Nat) (nf : List (Nat × Nat)) (inexact : List Nat) : Blk :=
  let c := r.ctx
  let had := tbit (tget 0 b.ve.flags c).toNat 0
  let b := match nf with
    | [] => b
    | q :: _ =>
      let b := repeatFlag (fun b => setVeFlag b c 0) (max 1 (cyclesOf (nf.map (·.2)) n cyc)) b
      let b := recFlag b r.stream 0
      if had then b else
        { b with ve := { b.ve with
            first := tset 0 b.ve.first c (BitVec.ofNat 64 (r.item <<< 48 ||| r.stream <<< 46 ||| 1 <<< 45 ||| q.1 <<< 44 ||| q.2 % 2 ^ 32)),
            firstWb := tset 0 b.ve.firstWb c (BitVec.ofNat 32 r.wb) } }
  match inexact with
  | [] => b
  | es => recFlag (repeatFlag (fun b => setVeFlag b c 1) (max 1 (cyclesOf es n cyc)) b) r.stream 2

/-- What readying the streams of an operation gives: places, a stall, or an end code. -/
inductive Readied where
  | ok (ins outs : List Str)
  | stall
  | bad (code : Nat)

/-- The bytes an output occupies: a FINALIZE record is longer than one element of its stream. -/
def outBytesOf (op : VecOp) (s : Str) : Nat := if op.opcode = 0x21 then finalBytes s.fmt op.subop else streamBytes s.fmt s.n

/-- Readies a list of streams: the places of those that are ready, the first failure, or a stall. -/
def readyAll (b : Blk) (c : Nat) (op : VecOp) (isOut : Bool) : List (StreamD × Nat) → List Str × Nat × Bool
  | [] => ([], 0, false)
  | (s, n) :: rest =>
    let r := readyAll b c op isOut rest
    match readyStream b c s (if isOut then outBytesOf op { noStr with fmt := s.fmt, n := n } else streamBytes s.fmt n) isOut with
    | .ok pl => ({ pl := pl, fmt := s.fmt, n := n } :: r.1, r.2.1, r.2.2)
    | .stall => (noStr :: r.1, r.2.1, true)
    | .bad code => (noStr :: r.1, code, r.2.2)

/-- Checks the overlaps of R127, the table's overlap of R138, and the bank mask of R209: 0 where all is well. -/
def streamFault (m : Mach) (p : Nat) (w : RunWb) (op : VecOp) (ins outs : List Str) : Nat :=
  let ins' := if hasTable op then ins.drop 1 else ins
  let bytes := fun (s : Str) => streamBytes s.fmt s.n
  let bad := fun (s : Str) (n : Nat) => (intervals s.pl n).any (fun q => !bankAllowed m p w.ctx q.1 (q.2 - q.1))
  if ins'.any (fun s => bad s (bytes s)) || outs.any (fun s => bad s (outBytesOf op s)) then cSpAddress
  else if banksClash (ins'.map (fun s => banksOf s.pl (bytes s))) || banksClash (outs.map (fun s => banksOf s.pl (bytes s))) then
    cVeOverlap
  else if outs.any (fun o => ins'.any (fun i => badOverlap i.pl (bytes i) o.pl (outBytesOf op o) true)) then cVeOverlap
  else if hasTable op && op.remote.isNone then
    let g := tableGeom op
    let base := (op.ins.getD 0 noStream).offset
    if (ins' ++ outs).any (fun s => meets [(base, base + g.1 * g.2.2)] (intervals s.pl (bytes s))) then cVeOverlap else 0
  else 0

/-- The streams an operation readies: its inputs but a table, which is reached by row. -/
def inDescs (op : VecOp) : List StreamD := if hasTable op then op.ins.drop 1 else op.ins
/-- The lengths of streams, of those whose length is not negative (R126). -/
def veLens (w : RunWb) (ss : List StreamD) : List Nat := ss.map (fun d => (streamLen w d).toNat)
/-- The streams an operation readies with their lengths. -/
def inLens (w : RunWb) (op : VecOp) : List (StreamD × Nat) := (inDescs op).zip (veLens w (inDescs op))
/-- The output streams of an operation with their lengths. -/
def outLens (w : RunWb) (op : VecOp) : List (StreamD × Nat) := op.outs.zip (veLens w op.outs)
/-- Whether a stream of an operation takes its length from a register. -/
def lensFromReg (op : VecOp) : Bool := op.ins.any (·.lenReg) || op.outs.any (·.lenReg)
/-- Whether a length taken from a register is negative. -/
def lensBad (w : RunWb) (op : VecOp) : Bool := (op.ins ++ op.outs).any (fun d => decide (streamLen w d < 0))
/-- Whether a length taken from a register is zero. -/
def lensZero (w : RunWb) (op : VecOp) : Bool := (op.ins ++ op.outs).any (fun d => d.lenReg && (streamLen w d).toNat == 0)

/-- What the start of an operation finds (R116, R126 to R128): an end code, no element to process, a RING window that is not ready, or what to
work on. -/
inductive VeStart where
  | fail (code : Nat)
  | nothing
  | stall
  | go (a : VArgs)

/-- The line requests of an operation's streams at the banks it does not own (R112), and the requests queued there before those of a local
table's rows. -/
def vePorts (m : Mach) (p : Nat) (op : VecOp) (ins outs : List Str) : Mach :=
  let one := fun (write : Bool) (m : Mach) (s : Str) => placePorts m p 4 s.pl (streamBytes s.fmt s.n) write
  let m := (if hasTable op then ins.drop 1 else ins).foldl (one false) m
  let m := outs.foldl (one true) m
  if !hasTable op || op.remote.isSome then m else
  let g := tableGeom op
  let off := (op.ins.getD 0 noStream).offset
  ((List.range 6).filter (fun b => off < (b + 1) * 0x20000 && b * 0x20000 < off + g.1 * g.2.2 && nthN (getBlk m p).sp.owner b != 4)).foldl
    (fun m b => flushPort m p b (op.opcode != 0x30)) m

/-- Reads the lengths of an operation's streams (a register length of 0 leaves nothing to read or write, so no other length is then compared
with it; DEDUCED, log entry 81), readies and checks the streams, and finds the first element that it must not process: the
one that reads poison, or the one whose result fails the engine's residue check (`mism`). -/
def veStart (p : Nat) (m : Mach) (w : RunWb) (ix : Nat) (op : VecOp) (mism : Option Nat) : VeStart :=
  if lensBad w op then .fail cVeLength
  else if lensZero w op then .nothing
  else if lensFromReg op && !lengthsAgree op (veLens w op.ins) (veLens w op.outs) then .fail cVeLength
  else
    let ri := readyAll (getBlk m p) w.ctx op false (inLens w op)
    let ro := readyAll (getBlk m p) w.ctx op true (outLens w op)
    let badCode := if ri.2.1 != 0 then ri.2.1 else ro.2.1
    if badCode != 0 then .fail badCode
    else if ri.2.2 || ro.2.2 then .stall
    else
      let ins := if hasTable op then noStr :: ri.1 else ri.1
      let outs := ro.1
      let f := streamFault m p w op ins outs
      if f != 0 then .fail f
      else
        let m := vePorts m p op ins outs
        let a : VArgs := { m := m, p := p, w := w, op := op, ix := ix, ins := ins, outs := outs, cut := none }
        let pc := (poisonCut m p op ins).map (fun e => (e, cSpUncorrectable))
        let pc := if op.opcode = 0x29 then minCut pc ((expandCut a).map (fun e => (e, cSpUncorrectable))) else pc
        .go { a with cut := minCut pc (mism.map (fun e => (e, cArithResidue))) }

/-- The operation in the engine. -/
def veRunOf (w : RunWb) (ix : Nat) (op : VecOp) : VeRun :=
  { ref := refOf w ix, opcode := op.opcode, tags := [], rows := [], todo := [], fmt := (op.outs.getD 0 noStream).fmt, poisoned := false, nf := [],
    frame := [], code := 0, ringStall := false }

/-- Puts an operation into the engine, or takes it out. -/
def setVeRun (m : Mach) (p : Nat) (r : Option VeRun) : Mach := modBlk m p (fun b => { b with ve := { b.ve with running := r } })

/-- An operation ends its waybill. -/
def veFail (m : Mach) (p stream item code : Nat) : Mach :=
  markItem (endWb (setVeRun m p none) p stream code) p stream item .done

/-- A residue mismatch of the engine (R377, Table 14.1). -/
def veMismatch (m : Mach) (p : Nat) (w : RunWb) : Mach :=
  noteResidue (reportCtx (endWb (modBlk m p (fun b => recFlag b w.stream 3)) p w.stream cArithResidue) 0x2001 (unitBlk p 2) w.ctx ((arrayOf m p).getD 0)
    (leBytes 4 w.wb)) p

/-- The elements of an input that an operation reads before element `q`, where it stops (R484): inputs that do not go element by element are
read to match. -/
def readBefore (a : VArgs) (i q : Nat) : Nat :=
  let s := inS a i
  min s.n (match a.op.opcode with
    | 0x1A => if i = 1 then ceilDiv q 32 else q
    | 0x29 => if i = 0 then ((List.range q).filter (maskBit a a.op.ra)).length else q
    | 0x31 => if i = 2 then ceilDiv (q * (tableGeom a.op).2.1 * 8) (elemBits s.fmt) else q
    | 0x32 => if i = 2 then ceilDiv (q * (tableGeom a.op).2.1 * 8) (elemBits s.fmt) else q
    | 0x39 => if i = 0 then q * (s.n / 1024) else if i = 1 then ceilDiv q 32 else if i = 2 then min q 32 else q
    | _ => q)

/-- The element an operation stopped at, where it did. -/
def stopOf (a : VArgs) (o : VOut) : Option Nat :=
  match o.stop with
  | some q => some q
  | none => if o.code = 0 then none else (a.cut.filter (fun q => q.2 == o.code)).map (·.1)

/-- The elements an operation read from its input streams (Table 5.8). -/
def elemsRead (a : VArgs) (o : VOut) : Nat :=
  (List.range a.ins.length).foldl (fun n i =>
    if hasTable a.op && i = 0 then n
    else n + match stopOf a o with | some q => readBefore a i q | none => (inS a i).n) 0

/-- The array cycles an operation ran for (R129): in proportion, where it stopped, but for the lines of a local table, which are those of the rows
done. (DEDUCED, log entry 61) -/
def veCost (a : VArgs) (o : VOut) : Nat :=
  let ins := veLens a.w a.op.ins
  let outs := veLens a.w a.op.outs
  match stopOf a o with
  | some q => max o.tableCycles (ceilDiv (veCycles a.op ins outs 0 * q) (max 1 (veElems a.op ins outs)))
  | none => veCycles a.op ins outs o.tableCycles

/-- Counts `n` array cycles in which an operation of slot `c` runs (Table 5.8, R396). -/
def veBusy (m : Mach) (p c n : Nat) : Mach :=
  acctAdd (modBlk m p (fun b => { b with ve := { b.ve with busy := satAdd b.ve.busy n } })) c 4 n

/-- Moves the RING pointers of the inputs or outputs of an operation whose last line is read or written (R116). -/
def endStreams (b : Blk) (r : VeRun) (isOut : Bool) : Blk :=
  (r.ends.filter (fun q => q.2.2 == isOut)).foldl (fun b q => finishStream b q.1 q.2.1 q.2.2) b

/-- Ends the reads of an operation with a remote table once nothing of it is left to do: its inputs are then read whole. -/
def endReads (m : Mach) (p : Nat) (r : VeRun) : Mach × VeRun :=
  if r.todo.isEmpty && r.code == 0 then (modBlk m p (fun b => endStreams b r false), { r with ends := r.ends.filter (·.2.2) }) else (m, r)

/-- The operation leaves the engine: a remote gather's NaNs and infinities are noted (R133), its output's RING pointer moves where it was written
whole (R116), and its output goes to the check-value unit. The waybill ends with the code of an operation that failed, and with MEM_POISON where a
remote row came poisoned (Table 9.5). -/
def veClose (m : Mach) (p : Nat) (r : VeRun) : Mach :=
  let m := modBlk m p (fun b =>
    let b := noteFlags b r.ref (r.nf.length) (r.nf.length) (r.nf.map (fun e => (0, e))) []
    let b := if r.code = 0 then endStreams b r true else b
    { b with ve := { b.ve with running := none, late := b.ve.late ++ r.tags.map (fun t => (t, r.ref)) } })
  let m := if r.frame.isEmpty then m else cvTap m p 2 r.ref.ctx ((r.frame.map (fun q => rdBytes m q.1 q.2)).flatten)
  let m := if r.code != 0 then endWb m p r.ref.stream r.code else if r.poisoned then endWb m p r.ref.stream cMemPoison else m
  markItem m p r.ref.stream r.ref.item .done

/-- What the engine answers once it has gone on with a remote table: it ends the waybill at once where the operation failed and nothing is
outstanding, else it holds the operation (R139, R141, R168). -/
def veHold (m : Mach) (p : Nat) (r : VeRun) : Mach :=
  if r.code != 0 && r.tags.isEmpty then veClose m p r
  else let z := endReads m p r; markItem (setVeRun z.1 p (some z.2)) p r.ref.stream r.ref.item .issued

/-- The streams that an operation reads to their last line, and those it writes to it (R116), with their elements and whether they are outputs:
where it stops, only the inputs it has then read whole. -/
def veEnds (a : VArgs) (o : VOut) : List (StreamD × Nat × Bool) :=
  let ins := (inLens a.w a.op).zipIdx.filter (fun q =>
    let i := q.2 + b2n (hasTable a.op)
    match stopOf a o with | some e => readBefore a i e == (inS a i).n | none => true)
  ins.map (fun q => (q.1.1, q.1.2, false)) ++ if (stopOf a o).isSome then [] else (outLens a.w a.op).map (fun q => (q.1, q.2, true))

/-- Takes what the body of an operation answers: its writes, the registers and generators of its waybill, its flags and its counts; then a remote
table's requests go out. The RING pointers move where the operation read and wrote its streams whole (R116). Its cycles are counted here unless it
waits for answers: those cycles are counted as they pass. (DEDUCED, log entry 106) -/
def veApply (a : VArgs) (o : VOut) : Mach :=
  let p := a.p
  let w := a.w
  let op := a.op
  let n := veElems op (veLens w op.ins) (veLens w op.outs)
  let cyc := veCost a o
  let frame := match a.outs with
    | s0 :: _ => (intervals s0.pl (outBytesOf op s0)).map (fun q => (spAddr p q.1, q.2 - q.1))
    | [] => []
  let r := { veRunOf w a.ix op with frame := if o.todo.isEmpty then [] else frame, code := o.code, ends := veEnds a o }
  let m := modBlk o.m p (fun b =>
    let b := modRunning b w.stream (fun x => { x with regs := o.w.regs, gens := o.w.gens })
    let b := noteFlags b (refOf w a.ix) n cyc o.nf o.inexact
    let b := if o.todo.isEmpty then endStreams (endStreams b r false) r true else b
    { b with ve := { b.ve with elements := satAdd b.ve.elements (elemsRead a o) } })
  let m := if o.code = cArithResidue then veMismatch m p w else m
  let m := if o.todo.isEmpty && !frame.isEmpty then cvTap m p 2 w.ctx ((frame.map (fun q => rdBytes m q.1 q.2)).flatten) else m
  let q := vePump m p (if o.todo.isEmpty then { r with ends := [] } else r) o.todo
  veHold (if q.2.tags.isEmpty then veBusy q.1 p w.ctx cyc else q.1) p q.2

/-- Starts a vector operation (R126 to R128, R484): reads its lengths, readies and checks its streams, runs its body and
notes its flags. `mism` is the element whose result fails the engine's residue check, if one does (Table 14.1). -/
def veRunOp (p : Nat) (m : Mach) (w : RunWb) (ix : Nat) (op : VecOp) (mism : Option Nat) (body : VArgs → VOut) : Mach :=
  match veStart p m w ix op mism with
  | .fail code => veFail m p w.stream ix code
  | .nothing => markItem (setVeRun m p (some (veRunOf w ix op))) p w.stream ix .issued
  | .stall => setVeRun m p (some { veRunOf w ix op with ringStall := true })
  | .go a => veApply a (body a)

/-- Whether an item is a vector operation. -/
def isVector (it : Item) : Bool := match it with | .vector _ => true | _ => false

/-- Whether a running waybill has a vector operation that may start now. -/
def hasVector (m : Mach) (b : Blk) (w : RunWb) : Bool :=
  match nextItem m w isVector with
  | some q => !windowHeld m b q.2
  | none => false

/-- The next vector operation of the stream's waybill, where it is one that `want` names, starts, if the waybill is the first in the pick order
that has one to start (R128, R195). -/
def vecOp (want : VecOp → Bool) (body : VArgs → VOut) (p stream : Nat) (mism : Option Nat) (m : Mach) : Mach :=
  let b := getBlk m p
  if b.ve.running.isSome || turnOf b (hasVector m b) != some stream then m else
  match runningOn b stream with
  | none => m
  | some w =>
    match nextItem m w isVector with
    | some (ix, .vector op) => if want op then veRunOp p m w ix op mism body else m
    | _ => m

/-- The body of an opcode (Table 5.3). -/
def vecBody (op : VecOp) : VArgs → VOut :=
  match op.opcode with
  | 0x10 => vCompare
  | 0x11 => vSelect
  | 0x18 => vConvert
  | 0x19 => vShEnc
  | 0x1A => vShDec
  | 0x20 => vReduce
  | 0x21 => vFinalize
  | 0x22 => vRegLoad
  | 0x23 => vRegStore
  | 0x28 => vCompress
  | 0x29 => vExpand
  | 0x30 => vGather
  | 0x31 => vScatter
  | 0x32 => vScatterAdd
  | 0x38 => vLhSlice
  | 0x39 => vLhRecombine
  | 0x40 => vTopk
  | 0x41 => vSignc
  | _ => vElementWise

/-- A stalled operation finds its RING window ready and starts (R116). -/
def vecResume (p : Nat) (m : Mach) : Mach :=
  let b := getBlk m p
  match b.ve.running with
  | none => m
  | some r =>
    if !r.ringStall then m else
    match runningOn b r.ref.stream, getMan m r.ref.ctx r.ref.man with
    | some w, some x =>
      match (bodyOf x.img w.wb)[r.ref.item]? with
      | some (.vector op) =>
        if w.code != 0 then modBlk m p (fun b => { b with ve := { b.ve with running := none } })
        else veRunOp p m w r.ref.item op none (vecBody op)
      | _ => m
    | _, _ => m

/-- Whether the network has taken every request of an operation (R141): none waits for a link. -/
def allAccepted (m : Mach) (r : VeRun) : Bool := !m.fab.txq.any (fun pk => pk.cls == 0 && has r.tags pk.tag)

/-- Whether the running operation has nothing left to wait for (R141): a gather every response, a scatter or add that every request is sent and
taken by the network. -/
def veOver (m : Mach) (r : VeRun) : Bool :=
  !r.ringStall && r.todo.isEmpty && (r.tags.isEmpty || (r.opcode != 0x30 && allAccepted m r))

/-- VECTOR_OP_COMPLETE: the running operation completes once every response and acceptance is in (R141). -/
def vectorOpComplete (p : Nat) (m : Mach) : Mach :=
  match (getBlk m p).ve.running with
  | none => m
  | some r => if veOver m r then veClose m p r else m

/-- Takes a late request out of those an answer is awaited for. -/
def dropLate (m : Mach) (p tag : Nat) : Mach := modBlk m p (fun b => { b with ve := { b.ve with late := b.ve.late.filter (fun q => q.1 != tag) } })

/-- Sends what the running operation has yet to send, as far as its outstanding requests let it (R141). -/
def veGoOn (m : Mach) (p : Nat) : Mach :=
  match (getBlk m p).ve.running with
  | none => m
  | some r => if r.todo.isEmpty then m else
    let y := vePump m p r r.todo
    let z := endReads y.1 p y.2
    setVeRun z.1 p (some z.2)

/-- An answer to a remote request of the engine: a row's data is written where it goes, poison ends the waybill when the
operation completes (Table 9.5), a saturated accumulate sets inexact (R253), and the next requests go out (R141). -/
def veResponse (m : Mach) (p tag : Nat) (data : List Byte) (poison : List Nat) (sat : Bool) : Mach :=
  match (getBlk m p).ve.late.find? (fun q => q.1 == tag) with
  | some q =>
    let m := dropLate (noteSat m p q.2 sat) p tag
    veGoOn (if poison.isEmpty then m else endRef m p q.2 cMemPoison) p
  | none =>
    match (getBlk m p).ve.running with
    | none => m
    | some r =>
      if !has r.tags tag then m else
      let z := match r.rows.find? (fun q => q.1 == tag) with
        | some q => rowIn m r q.2.1 q.2.2 (data.take 32) (!poison.isEmpty)
        | none => (m, { r with poisoned := r.poisoned || !poison.isEmpty })
      let r' := { z.2 with tags := delNat tag r.tags, rows := r.rows.filter (fun q => q.1 != tag) }
      veGoOn (setVeRun (noteSat z.1 p r.ref sat) p (some r')) p

/-- A refusal of a remote request of the engine ends its waybill (R288): nothing of it is written, and nothing more is sent. -/
def veNack (m : Mach) (p tag code : Nat) : Mach :=
  match (getBlk m p).ve.late.find? (fun q => q.1 == tag) with
  | some q => veGoOn (endRef (dropLate m p tag) p q.2 code) p
  | none =>
    match (getBlk m p).ve.running with
    | none => m
    | some r =>
      if !has r.tags tag then m
      else setVeRun m p (some { r with tags := delNat tag r.tags, rows := r.rows.filter (fun q => q.1 != tag), todo := [],
                                       code := if r.code = 0 then code else r.code })

/-- Whether a record has an opcode. -/
def isOpcode (k : Nat) (op : VecOp) : Bool := op.opcode == k

end Sys2Proof.Machine
end

