-- ==== Sys2Proof/Machine/Scratch.lean ====
section
/-! DEFINITION. The scratchpad (chapter 4): bank accesses through SECDED, queued non-owners, write-backs, patrol, alias
writes, and RING accesses that find room. -/

namespace Sys2Proof.Machine

/-- The word of BLK_SP_ECC_FIRST (Table 4.7) for a granule at offset `off`. -/
def spFirst (source off : Nat) : W32 :=
  BitVec.ofNat 32 (1 <<< 23 ||| source <<< 22 ||| (off / 0x20000) <<< 19 ||| (off / 128 % 1024) <<< 9 ||| (off / 8 % 16) <<< 5)

/-- Records the first position, while the register holds none (R123). -/
def spRecord (s : SpSt) (source off : Nat) : SpSt :=
  if s.eccFirst.getLsbD 23 then s else { s with eccFirst := spFirst source off }

/-- Puts a write-back in hand, replacing one for the same granule. -/
def putWb (s : SpSt) (w : WriteBack) : SpSt := { s with wb := s.wb.filter (fun x => x.addr != w.addr) ++ [w] }

/-- A single-bit error of the granule at `off` (R121): counted, flagged and put in hand for write-back. -/
def spCorrect (m : Mach) (p off : Nat) : Mach :=
  let m := modSp m p (fun s => putWb { s with corrected := satAdd s.corrected 1, eccStatus := setBit s.eccStatus 0 }
    { addr := off, poison := false })
  let m := logRec m 0x1001 clsCorrected (unitBlk p 5) 0 0 none (leBytes 1 (off / 0x20000) ++ leBytes 2 (off / 128 % 1024) ++ leBytes 4 1)
  noteSpCorr m p (off / 0x20000)

/-- A double-bit error (R121, R122): counted, flagged, recorded, poisoned. `patrol` says who found it, `c` the slot whose
request found it, 16 for a request of no context (R435). (DEDUCED, log entry 34) -/
def spDetect (m : Mach) (p off : Nat) (patrol : Bool) (c : Nat) : Mach :=
  let a := spAddr p off
  let m := modSp m p (fun s =>
    let s := { s with uncorrected := satAdd s.uncorrected 1, eccStatus := setBit s.eccStatus (if patrol then 2 else 1) }
    putWb (spRecord s (b2n patrol) off) { addr := off, poison := true })
  let m := setPoison m a true
  let arr := (arrayOf m p).getD 0
  let m := if patrol then report m 0x5005 clsInfo (unitBlk p 5) none 0 arr (leBytes 8 a)
    else if c < 16 then reportCtx m 0x2002 (unitBlk p 5) c arr (leBytes 8 a ++ leBytes 1 0)
    else report m 0x2002 clsContained (unitBlk p 5) none 0 arr (leBytes 8 a ++ leBytes 1 0)
  noteSpUnc m p

/-- Performs one access at a bank (R106 to R109, R119 to R121): `single` and `double` are the granule offsets at which the
code finds one and two bad bits; a granule that holds the poison pattern is no error of either kind. -/
def spPerform (m : Mach) (p : Nat) (r : BankReq) (single double : List Nat) : Mach :=
  let reads := touched r.off r.len (r.data.isSome && r.aliasOp.isNone)
  let sound := fun (m : Mach) (g : Nat) => has reads g && !isPoison m (spAddr p g)
  let m := (single.filter (sound m)).foldl (fun m g => spCorrect m p g) m
  let m := (double.filter (sound m)).foldl (fun m g => spDetect m p g false r.ctx) m
  serveReq m p r

/-- A request reaches a bank port. The owner is served, and so is any request to a bank without owner or with `idle`
ports once nothing older waits; others queue, up to 16 (R112). A request that finds the queue full is held by its
requester: it is not taken. (DEDUCED, log entry 69) -/
def spRequest (m : Mach) (p : Nat) (r : BankReq) (busy : Bool) (single double : List Nat) : Mach :=
  let bank := r.off / 0x20000
  let s := (getBlk m p).sp
  let w := r.data.isSome
  let q := bankQueue s bank w
  if nthN s.owner bank = r.master && r.master != 0 then spPerform m p r single double
  else if q.isEmpty && !(busy && nthN s.owner bank != 0) then countNonOwner (spPerform m p r single double) p bank 0
  else if 16 ≤ q.length then m
  else modSp m p (fun s =>
    if w then { s with wrQueue := tset [] s.wrQueue bank (q ++ [r]) } else { s with rdQueue := tset [] s.rdQueue bank (q ++ [r]) })

/-- Whether the six banks hold bytes `off` to `off + n - 1`, within one line (R106). -/
def inLine (off n : Nat) : Bool := 0 < n && off + n ≤ 0xC0000 && off / 128 == (off + n - 1) / 128

/-- ALIAS_WRITE: a write through an alias range is an atomic bit-set or bit-clear at the selected bank (R119); one that
R120 refuses ends its waybill with SP_ADDRESS and writes nothing. -/
def aliasWriteOp (p master c stream off : Nat) (data : List Byte) (busy bad : Bool) (single double : List Nat) (m : Mach) : Mach :=
  if bad then stateLost m (getBlk m p).sp.aliasCtx (unitBlk p 5) else
  if fenced m (spAddr p 0) || off + data.length ≤ 0xC0000 then m
  else if !aliasAllows m c (spAddr p off) data.length true then
    endWb m p stream cSpAddress
  else
    let y := (getBlk m p).sp.aliasBank * 0x20000 + off % 0x20000
    if master != 6 && !bankAllowed m p c y data.length then endWb m p stream cSpAddress else
    let r : BankReq :=
      { master := master, ctx := c, stream := stream, off := y, len := data.length, data := some data,
        aliasOp := some (0xE0000 ≤ off), viaAlias := true, waited := 0 }
    spRequest m p r busy single double

/-- A read through an alias range (R120): the aliased bytes are read at their bank; one that R120 refuses ends its waybill with SP_ADDRESS and
reads nothing. -/
def aliasReadOp (p master c stream off n : Nat) (busy : Bool) (single double : List Nat) (m : Mach) : Mach :=
  let y := (getBlk m p).sp.aliasBank * 0x20000 + off % 0x20000
  if !aliasAllows m c (spAddr p off) n false || (master != 6 && !bankAllowed m p c y n) then endWb m p stream cSpAddress
  else if !inLine y n then m
  else
    let r : BankReq :=
      { master := master, ctx := c, stream := stream, off := y, len := n, data := none, aliasOp := none, viaAlias := true, waited := 0 }
    spRequest m p r busy single double

/-- SP_ACCESS: a master's line read or write reaches a bank (R107 to R112, R121). `busy` says whether the owner uses the
port in this cycle. An engine's access outside its context's bank mask ends its waybill with SP_ADDRESS and does nothing
(R209). -/
def spAccess (p master c stream off n : Nat) (data : Option (List Byte)) (busy : Bool) (single double : List Nat) (m : Mach) : Mach :=
  if n = 0 || (match data with | some d => d.length != n | none => false) then m
  else if fenced m (spAddr p 0) then (if data.isNone && master != 6 then endWb m p stream cSpUncorrectable else m)
  else if 0xC0000 < off + n then
    match data with
    | some d => aliasWriteOp p master c stream off d busy false single double m
    | none => aliasReadOp p master c stream off n busy single double m
  else if !inLine off n then m
  else if master != 6 && !bankAllowed m p c off n then endWb m p stream cSpAddress
  else
    let r : BankReq :=
      { master := master, ctx := c, stream := stream, off := off, len := n, data := data, aliasOp := none, viaAlias := false, waited := 0 }
    spRequest m p r busy single double

/-- NON_OWNER_SERVICE: the oldest queued request of a bank's port is served in a cycle its owner leaves idle, `waited`
array cycles after it came (R112). Behind the cordon of a block or region a request waits for the answer R403 gives it. -/
def nonOwnerService (p bank : Nat) (write : Bool) (waited : Nat) (single double : List Nat) (m : Mach) : Mach :=
  if fenced m (spAddr p 0) then m else
  match bankQueue (getBlk m p).sp bank write with
  | [] => m
  | r :: rest =>
    let m := modSp m p (fun s =>
      if write then { s with wrQueue := tset [] s.wrQueue bank rest } else { s with rdQueue := tset [] s.rdQueue bank rest })
    countNonOwner (spPerform m p r single double) p bank waited

/-- SP_ECC_WRITEBACK: the oldest write-back in hand is written in a free write-port cycle (R121). -/
def spWriteback (p : Nat) (m : Mach) : Mach := modSp m p (fun s => { s with wb := s.wb.drop 1 })

/-- What a block's read of a line by the patrol finds, granule by granule. -/
def patrolGranules (m : Mach) (p : Nat) (single double : List Nat) (line : Nat) : Mach :=
  let gs := (List.range 16).map (fun i => 128 * line + 8 * i)
  let m := (single.filter (fun g => has gs g && !isPoison m (spAddr p g))).foldl (fun m g => spCorrect m p g) m
  (double.filter (fun g => has gs g && !isPoison m (spAddr p g))).foldl (fun m g => spDetect m p g true 0) m

/-- SP_PATROL_READ: the patrol reads the next line of a bank of a powered block (R122); `forced` says that it took the cycle from the owner,
which a bank without owner has none to take from.
The pass is counted when every bank has come round to line 0. -/
def spPatrol (p bank : Nat) (forced : Bool) (single double : List Nat) (m : Mach) : Mach :=
  if 6 ≤ bank || 1088 ≤ p || !regionsOn m || fenced m (spAddr p 0) then m else
  let pos := tget 0 (getBlk m p).sp.patrolPos bank
  let m := patrolGranules m p single double (1024 * bank + pos)
  modSp m p (fun s =>
    let s := { s with patrolPos := tset 0 s.patrolPos bank ((pos + 1) % 1024),
                      patrolForced := if forced && nthN s.owner bank != 0 then satAdd s.patrolForced 1 else s.patrolForced }
    if pos = 1023 && s.patrolPos.isEmpty then { s with patrolPasses := satAdd s.patrolPasses 1 } else s)

end Sys2Proof.Machine
end

