-- ==== Sys2Proof/Machine/Premutar.lean ====
section
/-! DEFINITION. Premutar (chapter 6): lanes, boxes, holds, translation, faults, and the completion of descriptors. -/

namespace Sys2Proof.Machine

/-- Dimension `k` of a descriptor in use; none past its rank. -/
def noDim : PmDim :=
  { perm := 0, padMode := 0, extent := 1, srcStride := 0, dstStride := 0, extLo := 0, extHi := 0, roomLo := 0, roomHi := 0,
    dstOrigin := 0, srcOrigin := 0 }

/-- Dimension `k`. -/
def dimOf (d : PmDesc) (k : Nat) : PmDim := d.dims.getD k noDim

/-- Lanes along a dimension (R153). -/
def dimLanes (x : PmDim) : Nat := x.extLo + x.extent + x.extHi
/-- Total lanes (R153). -/
def laneCount (d : PmDesc) : Nat := d.dims.foldl (fun a x => a * dimLanes x) 1

/-- The lane coordinates of lane `n` in iteration order, dimension 0 innermost (R156). -/
def laneCoords : List PmDim → Nat → List Int
  | [], _ => []
  | x :: xs, n => (((n % dimLanes x : Nat) : Int) - (x.extLo : Int)) :: laneCoords xs (n / dimLanes x)

/-- Whether the source dimension of destination dimension `k` broadcasts (R157). -/
def broadcasts (d : PmDesc) (x : PmDim) : Bool := (dimOf d x.perm).srcStride == 0

/-- Whether a lane is in room on a dimension (R158). -/
def inRoom (d : PmDesc) (x : PmDim) (j : Int) : Bool :=
  broadcasts d x || (-(x.roomLo : Int) ≤ j && j < (x.extent : Int) + x.roomHi)

/-- What a lane is (R158, R159). -/
inductive LaneKind where
  | strong | weak | skip
  deriving DecidableEq, Repr

/-- The kind of a lane; every lane of a FILL is strong (R155). -/
def laneKind (d : PmDesc) (js : List Int) : LaneKind :=
  if d.fill then .strong
  else
    let out := (d.dims.zip js).filter (fun q => !inRoom d q.1 q.2)
    if out.isEmpty then .strong else if out.all (fun q => q.1.padMode == 1) then .weak else .skip

/-- The absolute destination indices of a lane (R156). -/
def dstIdx (d : PmDesc) (js : List Int) : List Int := (d.dims.zip js).map (fun q => (q.1.dstOrigin : Int) + q.2)

/-- The source indices of a lane, by source dimension (R156, R157). -/
def srcIdx (d : PmDesc) (js : List Int) : List Int :=
  (List.range d.dims.length).map (fun s =>
    let x := dimOf d s
    let j := ((d.dims.zip js).find? (fun q => q.1.perm == s)).map (·.2)
    (x.srcOrigin : Int) + (if x.srcStride == 0 then 0 else j.getD 0))

/-- The address of an element in G32 layout (R148). -/
def g32Addr (base : Int) (ix strides : List Int) (r c e : Nat) : Int :=
  ((ix.zip strides).zip (List.range ix.length)).foldl (fun a q =>
    let i := q.1.1
    let s := q.1.2
    if q.2 = r then a + i / 32 * s + i % 32 * (32 * e)
    else if q.2 = c then a + i / 32 * s + i % 32 * e
    else a + i * s) base

/-- The tile base under an element of a G32 side. -/
def g32Tile (base : Int) (ix strides : List Int) (r c : Nat) : Int :=
  ((ix.zip strides).zip (List.range ix.length)).foldl (fun a q =>
    if q.2 = r || q.2 = c then a + q.1.1 / 32 * q.1.2 else a + q.1.1 * q.1.2) base

/-- The address of an element of a STRIDED side (R156). -/
def stridedAddr (base : Int) (ix strides : List Int) : Int := (ix.zip strides).foldl (fun a q => a + q.1 * q.2) base

/-- Source strides and destination strides. -/
def srcStrides (d : PmDesc) : List Int := d.dims.map (·.srcStride)
/-- Destination strides. -/
def dstStrides (d : PmDesc) : List Int := d.dims.map (·.dstStride)

/-- The address a lane reads. -/
def srcAddr (d : PmDesc) (js : List Int) : Int :=
  if d.srcG32 then g32Addr d.src.base (srcIdx d js) (srcStrides d) d.srcRow d.srcChan d.elemSize
  else stridedAddr d.src.base (srcIdx d js) (srcStrides d)

/-- The address a lane writes. -/
def dstAddr (d : PmDesc) (js : List Int) : Int :=
  if d.dstG32 then g32Addr d.dst.base (dstIdx d js) (dstStrides d) d.dstRow d.dstChan d.elemSize
  else stridedAddr d.dst.base (dstIdx d js) (dstStrides d)

/-- The address of the scale byte of an element of an SH16 side (R151). -/
def scaleAddr (scale base : Nat) (ix strides : List Int) (r c : Nat) : Int :=
  scale + 32 * ((g32Tile base ix strides r c - base) / 2048) + (ix.getD r 0) % 32

/-! ### Sides -/

/-- The sides of a descriptor, numbered as Table 6.8 numbers them: 0 source, 1 destination, 2 source scale, 3 destination scale. -/
def sideBase (d : PmDesc) (k : Nat) : PmBase :=
  match k with
  | 0 => d.src
  | 1 => d.dst
  | 2 => d.srcScale
  | _ => d.dstScale

/-- Whether a side is written. -/
def sideIsDst (k : Nat) : Bool := k % 2 == 1

/-- The address a lane generates on a side (R151, R156). -/
def sideAddr (d : PmDesc) (js : List Int) (k : Nat) : Int :=
  match k with
  | 0 => srcAddr d js
  | 1 => dstAddr d js
  | 2 => scaleAddr d.srcScale.base d.src.base (srcIdx d js) (srcStrides d) d.srcRow d.srcChan
  | _ => scaleAddr d.dstScale.base d.dst.base (dstIdx d js) (dstStrides d) d.dstRow d.dstChan

/-- Bytes a lane moves on a side. -/
def sideBytes (d : PmDesc) (k : Nat) : Nat := if k < 2 then d.elemSize else 1

/-- The sides a descriptor uses: FILL reads nothing (R155), and scale planes move with SH16 only (R154). -/
def sidesOf (d : PmDesc) : List Nat :=
  (List.range 4).filter (fun k => (sideIsDst k || !d.fill) && (k < 2 || d.sh16))

/-- Whether a lane is the first of its channel vector, by whose scale byte the vector is counted. -/
def leadsVector (d : PmDesc) (js : List Int) : Bool := (dstIdx d js).getD d.dstChan 0 % 32 == 0

/-- The addresses of a side in iteration order: on a scale plane one for each channel vector. -/
def sideAddrs (d : PmDesc) (k : Nat) : List Int :=
  (((List.range (laneCount d)).map (laneCoords d.dims)).filter (fun js => k < 2 || leadsVector d js)).map (fun js => sideAddr d js k)

/-- Whether addresses follow one another directly, from one on. -/
def follow (e : Nat) : Int → List Int → Bool
  | _, [] => true
  | a, x :: xs => x == a && follow e (a + e) xs

/-- Bytes of a whole side. -/
def sideTotal (d : PmDesc) (k : Nat) : Nat := (sideAddrs d k).length * sideBytes d k

/-! ### Addresses -/

/-- A run of bytes an address leads to: local bytes, or bytes of another module by virtual address. -/
inductive PmPart where
  | here (a n : Nat)
  | far (v n : Nat)
  deriving DecidableEq, Repr

/-- Where a generated address leads: runs of bytes in order, or a failed check with its kind (Table 6.2), end code, the line
address recorded (Table 6.7), and the request this module's own customs refused, if one did. -/
inductive PmLoc where
  | at (parts : List PmPart)
  | bad (kind code addr : Nat) (turned : Option (Packet × Nat))
  deriving DecidableEq, Repr

/-- The runs of a place that passed its checks. -/
def PmLoc.parts : PmLoc → List PmPart
  | .at ps => ps
  | .bad _ _ _ _ => []

/-- Two places one after the other: the first failure of the two. -/
def PmLoc.join (a b : PmLoc) : PmLoc :=
  match a, b with
  | .at x, .at y => .at (x ++ y)
  | .at _, b => b
  | a, _ => a

/-- Bytes at an address in the pieces that lie in one 128 B line each. -/
def linePieces (a n : Nat) : List (Nat × Nat) :=
  let k := 128 - a % 128
  if n ≤ k then [(a, n)] else [(a, k), (a + k, n - k)]

/-- Whether an address lies in an alias range of a stride (R119). -/
def isAlias (a : Nat) : Bool := isSp a && 0xC0000 ≤ (a - spBase) % 0x100000

/-- The address a failing line is recorded with. -/
def lineOf (a : Nat) : Nat := a / 128 * 128 % 2 ^ 57

/-- Bytes of one line in fabric space (R167, R168, R270): translated once for the line; what this module itself holds passes its own customs;
a source line that has come is used as it came, one that was refused fails. An element of an alias range is part of the access to its line, which is
refused as a whole where R120 refuses it. (DEDUCED, log entry 109) -/
def pmFabric (m : Mach) (fl : Flight) (isDst : Bool) (a n : Nat) : PmLoc :=
  let c := fl.ref.ctx
  let op := if isDst then 0x02 else 0x04
  if !isDst && fl.got.any (fun e => e.1 == a / 128 * 128) then .at [.far a n]
  else match (if isDst then none else fl.nacked.find? (fun (e : Nat × Nat) => e.1 == a / 128 * 128)) with
  | some e => .bad (reasonKind e.2) (reasonCode e.2) (lineOf a) none
  | none =>
    match translate m c op a n with
    | .fault k => .bad k (cPm k) (lineOf a) none
    | .ok e phys =>
      if m.fab.module = some e.module then
        let own := isDst && isAlias phys && !has fl.aliasBad (phys / 128)
        let pk := if own then mkReq m c e op 0 (phys / 4 * 4) 4 [] [] false false 0 else mkReq m c e op 0 phys n [] [] false false 0
        match customsReason m pk true with
        | some r => .bad (reasonKind r) (reasonCode r) (lineOf a) (some (pk, r))
        | none => .at [.here phys n]
      else .at [.far a n]

/-- `n` bytes at offset `x` of a window, in the pieces its end cuts them into (R116). -/
def winPieces (w : Win) (x n : Nat) : List (Nat × Nat) :=
  let k := winBytes w - x
  if n ≤ k then [(x, n)] else [(x, k), (0, n - k)]

/-- Checks and resolves the address `x` of `n` bytes on a side (R116, R117, R166, R167, R209). The line recorded is the first that fails; a negative
address is recorded as 0. (DESIGN CHOICE, log entry 120) -/
def pmLoc (m : Mach) (p : Nat) (fl : Flight) (k : Nat) (x : Int) (n : Nat) : PmLoc :=
  let c := fl.ref.ctx
  let s := sideBase fl.desc k
  match s.space with
  | 0 =>
    if x < 0 || 0xC0000 < x.toNat + n then .bad 5 (cPm 5) (if x < 0 then 0 else lineOf (max x.toNat 0xC0000)) none
    else if !bankAllowed m p c x.toNat n then .bad 0 cSpAddress (lineOf x.toNat) none
    else .at [.here (spAddr p x.toNat) n]
  | 1 =>
    let w := getWin (getBlk m p) s.window
    if !w.enable || w.ctx != c || winBytes w = 0 then .bad 6 cSpWindow (lineOf x.toNat) none
    else
      let start : Int := if w.ring then (if sideIsDst k then w.tail else w.head) % winBytes w else 0
      let off := ((start + x) % (winBytes w : Int)).toNat
      let ps := (winPieces w off n).map (fun q => (w.base * 2048 + q.1, q.2))
      if ps.any (fun q => !bankAllowed m p c q.1 q.2) then .bad 0 cSpAddress (lineOf off) none
      else .at (ps.map (fun q => .here (spAddr p q.1) q.2))
  | _ =>
    if x < 0 || 2 ^ 57 < x.toNat + n then .bad 1 (cPm 1) (if x < 0 then 0 else lineOf (max x.toNat (2 ^ 57))) none
    else (linePieces x.toNat n).foldl (fun l q => l.join (pmFabric m fl (sideIsDst k) q.1 q.2)) (.at [])

/-! ### Boxes -/

/-- The strong box of a descriptor in absolute indices (R158). -/
def strongBox (d : PmDesc) : Box :=
  d.dims.map (fun x =>
    let o : Int := x.dstOrigin
    if d.fill || broadcasts d x then (o - x.extLo, o + x.extent + x.extHi)
    else (o - min x.extLo x.roomLo, o + x.extent + min x.extHi x.roomHi))

/-- The full destination box (R156). -/
def fullBox (d : PmDesc) : Box :=
  d.dims.map (fun x => ((x.dstOrigin : Int) - x.extLo, (x.dstOrigin : Int) + x.extent + x.extHi))

/-- Whether a box holds an index vector. -/
def inBox (b : Box) (ix : List Int) : Bool := b.length == ix.length && (b.zip ix).all (fun q => q.1.1 ≤ q.2 && q.2 < q.1.2)

/-- Whether two boxes meet. -/
def boxesMeet (a b : Box) : Bool := (a.zip b).all (fun q => q.1.1 < q.2.2 && q.2.1 < q.1.2)

/-- Whether a weak lane is suppressed (R162): by an entry that the history still holds and that was recorded before its descriptor's issue. -/
def suppressed (hist : List HistEnt) (fl : Flight) (ix : List Int) : Bool :=
  fl.desc.boxTensor != 0 &&
    hist.any (fun h => h.seq < fl.issue && h.man == fl.man && h.tensor == fl.desc.boxTensor && inBox h.box ix)

/-! ### Lanes -/

/-- A lane that failed its check (R168). -/
structure PmFault where
  turned : Option (Packet × Nat)
  lane : Nat
  side : Nat
  kind : Nat
  code : Nat
  addr : Nat
  deriving DecidableEq, Repr

/-- What moving lanes has gathered so far: local bytes and poisoned granules, bytes and poisoned granules for other
modules by virtual address with the latest-first order of their lines, source lines still wanted from other modules, the first fault, the code poison gives, bytes
and suppressed lanes counted, tier bytes read, scratchpad lines read, bytes for the check-value unit, and line accesses with the lines in the buffer (R170). -/
structure PmAcc where
  loc : Tbl Byte
  locPz : List Nat
  far : Tbl Byte
  farLines : List Nat
  farPz : List Nat
  want : List Nat
  fault : Option PmFault
  code : Nat
  bytes : Nat
  read : List (Nat × Nat)
  spLines : List Nat
  supp : Nat
  tap : List Byte
  srcAcc : Nat
  dstAcc : Nat
  srcBuf : List Int
  dstBuf : List Int

/-- Nothing gathered. -/
def pmAcc0 : PmAcc :=
  { loc := [], locPz := [], far := [], farLines := [], farPz := [], want := [], fault := none, code := 0, bytes := 0, read := [], spLines := [], supp := 0,
    tap := [], srcAcc := 0, dstAcc := 0, srcBuf := [], dstBuf := [] }

/-- One access to a line: none where the line is among the last 32 used (R170). (DESIGN CHOICE, log entry 120) -/
def lineAccess (q : List Int × Nat) (line : Int) : List Int × Nat :=
  if q.1.any (· == line) then (line :: q.1.filter (· != line), q.2) else ((line :: q.1).take 32, q.2 + 1)

/-- The accesses of `n` bytes at an address of a side: one for each line of its space that is not in the buffer (R170). -/
def lineAccesses (s : PmBase) (x : Int) (n : Nat) (q : List Int × Nat) : List Int × Nat :=
  let key := fun (y : Int) => 64 * (y / 128) + 16 * s.space + (if s.space = 1 then s.window else 0)
  let q := lineAccess q (key x)
  if (x + n - 1) / 128 = x / 128 then q else lineAccess q (key (x + n - 1))

/-- The bytes of a run as a lane reads them, each with its poison; a fenced domain answers with poison (R403), and so does a tile whose repair failed
while the descriptor waited for it (R252). A line that has not come reads as zeros for now. -/
def partBytes (m : Mach) (fl : Flight) : PmPart → List (Byte × Bool)
  | .here a n =>
    if fenced m a then List.replicate n (0, true) else
    let a := aliasRead m a
    (List.range n).map (fun i => (rdByte m (a + i), rdPoison m (a + i) 1 || fl.badTiles.any (fun t => t ≤ a + i && a + i < t + 2048)))
  | .far v n =>
    match fl.got.find? (fun e => e.1 == v / 128 * 128) with
    | some e => (List.range n).map (fun i => (e.2.getD (v % 128 + i) 0, has fl.gotPoison ((v + i) / 32)))
    | none => List.replicate n (0, false)

/-- The code that poison from a run gives its waybill (R121, R245). -/
def partCode : PmPart → Nat
  | .here a _ => if isSp a then cSpUncorrectable else cMemPoison
  | .far _ _ => cMemPoison

/-- Takes a source run into what has been gathered: the code its poison gives, a line still wanted, and tier bytes read. -/
def noteRead (m : Mach) (fl : Flight) (q : PmAcc) (x : PmPart) : PmAcc :=
  let q := if q.code = 0 && (partBytes m fl x).any (·.2) then { q with code := partCode x } else q
  match x with
  | .here a n => if isSp a then { q with spLines := insNat (aliasRead m a / 128) q.spLines } else { q with read := q.read ++ [(a, n)] }
  | .far v _ => if fl.got.any (fun e => e.1 == v / 128 * 128) then q else { q with want := insNat (v / 128 * 128) q.want }

/-- Puts bytes into the runs of a destination. A granule that takes a poisoned byte is written poisoned (R169). -/
def putParts : List PmPart → List (Byte × Bool) → PmAcc → PmAcc
  | [], _, q => q
  | .here a n :: ps, bs, q =>
    let mine := (List.range n).zip bs
    putParts ps (bs.drop n)
      { q with loc := mine.foldl (fun t e => tput (a + e.1) e.2.1 t) q.loc,
               locPz := mine.foldl (fun s e => if e.2.2 then insNat (granOf (a + e.1)) s else s) q.locPz }
  | .far v n :: ps, bs, q =>
    let mine := (List.range n).zip bs
    putParts ps (bs.drop n)
      { q with far := mine.foldl (fun t e => tput (v + e.1) e.2.1 t) q.far,
               farPz := mine.foldl (fun s e => if e.2.2 then insNat ((v + e.1) / 32) s else s) q.farPz,
               farLines := if has q.farLines (v / 128) then q.farLines else v / 128 :: q.farLines }

/-- The bytes of a write that lie in the stride of block `p`, alias ranges included. -/
def onBlock (p : Nat) : List PmPart → List Byte → List Byte
  | [], _ => []
  | .here a n :: ps, bs => (if isSp a && (a - spBase) / 0x100000 == p then bs.take n else []) ++ onBlock p ps (bs.drop n)
  | .far _ n :: ps, bs => onBlock p ps (bs.drop n)

/-- Whether a scale byte is new to its destination: it has not been written yet, or another value has. -/
def scaleNew (q : PmAcc) (ps : List PmPart) (b : Byte) : Bool :=
  ps.all (fun x => match x with
    | .here a _ => !q.loc.any (fun e => e.1 == a && e.2 == b)
    | .far v _ => !q.far.any (fun e => e.1 == v && e.2 == b))

/-- Moves one plane of a lane whose places passed their checks: elements on sides 0 and 1, scale bytes on sides 2 and 3. Every lane of a channel
vector moves its scale byte (R154); it is counted and shown to the check-value unit when it is new to its destination. (DEDUCED, log entry 109) -/
def pmMovePlane (m : Mach) (fl : Flight) (p : Nat) (js : List Int) (reads : Bool) (locs : List (Nat × PmLoc)) (q : PmAcc) (t : Nat) : PmAcc :=
  let d := fl.desc
  let n := sideBytes d (2 * t)
  let loc := fun (k : Nat) => match locs.find? (fun e => e.1 == k) with | some e => e.2.parts | none => []
  let src := loc (2 * t)
  let ba := if reads then lineAccesses (sideBase d (2 * t)) (sideAddr d js (2 * t)) n (q.srcBuf, q.srcAcc) else (q.srcBuf, q.srcAcc)
  let bd := lineAccesses (sideBase d (2 * t + 1)) (sideAddr d js (2 * t + 1)) n (q.dstBuf, q.dstAcc)
  let bs := if reads then src.flatMap (partBytes m fl) else (leBytes n (if t = 0 then d.padValue else 0)).map (fun b => (b, false))
  let q := if reads then src.foldl (noteRead m fl) q else q
  let dst := loc (2 * t + 1)
  let new := t == 0 || bs.any (fun b => scaleNew q dst b.1)
  putParts dst bs
    { q with srcBuf := ba.1, srcAcc := ba.2, dstBuf := bd.1, dstAcc := bd.2, bytes := if new then q.bytes + n else q.bytes,
             tap := if new then q.tap ++ onBlock p dst (bs.map (·.1)) else q.tap }

/-- One lane (R156 to R162, R168): nothing once a lane has failed. A lane whose check fails on any side is neither read nor written. -/
def pmLane (m : Mach) (fl : Flight) (p : Nat) (q : PmAcc) (lane : Nat) : PmAcc :=
  if q.fault.isSome then q else
  let d := fl.desc
  let js := laneCoords d.dims lane
  let kind := laneKind d js
  if kind = .skip then q
  else if kind = .weak && suppressed (tget [] (getBlk m p).pm.hist fl.ref.ctx) fl (dstIdx d js) then { q with supp := q.supp + 1 }
  else
    let reads := kind == .strong && !d.fill
    let planes := if d.sh16 then [0, 1] else [0]
    let sides := planes.flatMap (fun t => if reads then [2 * t, 2 * t + 1] else [2 * t + 1])
    let locs := sides.map (fun k => (k, pmLoc m p fl k (sideAddr d js k) (sideBytes d k)))
    match locs.findSome? (fun (e : Nat × PmLoc) => match e.2 with
      | .bad kind code addr turned => some ({ turned := turned, lane := lane, side := e.1, kind := kind, code := code, addr := addr } : PmFault)
      | .at _ => none) with
    | some f => { q with fault := some f }
    | none => planes.foldl (pmMovePlane m fl p js reads locs) q

/-- Every lane of a descriptor, in iteration order. Every source byte is read as it stands before the descriptor writes. (DESIGN CHOICE, log entry 120) -/
def pmLanes (m : Mach) (fl : Flight) (p : Nat) : PmAcc := (List.range (laneCount fl.desc)).foldl (pmLane m fl p) pmAcc0

/-! ### Packets for other modules -/

/-- The runs of consecutive addresses of a table of bytes, each within one bank or alias range. -/
def byteRuns : Tbl Byte → List (Nat × List Byte)
  | [] => []
  | (a, b) :: t =>
    match byteRuns t with
    | (x, bs) :: rest => if x = a + 1 && !(isSp x && x % 0x20000 == 0) then (a, b :: bs) :: rest else (a, [b]) :: (x, bs) :: rest
    | [] => [(a, [b])]

/-- The lines of alias ranges that a descriptor writes neither whole nor in pieces of 4 or 8 B: R120 refuses the access to such a line.
(DEDUCED, log entry 109) -/
def aliasBadLines (loc : Tbl Byte) : List Nat :=
  (byteRuns loc).flatMap (fun r => if !isAlias r.1 then [] else
    ((lineParts r.1 r.2.length).filter (fun q => q.2 != 128 && (q.1 % 4 != 0 || q.2 % 4 != 0))).map (fun q => q.1 / 128))

/-- The lanes of a descriptor with the alias writes that R120 refuses taken as refused. -/
def pmMoved (m : Mach) (fl : Flight) (p : Nat) : PmAcc :=
  let q := pmLanes m fl p
  let bad := aliasBadLines q.loc
  if bad.isEmpty then q else pmLanes m { fl with aliasBad := bad } p

/-- Lines in the order given, joined into spans of consecutive lines of one 4 KiB block: a line joins the span it directly
follows (R170). -/
def lineSpans : List Nat → List (Nat × Nat)
  | [] => []
  | l :: ls =>
    match lineSpans ls with
    | (x, n) :: rest => if x = l + 1 && x % 32 != 0 then (l, n + 1) :: rest else (l, 1) :: (x, n) :: rest
    | [] => [(l, 1)]

/-- The 32 B granules of a line of which bytes are to be written. -/
def lineGrans (far : Tbl Byte) (l : Nat) : List Nat :=
  ((List.range 4).map (4 * l + ·)).filter (fun g => far.any (fun e => e.1 / 32 == g))

/-- The granules of which only some bytes are to be written. (DESIGN CHOICE, log entry 83) -/
def partGrans (far : Tbl Byte) (lines : List Nat) : List Nat :=
  (lines.flatMap (lineGrans far)).filter (fun g => (far.filter (fun e => e.1 / 32 == g)).length < 32)

/-- A line written only in part, in packets of 64 B and 32 B (Table 10.4). -/
def halfCuts (gs : List Nat) (l : Nat) : List (Nat × Nat) :=
  [4 * l, 4 * l + 2].flatMap (fun h =>
    if has gs h && has gs (h + 1) then [(32 * h, 64)]
    else (if has gs h then [(32 * h, 32)] else []) ++ (if has gs (h + 1) then [(32 * (h + 1), 32)] else []))

/-- The packets a span of lines goes in (R170, Table 10.4): whole lines joined into moves, and 64 B and 32 B of a line written in part. -/
def spanCuts (far : Tbl Byte) (l : Nat) : Nat → List (Nat × Nat)
  | 0 => []
  | n + 1 =>
    let gs := lineGrans far l
    let rest := spanCuts far (l + 1) n
    if gs.length < 4 then halfCuts gs l ++ rest
    else match rest with
      | (a, k) :: more => if a = 128 * (l + 1) && 128 ≤ k then (128 * l, k + 128) :: more else (128 * l, 128) :: rest
      | [] => [(128 * l, 128)]

/-- The packets of a descriptor's bytes for other modules, by spans of destination lines in iteration order (R170, R279). `lines` is latest
first. -/
def farPackets (far : Tbl Byte) (lines poison : List Nat) : List PmAct :=
  ((lineSpans lines.reverse).flatMap (fun sp => spanCuts far sp.1 sp.2)).map (fun q =>
    .put q.1 ((List.range q.2).map (fun i => tget 0 far (q.1 + i)))
      ((List.range (q.2 / 32)).filter (fun i => has poison (q.1 / 32 + i))))

/-! ### Faults -/

/-- Changes the Premutar of a block. -/
def modPm (m : Mach) (p : Nat) (f : PmSt → PmSt) : Mach := modBlk m p (fun b => { b with pm := f b.pm })

/-- Puts a descriptor in flight back as it now stands. -/
def setFlight (m : Mach) (p : Nat) (fl : Flight) : Mach :=
  modPm m p (fun x => { x with flight := x.flight.map (fun g => if g.ref = fl.ref then fl else g) })

/-- The number of Premutar items before an item of its body (R187). -/
def descIndex (m : Mach) (r : ItemRef) : Nat :=
  match getMan m r.ctx r.man with
  | some x => ((bodyOf x.img r.wb).take r.item).foldl (fun a it => match it with | .premutar _ => a + 1 | _ => a) 0
  | none => 0

/-- Records a fault (R168, Tables 6.7 to 6.9): the registers while the flag was clear, then the flag. A breach of R209 has
no kind of Table 6.2 and is not recorded. -/
def pmFaultRegs (m : Mach) (p : Nat) (fl : Flight) (f : PmFault) : Mach :=
  if f.kind = 0 then m else
  let di := descIndex m fl.ref
  let s := sideBase fl.desc f.side
  modBlk m p (fun b => genFault b fl.ref f.kind f.side s.space (if s.space = 1 then s.window else 0) f.addr di f.lane)

/-- A lane's failed check ends the waybill (R168): what this module's own customs refused is counted there (R288). -/
def pmFail (m : Mach) (p : Nat) (fl : Flight) (f : PmFault) : Mach :=
  let m := match f.turned with | some t => ownNack m t.1 t.2 | none => m
  endRef (pmFaultRegs m p fl f) p fl.ref f.code

/-- The first lane of a descriptor that writes in fabric space within `a` to `a + n - 1`, and the side on which it does. -/
def laneAt (d : PmDesc) (a n : Nat) : Nat × Nat :=
  ((List.range (laneCount d)).findSome? (fun l =>
    let js := laneCoords d.dims l
    let meets := fun (k : Nat) => (sideBase d k).space == 2 && sideAddr d js k < ((a + n : Nat) : Int) && (a : Int) < sideAddr d js k + sideBytes d k
    if laneKind d js = .skip then none
    else if meets 1 then some (l, 1) else if d.sh16 && meets 3 then some (l, 3) else none)).getD (0, 1)

/-- A write of `n` bytes at virtual address `va` is refused: the waybill ends, and the lane that wrote them is recorded (R168, R288). -/
def pmWriteFail (m : Mach) (p : Nat) (fl : Flight) (va n kind code : Nat) : Mach :=
  let l := laneAt fl.desc va n
  pmFail m p fl { turned := none, lane := l.1, side := l.2, kind := kind, code := code, addr := lineOf va }

/-! ### Requests to other modules -/

/-- Tier and fabric requests an engine has outstanding (Table 6.4). -/
def pmOutstanding (x : PmSt) : Nat := x.flight.foldl (fun a f => a + f.readTags.length + f.writeTags.length) 0

/-- A line, or a granule to be merged, comes at once or later: kept by its address, with its poisoned granules. -/
def gotLine (fl : Flight) (va : Nat) (data : List Byte) (poison : List Nat) : Flight :=
  { fl with got := tput va data fl.got, gotPoison := fl.gotPoison ++ poison.map (· + va / 32) }

/-- Does one thing a descriptor has to do at another module. Its reads are ordered whatever `relaxed` says, which frees its writes (Table 6.1). A refused source line fails the lanes that read it, a refused write the
waybill (R168, R288); a write acknowledged with poison ends it too (R403). -/
def pmDo (m : Mach) (p : Nat) (fl : Flight) : PmAct → Mach × Flight
  | .get va n =>
    match fabAccess m fl.ref (.premutar p) (if n = 128 then 0x04 else 0x01) 0 va n [] [] false false with
    | .sent m tag => (m, { fl with readTags := fl.readTags ++ [(tag, va)] })
    | .done m resp => (m, gotLine fl va resp.data resp.poison)
    | .nack m r => if n = 128 then (m, { fl with nacked := fl.nacked ++ [(va, r)] })
        else (pmWriteFail m p fl va n (reasonKind r) (reasonCode r), { fl with todo := [], failed := true })
    | .fault k => if n = 128 then (m, { fl with nacked := fl.nacked ++ [(va, if k = 1 then 1 else if k = 2 then 2 else if k = 4 then 4 else 3)] })
        else (pmWriteFail m p fl va n k (cPm k), { fl with todo := [], failed := true })
  | .put va data poison =>
    match fabAccess m fl.ref (.premutar p) (if data.length ≤ 64 then 0x02 else 0x03) 0 va data.length data poison fl.desc.relaxed false with
    | .sent m tag => (m, { fl with writeTags := fl.writeTags ++ [tag] })
    | .done m resp => (if resp.poison.isEmpty then m else endRef m p fl.ref cMemPoison, fl)
    | .nack m r => (pmWriteFail m p fl va data.length (reasonKind r) (reasonCode r), { fl with failed := true })
    | .fault k => (pmWriteFail m p fl va data.length k (cPm k), { fl with failed := true })

/-- Goes on with what a descriptor has to do while fewer than 256 requests of the engine are outstanding (R170); nothing more once a write
was refused. -/
def pmPump (m : Mach) (p : Nat) (fl : Flight) : List PmAct → Mach × Flight
  | [] => (setFlight m p { fl with todo := [] }, { fl with todo := [] })
  | x :: rest =>
    if fl.failed then (setFlight m p { fl with todo := [] }, { fl with todo := [] })
    else if 256 ≤ pmOutstanding (getBlk m p).pm then (setFlight m p { fl with todo := x :: rest }, { fl with todo := x :: rest })
    else let q := pmDo m p fl x; pmPump (setFlight q.1 p q.2) p q.2 rest

/-- Whether nothing of a stage is left to do or to come. -/
def stageOver (fl : Flight) : Bool := fl.todo.isEmpty && fl.readTags.isEmpty

/-! ### Moving -/

/-- Moves a RING side's pointer by the bytes of the side (R116, R166). -/
def pmRing (d : PmDesc) (b : Blk) (k : Nat) : Blk :=
  let s := sideBase d k
  if s.space = 1 && (getWin b s.window).ring then
    modWin b s.window (fun w => if sideIsDst k then { w with tail := winMove w w.tail (sideTotal d k) }
      else { w with head := winMove w w.head (sideTotal d k) })
  else b

/-- Writes bytes of a descriptor in this module: through an alias range they are ored or cleared (R119); what lies behind a cordon is not
written, and its acknowledgement carries poison (R403). -/
def pmPut (m : Mach) (p : Nat) (r : ItemRef) (run : Nat × List Byte) : Mach :=
  if fenced m run.1 then endRef m p r cMemPoison else
  match aliasOf m run.1 with
  | some q => aliasWrite (portAt m p 5 q.2 run.2.length true) q.1 q.2 run.2
  | none => acctTier (wrBytes (portAt m p 5 run.1 run.2.length true) run.1 run.2) r.ctx run.1 run.2.length true

/-- The tiles of a descriptor's registration that its writes have filled (R263). -/
def fillTiles (m : Mach) (r : ItemRef) (loc : Tbl Byte) : Mach :=
  if m.tier.regs.all (fun g => g.ref != r) then m else
  let whole := fun (t : Nat) => (loc.filter (fun e => e.1 / 2048 == t)).length == 2048
  { m with tier := { m.tier with regs := m.tier.regs.map (fun g => if g.ref = r && whole (g.near / 2048) then { g with filled := true } else g) } }

/-- What a descriptor whose source data is at hand writes in this module, with the counters and flags of its lanes (R162, R169, R170). -/
def pmMoveHere (m : Mach) (p : Nat) (fl : Flight) (q : PmAcc) : Mach :=
  let r := fl.ref
  let m := q.spLines.foldl (fun m l => portAt m p 5 (128 * l) 128 false) m
  let m := (byteRuns q.loc).foldl (fun m run => pmPut m p r run) m
  let m := q.locPz.foldl (fun m g => if fenced m g then m else wrPoison m (aliasRead m g) 1) m
  let m := q.read.foldl (fun m e => acctTier m r.ctx e.1 e.2 false) m
  let m := modPm m p (fun x => { x with busy := satAdd x.busy (max q.srcAcc q.dstAcc), bytes := satAdd x.bytes q.bytes,
                                        suppressed := tmod 0 x.suppressed r.ctx (fun v => satAdd v q.supp) })
  let m := if q.supp = 0 then m else modBlk m p (fun b => recFlag (setPmFlag b r.ctx 2) r.stream 6)
  fillTiles (cvTap m p 1 r.ctx q.tap) r q.loc

/-- Moves the lanes of a descriptor whose source data is at hand (R163 to R169): what lies in this module is written, and what goes to
others waits for the granules it has to be merged into. -/
def pmMove (m : Mach) (p : Nat) (fl : Flight) : Mach × Flight :=
  let q := pmMoved m fl p
  let m := pmMoveHere m p fl q
  let fl : Flight := { fl with moved := true, got := [], gotPoison := [], far := q.far, farLines := q.farLines, farPz := q.farPz,
                               todo := (partGrans q.far q.farLines.reverse).map (fun g => .get (32 * g) 32) }
  let m := setFlight m p fl
  match q.fault with
  | some f => (pmFail m p fl f, fl)
  | none =>
    let m := modBlk m p (fun b => (sidesOf fl.desc).foldl (pmRing fl.desc) b)
    (if q.code != 0 then endRef m p fl.ref q.code else m, fl)

/-- The bytes for other modules with the granules written in part filled up from what came; a granule that came poisoned is left as it is
(R244). (DESIGN CHOICE, log entry 83) -/
def mergeFar (fl : Flight) : Tbl Byte :=
  (partGrans fl.far fl.farLines).foldl (fun t g =>
    if has fl.gotPoison g then t.filter (fun e => e.1 / 32 != g)
    else ((List.range 32).zip (tget [] fl.got (32 * g))).foldl (fun t e =>
      if fl.far.any (fun x => x.1 == 32 * g + e.1) then t else tput (32 * g + e.1) e.2 t) t) fl.far

/-- Sends a descriptor's writes to other modules. -/
def pmSend (m : Mach) (p : Nat) (fl : Flight) : Mach :=
  let far := mergeFar fl
  let fl : Flight := { fl with sending := true, far := [], farLines := [], farPz := [], got := [], gotPoison := [] }
  (pmPump m p fl (farPackets far fl.farLines fl.farPz)).1

/-- The granules of this module's tiers that a descriptor's lanes read and write. -/
def pmGranules (m : Mach) (p : Nat) (fl : Flight) : List Nat :=
  let q := pmLanes m fl p
  (q.read.map (fun e => granOf e.1)) ++ q.loc.foldl (fun l e => if isSp e.1 then l else insNat (granOf e.1) l) []

/-- Where a descriptor whose local bytes meet a tile under repair, or a stalled input, waits among the accesses held there (R251); none where it need
not. It waits already where it stands among them. `fresh` says that it does not come from a stalled input itself. -/
def holdFlight (m : Mach) (p : Nat) (fl : Flight) (fresh : Bool) : Option Mach :=
  let me : TierReq := { a := 0, n := 0, data := none, who := none, ref := none, single := [], double := [], ondie := 0, joins := false, host := false,
                        pm := some (p, fl.ref) }
  if (waiting m).any (fun q => q.pm == me.pm) then some m
  else if m.tier.repairs.isEmpty && m.tier.ctls.all (fun e => e.2.input.isEmpty) then none
  else
    let gs := pmGranules m p fl
    let push := fun (m : Mach) (k : Nat) => modCtl m k (fun x => { x with input := x.input ++ [me] })
    match gs.findSome? (repairAt m), gs.find? (fun g => fresh && inputStalled m g) with
    | _, some g => some (push m ((ctlOf g).getD 0))
    | some r, none =>
      some (if 64 ≤ heldAt m r.ctl then push m r.ctl else modRepair m r.set r.tile (fun r => { r with held := r.held ++ [me] }))
    | none, none => none

/-- Goes on with a descriptor: its source lines come, its lanes move, the granules it merges into come, its writes go out. -/
def pmGoOn (fresh : Bool) (p : Nat) (m : Mach) (fl : Flight) : Mach :=
  if fl.sending then (pmPump m p fl fl.todo).1
  else if fl.moved then
    let q := pmPump m p fl fl.todo
    if stageOver q.2 && !q.2.failed then pmSend q.1 p q.2 else q.1
  else
    let q := pmPump m p fl fl.todo
    if !stageOver q.2 then q.1 else
    match holdFlight q.1 p q.2 fresh with
    | some m => m
    | none =>
      let q := pmMove q.1 p q.2
      let q := pmPump q.1 p q.2 q.2.todo
      if stageOver q.2 && !q.2.failed then pmSend q.1 p q.2 else q.1

/-- Goes on with a descriptor as its answers come. -/
def pmGo (p : Nat) (m : Mach) (fl : Flight) : Mach := pmGoOn true p m fl

/-- A descriptor that waited at a controller goes on (R251); `bad` is the tile whose repair failed, where one did (R252). -/
def pmResume (m : Mach) (z : Nat × ItemRef) (bad : List Nat) : Mach :=
  match (getBlk m z.1).pm.flight.find? (fun f => f.ref == z.2) with
  | some f => let f := { f with badTiles := f.badTiles ++ bad }; pmGoOn false z.1 (setFlight m z.1 f) f
  | none => m

/-- Goes on with every descriptor in flight on a block. -/
def pmGoAll (m : Mach) (p : Nat) : Mach := (getBlk m p).pm.flight.foldl (pmGo p) m

/-- Whether descriptor `fl`, in flight on block `q`, still has an access to an alias range of block `p` to make. -/
def flightAlias (m : Mach) (p q : Nat) (fl : Flight) : Bool :=
  !fl.moved && (List.range (laneCount fl.desc)).any (fun l =>
    let js := laneCoords fl.desc.dims l
    (sidesOf fl.desc).any (fun k => (pmLoc m q fl k (sideAddr fl.desc js k) (sideBytes fl.desc k)).parts.any (fun x => match x with
      | .here a _ => isAlias a && (a - spBase) / 0x100000 == p
      | .far _ _ => false)))

/-! ### Holds (R164) -/

/-- The lowest and highest lane coordinate a side uses along a dimension: strong lanes only where it is read. -/
def sideSpan (d : PmDesc) (isDst : Bool) (x : PmDim) : Int × Int :=
  if isDst || d.fill then (-(x.extLo : Int), (x.extent : Int) + x.extHi - 1)
  else (-(min x.extLo x.roomLo : Int), (x.extent : Int) + min x.extHi x.roomHi - 1)

/-- The bounding bytes of a side's addresses. Every stride of a G32 side is positive (R149), so the addresses are least and greatest at
corners of the lanes it uses. -/
def sideBounds (d : PmDesc) (k : Nat) : Int × Int :=
  let isDst := sideIsDst k
  let corner := fun (top : Bool) => sideAddr d (d.dims.map (fun x =>
    let stride := if isDst then x.dstStride else (dimOf d x.perm).srcStride
    if (0 ≤ stride) == top then (sideSpan d isDst x).2 else (sideSpan d isDst x).1)) k
  (corner false, corner true + sideBytes d k)

/-- The bounding byte range of a side, with its space: scratchpad offsets, or virtual fabric addresses (R164). A window's offsets are those
its addresses wrap to. -/
def sideRange (b : Blk) (d : PmDesc) (k : Nat) : List (Nat × Int × Int) :=
  let s := sideBase d k
  let q := sideBounds d k
  if s.space = 1 then
    let w := getWin b s.window
    let n : Int := winBytes w
    let base : Int := w.base * 2048
    let start : Int := if w.ring then (if sideIsDst k then w.tail else w.head) else 0
    let lo := (start + q.1) % n
    if n ≤ q.2 - q.1 then [(0, base, base + n)]
    else if lo + (q.2 - q.1) ≤ n then [(0, base + lo, base + lo + (q.2 - q.1))]
    else [(0, base + lo, base + n), (0, base, base + lo + (q.2 - q.1) - n)]
  else [(s.space, q)]

/-- The ranges a descriptor reads, or writes: scale planes are parts of its source and destination. -/
def flightRange (b : Blk) (d : PmDesc) (isDst : Bool) : List (Nat × Int × Int) :=
  ((sidesOf d).filter (fun k => sideIsDst k == isDst)).flatMap (sideRange b d)

/-- Whether two lists of ranges meet in a space. -/
def rangesMeet (a b : List (Nat × Int × Int)) : Bool :=
  a.any (fun x => b.any (fun y => x.1 == y.1 && x.2.1 < y.2.2 && y.2.1 < x.2.2))

/-- Whether a descriptor is held at issue by one in flight (R164). -/
def holds (e f : Flight) : Bool :=
  e.ref.ctx == f.ref.ctx &&
    ((if e.desc.boxTensor != 0 && e.desc.boxTensor == f.desc.boxTensor then boxesMeet e.fullBox f.fullBox
      else rangesMeet e.dstRange f.dstRange) || rangesMeet e.dstRange f.srcRange)

/-! ### RING sides (R166) -/

/-- Whether a RING side obeys R166: STRIDED, without extension, its lanes consecutive from the pointer, a whole number of
lines that fit. A scale plane has no layout of its own: its bytes in iteration order are what must follow. (DEDUCED, log entry 85) -/
def ringSideOk (b : Blk) (d : PmDesc) (k : Nat) : Bool :=
  let s := sideBase d k
  let w := getWin b s.window
  let n := sideTotal d k
  !(k == 0 && d.srcG32) && !(k == 1 && d.dstG32) && d.dims.all (fun x => x.extLo == 0 && x.extHi == 0) &&
    follow (sideBytes d k) 0 (sideAddrs d k) && s.base == 0 && n % 128 == 0 && n ≤ winBytes w

/-- Whether a side is a RING window of the descriptor's context. -/
def isRingSide (b : Blk) (c : Nat) (s : PmBase) : Bool :=
  let w := getWin b s.window
  s.space == 1 && w.ring && w.enable && w.ctx == c

/-- Whether a RING side can start (R116). -/
def ringReady (b : Blk) (d : PmDesc) (k : Nat) : Bool :=
  let w := getWin b (sideBase d k).window
  if sideIsDst k then sideTotal d k ≤ winFree w else sideTotal d k ≤ winFill w

/-- The first side of a descriptor that breaks the RING rules (R166). -/
def ringBreach (b : Blk) (c : Nat) (d : PmDesc) : Option Nat :=
  (sidesOf d).find? (fun k => isRingSide b c (sideBase d k) && !ringSideOk b d k)

/-- Whether a RING side keeps a descriptor from starting (R116, R166). -/
def ringStalls (b : Blk) (c : Nat) (d : PmDesc) : Bool :=
  (ringBreach b c d).isNone && (sidesOf d).any (fun k => isRingSide b c (sideBase d k) && !ringReady b d k)

/-! ### Registrations of outriders (R263) -/

/-- Where bytes in fabric space lie in this module, if they do and the entry grants the access. -/
def hereAt (m : Mach) (c : Nat) (isDst : Bool) (a : Nat) : Option Nat :=
  match translate m c (if isDst then 0x02 else 0x04) a 1 with
  | .ok e phys => if m.fab.module = some e.module then some phys else none
  | .fault _ => none

/-- The piece of a registration for `n` bytes at byte `off` of the copy: near destination and far source. -/
def regPiece (m : Mach) (c src dst off : Nat) : Option (Nat × Nat) :=
  match hereAt m c false (src + off), hereAt m c true (dst + off) with
  | some far, some near => if tierOf far == some 1 && tierOf near == some 0 then some (near, far) else none
  | _, _ => none

/-- Whether a descriptor is a plain copy (R263): its lanes cover consecutive bytes on both sides of fabric space, 2 KiB at a time. -/
def plainCopy (d : PmDesc) : Bool :=
  let n := laneCount d * d.elemSize
  let at0 := fun (k : Nat) => (sideAddrs d k).headD (-1)
  !d.fill && !d.sh16 && (List.range d.dims.length).all (fun k => (dimOf d k).perm == k) && d.dims.all (fun x => x.extLo == 0 && x.extHi == 0) &&
    d.src.space == 2 && d.dst.space == 2 && 0 ≤ at0 0 && 0 ≤ at0 1 && follow d.elemSize (at0 0) (sideAddrs d 0) &&
    follow d.elemSize (at0 1) (sideAddrs d 1) && at0 1 % 2048 == 0 && n % 2048 == 0

/-- The pieces of a copy of `n` bytes: 2 KiB tiles of the destination, cut where the source enters another 4 KiB block. -/
def copyPieces (src n : Nat) : List (Nat × Nat) :=
  (List.range (n / 2048)).flatMap (fun i => (blocks4K (src + 2048 * i) 2048).map (fun q => (2048 * i + q.1, q.2)))

/-- The registration a descriptor asks for (R263), piece by piece, where it is a plain copy from the far tier to the near tier of this module
issued by an outrider of a DIRECT manifest. -/
def outReg (m : Mach) (p : Nat) (fl : Flight) : Option (List OutReg) :=
  let d := fl.desc
  match getMan m fl.ref.ctx fl.ref.man with
  | none => none
  | some q =>
    if q.img.deadline != 1 || !((wbOf q.img fl.ref.wb).outs.any (fun o => (q.img.decls.getD o.decl noDecl).cls == 1)) || !plainCopy d then none else
    let src := ((sideAddrs d 0).headD 0).toNat
    let dst := ((sideAddrs d 1).headD 0).toNat
    (copyPieces src (laneCount d * d.elemSize)).mapM (fun x =>
      (regPiece m fl.ref.ctx src dst x.1).map (fun z => ({ near := z.1, far := z.2, bytes := x.2, filled := false, p := p, ref := fl.ref } : OutReg)))

/-- The descriptors registered at a near-tier controller. -/
def regsAt (m : Mach) (k : Nat) : List ItemRef :=
  (m.tier.regs.filter (fun g => ctlOf g.near == some k)).foldl (fun s g => if s.any (· == g.ref) then s else g.ref :: s) []

/-- Registers an outrider descriptor where its near-tier controllers have a registration free (R263). -/
def register (m : Mach) (p : Nat) (fl : Flight) : Mach :=
  match outReg m p fl with
  | none => m
  | some gs =>
    if gs.all (fun g => match ctlOf g.near with | some k => (regsAt m k).length < 64 | none => false) then
      { m with tier := { m.tier with regs := m.tier.regs ++ gs } }
    else m

/-! ### Issue (R163) -/

/-- The descriptors of a running waybill that may be issued now, in body order: those held already do not block the ones
behind them (R164). -/
def pmCandidates (m : Mach) (b : Blk) (w : RunWb) : List (Nat × PmDesc) :=
  if w.code != 0 then [] else
  match getMan m w.ctx w.man with
  | none => []
  | some x =>
    let body : List Item := bodyOf x.img w.wb
    let isHeld := fun (i : Nat) => b.pm.held.any (fun r => r == refOf w i)
    let sts := (w.items.zip (List.range w.items.length)).map (fun q => if q.1 = .waiting && isHeld q.2 then .issued else q.1)
    (List.range body.length).filterMap (fun i =>
      match body[i]? with
      | some (Item.premutar d) => if w.items.getD i .done == .waiting && itemReady body sts i && !itemFenced m x.img w (.premutar d) && !windowHeld m b (.premutar d)
          then some (i, d) else none
      | _ => none)

/-- Descriptor `i` of a running waybill as it goes into flight. -/
def flightOf (m : Mach) (b : Blk) (w : RunWb) (i : Nat) (d : PmDesc) : Flight :=
  { ref := refOf w i, desc := d, fullBox := fullBox d, srcRange := flightRange b d false, dstRange := flightRange b d true,
    man := manHandle m w.ctx w.man, issue := b.pm.issued, moved := false, sending := false, failed := false, todo := [], writeTags := [], readTags := [],
    got := [], gotPoison := [], nacked := [], far := [], farLines := [], farPz := [] }

/-- Whether a descriptor may be issued: nothing in flight holds it, and no descriptor of its context held before it is held still, for held
descriptors keep their order (R164). -/
def mayIssue (b : Blk) (fl : Flight) : Bool :=
  !b.pm.flight.any (fun e => holds e fl) &&
    (match b.pm.held.find? (fun r => r.ctx == fl.ref.ctx) with
      | some r => r == fl.ref || !b.pm.held.any (· == fl.ref)
      | none => true)

/-- The first descriptor of a running waybill that may be issued. -/
def pmFirst (m : Mach) (b : Blk) (w : RunWb) : Option Flight :=
  ((pmCandidates m b w).map (fun q => flightOf m b w q.1 q.2)).find? (mayIssue b)

/-- Issues a descriptor (R163): it is in flight, its box enters the history (R161), and it asks for the lines it reads from other modules, or
moves at once. A breach of the RING rules ends its waybill before it writes anything (R166). -/
def pmIssue (m : Mach) (p : Nat) (fl : Flight) : Mach :=
  let r := fl.ref
  let hist := tget [] (getBlk m p).pm.hist r.ctx
  let entry : HistEnt := { man := fl.man, tensor := fl.desc.boxTensor, box := strongBox fl.desc, seq := fl.issue }
  let m := modPm m p (fun x => { x with
    flight := x.flight ++ [fl], held := x.held.filter (· != r), issued := x.issued + 1,
    hist := if fl.desc.boxTensor = 0 then x.hist
      else tset [] x.hist r.ctx ((hist ++ [entry]).drop (hist.length + 1 - 64)) })
  let m := register (markItem m p r.stream r.item .issued) p fl
  match ringBreach (getBlk m p) r.ctx fl.desc with
  | some k => pmFail (setFlight m p { fl with moved := true, sending := true }) p fl
      { turned := none, lane := 0, side := k, kind := 6, code := cSpWindow, addr := 0 }
  | none => pmGo p m { fl with todo := (pmLanes m fl p).want.map (fun v => .get v 128) }

/-- Counts a hold, once for each descriptor (R164). -/
def noteHeld (m : Mach) (p : Nat) (r : ItemRef) : Mach :=
  if (getBlk m p).pm.held.any (· == r) then m else
  modBlk m p (fun b =>
    let b := recFlag (setPmFlag b r.ctx 1) r.stream 5
    { b with pm := { b.pm with held := b.pm.held ++ [r], serialised := tmod 0 b.pm.serialised r.ctx (fun v => satAdd v 1) } })

/-- Notes the descriptors of a waybill that are held at issue, up to the first that may be issued. -/
def noteHolds (m : Mach) (p : Nat) (w : RunWb) : Mach :=
  let b := getBlk m p
  let fs := (pmCandidates m b w).map (fun q => flightOf m b w q.1 q.2)
  ((fs.takeWhile (fun f => !mayIssue b f)).filter (fun f => b.pm.flight.any (fun e => holds e f))).foldl (fun m f => noteHeld m p f.ref) m

/-- PREMUTAR: the sequencer's pick order reaches a stream (R163, R195): the first descriptor of its waybill that R164 lets go is issued, or
waits on its RING window. (DEDUCED, log entry 47) -/
def premutar (p stream : Nat) (m : Mach) : Mach :=
  match runningOn (getBlk m p) stream with
  | none => m
  | some w =>
    if (getBlk m p).pm.stalled.isSome || 4 ≤ (getBlk m p).pm.flight.length then m else
    let m := noteHolds m p w
    let b := getBlk m p
    if turnOf b (fun w => (pmFirst m b w).isSome) != some stream then m else
    match pmFirst m b w with
    | none => m
    | some fl => if ringStalls b w.ctx fl.desc then modPm m p (fun x => { x with stalled := some fl }) else pmIssue m p fl

/-- PREMUTAR_COMPLETE: the oldest descriptor whose every write has been performed or acknowledged completes (R163). -/
def premutarComplete (p : Nat) (m : Mach) : Mach :=
  match (getBlk m p).pm.flight.find? flightOver with
  | none => m
  | some f =>
    let m := { m with tier := { m.tier with regs := m.tier.regs.filter (fun g => g.ref != f.ref) } }
    markItem (modPm m p (fun x => { x with flight := x.flight.filter (fun g => g.ref != f.ref) })) p f.ref.stream f.ref.item .done

/-! ### Answers -/

/-- The descriptor that holds a tag. -/
def flightOfTag (b : Blk) (tag : Nat) : Option Flight :=
  b.pm.flight.find? (fun f => has f.writeTags tag || f.readTags.any (fun q => q.1 == tag))

/-- Takes a tag out of a descriptor. -/
def dropTag (f : Flight) (tag : Nat) : Flight :=
  { f with readTags := f.readTags.filter (fun q => q.1 != tag), writeTags := delNat tag f.writeTags }

/-- A response to a request of a descriptor (R163, R169): bytes that have come, poisoned or not, or a write acknowledged. -/
def pmResponse (m : Mach) (p tag : Nat) (data : List Byte) (poison : List Nat) : Mach :=
  match flightOfTag (getBlk m p) tag with
  | none => m
  | some f =>
    let f' := match f.readTags.find? (fun q => q.1 == tag) with
      | some q => gotLine (dropTag f tag) q.2 data poison
      | none => dropTag f tag
    pmGoAll (setFlight m p f') p

/-- A refusal of a request of a descriptor (R168, R288): a line asked for fails the lanes that read it; a write fails the waybill. -/
def pmNack (m : Mach) (p tag virt len reason : Nat) : Mach :=
  match flightOfTag (getBlk m p) tag with
  | none => m
  | some f =>
    match f.readTags.find? (fun q => q.1 == tag) with
    | some q =>
      if f.moved then pmWriteFail (setFlight m p { dropTag f tag with todo := [], failed := true }) p f virt len (reasonKind reason) (reasonCode reason)
      else pmGoAll (setFlight m p { dropTag f tag with nacked := f.nacked ++ [(q.2, reason)] }) p
    | none => pmGoAll (pmWriteFail (setFlight m p { dropTag f tag with todo := [], failed := true }) p f virt len (reasonKind reason) (reasonCode reason)) p

/-- The slot whose work waits for a RING window of a block. -/
def ringWaiter (b : Blk) : Option Nat :=
  match b.ve.running with
  | some r => if r.ringStall then some r.ref.ctx else b.pm.stalled.map (fun f => f.ref.ctx)
  | none => b.pm.stalled.map (fun f => f.ref.ctx)

/-- RING_ACCESS_START: an access that stalled on a RING window finds room or fill and starts (R116). (DEDUCED, log entry 47) -/
def ringStart (p : Nat) (bad : Bool) (m : Mach) : Mach :=
  if bad then (match ringWaiter (getBlk m p) with | some c => stateLost m c (unitBlk p 5) | none => m) else
  let m := vecResume p m
  let b := getBlk m p
  match b.pm.stalled with
  | none => m
  | some f =>
    if ringStalls b f.ref.ctx f.desc then m else pmIssue (modPm m p (fun x => { x with stalled := none })) p f

end Sys2Proof.Machine
end

