-- ==== Sys2Proof/Machine/Manifest.lean ====
section
/-! DEFINITION. Reading a manifest image (chapter 7): every table and record field by field, with the checks made at
posting (R190) and the offset in the image of the first field at fault (R421). -/

namespace Sys2Proof.Machine

/-- What reading gives: a value, or the offset of a field at fault. -/
abbrev Chk (α : Type) := Except Nat α

/-- A check: where it fails, the field at `off` is at fault. -/
def need (ok : Bool) (off : Nat) : Chk Unit := if ok then .ok () else .error off

/-- Reads a list of `n` records, each by its number. -/
def readEach {α : Type} (f : Nat → Chk α) : List Nat → Chk (List α)
  | [] => .ok []
  | i :: is => match f i with
    | .error e => .error e
    | .ok x => match readEach f is with
      | .error e => .error e
      | .ok xs => .ok (x :: xs)

/-- `n` records. -/
def readN {α : Type} (n : Nat) (f : Nat → Chk α) : Chk (List α) := readEach f (List.range n)

/-! ### Header (Table 7.1) -/

/-- The header's counts and offsets. -/
structure ImgHdr where
  nT : Nat
  tOff : Nat
  nD : Nat
  dOff : Nat
  nW : Nat
  wOff : Nat
  nR : Nat
  rOff : Nat
  bOff : Nat
  bBytes : Nat

/-- Whether two byte ranges, each an offset and a size, meet. -/
def spansMeet (a b : Nat × Nat) : Bool := a.2 != 0 && b.2 != 0 && a.1 < b.1 + b.2 && b.1 < a.1 + a.2

/-- Checks one table: its offset, and that it lies in the image clear of the ranges before it. -/
def checkTable (size : Nat) (before : List (Nat × Nat)) (t : Nat × Nat) (off : Nat) : Chk Unit :=
  need (t.1 % 16 == 0 && t.1 + t.2 ≤ size && !before.any (fun q => spansMeet q t)) off

/-- Reads and checks the header. -/
def readHdr (bs : List Byte) : Chk ImgHdr := do
  let u := recNat bs
  need (u 0 4 == 0x4D334D46) 0
  need (u 4 2 == 1) 4
  need (u 6 2 == 64) 6
  need (u 8 4 == bs.length && 64 ≤ bs.length && bs.length ≤ 0x10000000) 8
  need (u 12 4 == crc32c (spliceBytes bs 12 [0, 0, 0, 0])) 12
  need (u 16 4 ≤ 65536) 16
  let h : Nat × Nat := (0, 64)
  let t := (u 20 4, 32 * u 16 4)
  checkTable bs.length [h] t 20
  need (u 24 4 ≤ 65536) 24
  let d := (u 28 4, 16 * u 24 4)
  checkTable bs.length [h, t] d 28
  need (1 ≤ u 32 4 && u 32 4 ≤ 16777216) 32
  let w := (u 36 4, 32 * u 32 4)
  checkTable bs.length [h, t, d] w 36
  need (u 40 4 ≤ 268435456) 40
  let r := (u 44 4, 8 * u 40 4)
  checkTable bs.length [h, t, d, w] r 44
  let b := (u 48 4, u 52 4)
  checkTable bs.length [h, t, d, w, r] b 48
  need (u 56 1 != 0) 56
  need (u 57 1 != 0) 57
  need (u 58 1 != 0) 58
  need (fld (u 59 1) 1 2 != 3 && fld (u 59 1) 4 4 == 0) 59
  need (u 60 4 == 0) 60
  return { nT := u 16 4, tOff := t.1, nD := u 24 4, dOff := d.1, nW := u 32 4, wOff := w.1, nR := u 40 4, rOff := r.1,
           bOff := b.1, bBytes := b.2 }

/-! ### Tensors, declarations, references -/

/-- Reads a tensor descriptor (Table 7.2, R328). -/
def readTensor (bs : List Byte) (o : Nat) : Chk TensorD := do
  let u := fun k n => recNat bs (o + k) n
  need (fld (u 0 1) 4 4 == 0 && fld (u 0 1) 0 4 ≤ 6) o
  need (u 1 1 ≤ 2) (o + 1)
  need (u 1 1 == 0 || (fld (u 0 1) 0 4 == 3 && u 2 2 != 0)) (o + 1)
  need (recZero bs (o + 16) 16) (o + 16)
  return { fmt := fld (u 0 1) 0 4, scaling := u 1 1, watch := u 2 2, coarse := u 4 4, elements := u 8 8 }

/-- Reads a milestone declaration (Table 7.3). -/
def readDecl (bs : List Byte) (o : Nat) : Chk DeclD := do
  let a := recNat bs o 8
  let v := recNat bs (o + 8) 8
  let cls := fld a 16 8
  need (cls ≤ 4) (o + 2)
  need (fld a 26 6 == 0) (o + 3)
  need (cls != 4 || (fld a 32 32 == 0 && fld a 24 8 == 0 && fld a 0 16 == 0)) o
  need (if cls == 4 then fld v 57 7 == 0 else fld v 32 32 == 0) (o + 8)
  return { stride := fld a 32 32, init := tbit a 24, remote := tbit a 25, cls := cls, relId := fld a 0 16, value := v }

/-- Reads a reference (Table 7.6): `out` marks an output. -/
def readRef (bs : List Byte) (decls : List DeclD) (out : Bool) (o : Nat) : Chk RefD := do
  let d := recNat bs o 2
  let amount := recNat bs (o + 2) 2
  let target := recNat bs (o + 4) 4
  need (d < decls.length) o
  need (out || (decls.getD d noDecl).cls != 4) o
  need (if out then amount != 0 else amount == 0) (o + 2)
  need (!out || target == 0) (o + 4)
  return { decl := d, amount := amount, target := target }

/-! ### Array operations and drains -/

/-- Whether offsets `a` to `a + n - 1` lie in one bank that master `who` claims. -/
def inClaimed (banks : List Nat) (who a n : Nat) : Bool :=
  a + n ≤ 0xC0000 && a / 0x20000 == (a + n - 1) / 0x20000 && nthN banks (a / 0x20000) == who

/-- Whether offsets `a` to `a + n - 1` lie in banks that master `who` claims. -/
def inClaims (banks : List Nat) (who a n : Nat) : Bool :=
  a + n ≤ 0xC0000 && (List.range ((a + n - 1) / 0x20000 - a / 0x20000 + 1)).all (fun i => nthN banks (a / 0x20000 + i) == who)

/-- Whether an operand side obeys R85 over `k` elements and `tiles` row-tiles. -/
def sideOk (banks : List Nat) (who : Nat) (sd : ArraySide) (wide sh : Bool) (e k tiles : Nat) : Bool :=
  let t := if wide then 1024 else 1024 * e
  let last := sd.base + (ceilDiv k 32 - 1) * sd.kstride + (tiles - 1) * sd.tstride
  let span := last + t - sd.base
  let scales := 32 * ((last - sd.base) / t) + 32
  sd.base % t == 0 && sd.kstride % t == 0 && sd.tstride % t == 0 && inClaimed banks who sd.base span &&
    (!wide || (sd.base / 0x20000 ≤ 4 && inClaimed banks who (sd.base + 0x20000) span)) &&
    (!sh || inClaims banks who sd.scale scales)

/-- Whether a base group suits the shape (R88). -/
def baseOk (groups base : Nat) : Bool :=
  if groups = 1 then true else if groups = 2 then base % 2 == 0 else if groups = 4 then base % 4 == 0 else base == 0

/-- Reads an operand side of an ARRAY_OP. -/
def readSide (bs : List Byte) (o : Nat) : ArraySide :=
  { base := recNat bs o 4, kstride := recNat bs (o + 4) 4, tstride := recNat bs (o + 8) 4, scale := recNat bs (o + 12) 4 }

/-- Reads an ARRAY_OP payload (Table 7.8) and checks R46, R51, R73, R84, R85, R87, R88 and R89. -/
def readArrayOp (bs : List Byte) (banks : List Nat) (o : Nat) : Chk Item := do
  let h := recNat bs o 4
  let pairing := fld h 30 2
  let shA := tbit h 29
  let shB := tbit h 28
  let shape := fld h 25 3
  let uv := shapeOf shape
  let n := uv.1 * uv.2
  let wide := fld h 23 2
  let base := fld h 20 3
  let opens := (List.range n).map (fun i => fld h (2 * i + 4) 2)
  let kw := recNat bs (o + 4) 4
  let k := fld kw 15 17
  let rw := recNat bs (o + 8) 4
  let a := readSide bs (o + 16)
  let b := readSide bs (o + 32)
  let load := recNat bs (o + 48) 4
  let e := if pairing = 1 then 4 else 2
  need (fld h 0 4 == 0 && wide != 3 && opens.all (· ≤ 2)) o
  need ((!shA && !shB) || pairing == 0) o
  need (pairing != 1 || wide == 0) o
  need (baseOk n base) o
  need (fld kw 0 15 == 0 && 4 ≤ k && k ≤ 65536 && k % (if shA || shB then 32 else 4) == 0 && (pairing != 3 || k ≤ 1024)) (o + 4)
  need (fld rw 20 12 == 0) (o + 8)
  need (recZero bs (o + 12) 4) (o + 12)
  let _ ← readN 8 (fun i => need (recNat bs (o + 16 + 4 * i) 4 < 0x100000) (o + 16 + 4 * i))
  need (sideOk banks 1 a (wide == 1) shA e k uv.1) (o + 16)
  need (sideOk banks 2 b (wide == 2) shB e k uv.2) (o + 32)
  need (load < 0x100000) (o + 48)
  need ((List.range n).all (fun i => nthN opens i != 1 || inClaimed banks 3 (load + 4096 * i) 4096)) (o + 48)
  need (recZero bs (o + 52) 12) (o + 52)
  return .arrayOp { pairing := pairing, shA := shA, shB := shB, shape := shape, wide := wide, base := base, opens := opens,
                    k := k, rows := (List.range 4).map (fun i => fld rw (5 * i) 5 + 1), a := a, b := b, loadBase := load }

/-- The set bits of a byte, rising. -/
def bitsOf (n : Nat) : List Nat := (List.range 8).filter (tbit n)

/-- Whether a set of groups is one group, or every group of one shape at its base (R93). -/
def groupsOk (gs : List Nat) : Bool :=
  match gs with
  | [] => false
  | g :: _ => (gs.length == 1 || gs.length == 2 || gs.length == 4 || gs.length == 8) && gs == (List.range gs.length).map (g + ·) &&
      baseOk gs.length g

/-- Reads a DRAIN payload (Table 7.9) and checks R93 and R175. -/
def readDrain (bs : List Byte) (banks : List Nat) (nT o : Nat) : Chk Item := do
  let h := recNat bs o 4
  let gs := bitsOf (fld h 24 8)
  let fmt := fld h 20 4
  let c := recNat bs (o + 4) 4
  let co := recNat bs (o + 8) 4
  let d : DrainOp :=
    { groups := gs, outFmt := fmt, stochastic := tbit h 19, col := tbit h 18, mv := fld h 13 5 + 1, nv := fld h 8 5 + 1,
      ca := fld c 0 16, cb := fld c 16 16, co := fld co 0 16, lineStride := fld co 16 16, dstScale := recNat bs (o + 12) 4,
      dst := (List.range 8).map (fun i => recNat bs (o + 16 + 4 * i) 4), tiles := (List.range 8).map (fun i => recNat bs (o + 48 + 4 * i) 4) }
  need (groupsOk gs) (o + 3)
  need (fmt == 0 || (2 ≤ fmt && fmt ≤ 5)) (o + 2)
  need (fld h 0 8 == 0) o
  need (4 ≤ fmt || (d.ca < nT && d.cb < nT)) (o + 4)
  need (d.co < nT) (o + 8)
  need (fmt != 3 || d.lineStride == 64) (o + 10)
  need (d.dstScale < 0x100000) (o + 12)
  let _ ← readN 8 (fun i => need (nthN d.dst i < 0x100000 && (fmt != 3 || gs.length ≤ i || nthN d.dst i % 2048 == 0)) (o + 16 + 4 * i))
  let lines := if d.col then d.nv else d.mv
  let width := (if d.col then d.mv else d.nv) * outBytes fmt
  let _ ← readN gs.length (fun i =>
    need ((List.range lines).all (fun l => inClaimed banks 3 (nthN d.dst i + l * d.lineStride) width)) (o + 16 + 4 * i))
  need (fmt != 3 || (List.range gs.length).all (fun i => (List.range lines).all (fun l =>
    0 ≤ drainScaleInt d (nthN d.dst i) l && inClaimed banks 3 (drainScaleOff d (nthN d.dst i) l) 1))) (o + 12)
  need (recZero bs (o + 80) 16) (o + 80)
  return .drain d

/-! ### Vector records -/

/-- Reads a stream descriptor (Table 5.2). -/
def readStream (bs : List Byte) (vregs o : Nat) : Chk StreamD := do
  let a := recNat bs o 4
  let l := recNat bs (o + 4) 4
  let r := recNat bs (o + 8) 4
  let via := tbit a 24
  let s : StreamD :=
    { fmt := fld a 28 4, stripe := fld a 25 3, viaWindow := via, window := fld a 20 4, offset := fld a 0 20, length := fld l 0 24,
      lenReg := tbit r 31, lenV := fld r 26 5, lenWord := fld r 19 7 }
  need (s.fmt ≤ 8) (o + 3)
  need (1 ≤ s.stripe && s.stripe ≤ 4 && (!via || s.lenReg || s.stripe == 1)) (o + 3)
  need (via || s.offset < 0xC0000) o
  need (s.lenReg || s.offset % (if via then 128 else if 7 ≤ s.fmt then 1 else elemBits s.fmt / 8) == 0) o
  need (via || s.lenReg || s.stripe == 1 || (s.offset % 128 == 0 && s.offset / 0x20000 + s.stripe ≤ 6)) o
  need (fld l 24 8 == 0) (o + 7)
  need (s.lenReg || 1 ≤ s.length) (o + 4)
  need (fld r 0 19 == 0) (o + 8)
  need (!s.lenReg || s.lenV < vregs) (o + 8)
  need (recZero bs (o + 12) 4) (o + 12)
  need (s.lenReg || (if via then streamBytes s.fmt s.length % 128 == 0 && streamBytes s.fmt s.length ≤ 384 * 2048
      else placeFits (.direct s.offset s.stripe) (streamBytes s.fmt s.length))) (o + 4)
  return s

/-- Reads a local table's descriptor (Table 5.2): its offset counts, its length is ignored (R138); one with via_window 1 is refused. (DESIGN CHOICE,
log entry 107) -/
def readTable (bs : List Byte) (o : Nat) : Chk StreamD := do
  let a := recNat bs o 4
  need (fld a 28 4 ≤ 8 && !tbit a 24 && fld a 0 20 < 0xC0000) o
  need (1 ≤ fld a 25 3 && fld a 25 3 ≤ 4) (o + 3)
  need (fld (recNat bs (o + 4) 4) 24 8 == 0) (o + 7)
  need (fld (recNat bs (o + 8) 4) 0 19 == 0) (o + 8)
  need (recZero bs (o + 12) 4) (o + 12)
  return { noStream with fmt := fld a 28 4, stripe := 1, offset := fld a 0 20 }

/-- Reads a remote table's descriptor (R138). -/
def readRemote (bs : List Byte) (o : Nat) : Chk RemoteTable := do
  let b := recNat bs o 8
  let st := recNat bs (o + 8) 4
  let rb := recNat bs (o + 12) 4
  need (fld b 57 7 == 0) o
  need (st % 32 == 0) (o + 8)
  need (rb % 32 == 0 && 0 < rb && rb ≤ 4096) (o + 12)
  return { base := b, rowStride := st, rowBytes := rb }

/-- Input streams an opcode takes: fewest and most, and its outputs (Table 5.3); none for an opcode or sub-operation
outside the table. -/
def streamCount (op sub : Nat) : Option (Nat × Nat × Nat) :=
  let two := some (1, 2, 1)
  match op with
  | 0x01 => if sub = 0 then two else none
  | 0x02 => if sub = 0 then two else none
  | 0x03 => if sub = 0 then two else none
  | 0x04 => if sub = 0 then some (1, 3, 1) else none
  | 0x05 => if sub = 0 then two else none
  | 0x06 => if sub = 0 then some (1, 1, 1) else none
  | 0x07 => if sub ≤ 3 then some (1, 1, 1) else none
  | 0x0B => if sub ≤ 1 then two else none
  | 0x0D => if sub ≤ 1 then some (1, 1, 1) else if sub = 2 then two else none
  | 0x10 => if sub ≤ 4 then two else none
  | 0x11 => if sub = 0 then some (3, 3, 1) else none
  | 0x18 => if sub = 0 then some (1, 1, 1) else none
  | 0x19 => if sub = 0 then some (1, 1, 2) else none
  | 0x1A => if sub = 0 then some (2, 2, 1) else none
  | 0x20 => if sub ≤ 6 then some (1, 1, 0) else none
  | 0x21 => if sub ≤ 6 then some (0, 0, 1) else none
  | 0x22 => if sub = 0 then some (1, 1, 0) else none
  | 0x23 => if sub = 0 then some (0, 0, 1) else none
  | 0x28 => if sub = 0 then two else none
  | 0x29 => if sub = 0 then two else none
  | 0x30 => if sub ≤ 1 then some (2, 2, 1) else none
  | 0x31 => if sub ≤ 1 then some (3, 3, 0) else none
  | 0x32 => if sub ≤ 1 then some (3, 3, 0) else none
  | 0x38 => if sub = 0 then some (1, 1, 2) else none
  | 0x39 => if sub = 0 then some (3, 3, 1) else if sub = 1 then some (4, 4, 1) else none
  | 0x40 => if sub ≤ 1 then some (2, 2, 2) else none
  | 0x41 => if sub = 0 then some (2, 2, 2) else none
  | _ => none

/-- The forms registers ra and rb must have: 0 unused, 4 any used form but MASK, else the form itself (Table 5.3a). -/
def regForms (v : VecOp) : Nat × Nat :=
  let n := v.ins.length
  match v.opcode with
  | 0x04 => if n = 1 then (4, 4) else if n = 2 then (4, 0) else (0, 0)
  | 0x19 => (1, 0)
  | 0x1A => (1, 0)
  | 0x20 => if v.subop < 4 then (1, 0) else (1, 1)
  | 0x21 => if v.subop < 4 then (1, 0) else (1, 1)
  | 0x22 => (1, 0)
  | 0x23 => (1, 0)
  | 0x28 => (1, if n = 1 then 3 else 0)
  | 0x29 => (if n = 1 then 3 else 0, if v.param0 = 1 then 1 else 0)
  | 0x01 => if n = 1 then (4, 0) else (0, 0)
  | 0x02 => if n = 1 then (4, 0) else (0, 0)
  | 0x03 => if n = 1 then (4, 0) else (0, 0)
  | 0x05 => if n = 1 then (4, 0) else (0, 0)
  | 0x0B => if n = 1 then (4, 0) else (0, 0)
  | 0x0D => if v.subop = 2 && n = 1 then (4, 0) else (0, 0)
  | 0x10 => if n = 1 then (4, 0) else (0, 0)
  | _ => (0, 0)

/-- Whether one register field obeys R134, R135 and R483: `wide` marks a 64-bit working format. -/
def regOk (want form reg vregs period : Nat) (wide : Bool) : Bool :=
  if want = 0 then form == 0 && reg == 0
  else
    (if want = 4 then form == 1 || form == 2 else form == want) && reg < vregs &&
      (form != 2 || period ≤ (if wide then 64 else 128))

/-- Whether a format is a float stream format. -/
def floatF (f : Nat) : Bool := f ≤ 3
/-- Whether a format is INT32 or INT64. -/
def int3264 (f : Nat) : Bool := f == 4 || f == 6

/-- Whether the formats of a record's streams are ones its opcode takes (R130 to R144, R483). COMPRESS and EXPAND copy elements, so both their
streams have one format. (DESIGN CHOICE, log entry 107) -/
def formatsOk (v : VecOp) : Bool :=
  let i := fun k => (v.ins.getD k noStream).fmt
  let o := fun k => (v.outs.getD k noStream).fmt
  let all := fun (p : Nat → Bool) => v.ins.all (fun s => p s.fmt) && v.outs.all (fun s => p s.fmt)
  match v.opcode with
  | 0x01 => all (fun f => floatF f || int3264 f)
  | 0x02 => all (fun f => floatF f || int3264 f)
  | 0x03 => all (fun f => floatF f || int3264 f)
  | 0x0B => all (fun f => floatF f || int3264 f)
  | 0x04 => all floatF
  | 0x05 => all floatF
  | 0x06 => all floatF
  | 0x07 => all floatF && i 0 != 1
  | 0x0D => all floatF
  | 0x10 => v.ins.all (fun s => floatF s.fmt || int3264 s.fmt) && o 0 == 7
  | 0x11 => i 0 == 7
  | 0x18 => all (fun f => f ≤ 6 && f != 3)
  | 0x19 => i 0 == 0 && (o 0 == 2 || o 0 == 3) && o 1 == 8
  | 0x1A => (i 0 == 2 || i 0 == 3) && i 1 == 8 && o 0 == 0
  | 0x20 => i 0 ≤ 6 && (if floatF (i 0) then v.accFmt ≤ 2 && !(i 0 == 1 && v.accFmt == 1) else v.accFmt == 0 && v.subop != 6)
  | 0x21 => if v.accFmt = 0 then o 0 == 0 || o 0 == 1 || ((o 0 == 4 || o 0 == 6) && v.subop != 6)
            else if v.accFmt = 1 then o 0 == 0 else v.accFmt == 2 && o 0 == 1
  | 0x28 => i 0 == o 0 && (v.ins.length < 2 || i 1 == 7)
  | 0x29 => i 0 == o 0 && (v.ins.length < 2 || i 1 == 7)
  | 0x30 => i 1 == 4
  | 0x31 => i 1 == 4
  | 0x32 => i 1 == 4 && (i 2 == 0 || i 2 == 2 || i 2 == 3 || i 2 == 4 || i 2 == 6)
  | 0x38 => i 0 == 1 && o 0 == 5 && o 1 == 4
  | 0x39 => i 0 == 4 && i 1 == 4 && i 2 == 4 && (v.subop == 0 || i 3 == 1) && o 0 == 1
  | 0x40 => (i 0 == 0 || i 0 == 2) && i 1 == 0 && o 1 == 0
  | 0x41 => (i 0 == 0 || i 0 == 2) && i 1 == 0 && o 1 == 0
  | _ => true

/-- Whether rounding and the parameters of a record are within their stated ranges. Fields and parameter bits for which the spec states no
meaning in an operation (acc_fmt outside reductions, bits 31:19 of LH_SLICE's param1) are not looked at. (DESIGN CHOICE, log entry 82) -/
def paramsOk (v : VecOp) : Bool :=
  let s := v.param1 / 65536 % 8
  let kc := v.param1 % 65536
  match v.opcode with
  | 0x1A => v.rounding == 0
  | 0x20 => v.param0 ≤ 1 && (v.subop == 4 || v.subop == 5 || v.param1 == 0)
  | 0x29 => v.param0 ≤ 1
  | 0x30 => 1 ≤ v.param0 && v.param0 ≤ 2 ^ 31
  | 0x31 => 1 ≤ v.param0 && v.param0 ≤ 2 ^ 31
  | 0x32 => 1 ≤ v.param0 && v.param0 ≤ 2 ^ 31
  | 0x38 => 1 ≤ v.param0 && v.param0 ≤ 65536 && 1 ≤ kc && kc ≤ 1024 && 1 ≤ s
  | 0x39 => v.param0 == 0 && 1 ≤ s && v.param1 == s * 65536
  | 0x40 => 32 ≤ v.param0 && v.param0 ≤ 65536 && v.param0 % 32 == 0 && 1 ≤ v.param1 && v.param1 ≤ v.param0
  | 0x41 => 32 ≤ v.param0 && v.param0 ≤ 65536 && v.param0 % 32 == 0
  | _ => true

/-- Whether the lengths a record gives agree, and the record of a FINALIZE fits its banks (R126); a record with a register length is checked
when it starts. -/
def lensOk (v : VecOp) : Bool :=
  (v.ins ++ v.outs).any (·.lenReg) ||
    (lengthsAgree v (v.ins.map (·.length)) (v.outs.map (·.length)) &&
      (v.opcode != 0x21 || v.outs.all (fun s => s.viaWindow || placeFits (.direct s.offset s.stripe) (finalBytes s.fmt v.subop))))

/-- Whether the direct streams of a list lie in pairwise distinct banks (R127): one with a length of its own in those it touches, one with a register
length in all banks of its stripe. (DEDUCED, log entry 106) -/
def banksApart (ss : List StreamD) : Bool :=
  !banksClash ((ss.filter (fun s => !s.viaWindow)).map (fun s =>
    if s.lenReg then (List.range s.stripe).map (s.offset / 0x20000 + ·) else banksOf (.direct s.offset s.stripe) (streamBytes s.fmt s.length)))

/-- Reads a vector record (R125, Tables 5.1 to 5.3a). -/
def readVector (bs : List Byte) (vregs o len : Nat) : Chk Item := do
  let h := recNat bs o 4
  let r := recNat bs (o + 4) 4
  let opc := fld h 24 8
  let nIn := fld h 21 3
  let nOut := fld h 18 3
  let sub := fld h 0 12
  match streamCount opc sub with
  | none => .error o
  | some cnt =>
    need (cnt.1 ≤ nIn && nIn ≤ cnt.2.1 && nOut == cnt.2.2) (o + 2)
    need (len == 16 * (1 + nIn + nOut)) (o + 2)
    need (fld h 16 2 ≤ 1 && fld h 14 2 ≤ 2) (o + 1)
    need (fld r 0 6 == 0) (o + 4)
    let table := opc == 0x30 || opc == 0x31 || opc == 0x32
    let remote ← if table && sub == 1 then (readRemote bs (o + 16)).map some else .ok none
    let ins ← readN nIn (fun i =>
      if table && i == 0 then (if sub == 1 then .ok noStream else readTable bs (o + 16)) else readStream bs vregs (o + 16 + 16 * i))
    let outs ← readN nOut (fun i => readStream bs vregs (o + 16 + 16 * nIn + 16 * i))
    let v : VecOp :=
      { opcode := opc, rounding := fld h 16 2, accFmt := fld h 14 2, indexMode := fld h 12 2, subop := sub, ra := fld r 27 5,
        raForm := fld r 25 2, rb := fld r 20 5, rbForm := fld r 18 2, period := fld r 6 12 + 1, param0 := recNat bs (o + 8) 4,
        param1 := recNat bs (o + 12) 4, ins := ins, outs := outs, remote := remote }
    let wf := workFmt ((ins.map (·.fmt)).filter (· < 7))
    let want := regForms v
    need (formatsOk v) (o + 16)
    need (regOk want.1 v.raForm v.ra vregs v.period (accBits wf == 64)) (o + 4)
    need (regOk want.2 v.rbForm v.rb vregs v.period (accBits wf == 64) &&
      (!((opc == 0x20 || opc == 0x21) && sub == 6) || v.rb + 1 < vregs)) (o + 4)
    need (paramsOk v) (o + 8)
    let g := tableGeom v
    need (!table || remote.isSome || (g.2.1 % 4 == 0 && 4 ≤ g.2.1 && g.2.1 ≤ 4096 &&
      (ins.getD 0 noStream).offset + (g.1 - 1) * g.2.2 + g.2.1 ≤ 0xC0000)) (o + 12)
    need (lensOk v) (o + 16)
    need (banksApart (if table then ins.drop 1 else ins)) (o + 16)
    need (banksApart outs) (o + 16 + 16 * nIn)
    return .vector v

/-! ### Premutar descriptors -/

/-- Reads a base of a side (Table 6.1). -/
def readBase (bs : List Byte) (o : Nat) : PmBase := let v := recNat bs o 8; { space := fld v 62 2, window := fld v 58 4, base := fld v 0 57 }

/-- Whether a base's fields are in range. -/
def pmBaseOk (bs : List Byte) (o : Nat) : Bool :=
  let v := recNat bs o 8
  fld v 62 2 != 3 && fld v 57 1 == 0 && (fld v 62 2 != 0 || fld v 0 57 < 0xC0000)

/-- Whether a G32 side obeys R149. -/
def g32Ok (rank row chan e base : Nat) (strides : List Int) (src : Bool) : Bool :=
  let t : Int := 1024 * e
  2 ≤ rank && row < rank && chan < rank && row != chan && base % (1024 * e) == 0 &&
    (List.range rank).all (fun k =>
      let s := strides.getD k 0
      0 ≤ s && s % t == 0 && (s != 0 || (src && k != row && k != chan)))

/-- Reads a copy descriptor (Table 6.1) and checks R149, R152 to R156. -/
def readPremutar (bs : List Byte) (o : Nat) : Chk Item := do
  let u := fun k n => recNat bs (o + k) n
  let h := u 0 4
  let kind := fld h 28 4
  let rank := fld h 25 3
  let perm := fun k => fld h (10 + 3 * k) 3
  let e := 2 ^ fld h 8 2
  let sh := tbit h 7
  let w1 := u 4 4
  let pad := fun k => fld w1 (10 + 2 * k) 2
  let fill := kind == 2
  need (1 ≤ kind && kind ≤ 2 && 1 ≤ rank && rank ≤ 5 && fld h 0 4 == 0) o
  need (if fill then (List.range 5).all (fun k => perm k == 0) && !tbit h 5
        else (List.range 5).all (fun k => if k < rank then perm k < rank else perm k == k) && noDup ((List.range rank).map perm)) o
  need (fld w1 0 10 == 0 && (List.range 5).all (fun k => pad k ≤ 1)) (o + 4)
  need (!fill || (fld w1 26 6 == 0 && (List.range 5).all (fun k => pad k == 0))) (o + 4)
  need (if fill then u 8 8 == 0 else pmBaseOk bs (o + 8)) (o + 8)
  need (pmBaseOk bs (o + 16)) (o + 16)
  need (if sh && !fill then pmBaseOk bs (o + 24) else u 24 8 == 0) (o + 24)
  need (if sh then pmBaseOk bs (o + 32) else u 32 8 == 0) (o + 32)
  let ext := fun k => u (40 + 4 * k) 4
  let _ ← readN 5 (fun k => need (1 ≤ ext k && ext k ≤ 16777216 && (k < rank || ext k == 1)) (o + 40 + 4 * k))
  let ss := (List.range 5).map (fun k => signed (u (60 + 6 * k) 6) 48)
  let ds := (List.range 5).map (fun k => signed (u (90 + 6 * k) 6) 48)
  let _ ← readN 5 (fun k => need (!fill || ss.getD k 0 == 0) (o + 60 + 6 * k))
  let _ ← readN 5 (fun k => need (ds.getD k 0 != 0) (o + 90 + 6 * k))
  let halo := fun k => u (120 + 4 * k) 4
  let _ ← readN 5 (fun k => need ((k < rank || halo k == 0) && (!fill || fld (halo k) 0 16 == 0)) (o + 120 + 4 * k))
  need (u 140 8 < 2 ^ (8 * e)) (o + 140)
  need (u 150 2 == 0) (o + 150)
  let dor := fun k => u (152 + 4 * k) 4
  let sor := fun k => u (172 + 4 * k) 4
  let _ ← readN 5 (fun k => need (dor k < 2 ^ 24 && fld (halo k) 24 8 ≤ dor k) (o + 152 + 4 * k))
  let _ ← readN 5 (fun k => need (sor k < 2 ^ 24 && (!fill || sor k == 0)) (o + 172 + 4 * k))
  let dims := (List.range rank).map (fun k =>
    ({ perm := perm k, padMode := pad k, extent := ext k, srcStride := ss.getD k 0, dstStride := ds.getD k 0,
       extLo := fld (halo k) 24 8, extHi := fld (halo k) 16 8, roomLo := fld (halo k) 8 8, roomHi := fld (halo k) 0 8,
       dstOrigin := dor k, srcOrigin := sor k } : PmDim))
  let d : PmDesc :=
    { fill := fill, elemSize := e, sh16 := sh, relaxed := tbit h 6, srcG32 := tbit h 5, dstG32 := tbit h 4, srcRow := fld w1 29 3,
      srcChan := fld w1 26 3, dstRow := fld w1 23 3, dstChan := fld w1 20 3, src := readBase bs (o + 8), dst := readBase bs (o + 16),
      srcScale := readBase bs (o + 24), dstScale := readBase bs (o + 32), dims := dims, padValue := u 140 8, boxTensor := u 148 2 }
  need (!d.srcG32 || g32Ok rank d.srcRow d.srcChan e d.src.base ss true) (o + 4)
  need (!d.dstG32 || g32Ok rank d.dstRow d.dstChan e d.dst.base ds false) (o + 4)
  need (laneCount d ≤ 2 ^ 40) (o + 40)
  let c := d.dstChan
  need (!sh || (d.dstG32 && (fill || d.srcG32) && e == 2 && (fill || d.srcChan == perm c) && d.padValue == 0 &&
    [fld (halo c) 24 8, fld (halo c) 16 8, ext c, dor c, sor (perm c)].all (· % 32 == 0))) o
  return .premutar d

/-! ### Bodies and waybills -/

/-- Whether a window-set's words are ones posting accepts (R115, R118). -/
def windowSetOk (cfg ptr : Nat) : Bool :=
  let size := fld cfg 9 9
  let base := fld cfg 0 9
  let tail := fld ptr 32 21
  let head := fld ptr 0 21
  if tbit cfg 31 then
    1 ≤ size && size ≤ 384 && base ≤ 383 && base + size ≤ 384 && head % 128 == 0 && tail % 128 == 0 &&
      head < 4096 * size && tail < 4096 * size && (!tbit cfg 30 || (tail + 4096 * size - head) % (4096 * size) ≤ 2048 * size)
  else cfg == 0 && ptr == 0

/-- Reads one body item of `len` bytes, header included, at `o`. -/
def readItem (bs : List Byte) (banks : List Nat) (vregs nT o len : Nat) : Chk Item := do
  let ty := recNat bs o 1
  let q := o + 16
  let size := fun n => need (len == n) (o + 2)
  need (recNat bs (o + 1) 1 == 0) (o + 1)
  need (recZero bs (o + 4) 12) (o + 4)
  match ty with
  | 0x01 => size 80; readArrayOp bs banks q
  | 0x02 => size 112; readDrain bs banks nT q
  | 0x03 => do
    size 32
    need (recZero bs (q + 1) 15) (q + 1)
    return .discard (recNat bs q 1)
  | 0x04 => need (32 ≤ len) (o + 2); readVector bs vregs q (len - 16)
  | 0x05 => size 208; readPremutar bs q
  | 0x06 => do
    size 32
    need (recNat bs (q + 4) 1 ≤ 15) (q + 4)
    need (recZero bs (q + 5) 3) (q + 5)
    need (windowSetResv (recNat bs q 4) (recNat bs (q + 8) 8) && windowSetOk (recNat bs q 4) (recNat bs (q + 8) 8)) q
    return .windowSet (recNat bs (q + 4) 1) (recNat bs q 4) (recNat bs (q + 8) 8)
  | 0x07 => do
    size 32
    need (fld (recNat bs q 1) 4 4 == 0 && fld (recNat bs q 1) 0 3 ≤ 5) q
    need (recZero bs (q + 1) 15) (q + 1)
    return .aliasSet (tbit (recNat bs q 1) 3) (fld (recNat bs q 1) 0 3)
  | 0x08 => do
    size 32
    need (fld (recNat bs q 1) 3 5 == 0) q
    need (recZero bs (q + 1) 15) (q + 1)
    return .barrier (recNat bs q 1)
  | _ => .error o
where
  /-- Whether the reserved bits of a window-set's words and its context field are zero. -/
  windowSetResv (cfg ptr : Nat) : Bool := fld cfg 18 12 == 0 && fld ptr 21 11 == 0 && fld ptr 53 11 == 0

/-- Reads the items of a body, from `o` up to `stop`, at most `fuel` of them. -/
def readItems (bs : List Byte) (banks : List Nat) (vregs nT stop : Nat) : Nat → Nat → Chk (List Item)
  | 0, o => if o = stop then .ok [] else .error o
  | fuel + 1, o =>
    if o = stop then .ok [] else
    let len := 16 * recNat bs (o + 2) 2
    if len = 0 || stop < o + len then .error (o + 2) else
    match readItem bs banks vregs nT o len with
    | .error e => .error e
    | .ok it => match readItems bs banks vregs nT stop fuel (o + len) with
      | .error e => .error e
      | .ok its => .ok (it :: its)

/-- Whether bank claims obey R110: a side may claim any two banks, whether or not it has a wide operation. (DESIGN CHOICE, log entry 107) -/
def claimsOk (banks : List Nat) : Bool :=
  let n := fun k => (banks.filter (· == k)).length
  banks.all (· ≤ 6) && n 1 ≤ 2 && n 2 ≤ 2 && n 3 ≤ 1

/-- Reads a waybill (Table 7.5) with its references and its own body. The body fields of a recompute waybill are not used, and not checked. (DEDUCED,
log entry 108) -/
def readWaybill (bs : List Byte) (h : ImgHdr) (decls : List DeclD) (i : Nat) : Chk WaybillD := do
  let o := h.wOff + 32 * i
  let a := recNat bs o 4
  let g := recNat bs (o + 4) 4
  let b := recNat bs (o + 8) 4
  let of := recNat bs (o + 12) 4
  let body := recNat bs (o + 16) 4
  let len := recNat bs (o + 20) 4
  let ref := recNat bs (o + 24) 4
  let nIn := fld g 12 4
  let nOut := fld g 8 4
  let banks := (List.range 6).map (fun k => fld b (3 * k) 3)
  let vregs := fld a 16 6
  need (fld a 22 10 == 0 && tbit a 15 == false && tbit a 12 == false) o
  need (vregs ≤ 32) (o + 2)
  need (fld a 10 2 != 0) (o + 1)
  need (nIn ≤ 8 && nOut ≤ 8 && fld g 0 8 == 0) (o + 4)
  need (fld b 18 14 == 0 && claimsOk banks) (o + 8)
  need (of == 0xFFFFFFFF || (of < h.nW && fld a 10 2 == 2)) (o + 12)
  need (ref + nIn + nOut ≤ h.nR || nIn + nOut == 0) (o + 24)
  need (recZero bs (o + 28) 4) (o + 28)
  let ins ← readN nIn (fun k => readRef bs decls false (h.rOff + 8 * (ref + k)))
  let outs ← readN nOut (fun k => readRef bs decls true (h.rOff + 8 * (ref + nIn + k)))
  let own := of == 0xFFFFFFFF
  need (!own || (body % 16 == 0 && body + len ≤ h.bBytes)) (o + 16)
  need (!own || (16 ≤ len && len ≤ 262144 && len % 16 == 0)) (o + 20)
  let items ← if own then readItems bs banks vregs h.nT (h.bOff + body + len) 1024 (h.bOff + body) else .ok []
  return { vregs := vregs, notify := tbit a 14, report := tbit a 13, stream := fld a 10 2, array := fld a 0 10, group := fld g 16 16,
           banks := banks, bodyOf := if own then none else some of, ins := ins, outs := outs, body := items }

/-- Whether a recompute waybill obeys R185. -/
def recomputeOk (ws : List WaybillD) (w : WaybillD) : Bool :=
  match w.bodyOf with
  | none => true
  | some j =>
    let f := ws.getD j noWaybill
    f.stream == 1 && f.array == w.array && f.banks == w.banks && f.vregs == w.vregs && f.bodyOf.isNone

/-- The array operations of the waybills of one waybill group. -/
def groupOps (i : Image) (w : WaybillD) : List ArrayOp :=
  ((List.range i.waybills.length).filter (fun k =>
    let v := wbOf i k
    v.array == w.array && v.stream == w.stream && v.group == w.group)).flatMap (fun k =>
      (bodyOf i k).filterMap (fun it => match it with | .arrayOp o => some o | _ => none))

/-- The kinds in which the operations of a list open group `g` with ZERO or LOAD. -/
def openKinds (os : List ArrayOp) (g : Nat) : List Bool :=
  (os.filter (fun o =>
    let n := (shapeOf o.shape).1 * (shapeOf o.shape).2
    o.base ≤ g && g < o.base + n && nthN o.opens (g - o.base) != 2)).map (fun o => isIntPairing o.pairing)

/-- Whether every drain, discard and CONTINUE of a waybill names groups its waybill group can own, and every drain a
format they can take where posting can tell (R93, R190). -/
def ownsOk (i : Image) (k : Nat) : Bool :=
  let os := groupOps i (wbOf i k)
  (bodyOf i k).all (fun it => match it with
    | .drain d => d.groups.all (fun g =>
        let ks := openKinds os g
        !ks.isEmpty && (ks.any (fun x => kindTakes x d.outFmt)))
    | .discard m => (bitsOf m).all (fun g => !(openKinds os g).isEmpty)
    | .arrayOp o =>
        (List.range ((shapeOf o.shape).1 * (shapeOf o.shape).2)).all (fun j =>
          nthN o.opens j != 2 || !(openKinds os (o.base + j)).isEmpty)
    | _ => true)

/-- Reads a whole image (R173 to R188) with every check R190 makes in the malformed family. -/
def readImage (bs : List Byte) : Chk Image := do
  let h ← readHdr bs
  let ts ← readN h.nT (fun i => readTensor bs (h.tOff + 32 * i))
  let ds ← readN h.nD (fun i => readDecl bs (h.dOff + 16 * i))
  let ws ← readN h.nW (readWaybill bs h ds)
  let _ ← readN h.nW (fun i => need (recomputeOk ws (ws.getD i noWaybill)) (h.wOff + 32 * i + 12))
  let fl := recNat bs 59 1
  let img : Image :=
    { bytes := bs.length, tOff := h.tOff, tensors := ts, decls := ds, waybills := ws, weights := [recNat bs 56 1, recNat bs 57 1, recNat bs 58 1],
      step := tbit fl 0, deadline := fld fl 1 2, runs2 := tbit fl 3 }
  let _ ← readN h.nW (fun i => need (ownsOk img i) (h.wOff + 32 * i + 16))
  return img

end Sys2Proof.Machine
end

