-- ==== Sys2Proof/Machine/Gate.lean ====
section
/-! DEFINITION. When waybills are ready (R178, R192, R261 to R264) and when a run may start (R191, R332, R344, R368, R369). -/

namespace Sys2Proof.Machine

/-! ### Readiness -/

/-- Whether an input is met on a block, by the values multicast to it (R178, R183). -/
def inputMet (b : Blk) (x : Ctx) (i : Image) (run : Nat) (ref : RefD) : Bool :=
  let d := i.decls.getD ref.decl noDecl
  msMet (tget 0 b.seq.view (x.msBase + d.relId)).toNat (ref.target + run * d.stride)

/-- The inputs of a waybill that are not met. -/
def unmet (b : Blk) (x : Ctx) (i : Image) (run w : Nat) : List RefD :=
  (wbOf i w).ins.filter (fun r => !inputMet b x i run r)

/-- Whether a waybill of a run is eligible: not started in it, and complete in the run before (R192). -/
def eligible (q : ManSt) (r : RunSt) (w : Nat) : Bool :=
  !has r.startedWbs w && (match q.runs.find? (fun e => e.run + 1 == r.run) with
    | some e => has e.doneWbs w
    | none => true)

/-- Whether an input is of class OUTRIDER. -/
def isOutrider (i : Image) (r : RefD) : Bool := (i.decls.getD r.decl noDecl).cls == 1

/-- The waybills of an image that advance the milestone of a relative identifier: the outriders of an OUTRIDER input (R261). -/
def outridersOf (i : Image) (rel : Nat) : List Nat :=
  (List.range i.waybills.length).filter (fun w => (wbOf i w).outs.any (fun o =>
    let d := i.decls.getD o.decl noDecl
    d.cls == 1 && d.relId == rel))

/-- The running waybill of a run, wherever it runs. -/
def findRunning (m : Mach) (c k run w : Nat) : Option RunWb :=
  (blocksOf m c).findSome? (fun p => (getBlk m p).seq.running.find? (fun e => e.ctx == c && e.man == k && e.run == run && e.wb == w))

/-- Whether every descriptor of an outrider is registered or done (R263). -/
def outriderRegistered (m : Mach) (c k : Nat) (q : ManSt) (r : RunSt) (w : Nat) : Bool :=
  has r.doneWbs w || (match findRunning m c k r.run w with
    | none => false
    | some e =>
      let body := bodyOf q.img w
      (List.range body.length).all (fun i => match body[i]? with
        | some (Item.premutar _) => e.items.getD i .done == .done || m.tier.regs.any (fun g => g.ref == refOf e i)
        | _ => true))

/-- Whether the outriders an input waits on, in this manifest and in the runs of the slot's other manifests, have every descriptor registered
(R263): of this run each outrider counts, of another manifest's runs those started and not complete; with none at all the input waits on an
outrider that has not started. (DEDUCED, log entry 84) -/
def outridersRegistered (m : Mach) (c k : Nat) (q : ManSt) (r : RunSt) (i : RefD) : Bool :=
  let rel := (q.img.decls.getD i.decl noDecl).relId
  let mine := (outridersOf q.img rel).map (fun w => (k, q, r, w))
  let others := (getCtx m c).mans.flatMap (fun e => match e.2 with
    | some z => if e.1 = k then [] else
        (z.runs.filter (fun s => s.started && !s.ended)).flatMap (fun s =>
          ((outridersOf z.img rel).filter (fun w => has s.startedWbs w && !has s.doneWbs w)).map (fun w => (e.1, z, s, w)))
    | none => [])
  !(mine ++ others).isEmpty && (mine ++ others).all (fun o => outriderRegistered m c o.1 o.2.1 o.2.2.1 o.2.2.2)

/-- How a waybill of a started run may start on a block: not at all, with its body, or with its body skipped. -/
inductive StartMode where
  | no | body | skip
  deriving DecidableEq, Repr

/-- Whether a bound waybill lies at or past the tiles in use (R222). -/
def boundPast (m : Mach) (c k : Nat) (r : RunSt) (w : Nat) : Bool :=
  match (getCtx m c).sv.conf with
  | some f => f.man == k && (match f.binds.find? (fun e => e.1 == w) with | some e => r.tiles.length ≤ e.2 | none => false)
  | none => false

/-- Whether a waybill is ready (R192), late consumers under DIRECT and SHARED_ONLY included (R263, R264). -/
def readyMode (m : Mach) (b : Blk) (c k : Nat) (q : ManSt) (r : RunSt) (w : Nat) : StartMode :=
  if !r.started || r.halted || r.ended || !eligible q r w then .no else
  let x := getCtx m c
  let u := unmet b x q.img r.run w
  if u.isEmpty then (if boundPast m c k r w then .skip else .body)
  else if !has (q.late.map (fun e => e.1 * 16777216 + e.2)) (r.run * 16777216 + w) then .no
  else if q.img.deadline = 1 then
    (if u.all (outridersRegistered m c k q r) then (if boundPast m c k r w then .skip else .body) else .no)
  else if q.img.deadline = 2 then
    (match x.sv.conf with
      | some f => if f.man == k && u.all (fun i => has f.privates i.decl) then .skip else .no
      | none => .no)
  else .no

/-- The posted manifests of a slot in post order, by slot. -/
def mansOf (x : Ctx) : List (Nat × ManSt) :=
  let all : List (Nat × ManSt) := x.mans.filterMap (fun e => e.2.map (fun q => (e.1, q)))
  (List.range (all.length)).foldl (fun (acc : List (Nat × ManSt) × List (Nat × ManSt)) _ =>
    match acc.2 with
    | [] => acc
    | e :: es =>
      let best := es.foldl (fun (b : Nat × ManSt) f => if f.2.order < b.2.order then f else b) e
      (acc.1 ++ [best], acc.2.filter (fun f => f.1 != best.1))) ([], all) |>.1

/-- The ready waybills of a slot on a block and stream, in the order of R194: manifest slot, run, waybill, and how each may
start. -/
def readyWbs (m : Mach) (p c stream : Nat) : List (Nat × Nat × Nat × StartMode) :=
  match arrayOf m p with
  | none => []
  | some a =>
    let b := getBlk m p
    (mansOf (getCtx m c)).flatMap (fun e => e.2.runs.flatMap (fun r =>
      (List.range e.2.img.waybills.length).filterMap (fun w =>
        let d := wbOf e.2.img w
        if d.array != a || d.stream != stream then none else
          let md := readyMode m b c e.1 e.2 r w
          if md = .no then none else some (e.1, r.run, w, md))))

/-- Whether a slot has a ready waybill on a block. -/
def hasReady (m : Mach) (p c : Nat) : Bool := [1, 2, 3].any (fun s => !(readyWbs m p c s).isEmpty)

/-! ### Groups -/

/-- The waybills of one waybill group of an image (R186). -/
def groupWbs (i : Image) (a g : Nat) : List Nat :=
  (List.range i.waybills.length).filter (fun w => (wbOf i w).array == a && (wbOf i w).group == g)

/-- Whether a waybill group has started in a run. -/
def groupStarted (i : Image) (r : RunSt) (a g : Nat) : Bool := (groupWbs i a g).any (has r.startedWbs)

/-- Whether a started group has ended: all of its waybills are complete, or its run is halted and none of them runs. -/
def groupEnded (m : Mach) (c k : Nat) (i : Image) (r : RunSt) (a g : Nat) : Bool :=
  (groupWbs i a g).all (fun w => has r.doneWbs w || (r.halted && !(has r.startedWbs w)))
    || (r.halted && !(groupWbs i a g).any (fun w => (findRunning m c k r.run w).isSome))

/-- Whether every started waybill group of a slot on an array has ended. -/
def atBoundary (m : Mach) (c a : Nat) : Bool :=
  (mansOf (getCtx m c)).all (fun e => e.2.runs.all (fun r => !r.started || r.startedWbs.all (fun w =>
    let d := wbOf e.2.img w
    d.array != a || groupEnded m c e.1 e.2.img r a d.group)))

/-! ### Starting a run -/

/-- The step number the next run of a manifest takes (R191). -/
def nextStep (x : Ctx) (q : ManSt) : Nat := if q.img.step then x.stepCtr.toNat else x.lastStep.toNat

/-- The open watch slots of a slot's context. -/
def openWatches (m : Mach) (c : Nat) : List Nat :=
  (m.ass.watches.filter (fun e => e.2.st != 0 && e.2.ctx == handleOf m c)).map (·.1)

/-- Whether a posted manifest of a slot watches a watch slot with scaling 1 or 2. -/
def scaledBy (x : Ctx) (n : Nat) : Bool :=
  x.mans.any (fun e => match e.2 with
    | some q => q.img.tensors.any (fun t => t.watch == n + 1 && t.scaling != 0)
    | none => false)

/-- Whether a context is scaled (R332). -/
def isScaled (m : Mach) (c : Nat) : Bool :=
  (openWatches m c).any (fun n => scaledBy (getCtx m c) n || (tget watchReset m.ass.watches n).addr != 0)

/-- Whether a run has completed or halted, as the gate of R332 counts it. -/
def runOver (r : RunSt) : Bool := r.halted || r.ended

/-- Whether proposal words of a slot's last close are still to be acknowledged (Table 12.3 step 4). -/
def proposalsOut (m : Mach) (c : Nat) : Bool := m.fab.out.any (fun o => o.ctx == c && (match o.holder with | .watch _ => true | _ => false))

/-- The gate of R332 on a run with step number `s`. -/
def gateOpen (m : Mach) (c s : Nat) : Bool :=
  let x := getCtx m c
  let fs := inFlight x
  if isScaled m c then
    !proposalsOut m c && fs.all (fun r => s ≤ r.step || runOver r) &&
      (!x.ran || s ≤ x.lastStep.toNat || (match x.closed with | some q => x.lastStep.toNat ≤ q | none => false))
  else if (openWatches m c).isEmpty then true
  else fs.all (fun r => s < r.step + 2 || runOver r)

/-- The number of the cargo set behind entry `k` of a slot's pointer table (R369): the entry's own set, or `k` while the
entry is empty or the slot has none. -/
def baseSet (m : Mach) (c k : Nat) : Nat :=
  match (getCtx m c).sv.conf with
  | none => k
  | some f =>
    match translate m c 0x01 (f.ptrTable + 32 * k) 32 with
    | .ok e phys =>
      if m.fab.module = some e.module && rdNat m phys 8 != 0 then rdNat m (phys + 16) 4 % 4096 else k
    | .fault _ => k

/-- Whether a manifest slot is a context's serving manifest (R220). -/
def serves (x : Ctx) (k : Nat) : Bool := match x.sv.conf with | some f => f.man == k | none => false

/-- Whether a completion slot is free to be assigned (R201). -/
def crRoom (x : Ctx) : Bool := (x.cr.issued - x.cr.ack).toNat < 4096

/-- Whether the next launched run of a manifest may start, once it has a completion slot (R191, R193, R197, R332, R344, R352, R368, R369). -/
def mayStart (m : Mach) (c k : Nat) : Bool :=
  let x := getCtx m c
  match getMan m c k with
  | none => false
  | some q =>
    let r := q.nextRun
    let s := nextStep x q
    m.pwr.boot == .running && m.pwr.st < 2 && x.st == .active && r < q.launched && !q.halted && q.retiring.isNone &&
      (if q.img.runs2 then q.runs.all (fun e => !e.started || r < e.run + 2) else q.runs.all (fun e => !e.started)) &&
      gateOpen m c s && !m.ass.stopped.any (fun z => z.1 == c) &&
      (match x.el.reshard with | some e => s < e.sAt | none => true) &&
      (x.sv.switches.isEmpty || (q.runs.any (fun e => e.built && !e.started && e.run == r) && (inFlight x).isEmpty)) &&
      (serves x k || x.sv.conf.isSome || x.sv.bindings.all (fun n => (getCargo m n).st != 3 && (getCargo m n).st != 4))

/-- Whether the next launched run of a manifest may start (R201). -/
def canStart (m : Mach) (c k : Nat) : Bool := mayStart m c k && crRoom (getCtx m c)

end Sys2Proof.Machine
end

