-- ==== Sys2Proof/Machine/Assayer.lean ====
section
/-! DEFINITION. The assayer (chapter 12): summaries and markers, the close of a step, coarse scales, the watches, proposals,
and the numerics record. -/

namespace Sys2Proof.Machine

/-- Watch slot `n`. -/
def getWatch (m : Mach) (n : Nat) : Watch := tget watchReset m.ass.watches n
/-- Changes watch slot `n`. -/
def modWatch (m : Mach) (n : Nat) (f : Watch → Watch) : Mach :=
  { m with ass := { m.ass with watches := tmod watchReset m.ass.watches n f } }

/-! ### Summaries and markers -/

/-- The sum of two sets of statistics (R330). -/
def addStats (a b : Stats) : Stats :=
  { elements := a.elements + b.elements, zeros := a.zeros + b.zeros, saturated := a.saturated + b.saturated,
    nonfinite := a.nonfinite + b.nonfinite, underflow := a.underflow + b.underflow, amax := max a.amax b.amax }

/-- What a tile summary adds. -/
def sumStats (s : TileSum) : Stats :=
  { elements := s.elements, zeros := s.zeros, saturated := s.saturated, nonfinite := s.nonfinite,
    underflow := s.underflow, amax := s.amax }

/-- Applies a tile summary to its watch slot, where that is still open for the context of the drain. -/
def applySum (m : Mach) (s : TileSum) : Mach :=
  let w := getWatch m s.watch
  if w.st = 0 || w.ctx != handleOf m s.ctx then m
  else modWatch m s.watch (fun w => { w with open_ := tmod noStats w.open_ s.step (fun x => addStats x (sumStats s)) })

/-- ASSAYER_SUMMARY: the oldest tile summary under way reaches the assayer (R329, R330). -/
def assayerSummary (m : Mach) : Mach :=
  match m.ass.sums with
  | [] => m
  | s :: ss => applySum { m with ass := { m.ass with sums := ss } } s

/-- END_OF_RUN_MARKER: the oldest marker under way arrives. Its block's summaries lie ahead of it on the same path, so those
of its context and step that have not come are applied first (R331). -/
def endOfRunMarker (m : Mach) : Mach :=
  match m.ass.markers with
  | [] => m
  | k :: ks =>
    let first := m.ass.sums.filter (fun s => s.ctx == k.ctx && s.step == k.step)
    let rest := m.ass.sums.filter (fun s => !(s.ctx == k.ctx && s.step == k.step))
    let m := { m with ass := { m.ass with sums := rest, markers := ks, arrived := m.ass.arrived ++ [k] } }
    first.foldl applySum m

/-! ### Coarse scales -/

/-- The coarse scale a tensor descriptor takes from slot `n`, if the slot manages it (R331 step 3): `co1` with scaling 1, `co2` with
scaling 2. -/
def coarseFor (n co1 co2 : Nat) (t : TensorD) : Option Nat :=
  if t.watch = n + 1 && t.scaling != 0 then some (if t.scaling = 2 then co2 else co1) else none

/-- Writes the coarse scales of a posted manifest into its copy in the store (R176, Table 7.2). -/
def storeCoarse (m : Mach) (c n co1 co2 : Nat) (q : ManSt) : Mach :=
  match storeBase (getCtx m c) with
  | none => m
  | some s => q.img.tensors.zipIdx.foldl (fun m e => match coarseFor n co1 co2 e.1 with
      | some co => wrBytes m (s + q.place + q.img.tOff + 32 * e.2 + 4) (leBytes 4 co)
      | none => m) m

/-- Gives every managed tensor descriptor of a slot's posted manifests that watches slot `n` a coarse scale (R331 step 3). -/
def writeCoarse (m : Mach) (c n co1 co2 : Nat) : Mach :=
  let one := fun (t : TensorD) => match coarseFor n co1 co2 t with | some co => ({ t with coarse := co } : TensorD) | none => t
  let m := (mansOf (getCtx m c)).foldl (fun m e => storeCoarse m c n co1 co2 e.2) m
  let put := fun (q : ManSt) => ({ q with img := { q.img with tensors := q.img.tensors.map one } } : ManSt)
  modCtx m c (fun x => { x with mans := x.mans.map (fun e => (e.1, e.2.map put)) })

/-- ceil(log2) of a positive FP32 pattern; of infinity, which an amax rounded up may be, a number beyond every clamp (R333). -/
def ceilLog2 (h : Nat) : Int :=
  match decodeF fp32 h with
  | .fin _ k e _ => (if 2 ^ k.log2 = k then (k.log2 : Int) else (k.log2 : Int) + 1) + e
  | .inf _ => 1000
  | _ => 0

/-- An exponent held to the range of R333 and R340. -/
def clampExp (k : Int) : Int := max (-126) (min 127 k)
/-- The FP32 pattern of `2^k`, `k` in the normal range. -/
def pow2Bits (k : Int) : Nat := (k + 127).toNat <<< 23
/-- The coarse scale of R333 for a largest amax. -/
def scaleFor (h : Nat) : Nat := if h = 0 then pow2Bits 0 else pow2Bits (clampExp (ceilLog2 h - 14))
/-- The proposal exponent of R340. -/
def propOf (h : Nat) : Int := if h = 0 then 0 else clampExp (14 - ceilLog2 h)

/-- The newest valid entry of a slot, zero where there is none. -/
def newestAmax (w : Watch) : Nat := if w.valid.isEmpty then 0 else tget 0 w.hist (w.newest % 16)
/-- The largest valid entry of a slot. -/
def largestAmax (w : Watch) : Nat := w.valid.foldl (fun a i => max a (tget 0 w.hist i)) 0
/-- The H of R333 for a scaling. -/
def chosenAmax (w : Watch) (scaling : Nat) : Nat := if w.st = 4 && scaling != 2 then largestAmax w else newestAmax w

/-- The scaling a slot's own register and proposal follow: 2 where only descriptors with scaling 2 watch it, else 1. -/
def slotScaling (x : Ctx) (n : Nat) : Nat :=
  let ts := x.mans.flatMap (fun e => match e.2 with
    | some q => q.img.tensors.filter (fun t => t.watch == n + 1 && t.scaling != 0)
    | none => [])
  if !ts.isEmpty && ts.all (·.scaling == 2) then 2 else 1

/-! ### The watches -/

/-- Counts one qualifying or other step (R337): holds at 65,535. -/
def countRun (run : Nat) (hit : Bool) : Nat := if hit then min (run + 1) 65535 else 0
/-- K of a slot. -/
def watchK (w : Watch) : Nat := if w.k = 0 then 32 else w.k

/-- One event of a watch slot, with its statistics (R339). -/
def watchEvent (m : Mach) (n code c : Nat) (detail : List Byte) : Mach := reportCtx m code (unitCtx c (handleOf m c)) c n detail

/-- The silent-zero watch at a close (R337). -/
def silentWatch (m : Mach) (c n step : Nat) (s : Stats) : Mach :=
  let w := getWatch m n
  if s.elements = 0 then m else
    let r := countRun w.silentRun ((s.elements - s.zeros) * 65536 ≤ w.threshold * s.elements)
    let m := modWatch m n (fun w => { w with silentRun := r })
    if r = watchK w && w.silentRun != r then
      watchEvent (modWatch m n (fun w => { w with flags := setBit w.flags 0, silent := satAdd w.silent 1 })) n 0x2007 c
        (leBytes 8 step ++ leBytes 8 s.elements)
    else m

/-- The underflow watch at a close (R338). -/
def underWatch (m : Mach) (c n step : Nat) (s : Stats) : Mach :=
  let w := getWatch m n
  if w.limit = 0 || s.elements = 0 then m else
    let r := countRun w.underRun (w.limit * s.elements < s.underflow * 65536)
    let m := modWatch m n (fun w => { w with underRun := r })
    if r = watchK w && w.underRun != r then
      watchEvent (modWatch m n (fun w => { w with flags := setBit w.flags 1, under := satAdd w.under 1 })) n 0x2008 c
        (leBytes 8 step ++ leBytes 8 s.underflow)
    else m

/-- Sets proposal_fault of a slot. -/
def proposalFault (m : Mach) (n : Nat) : Mach := modWatch m n (fun w => { w with flags := setBit w.flags 2, occ := wrapAdd w.occ 1 })

/-- Writes a slot's proposal word (R340). -/
def writeProposal (m : Mach) (c n : Nat) : Mach :=
  let w := getWatch m n
  if w.addr = 0 then m else
    let p := propOf (chosenAmax w (slotScaling (getCtx m c) n))
    let m := modWatch m n (fun w => { w with prop := unsign p 32 })
    match fabWrite m (unitRef c) (.watch n) w.addr (leBytes 4 (unsign p 32) ++ leBytes 4 (pow2Bits p)) [] with
    | .ok m _ _ _ => m
    | .bad m _ => proposalFault m n

/-! ### Closing a step -/

/-- What a close does for one open slot (R331): history, watches, coarse scale, proposal. -/
def closeSlot (m : Mach) (c step n : Nat) : Mach :=
  let s := tget noStats (getWatch m n).open_ step
  let enter := fun (w : Watch) => if s.elements = 0 then w else
    ({ w with hist := tset 0 w.hist (step % 16) s.amax, valid := insNat (step % 16) w.valid, newest := step } : Watch)
  let grow := fun (w : Watch) => if (w.st == 2 || w.st == 3) && w.valid.length = 16 then ({ w with st := 4 } : Watch) else w
  let m := modWatch m n (fun w =>
    let w := grow (enter w)
    { w with stats := s, open_ := w.open_.filter (fun e => step < e.1) })
  let m := underWatch (silentWatch m c n step s) c n step s
  let w := getWatch m n
  let m := if w.st = 1 then m else
    let m := writeCoarse m c n (scaleFor (chosenAmax w 1)) (scaleFor (chosenAmax w 2))
    modWatch m n (fun w => { w with coarse := scaleFor (chosenAmax w (slotScaling (getCtx m c) n)) })
  writeProposal m c n

/-- Closes step `step` of slot `c` (R331). -/
def closeStep (m : Mach) (c step : Nat) : Mach :=
  let m := (openWatches m c).foldl (fun m n => closeSlot m c step n) m
  let m := { m with ass := { m.ass with arrived := m.ass.arrived.filter (fun k => k.ctx != c || step < k.step) } }
  modCtx m c (fun x => { x with closed := some step, closes := satAdd x.closes 1 })

/-- Whether a step is later than the last one closed. -/
def unclosed (x : Ctx) (s : Nat) : Bool := match x.closed with | some q => q < s | none => true

/-- The lowest step of a slot not yet closed whose markers have all arrived: none of its runs is still in progress and none of
its markers is under way. -/
def closable (m : Mach) (c : Nat) : Option Nat :=
  let x := getCtx m c
  let steps := ((m.ass.arrived.filter (fun k => k.ctx == c)).map (·.step)).filter (unclosed x)
  match steps with
  | [] => none
  | s :: ss =>
    let s := ss.foldl min s
    if (inFlight x).any (fun r => r.step ≤ s && !r.ended) || m.ass.markers.any (fun k => k.ctx == c && k.step ≤ s) then none
    else some s

/-- Whether a run with a step number above `s` has been assigned: started, or launched and waiting for the gate. -/
def higherAssigned (x : Ctx) (s : Nat) : Bool :=
  s < x.lastStep.toNat || x.mans.any (fun e => match e.2 with
    | some q => q.nextRun < q.launched && !q.halted && s < nextStep x q
    | none => false)

/-- The step of slot `c` whose close is due: its runs are over, its markers are in, and a later step has been assigned, or the context parks or is
torn down (R331). -/
def closing (m : Mach) (c : Nat) : Option Nat :=
  (closable m c).filter (fun s => higherAssigned (getCtx m c) s || (getCtx m c).el.park.isSome || (getCtx m c).st == .teardown)

/-- STEP_CLOSE: the assayer closes the step of slot `c` that is due, unless that close has stopped (R331, Table 12.3). -/
def stepClose (c : Nat) (m : Mach) : Mach :=
  match closing m c with
  | some s => if m.ass.stopped.any (fun q => q.1 == c) then m else closeStep m c s
  | none => m

/-- CLOSE_TIMEOUT: a close of slot `c` does not finish within 10 ms, its proposal words unacknowledged or its slots not done: it stops, and the runs
of the context stay unstarted (Table 12.3). -/
def closeTimeout (c : Nat) (m : Mach) : Mach :=
  if m.ass.stopped.any (fun q => q.1 == c) then m else
  match (closable m c).or (if proposalsOut m c then (getCtx m c).closed else none) with
  | some s => { m with ass := { m.ass with stopped := m.ass.stopped ++ [(c, s)] } }
  | none => m

/-- Closes every step of a slot that its runs have left, as a save or a park does first (R331, R336). -/
def closeAll (m : Mach) (c : Nat) : Nat → Mach
  | 0 => m
  | k + 1 => match closable m c with
    | some s => closeAll (closeStep m c s) c k
    | none => m

/-- Takes in every summary and marker of a slot that is under way, then closes the steps its runs have left. -/
def settle (m : Mach) (c : Nat) : Mach :=
  let mine := m.ass.sums.filter (fun s => s.ctx == c)
  let a := m.ass
  let m := { m with ass := { a with sums := a.sums.filter (fun s => s.ctx != c), markers := a.markers.filter (fun k => k.ctx != c),
                                    arrived := a.arrived ++ a.markers.filter (fun k => k.ctx == c) } }
  let m := mine.foldl applySum m
  closeAll m c (m.ass.arrived.length + 1)

/-! ### The first run after an opening, an unpark or a remount (R335) -/

/-- The state a PENDING slot takes at a run with step number `step`. -/
def wakeState (w : Watch) (step : Nat) : Nat :=
  match w.loaded with
  | some s => if s = 0 then (if step = 0 then 2 else 3) else s
  | none => if w.late || step = 0 then 2 else 3

/-- The scales a slot with a good entry or without one gives its tensors when it wakes, for scaling 1 and for scaling 2 (R333, R335):
the entry's coarse scale is the one its own scaling chose, the other follows from its history. (DEDUCED, log entry 100) -/
def wakeScales (w : Watch) (good two : Bool) : Nat × Nat :=
  if !good then (pow2Bits 0, pow2Bits 0) else
    let v := { w with st := w.loaded.getD 0 }
    if two then (scaleFor (chosenAmax v 1), w.coarse) else (w.coarse, scaleFor (chosenAmax v 2))

/-- The first run of a context after its slots were opened, or after an unpark or remount, gives each PENDING slot its state
and the scale that state selects (R335, Table 12.4). -/
def wakeWatches (m : Mach) (c step : Nat) : Mach :=
  (openWatches m c).foldl (fun m n =>
    let w := getWatch m n
    if w.st != 1 then m else
      let good := match w.loaded with | some s => s != 0 | none => false
      let two := slotScaling (getCtx m c) n == 2
      let q := wakeScales w good two
      let m := writeCoarse m c n q.1 q.2
      modWatch m n (fun w => { w with st := wakeState w step, loaded := none, coarse := if two then q.2 else q.1 })) m

/-! ### The numerics record (R336) -/

/-- The magic of a numerics record. -/
def numMagic : Nat := 0x4D334153

/-- The entry of one slot (Table 12.6). -/
def recordEntry (n : Nat) (w : Watch) : List Byte :=
  let valid := w.valid.foldl (fun a i => a ||| 1 <<< i) 0
  let st := if w.st = 1 then w.loaded.getD 0 else w.st
  let body := leBytes 2 n ++ leBytes 2 valid ++ leBytes 2 w.silentRun ++ leBytes 2 w.underRun ++ leBytes 8 w.newest ++
    ((List.range 16).map (fun i => leBytes 4 (tget 0 w.hist i))).flatten ++ leBytes 4 w.coarse ++ leBytes 4 w.prop ++ leBytes 1 st ++ leBytes 3 0
  body ++ leBytes 4 (crc32c body)

/-- The slots of a context a record lists: those with a state an entry can carry. -/
def recordSlots (m : Mach) (c : Nat) : List Nat :=
  (openWatches m c).filter (fun n =>
    let w := getWatch m n
    w.st != 1 || (match w.loaded with | some s => s != 0 | none => false))

/-- The last step a record names: the last one closed, or one below the next where none was. (DEDUCED, log entry 100) -/
def recordStep (x : Ctx) : Nat := match x.closed with | some s => s | none => (x.stepCtr - 1).toNat

/-- The numerics record of a slot (Tables 12.5, 12.6). -/
def recordBytes (m : Mach) (c : Nat) : List Byte :=
  let x := getCtx m c
  let ns := recordSlots m c
  let hd := leBytes 4 numMagic ++ leBytes 2 1 ++ leBytes 2 0 ++ leBytes 4 ns.length ++ leBytes 4 x.layout ++ leBytes 8 (recordStep x) ++ leBytes 4 0
  hd ++ leBytes 4 (crc32c hd) ++ (ns.map (fun n => recordEntry n (getWatch m n))).flatten

/-- Whether the header of a record passes for a context whose next step run takes step `next` (R336). -/
def recordHeaderOk (bs : List Byte) (layout next : Nat) : Bool :=
  recNat bs 0 4 == numMagic && recNat bs 4 2 == 1 && recNat bs 28 4 == crc32c (bs.take 28) && recNat bs 12 4 == layout &&
    (recNat bs 16 8 + 1) % 2 ^ 64 == next % 2 ^ 64

/-- Whether an entry is taken: its CRC, its slot, its state. -/
def entryOk (m : Mach) (c : Nat) (e : List Byte) : Bool :=
  recNat e 92 4 == crc32c (e.take 92) && has (openWatches m c) (recNat e 0 2) && 2 ≤ recNat e 88 1 && recNat e 88 1 ≤ 4

/-- Loads one entry into its slot. -/
def loadEntry (m : Mach) (e : List Byte) : Mach :=
  modWatch m (recNat e 0 2) (fun w =>
    { w with st := 1, valid := (List.range 16).filter (tbit (recNat e 2 2)), silentRun := recNat e 4 2, underRun := recNat e 6 2,
             newest := recNat e 8 8, hist := (List.range 16).foldl (fun t i => tset 0 t i (recNat e (16 + 4 * i) 4)) [],
             coarse := recNat e 80 4, prop := recNat e 84 4, loaded := some (recNat e 88 1) })

/-- Loads a record into the slots of a context whose next run takes step `next` (R336): slots without a good entry, or all of them
where the header fails, lose their history and will take REBUILD. The entries taken and rejected are counted. -/
def loadRecordAt (m : Mach) (c next : Nat) (bs : List Byte) : Mach × Nat × Nat :=
  let m := (openWatches m c).foldl (fun m n => modWatch m n (fun w => { w with st := 1, valid := [], loaded := some 0 })) m
  let n := recNat bs 8 4
  if !recordHeaderOk bs (getCtx m c).layout next then (m, 0, n)
  else (List.range n).foldl (fun q i =>
    let e := (bs.drop (32 + 96 * i)).take 96
    if entryOk q.1 c e then (loadEntry q.1 e, q.2.1 + 1, q.2.2) else (q.1, q.2.1, q.2.2 + 1)) (m, 0, 0)

/-- Loads a record into the slots of a context whose next run is a new one. -/
def loadRecord (m : Mach) (c : Nat) (bs : List Byte) : Mach × Nat × Nat := loadRecordAt m c (getCtx m c).stepCtr.toNat bs

/-- The step the next run of an unparked context takes: the lowest of a run that goes on, else that of a new run. (DEDUCED, log entry 100) -/
def resumeStep (x : Ctx) : Nat :=
  match (inFlight x).map (·.step) with
  | [] => x.stepCtr.toNat
  | s :: r => r.foldl min s

/-- Loads the record of a park image (R353, R354). Where runs go on, the slots with a good entry take its state at once, so that the close of
the step in progress leaves them as a context that was not parked has them (R77). (DEDUCED, log entry 100) -/
def resumeRecord (m : Mach) (c : Nat) (bs : List Byte) : Mach :=
  let x := getCtx m c
  let m := (loadRecordAt m c (resumeStep x) bs).1
  if (inFlight x).isEmpty then m else
    (openWatches m c).foldl (fun m n => modWatch m n (fun w =>
      match w.loaded with
      | some s => if s = 0 then w else { w with st := s, loaded := none }
      | none => w)) m

/-- Drops what the assayer holds of steps of a slot not yet closed: those steps are run again (R362). (DEDUCED, log entry 100) -/
def dropStats (m : Mach) (c : Nat) : Mach :=
  let a := m.ass
  let m := { m with ass := { a with sums := a.sums.filter (fun s => s.ctx != c), markers := a.markers.filter (fun k => k.ctx != c),
                                    arrived := a.arrived.filter (fun k => k.ctx != c), stopped := a.stopped.filter (fun q => q.1 != c) } }
  (openWatches m c).foldl (fun m n => modWatch m n (fun w => { w with open_ := [] })) m

/-- Opens watch slot `n` with the 32-byte configuration of Table 12.1 (R327, R342). -/
def openWatch (m : Mach) (n : Nat) (cfg : List Byte) : Mach :=
  let h := recNat cfg 2 2
  modWatch (heldZero m (watchKey n 2) (getWatch m n).occ.toNat) n (fun w =>
    { watchReset with st := 1, ctx := h, threshold := recNat cfg 4 2, k := recNat cfg 6 2, limit := recNat cfg 8 2,
                      addr := recNat cfg 16 8, late := (getCtx m (h / 4096)).ownRun, occ := w.occ })

/-- Closes a watch slot and discards what it holds (R327). -/
def closeWatch (m : Mach) (n : Nat) : Mach := modWatch m n (fun w => { watchReset with occ := w.occ })

end Sys2Proof.Machine
end

