-- ==== Sys2Proof/Machine/Serving.lean ====
section
/-! DEFINITION. The sequence unit (R216 to R231): intake, admission, pages, packing, results, and cargo pointer switches
(R369). -/

namespace Sys2Proof.Machine

/-- Changes the serving state of a slot. -/
def modServ (m : Mach) (c : Nat) (f : ServSt → ServSt) : Mach := modCtx m c (fun x => { x with sv := f x.sv })
/-- Entry `i` of a slot's active-sequence range. -/
def getEnt (m : Mach) (c i : Nat) : SeqEnt := tget noSeqEnt (getCtx m c).sv.entries i
/-- Changes entry `i`. -/
def modEnt (m : Mach) (c i : Nat) (f : SeqEnt → SeqEnt) : Mach := modServ m c (fun s => { s with entries := tmod noSeqEnt s.entries i f })

/-! ### Pages -/

/-- An entry's page list (R223): the virtual fabric addresses of its pages, 8 bytes each, in position order. -/
def pageList (m : Mach) (c : Nat) (e : SeqEnt) : List Byte := (e.pages.map (fun g => leBytes 8 (pageVirt m c g))).flatten

/-- Writes bytes to a slot's memory for the sequence unit; a write its waymap entries refuse is not made. -/
def seqWrite (m : Mach) (c a : Nat) (bs : List Byte) : Mach :=
  match fabWrite m (unitRef c) (.sequence c) a bs [] with
  | .ok m _ _ _ => m
  | .bad m _ => m

/-- Writes an entry's page list where its entry says it lies (R216, R223). (DESIGN CHOICE, log entry 73) -/
def listPages (m : Mach) (c i : Nat) : Mach :=
  let e := getEnt m c i
  if e.pages.isEmpty then m else seqWrite m c e.listAddr (pageList m c e)

/-- Releases pages into ZEROING (R225). -/
def releasePages (m : Mach) (c : Nat) (pgs : List (Nat × Nat)) : Mach :=
  let x := getCtx m c
  startZeroing (modServ m c (fun s => { s with zeroing := s.zeroing ++ pgs })) (pgs.map (fun g => (pageAddr x g, x.par.pageBytes)))

/-- Returns a zeroed page to its pool. -/
def freePage (s : ServSt) (pg : Nat × Nat) : ServSt :=
  if pg.1 = 0 then { s with freeNear := insNat pg.2 s.freeNear } else { s with freeFar := insNat pg.2 s.freeFar }

/-- Zeroes pages at once and returns them to their pools: a preemption waits for its pages (R225, R227). -/
def zeroPages (m : Mach) (c : Nat) (pgs : List (Nat × Nat)) : Mach :=
  let x := getCtx m c
  pgs.foldl (fun m g => modServ (zeroRange m (pageAddr x g) x.par.pageBytes) c (fun s => freePage s g)) m

/-- Takes one free page: near, else far (R223, R226). -/
def takePage (s : ServSt) : Option ((Nat × Nat) × ServSt) :=
  match s.freeNear, s.freeFar with
  | n :: ns, _ => some ((0, n), { s with freeNear := ns })
  | [], n :: ns => some ((1, n), { s with freeFar := ns })
  | [], [] => none

/-- Pages for `p` positions (R224). -/
def pagesFor (f : ServConf) (p : Nat) : Nat := ceilDiv p f.perPage

/-- Gives entry `i` pages until it has `n`, as far as free pages go. -/
def givePages (m : Mach) (c i n : Nat) : Nat → Mach
  | 0 => m
  | fuel + 1 =>
    if n ≤ (getEnt m c i).pages.length then m else
    match takePage (getCtx m c).sv with
    | none => m
    | some q => givePages (modEnt (modServ m c (fun _ => q.2)) c i (fun e => { e with pages := e.pages ++ [q.1] })) c i n fuel

/-- Preempts an entry (R227). -/
def preemptEnt (m : Mach) (c i : Nat) : Mach :=
  let pgs := (getEnt m c i).pages
  let k := (getCtx m c).sv.order
  let m := modEnt m c i (fun e => { e with st := .preempted, pages := [], position := 0, preempted := k })
  zeroPages (modServ m c (fun s => { s with order := k + 1, preempt := satAdd s.preempt 1 })) c pgs

/-- Takes its pages from an entry that does not resume yet: it stays PREEMPTED. -/
def dropPages (m : Mach) (c i : Nat) : Mach :=
  let pgs := (getEnt m c i).pages
  zeroPages (modEnt m c i (fun e => { e with pages := [] })) c pgs

/-- The most recently admitted entry that can lose its pages: a DECODE or PREFILL entry, or a PREEMPTED one that has pages again and no row yet. -/
def youngest (s : ServSt) : Option Nat :=
  (s.entries.foldl (fun (b : Option (Nat × Nat)) e =>
    if e.2.st = .decode || e.2.st = .prefill || (e.2.st = .preempted && !e.2.pages.isEmpty) then
      (match b with
        | none => some (e.1, e.2.admitted)
        | some q => if q.2 < e.2.admitted then some (e.1, e.2.admitted) else b)
    else b) none).map (·.1)

/-- Takes the pages of an entry for an older one, or for one that finds none: a PREEMPTED entry only gives them back (R227). (DEDUCED, log entry 74) -/
def takeBack (m : Mach) (c i : Nat) : Mach := if (getEnt m c i).st = .preempted then dropPages m c i else preemptEnt m c i

/-- Finds entry `i` its `n` pages under GROW, preempting as R227 says. An entry admitted after every one that holds pages is itself the most
recently admitted: it gives back what it has (R228). (DEDUCED, log entry 74) -/
def growPages (m : Mach) (c i n : Nat) : Nat → Mach
  | 0 => m
  | fuel + 1 =>
    let m := givePages m c i n n
    if n ≤ (getEnt m c i).pages.length then listPages m c i else
    match youngest (getCtx m c).sv with
    | none => m
    | some v =>
      if (getEnt m c v).admitted ≤ (getEnt m c i).admitted then takeBack m c i else growPages (takeBack m c v) c i n fuel

/-! ### Retire and admit -/

/-- Retire (R220): every FINISHING entry writes its final header, releases its pages and becomes FREE. -/
def retireEnts (m : Mach) (c : Nat) : Mach :=
  (getCtx m c).sv.entries.foldl (fun m e =>
    if e.2.st = .finishing then
      let m := writeOut m c e.2 (if e.2.code = 0 then 2 else 3) e.2.code
      modServ (releasePages m c e.2.pages) c (fun s => { s with entries := tdel s.entries e.1 })
    else m) m

/-- What the sequence unit makes of a POSTED slot (R218, R219): a refusal with its reason, a hold, or a request. -/
inductive Intake where
  | refuse (reason : Nat)
  | hold
  | take
  deriving DecidableEq, Repr

/-- Judges an intake slot's bytes. -/
def judgeIntake (m : Mach) (c i : Nat) (f : ServConf) (bs : List Byte) : Intake :=
  let x := getCtx m c
  let u := recNat bs
  let prompt := u 24 4
  let maxNew := u 28 4
  let cargo := u 12 4
  let resv := u 6 2 == 0 && fld (u 8 4) 20 12 == 0 && fld cargo 12 20 == 0 && fld (u 32 8) 57 7 == 0 && fld (u 40 8) 57 7 == 0 &&
    u 52 4 == 0 && recZero bs 72 56
  let range := 1 ≤ prompt && prompt ≤ 8388608 && 1 ≤ maxNew && maxNew ≤ 1048576
  let set := baseSet m c (cargo % 4096)
  let st := (getCargo m set).st
  let need := if x.par.kvGrow then pagesFor f (prompt + 1) else pagesFor f (prompt + maxNew)
  if !resv || !range || BitVec.ofNat 32 (u 0 4) != tget 0 x.sv.tallies i + 1 then .refuse 1
  else if !has x.sv.bindings set || st == 0 || st == 1 then .refuse 2
  else if x.par.kvNear + x.par.kvFar < pagesFor f (prompt + maxNew) then .refuse 3
  else if u 48 4 < maxNew then .refuse 4
  else if (List.range x.par.seqEntries).all (fun k => (tget noSeqEnt x.sv.entries k).st != .free) then .hold
  else if x.sv.freeNear.length + x.sv.freeFar.length < need then .hold
  else if st != 2 then .hold
  else .take

/-- Writes the header and entry field of an intake slot. -/
def answerIntake (m : Mach) (c i : Nat) (bs : List Byte) (st reason entry : Nat) : Mach :=
  let t := recNat bs 0 4
  let bs := spliceBytes (if st = 2 then spliceBytes bs 8 (leBytes 4 entry) else bs) 0 (leBytes 8 (st <<< 40 ||| reason <<< 32 ||| t))
  modServ m c (fun s => { s with intake := tset [] s.intake i bs, tallies := tset 0 s.tallies i (BitVec.ofNat 32 t) })

/-- Takes a request into entry `e` (R218, R220, R231). Where its page list lies the manual does not say: a free value. (DESIGN CHOICE, log entry 73) -/
def takeIntake (m : Mach) (c i : Nat) (f : ServConf) (step : Nat) (bs : List Byte) : Mach :=
  let x := getCtx m c
  let u := recNat bs
  match (List.range x.par.seqEntries).find? (fun k => (tget noSeqEnt x.sv.entries k).st == .free) with
  | none => m
  | some e =>
    let ent : SeqEnt :=
      { noSeqEnt with st := .prefill, cargo := u 12 4 % 4096, intake := i, tag := u 16 8, prompt := u 24 4, maxNew := u 28 4,
                      served := step % 2 ^ 22, stops := (List.range 4).map (fun k => u (56 + 4 * k) 4), admitted := x.sv.order,
                      tally := u 0 4, outAddr := u 40 8, listAddr := Config.freeNat m.freeCtr % 2 ^ 57 }
    let need := if x.par.kvGrow then pagesFor f (ent.prompt + 1) else pagesFor f (ent.prompt + ent.maxNew)
    let m := modServ (answerIntake (freeStep m 1) c i bs 2 0 e) c (fun s => { s with order := s.order + 1, lastTaken := i })
    let m := listPages (givePages (modEnt m c e (fun _ => ent)) c e need need) c e
    writeOut m c (getEnt m c e) 1 0

/-- Admit (R220): the slots from the one after the last taken, round the ring, until one is held. -/
def admitFrom (m : Mach) (c : Nat) (f : ServConf) (step : Nat) : List Nat → Mach
  | [] => m
  | i :: is =>
    let bs := tget [] (getCtx m c).sv.intake i
    if recNat bs 5 1 != 1 then admitFrom m c f step is else
    match judgeIntake m c i f bs with
    | .refuse r => admitFrom (answerIntake m c i bs 3 r 0) c f step is
    | .hold => modServ m c (fun s => { s with held := true })
    | .take => admitFrom (takeIntake m c i f step bs) c f step is

/-- The intake slots of a slot's ring in scanning order. -/
def scanOrder (x : Ctx) : List Nat := (List.range x.par.intakeSlots).map (fun k => (x.sv.lastTaken + 1 + k) % x.par.intakeSlots)

/-! ### Pack -/

/-- Positions an entry stores before its next token (R221). -/
def fillTarget (e : SeqEnt) : Nat := e.prompt + e.generated
/-- Rows an entry wants in a step (R221). -/
def wantRows (x : Ctx) (e : SeqEnt) : Nat := if e.st = .decode then 1 else min x.par.chunk (fillTarget e - e.position)

/-- The age of an entry at step `s` (R221). -/
def ageOf (s : Nat) (e : SeqEnt) : Nat := (s % 2 ^ 22 + 2 ^ 22 - e.served) % 2 ^ 22

/-- Keeps ages below 2^21 (R221). -/
def clampAge (s : Nat) (e : SeqEnt) : SeqEnt := if 2 ^ 21 - 1 < ageOf s e then { e with served := (s + 2 ^ 22 - (2 ^ 21 - 1)) % 2 ^ 22 } else e

/-- The entries of one cargo number in packing order (R221). -/
def packOrder (s : Nat) (es : List (Nat × SeqEnt)) : List (Nat × SeqEnt) :=
  sortKey (fun e => 2 ^ 22 - ageOf s e.2) (es.filter (fun e => e.2.st == .decode)) ++
    sortKey (fun e => e.2.preempted) (es.filter (fun e => e.2.st == .preempted)) ++
    sortKey (fun e => e.2.admitted) (es.filter (fun e => e.2.st == .prefill))

/-- Finds the pages of an entry's next rows (R227). -/
def pagesBefore (m : Mach) (c i : Nat) (f : ServConf) : Mach :=
  let x := getCtx m c
  let e := getEnt m c i
  let n := pagesFor f (e.position + wantRows x e)
  if !x.par.kvGrow then m
  else if e.st = .decode || e.st = .prefill || e.st = .preempted then growPages m c i n (x.sv.entries.length + 1)
  else m

/-- The rows an entry asks for: none where its cargo set is being swapped (R368) or its pages are not there. -/
def askRows (m : Mach) (c : Nat) (f : ServConf) (q : Nat × SeqEnt) : List RowRec :=
  let e := q.2
  let st := (getCargo m (baseSet m c e.cargo)).st
  let n := wantRows (getCtx m c) e
  if st = 3 || st = 4 || e.pages.length < pagesFor f (e.position + n) then []
  else (List.range n).map (fun k => { entry := q.1, decode := e.st == .decode, pos := e.position + k })

/-- Cuts rows into row-tiles of 32. -/
def tilesOf (cargo : Nat) (rows : List RowRec) : List TileRec :=
  (List.range (ceilDiv rows.length 32)).map (fun k => { cargo := cargo, rows := (rows.drop (32 * k)).take 32 })

/-- Packs the cargo numbers in ascending order (R221): the tiles, and the rows deferred, those that wait for a swap or for pages among them.
(DEDUCED, log entry 108) -/
def packSets (m : Mach) (c : Nat) (f : ServConf) (s : Nat) (es : List (Nat × SeqEnt)) : List Nat → List TileRec → Nat → List TileRec × Nat
  | [], tiles, late => (tiles, late)
  | k :: ks, tiles, late =>
    let x := getCtx m c
    let mine := packOrder s (es.filter (fun e => e.2.cargo == k))
    let want := (mine.map (fun e => wantRows x e.2)).foldl (· + ·) 0
    let rows := (mine.flatMap (askRows m c f)).take (32 * (x.par.maxTiles - tiles.length))
    packSets m c f s es ks (tiles ++ tilesOf k rows) (late + (want - rows.length))

/-- The bytes of a work list (R221). -/
def workBytes (tiles : List TileRec) : List Byte :=
  let n := (tiles.map (·.rows.length)).foldl (· + ·) 0
  leBytes 8 (tiles.length ||| n <<< 32) ++ leBytes 8 0 ++ (tiles.map (fun t =>
    leBytes 8 (t.rows.length ||| t.cargo <<< 16) ++ leBytes 8 0 ++
      padTo 256 ((t.rows.map (fun r => leBytes 8 (r.entry ||| b2n r.decode <<< 20 ||| r.pos <<< 32))).flatten))).flatten

/-- Pack (R220, R221): pages, rows, the work list and its counters. -/
def packStep (m : Mach) (c : Nat) (f : ServConf) (s : Nat) : Mach × List TileRec :=
  let m := modServ m c (fun v => { v with entries := v.entries.map (fun e => (e.1, clampAge s e.2)) })
  let order := packOrder s (getCtx m c).sv.entries
  let m := order.foldl (fun m e => pagesBefore m c e.1 f) m
  let es := (getCtx m c).sv.entries
  let sets := es.foldl (fun a e => insNat e.2.cargo a) []
  let r := packSets m c f s es sets [] 0
  let rows := r.1.flatMap (·.rows)
  let m := rows.foldl (fun m q => modEnt m c q.entry (fun e =>
    { e with served := s % 2 ^ 22, st := if e.st = .preempted then .prefill else e.st })) m
  let m := modServ m c (fun v => { v with steps := satAdd v.steps 1, rows := satAdd v.rows rows.length, tiles := satAdd v.tiles r.1.length,
                                          deferred := satAdd v.deferred r.2 })
  (seqWrite m c f.stepBuf (workBytes r.1), r.1)

/-- A run as it stands before it starts. -/
def newRun (run step : Nat) (tiles : List TileRec) : RunSt :=
  { run := run, started := false, built := true, step := step, seq := 0, startNs := 0, startedWbs := [], doneWbs := [], halted := false,
    code := 0, failWb := 0xFFFFFFFF, flags := 0, tiles := tiles, sets := [], ended := false }

/-- Retires, admits unless a park is in progress, and packs step `s` for the next run of the serving manifest (R220, R350). -/
def buildStep (m : Mach) (c : Nat) (f : ServConf) (next s : Nat) : Mach :=
  let parking := (getCtx m c).el.park.isSome
  let m := modServ (retireEnts m c) c (fun v => { v with held := false })
  let m := if parking then m else admitFrom m c f s (scanOrder (getCtx m c))
  let r := packStep m c f s
  modMan r.1 c f.man (fun q => { q with runs := q.runs ++ [newRun next s r.2] })

/-- SEQ_STEP_BUILD: the sequence unit retires, admits and packs for the next run of the serving manifest (R220). While a park
is in progress intake is not scanned (R350). `bad` says that an entry of the table could not be read, which tears the
context down (R379). -/
def seqStepBuild (c : Nat) (bad : Bool) (m : Mach) : Mach :=
  match (getCtx m c).sv.conf with
  | none => m
  | some f =>
    match getMan m c f.man with
    | none => m
    | some q =>
      if !canStart m c f.man || q.runs.any (fun r => r.run == q.nextRun) then m
      else if bad then stateLost m c (unitCtx c (handleOf m c))
      else buildStep m c f q.nextRun (nextStep (getCtx m c) q)

/-! ### Results -/

/-- The rows a result is written for (R229): those of DECODE entries, and the last prefill row of an entry whose prefill
completes. -/
def resultRows (m : Mach) (c : Nat) (tiles : List TileRec) : List RowRec :=
  (tiles.flatMap (·.rows)).filter (fun r => r.decode || r.pos + 1 == fillTarget (getEnt m c r.entry))

/-- Takes one result into its entry (R230, R231). -/
def takeResult (m : Mach) (c i : Nat) (word : Nat) : Mach :=
  let e := getEnt m c i
  let tok := word % 2 ^ 31
  let m := seqWrite m c (e.outAddr + 64 + 4 * e.generated) (leBytes 4 tok)
  let g := e.generated + 1
  let m := seqWrite m c (e.outAddr + 8) (leBytes 8 (e.code <<< 48 ||| e.flags <<< 32 ||| g))
  let fin := tbit word 31 || (e.stops.any (fun s => s != 0xFFFFFFFF && s == tok)) || e.maxNew ≤ g
  modEnt m c i (fun e => { e with generated := g, tokens := e.tokens ++ [tok], st := if fin then .finishing else e.st })

/-- The end of a run's entries (R230): results read, or every served entry finishing with the run's code. -/
def serveResults (m : Mach) (c : Nat) (r : RunSt) : Mach :=
  match (getCtx m c).sv.conf with
  | none => m
  | some f =>
    let rows := r.tiles.flatMap (·.rows)
    let served := rows.foldl (fun a q => insNat q.entry a) []
    let m := served.foldl (fun m i => modEnt m c i (fun e => { e with flags := e.flags ||| (r.flags &&& 0x180) })) m
    if r.halted then served.foldl (fun m i => modEnt m c i (fun e => { e with st := .finishing, code := r.code })) m
    else
      let want := resultRows m c r.tiles
      let base := f.stepBuf + 16 + 272 * r.tiles.length
      let words := (List.range want.length).map (fun k =>
        match translate m c 0x01 (base + 4 * k) 4 with
        | .ok e phys => if m.fab.module = some e.module then rdNat m phys 4 else Config.freeNat (m.freeCtr + k) % 2 ^ 32
        | .fault _ => Config.freeNat (m.freeCtr + k) % 2 ^ 32)
      let m := freeStep m want.length
      let m := served.foldl (fun m i =>
        let n := (rows.filter (fun q => q.entry == i)).length
        modEnt m c i (fun e =>
          let pos := e.position + n
          { e with position := pos, st := if e.st = .prefill && fillTarget e ≤ pos then .decode else e.st })) m
      (want.zip words).foldl (fun m q => takeResult m c q.1.entry q.2) m

/-- CARGO_SWITCH_APPLY: with no run in flight, the oldest pending pointer entry is written and its command ends (R369). (DEDUCED, log entry 119) -/
def cargoSwitchApply (c : Nat) (m : Mach) : Mach :=
  let x := getCtx m c
  match x.sv.conf, x.sv.switches with
  | some f, q :: qs =>
    if !(inFlight x).isEmpty || x.st != .active || x.el.park.isSome || (mansOf x).any (fun e => e.2.runs.any (·.built)) then m
    else
      let m := seqWrite (modServ m c (fun s => { s with switches := qs })) c (f.ptrTable + 32 * q.1) q.2.1
      endOp m q.2.2 0 0
  | _, _ => m

end Sys2Proof.Machine
end

