-- ==== Sys2Proof/Machine/Sequencer.lean ====
section
/-! DEFINITION. The block sequencer and the run control (chapter 7, R208 to R211): starts, ends, completion records,
window-sets, alias-sets, barriers, block handover, milestones, acknowledgements of the completion ring. -/

namespace Sys2Proof.Machine

/-! ### Evaluation of readiness (R194, R211) -/

/-- The contexts whose waybills may start on a block: its sharers that are ACTIVE. -/
def startersOf (m : Mach) (p : Nat) : List Nat :=
  match arrayOf m p with
  | none => []
  | some a => (List.range 16).filter (fun c => (getCtx m c).st == .active && (shareOf (getCtx m c) a).isSome)

/-- The streams of a block with a ready waybill, by 4 × slot + stream. -/
def readyKeys (m : Mach) (p : Nat) : List Nat :=
  (startersOf m p).flatMap (fun c => ([1, 2, 3].filter (fun s => !(readyWbs m p c s).isEmpty)).map (4 * c + ·))

/-- The smallest of a list, if any. -/
def least : List Nat → Option Nat
  | [] => none
  | x :: xs => some (xs.foldl min x)

/-- Raises a value to a floor, if there is one. -/
def raiseTo (v : Nat) : Option Nat → Nat
  | some f => max v f
  | none => v

/-- Re-evaluates readiness on a block: a stream that has become ready has its pass raised to the lowest among the other
ready streams of its context (R194), a sharer that has become ready its virtual time to the lowest among the others ready
(R211). Those that become ready together each count among the others of the rest, with the values they had before. -/
def reeval (m : Mach) (p : Nat) : Mach :=
  let b := getBlk m p
  let s := b.seq
  let now := readyKeys m p
  let fresh := now.filter (fun k => !has s.ready k)
  let pass := fresh.foldl (fun t k =>
    let others := (now.filter (fun j => j / 4 == k / 4 && j != k)).map (tget 0 s.pass)
    tset 0 t k (raiseTo (tget 0 t k) (least others))) s.pass
  let slots := fun (ks : List Nat) => ks.foldl (fun a k => insNat (k / 4) a) []
  let freshSlots := (slots now).filter (fun c => !has (slots s.ready) c)
  let vtime := freshSlots.foldl (fun t c =>
    let others := ((slots now).filter (fun d => d != c)).map (tget 0 s.vtime)
    tset 0 t c (raiseTo (tget 0 t c) (least others))) s.vtime
  setBlk m p { b with seq := { s with ready := now, pass := pass, vtime := vtime } }

/-- Re-evaluates every block of a slot's set. -/
def reevalCtx (m : Mach) (c : Nat) : Mach := (blocksOf m c).foldl reeval m

/-! ### Starting a waybill -/

/-- Vector registers free on a block (R134). -/
def regsFree (b : Blk) : Nat := 32 - b.seq.running.foldl (fun a w => a + w.vregs) 0

/-- The quantum of a sharer in array cycles (R210). -/
def quantum (x : Ctx) (a : Nat) : Nat := match shareOf x a with | some s => s.weight * 65536 | none => 0

/-- Whether the holder of a block must leave it at its next group boundary (R210). -/
def mustLeave (m : Mach) (p a h : Nat) : Bool :=
  (startersOf m p).any (fun d => d != h && hasReady m p d) &&
    !(hasReady m p h && (getBlk m p).seq.heldCycles < quantum (getCtx m h) a)

/-- Whether a slot may start a waybill group that has not yet started on an array (R210, R348, R350). -/
def newGroups (m : Mach) (p c a : Nat) : Bool :=
  let x := getCtx m c
  x.el.park.isNone && (match x.el.reclaim with | some r => !has r.arrays a | none => true) && !mustLeave m p a c

/-- Whether a ready waybill is startable (R192). -/
def startable (m : Mach) (p c : Nat) (e : Nat × Nat × Nat × StartMode) : Bool :=
  let b := getBlk m p
  match getMan m c e.1, arrayOf m p with
  | some q, some a =>
    let d := wbOf q.img e.2.2.1
    match getRun q e.2.1 with
    | none => false
    | some r =>
      (runningOn b d.stream).isNone && (List.range 6).all (fun i => nthN d.banks i == 0 || nthN b.sp.owner i == 0) &&
        d.vregs ≤ regsFree b && (!d.report || crRoom (getCtx m c)) &&
        (groupStarted q.img r a d.group || newGroups m p c a)
  | _, _ => false

/-- The first startable waybill of a slot in pick order (R194). -/
def pick (m : Mach) (p c : Nat) : Option (Nat × Nat × Nat × StartMode) :=
  (streamOrder (getBlk m p) c).findSome? (fun s => (readyWbs m p c s).find? (startable m p c))

/-- Assigns the next completion sequence number of a slot and writes its PENDING record (R199). -/
def assignRec (m : Mach) (c kind wb k run : Nat) (notify : Bool) : Mach × Nat :=
  let h := manHandle m c k
  let q := (getCtx m c).cr.issued + 1
  let rec_ : Rec :=
    { seq := q.toNat, kind := kind, st := .pending, code := 0, flags := 0, wb := wb, man := h, run := run, duration := 0, stamp := noStamp,
      final := false, notify := notify }
  (modCtx m c (fun x => { x with cr := { x.cr with issued := q, recs := tset noRec x.cr.recs (q.toNat % 4096) rec_ } }), q.toNat)

/-- Notes a late consumer that starts (R263, R264). -/
def noteLateStart (m : Mach) (c k run w : Nat) (mode : StartMode) (p : Nat) : Mach :=
  match getMan m c k with
  | none => m
  | some q =>
    if (unmet (getBlk m p) (getCtx m c) q.img run w).isEmpty then m
    else if mode = .skip && q.img.deadline = 2 then
      modRun (modCtx m c (fun x => { x with orSkipped := satAdd x.orSkipped 1 })) c k run (fun r => { r with flags := r.flags ||| 0x80 })
    else modCtx m c (fun x => { x with orDirect := satAdd x.orDirect 1 })

/-- Starts a waybill on a block: tokens, registers, generators seeded, completion slot (R111, R134, R192, R199). -/
def startWb (m : Mach) (p c k run w : Nat) (mode : StartMode) : Mach :=
  match getMan m c k with
  | none => m
  | some q =>
    let d := wbOf q.img w
    let step := match getRun q run with | some r => r.step | none => 0
    let m := noteLateStart m c k run w mode p
    let r := if d.report then (let z := assignRec m c 1 w k run d.notify; (z.1, some z.2)) else (m, none)
    let m := modRun r.1 c k run (fun r => { r with startedWbs := insNat w r.startedWbs })
    let items := (bodyOf q.img w).map (fun _ => if mode = .skip then ItemSt.done else ItemSt.waiting)
    let wb : RunWb :=
      { ctx := c, man := k, run := run, wb := w, stream := d.stream, seedWb := d.bodyOf.getD w, step := step, items := items,
        vregs := d.vregs, regs := [], gens := [], flags := 0, code := 0, seq := r.2, startNs := now m }
    modBlk m p (fun b =>
      let s := b.seq
      let owner := (List.range 6).map (fun i => if nthN d.banks i = 0 then nthN b.sp.owner i else nthN d.banks i)
      { b with sp := { b.sp with owner := owner },
               seq := { s with running := s.running ++ [wb], starts := satAdd s.starts 1,
                               pass := tmod 0 s.pass (4 * c + d.stream) (· + 65536 / max 1 (nthN q.img.weights (d.stream - 1))) } })

/-- The sharer that takes a block nobody holds: the one with a ready waybill and the lowest virtual time (R211). -/
def nextHolder (m : Mach) (p : Nat) (but : Option Nat) : Option Nat :=
  let b := getBlk m p
  (sortKey (fun c => tget 0 b.seq.vtime c) ((startersOf m p).filter (fun c => some c != but && hasReady m p c))).head?

/-- Whether a block runs: the regions powered, its own and itself not fenced, its sequencer not halted. -/
def blkRuns (m : Mach) (p : Nat) : Bool :=
  let b := getBlk m p
  regionsOn m && !b.cordon && !b.halted && !(getRgn m (p / 272)).cordon

/-- WAYBILL_START: the sequencer of a block starts the first startable waybill in pick order (R192, R194). -/
def waybillStart (p : Nat) (m : Mach) : Mach :=
  if !blkRuns m p then m else
  let m := reeval m p
  let m := match (getBlk m p).seq.holder with
    | some _ => m
    | none => match nextHolder m p none with
      | some c => modBlk m p (fun b => { b with seq := { b.seq with holder := some c, heldCycles := 0 } })
      | none => m
  match (getBlk m p).seq.holder with
  | none => m
  | some c =>
    if (getCtx m c).st != .active then m else
    match pick m p c with
    | none => m
    | some e => reeval (startWb m p c e.1 e.2.1 e.2.2.1 e.2.2.2) p

/-! ### Completing a waybill -/

/-- Whether a running waybill can end: its body is complete, or it has failed and no item of it is in progress. -/
def bodyOver (w : RunWb) : Bool :=
  if w.code = 0 then w.items.all (· == .done) else w.items.all (· != .issued)

/-- The reference of a running waybill itself. -/
def wbRef (w : RunWb) : ItemRef := { refOf w 0 with item := 0 }

/-- The end code a remote output meets at once, zero where none: translation, or this module's own customs, which counts it (R181, R287). -/
def outputFault (m : Mach) (w : RunWb) (d : DeclD) (amount : Nat) : Mach × Nat :=
  match translate m w.ctx 0x07 d.value 32 with
  | .fault k => (m, cPm k)
  | .ok e phys =>
    if m.fab.module = some e.module then
      let pk := mkReq m w.ctx e 0x07 0 phys 32 (padTo 32 (leBytes 4 amount)) [] false false 0
      (match customsReason m pk true with
        | some r => (ownNack m pk r, reasonCode r)
        | none => (m, 0))
    else (m, 0)

/-- Issues the outputs of a waybill (R192). -/
def issueOutputs (m : Mach) (p : Nat) (w : RunWb) (i : Image) (want : Nat → Bool) : Mach :=
  (wbOf i w.wb).outs.foldl (fun m o =>
    let d := i.decls.getD o.decl noDecl
    if !want d.cls then m
    else if d.cls = 4 then
      match fabAccess m (wbRef w) (.advance p) 0x07 0 d.value 32 (padTo 32 (leBytes 4 o.amount)) [] false false with
      | .done m _ => m
      | .sent m _ => m
      | _ => m
    else advanceMs m ((getCtx m w.ctx).msBase + d.relId) o.amount) m

/-- The code of the first remote output that fails, zero where none does. -/
def outputsFault (m : Mach) (w : RunWb) (i : Image) : Mach × Nat :=
  (wbOf i w.wb).outs.foldl (fun q o =>
    let d := i.decls.getD o.decl noDecl
    if q.2 != 0 || d.cls != 4 then q else outputFault q.1 w d o.amount) (m, 0)

/-- The accumulation groups an owner leaves OPEN or FAULTED on a block. -/
def leftOpen (b : Blk) (c : Nat) (streams : List Nat) (g : Nat) : List Nat :=
  (List.range 8).filter (fun k =>
    let x := getGroup b.arr k
    (x.st == .opened || x.st == .faulted) && x.ctx == c && has streams x.stream && x.grp == g)

/-- The banks a waybill claims. -/
def claimedBanks (d : WaybillD) : List Nat := (List.range 6).filter (fun i => nthN d.banks i != 0)

/-- Takes an engine operation of a waybill that still waits on a RING window out of its engine. -/
def dropStalled (b : Blk) (w : RunWb) : Blk :=
  let mine := fun (r : ItemRef) => r.ctx == w.ctx && r.man == w.man && r.run == w.run && r.wb == w.wb
  { b with ve := { b.ve with running := b.ve.running.filter (fun r => !(r.ringStall && mine r.ref)) },
           pm := { b.pm with stalled := b.pm.stalled.filter (fun f => !mine f.ref), held := b.pm.held.filter (fun r => !mine r) } }

/-- What the end of a waybill's body frees on its block and in its run: its tokens, its registers, its stream, and, once its group has ended,
the accumulation groups the group left open (R91, R111, R192). With them the code it ends with before its outputs are looked at: in a halted
run every group left open, of whatever waybill group, is discarded unreported (R197). While the same group of another run is under way the groups left may be that run's:
they are then neither discarded nor reported until that one ends. (DEDUCED, log entry 86) -/
def releaseWb (m : Mach) (p : Nat) (w : RunWb) (q : ManSt) : Mach × Nat :=
  let d := wbOf q.img w.wb
  let m := modBlk m p (fun b =>
    let b := freeBanks (dropStalled b w) (if w.freed then [] else claimedBanks d)
    { b with seq := { b.seq with running := b.seq.running.filter (fun e => e.stream != w.stream) } })
  let m := modRun m w.ctx w.man w.run (fun r => { r with doneWbs := insNat w.wb r.doneWbs, flags := r.flags ||| w.flags.toNat })
  let ended := match (getMan m w.ctx w.man).bind (fun q => (getRun q w.run).map (fun r => (q, r))) with
    | some z => groupEnded m w.ctx w.man z.1.img z.2 d.array d.group
    | none => false
  let streams := (groupWbs q.img d.array d.group).map (fun k => (wbOf q.img k).stream)
  let other := match getMan m w.ctx w.man with
    | some q => q.runs.any (fun r => r.run != w.run && r.started && groupStarted q.img r d.array d.group &&
        !groupEnded m w.ctx w.man q.img r d.array d.group)
    | none => false
  let left := if ended && !other then leftOpen (getBlk m p) w.ctx streams d.group else []
  let m := modBlk m p (fun b => modArr b (fun a => { a with groups := left.foldl (fun t k => tdel t k) a.groups }))
  let halted := match (getMan m w.ctx w.man).bind (fun q => getRun q w.run) with | some r => r.halted | none => false
  let m := if halted then discardLeft m w.ctx w.man p else m
  (m, if w.code != 0 then w.code else if left.isEmpty || halted then 0 else cGroupLeftOpen)

/-- The end of a waybill with its code: without one its outputs are issued; its record's body is written, and an error halts its manifest
(R192, R196, R197, R200). -/
def endWaybill (m : Mach) (p : Nat) (w : RunWb) (i : Image) (code : Nat) : Mach :=
  let m := if code = 0 then issueOutputs m p w i (fun cls => !w.advanced || cls == 4) else m
  let flags := w.flags.toNat ||| (if drainsRebuild m i w.wb then 0x100 else 0)
  let m := match w.seq with
    | some s => fillRec m w.ctx s code flags w.wb w.startNs w.step
    | none => m
  if code = 0 then m else haltMan m w.ctx w.man code w.wb

/-- Whether a waybill with remote outputs has a write of its body still to be acknowledged: its remote advances go out after them (R192). -/
def awaitsWrites (b : Blk) (w : RunWb) (i : Image) : Bool :=
  w.code == 0 && (wbOf i w.wb).outs.any (fun o => (i.decls.getD o.decl noDecl).cls == 4) &&
    b.ve.late.any (fun q => q.2.ctx == w.ctx && q.2.man == w.man && q.2.run == w.run && q.2.wb == w.wb)

/-- The body of a waybill is complete and its remote advances wait: its tokens are released (R111), and its local outputs issued where none of its
outputs is refused (R192, R197). -/
def bodyComplete (m : Mach) (p : Nat) (w : RunWb) (q : ManSt) : Mach :=
  if w.freed then m else
  let adv := (outputsFault m w q.img).2 == 0
  let m := modBlk m p (fun b =>
    modRunning (freeBanks b (claimedBanks (wbOf q.img w.wb))) w.stream (fun x => { x with freed := true, advanced := adv }))
  reeval (if adv then issueOutputs m p w q.img (· != 4) else m) p

/-- WAYBILL_COMPLETE: a waybill's body is over: its tokens are released, its outputs issued, its record's body written; or it
ends with an error code, issues none, and its manifest halts (R91, R192, R196, R197). The run's record takes the union of its waybills'
flags (DEDUCED from Table 7.11, log entry 12). -/
def waybillComplete (p stream : Nat) (m : Mach) : Mach :=
  match runningOn (getBlk m p) stream with
  | none => m
  | some w =>
    if !bodyOver w then m else
    match getMan m w.ctx w.man with
    | none => m
    | some q =>
      if awaitsWrites (getBlk m p) w q.img then bodyComplete m p w q else
      let z := releaseWb m p w q
      let out := if z.2 != 0 then z else outputsFault z.1 w q.img
      reeval (endWaybill out.1 p w q.img out.2) p

/-! ### Records -/

/-- Whether an advance of a slot is still on its way to its home. -/
def advancing (m : Mach) (c : Nat) : Bool := let x := getCtx m c; m.msQueue.any (fun q => x.msBase ≤ q.1 && q.1 < x.msBase + x.par.msCount)

/-- Whether a remote advance of a waybill still waits for its answer (R192). -/
def remoteOut (m : Mach) (c k run : Nat) (wb : Option Nat) : Bool :=
  m.fab.out.any (fun o => o.opcode == 0x07 && o.ctx == c && o.man == k && o.run == run && (match wb with | some w => o.wb == w | none => true))

/-- A remote advance is refused (R181, R288, R292): the waybill's record takes the code and its manifest halts. -/
def refuseAdvance (m : Mach) (c k run wb code : Nat) : Mach :=
  let h := manHandle m c k
  let put := fun (r : Rec) => if r.st = .pending && r.kind = 1 && r.man = h && r.run = run && r.wb = wb && r.code = 0 then { r with code := code } else r
  haltMan (modCtx m c (fun x => { x with cr := { x.cr with recs := x.cr.recs.map (fun e => (e.1, put e.2)) } })) c k code wb

/-- COMPLETION_RECORD: the record unit writes the final header of a record whose body it has written, once the slot's local
advances have reached their homes (R200); vector 2 + c is signalled where the record asks for it (R432). -/
def completionRecord (c q : Nat) (m : Mach) : Mach :=
  let r := tget noRec (getCtx m c).cr.recs (q % 4096)
  if r.seq != q || r.st != .pending || !r.final || advancing m c || waits r then m else
  let r' : Rec := { r with st := if r.code = 0 then .done else .error }
  let m := modCtx m c (fun x => { x with cr := { x.cr with recs := tset noRec x.cr.recs (q % 4096) r' } })
  if r.notify then signal m (2 + c) else m
where
  /-- A waybill's record waits for the answers to its remote advances (R192). -/
  waits (r : Rec) : Bool := r.kind == 1 && (List.range 16).any (fun k => manHandle m c k == r.man && remoteOut m c k r.run (some r.wb))

/-- Whether every record up to `q` is DONE or ERROR, from `a` on (R201). -/
def recsFinal (x : Ctx) (a n : Nat) : Bool :=
  (List.range n).all (fun i =>
    let r := tget noRec x.cr.recs ((a + 1 + i) % 4096)
    (r.st == .done || r.st == .error) && r.seq == (a + 1 + i) % 2 ^ 32)

/-- CHP_CR_ACK: a driver write to an acknowledgement register (R201): the value its bytes hold, and whether it was one aligned
4-byte write of the register. -/
def chpCrAck (c value : Nat) (whole : Bool) (m : Mach) : Mach :=
  let x := getCtx m c
  let q := BitVec.ofNat 32 value
  let n := (q - x.cr.ack).toNat
  if whole && n ≤ (x.cr.issued - x.cr.ack).toNat && recsFinal x x.cr.ack.toNat n then
    modCtx m c (fun x => { x with cr := { x.cr with ack := q } })
  else
    reportCtx (modCtx m c (fun x => { x with cr := { x.cr with bad := satAdd x.cr.bad 1 } })) 0x200C (unitCtx c (handleOf m c)) c 0 (leBytes 4 value)

/-! ### Runs -/

/-- The cargo sets a run keeps in flight (R365). -/
def runSets (m : Mach) (c k : Nat) (r : RunSt) : List Nat :=
  let x := getCtx m c
  if serves x k then r.tiles.foldl (fun a t => insNat (baseSet m c t.cargo) a) []
  else if x.sv.conf.isNone then x.sv.bindings else []

/-- Starts the next run of a manifest: it takes its step number, a completion slot and its PENDING record, and its cargo sets count it (R191,
R199, R365). `r0` is the run as it stands before. -/
def startRun (m : Mach) (c k : Nat) (q : ManSt) (r0 : RunSt) : Mach :=
  let s := nextStep (getCtx m c) q
  let z := assignRec m c 2 0xFFFFFFFF k q.nextRun false
  let r : RunSt := { r0 with started := true, step := s, seq := z.2, startNs := now m, sets := runSets m c k r0 }
  let m := modMan z.1 c k (fun q => { q with nextRun := q.nextRun + 1, runs := q.runs.filter (fun e => e.run != r.run) ++ [r] })
  let m := modCtx m c (fun x => { x with lastStep := BitVec.ofNat 64 s, ran := true, ownRun := true,
                                         stepCtr := if q.img.step then x.stepCtr + 1 else x.stepCtr })
  r.sets.foldl (fun m n => modCargo m n (fun g => { g with inFlight := g.inFlight + 1 })) m

/-- RUN_START: the next run of a manifest starts where its conditions hold: it takes its step number, a completion slot and
its PENDING record (R191, R199). A serving run starts once the sequence unit has built its step (R220). -/
def runStart (c k : Nat) (m : Mach) : Mach :=
  match getMan m c k with
  | none => m
  | some q =>
    let x := getCtx m c
    let built := q.runs.find? (fun r => r.run == q.nextRun && r.built)
    if !canStart m c k || (serves x k && built.isNone) then m else
    let s := nextStep x q
    reevalCtx (wakeWatches (startRun m c k q (built.getD (newRun q.nextRun s []))) c s) c

/-- Frees the slot and store space of a manifest whose retire waits, once no run of it is left (R193). -/
def finishRetire (m : Mach) (c k : Nat) : Mach :=
  match getMan m c k with
  | none => m
  | some q =>
    match q.retiring with
    | none => m
    | some tag =>
      if q.runs.any (·.started) then m
      else
        let m := modCtx m c (fun x => { x with mans := tdel x.mans k })
        let left := (mansOf (getCtx m c)).flatMap (fun e => e.2.img.decls.filter (fun d => d.cls != 4) |>.map (·.relId))
        let base := (getCtx m c).msBase
        let m := q.img.decls.foldl (fun m d =>
          if d.cls = 4 || has left d.relId then m else modMs m (base + d.relId) (fun y => { y with declared := false })) m
        endOp m tag 0 0

/-- A run ends for good: its record's body is written, its entries take their results, its cargo sets lose it (R191, R197,
R230, R365). (DEDUCED, log entry 12) -/
def finishRun (m : Mach) (c k run : Nat) : Mach :=
  match (getMan m c k).bind (fun q => getRun q run) with
  | none => m
  | some r =>
    let m := fillRec m c r.seq r.code r.flags r.failWb r.startNs r.step
    let m := if serves (getCtx m c) k then serveResults m c r else m
    let m := r.sets.foldl (fun m n => modCargo m n (fun g => { g with inFlight := g.inFlight - 1 })) m
    let m := modMan m c k (fun q => { q with runs := q.runs.filter (fun e => e.run != run), late := q.late.filter (fun e => e.1 != run) })
    finishRetire (reevalCtx m c) c k

/-- Whether a waybill of a run runs anywhere. -/
def anyRunning (m : Mach) (c k run : Nat) : Bool :=
  (blocksOf m c).any (fun p => (getBlk m p).seq.running.any (fun w => w.ctx == c && w.man == k && w.run == run))

/-- RUN_COMPLETE: every waybill of a run is complete, or the run is halted and none of its waybills runs. Every block of the
run sends its end-of-run marker (R331). A completed step run of a context with a twin waits for its commit (R357). (DEDUCED, log entry 12) -/
def runComplete (c k run : Nat) (m : Mach) : Mach :=
  match getMan m c k with
  | none => m
  | some q =>
    match getRun q run with
    | none => m
    | some r =>
      let alldone := (List.range q.img.waybills.length).all (has r.doneWbs)
      if !r.started || r.ended || anyRunning m c k run || !(alldone || r.halted) || remoteOut m c k run none then m
      else
        let m := { m with ass := { m.ass with markers := m.ass.markers ++ runMarks m c k q r } }
        let reb := (List.range q.img.waybills.length).any (fun w => drainsRebuild m q.img w)
        let fin := alldone && !r.halted
        let m := modRun m c k run (fun r =>
          { r with ended := true, flags := r.flags ||| (if reb then 0x100 else 0) })
        if fin && q.img.step && (getCtx m c).el.src.isSome then m else finishRun m c k run

/-! ### Sequencer items -/

/-- The next item of the stream's waybill on a block that `want` accepts. -/
def seqItem (m : Mach) (p stream : Nat) (want : Item → Bool) : Option (RunWb × Nat × Item) :=
  match runningOn (getBlk m p) stream with
  | none => none
  | some w => (nextItem m w want).map (fun q => (w, q))

/-- Whether an item is an alias-set. -/
def isAliasSet (it : Item) : Bool := match it with | .aliasSet _ _ => true | _ => false
/-- Whether an item is a BARRIER. -/
def isBarrier (it : Item) : Bool := match it with | .barrier _ => true | _ => false
/-- Ends a waybill at one of its sequencer items. -/
def failItem (m : Mach) (p : Nat) (w : RunWb) (i code : Nat) : Mach := markItem (endWb m p w.stream code) p w.stream i .done

/-- Whether an access through a window is still in progress on a block for a running waybill: a vector operation or a
descriptor of the context that uses it. -/
def windowBusy (m : Mach) (p c n : Nat) : Bool :=
  let b := getBlk m p
  let used := fun (r : ItemRef) => r.ctx == c && (match getMan m r.ctx r.man with
    | some q => (match (bodyOf q.img r.wb)[r.item]? with | some it => usesWindow it n | none => false)
    | none => false)
  (match b.ve.running with | some r => used r.ref | none => false) || (b.pm.flight ++ b.pm.stalled.toList).any (fun f => used f.ref)

/-- WINDOW_SET: writes every field of a window once earlier accesses through it are done (R118). `bad` says that the window's
state could not be read, which tears the context down (R379). -/
def windowSet (p stream : Nat) (bad : Bool) (m : Mach) : Mach :=
  match seqItem m p stream isWindowSet with
  | some (w, i, .windowSet n cfg ptr) =>
    if windowBusy m p w.ctx n then m
    else if bad then stateLost m w.ctx (unitBlk p 5)
    else
      let old := getWin (getBlk m p) n
      if old.enable && old.ctx != w.ctx then failItem m p w i cSpWindow
      else
        let x : Win := if tbit cfg 31 then
            { enable := true, ring := tbit cfg 30, ctx := w.ctx, size := fld cfg 9 9, base := fld cfg 0 9, head := fld ptr 0 21, tail := fld ptr 32 21 }
          else { noWin with ctx := w.ctx }
        markItem (modBlk m p (fun b => modWin b n (fun _ => x))) p stream i .done
  | _ => m

/-- Whether an alias access of a slot to a block still waits at a bank port, or has still to be made by a descriptor in flight (R120). -/
def aliasBusy (m : Mach) (p c : Nat) : Bool :=
  let s := (getBlk m p).sp
  (s.rdQueue ++ s.wrQueue).any (fun e => e.2.any (fun r => r.viaAlias && r.ctx == c)) ||
    m.blocks.any (fun e => (e.2.pm.flight ++ e.2.pm.stalled.toList).any (fun f => f.ref.ctx == c && flightAlias m p e.1 f))

/-- ALIAS_SET: once earlier alias accesses are done, selects the aliased bank for the waybill's slot (R120). `bad` as for WINDOW_SET. -/
def aliasSet (p stream : Nat) (bad : Bool) (m : Mach) : Mach :=
  match seqItem m p stream isAliasSet with
  | some (w, i, .aliasSet en bank) =>
    let s := (getBlk m p).sp
    if aliasBusy m p w.ctx then m
    else if bad then stateLost m w.ctx (unitBlk p 5)
    else if s.aliasOn && s.aliasCtx != w.ctx then failItem m p w i cSpAddress
    else markItem (modSp m p (fun s => { s with aliasOn := en, aliasBank := bank, aliasCtx := w.ctx })) p stream i .done
  | _ => m

/-- BARRIER: done once every earlier item of the engines it names is done (R188). -/
def barrierItem (p stream : Nat) (m : Mach) : Mach :=
  match seqItem m p stream isBarrier with
  | some (_, i, _) => markItem m p stream i .done
  | none => m

/-! ### Handover and reclaim -/

/-- Passes a block from its holder to the next sharer (R211). -/
def handOver (m : Mach) (p h d a : Nat) : Mach :=
  let w := match shareOf (getCtx m h) a with | some s => max s.weight 1 | none => 1
  modBlk m p (fun b => { b with seq := { b.seq with holder := some d, heldCycles := 0,
                                                    vtime := tmod 0 b.seq.vtime h (· + 256 * b.seq.heldCycles / w) } })

/-- BLOCK_HANDOVER: the holder of a shared block that must leave is at a group boundary: the next sharer takes the block
(R210, R211). -/
def blockHandover (p : Nat) (m : Mach) : Mach :=
  let m := reeval m p
  match arrayOf m p, (getBlk m p).seq.holder with
  | some a, some h =>
    if !mustLeave m p a h || !atBoundary m h a then m else
    match nextHolder m p (some h) with
    | some d => reeval (handOver m p h d a) p
    | none => m
  | _, _ => m

/-- RECLAIM_BLOCK_LEAVE: the last started group on a reclaimed array ends: the block leaves the set, its banks are zeroed, it
passes on, and the manifests with waybills on it halt (R348). The command completes with the last of them. -/
def reclaimLeave (c a : Nat) (m : Mach) : Mach :=
  let x := getCtx m c
  match x.el.reclaim with
  | none => m
  | some r =>
    if !has r.arrays a || !atBoundary m c a then m else
    let mask := match shareOf x a with | some s => s.mask | none => 0
    let m := haltOnArray m c a
    let m := match physOf m a with
      | some p => zeroBanks (releaseHolder (clearBlk m c p) c p) p mask
      | none => m
    let left := delNat a r.arrays
    let m := modCtx m c (fun x => { x with
      par := { x.par with blocks := x.par.blocks.filter (fun s => s.array != a) },
      el := { x.el with reclaim := if left.isEmpty then none else some { r with arrays := left } } })
    if left.isEmpty then endOp m r.tag 0 0 else m

/-- RECLAIM_DEADLINE: a named block has not left: the whole context is torn down (R349). -/
def reclaimDeadline (c : Nat) (m : Mach) : Mach :=
  match (getCtx m c).el.reclaim with
  | some r => askTeardown (endOp m r.tag 0x51 0) c 0x5003
  | none => m

/-! ### Milestones -/

/-- The region that is a milestone's home (R183). -/
def homeOf (n : Nat) : Nat := n / 16384

/-- Whether a milestone home applies advances: its region is not fenced or being reset (R404). -/
def homeRuns (m : Mach) (n : Nat) : Bool := !(getRgn m (homeOf n)).cordon

/-- MILESTONE_ADVANCE: the home of a milestone applies every advance that has reached it as one sum; a frozen milestone
refuses them and counts each (R182). `bad` says that the milestone's value could not be read, which tears its context down
(R379). -/
def milestoneAdvance (n : Nat) (bad : Bool) (m : Mach) : Mach :=
  if !homeRuns m n then m else
  let mine := m.msQueue.filter (fun q => q.1 == n)
  let x := getMs m n
  if bad then (if x.owner = 0 then m else stateLost m (x.owner / 4096) (unitRgn (homeOf n) 1))
  else if mine.isEmpty then m
  else
    let m := { m with msQueue := m.msQueue.filter (fun q => q.1 != n) }
    if x.frozen then { m with msRefused := satAdd m.msRefused mine.length }
    else modMs m n (fun x => { x with value := wrapAdd x.value (mine.foldl (fun a q => a + q.2) 0) })

/-- MILESTONE_MULTICAST: the value of a milestone reaches a subscribed block, and readiness is evaluated again (R183). -/
def milestoneMulticast (n p : Nat) (m : Mach) : Mach :=
  reeval (modBlk m p (fun b => { b with seq := { b.seq with view := tset 0 b.seq.view n (getMs m n).value } })) p

/-- OUTRIDER_DEADLINE: a consumer becomes late (R261): CHP_OR_LATE_c counts it once, and the manifest's policy then lets it
start or not (R262 to R264). -/
def outriderDeadline (c k run w : Nat) (m : Mach) : Mach :=
  match getMan m c k with
  | none => m
  | some q =>
    match getRun q run, physOf m (wbOf q.img w).array with
    | some r, some p =>
      let u := unmet (getBlk m p) (getCtx m c) q.img run w
      if !r.started || r.halted || !eligible q r w || u.isEmpty || !u.all (isOutrider q.img) || q.late.any (· == (run, w)) then m
      else
        let m := modMan m c k (fun q => { q with late := q.late ++ [(run, w)] })
        reeval (modCtx m c (fun x => { x with orLate := satAdd x.orLate 1 })) p
    | _, _ => m

/-! ### Idle cycles (R202) -/

/-- The waybill a job of the drain unit serves. -/
def jobRef : UnitJob → ItemRef
  | .drain j => j.ref
  | .load r _ _ => r

/-- What a running waybill is stalled on, none where an engine moves data for it or it waits on nothing: 1 a RING consume, 2 a RING produce,
3 tier or fabric responses (R202). -/
def stallOf (m : Mach) (b : Blk) (w : RunWb) : Option Nat :=
  let mine := fun (r : ItemRef) => r.ctx == w.ctx && r.man == w.man && r.run == w.run && r.wb == w.wb
  let ve := b.ve.running.filter (fun r => mine r.ref)
  let fl := b.pm.flight.filter (fun f => mine f.ref)
  let moving := (match b.arr.running with | some q => mine q.1 | none => false) || b.arr.queue.any (fun j => mine (jobRef j)) ||
    (match ve with | some r => !r.ringStall && r.tags.isEmpty | none => false) ||
    fl.any (fun f => f.readTags.isEmpty && f.writeTags.isEmpty && f.todo.isEmpty)
  if moving then none else
  if bodyOver w && b.ve.late.any (fun q => mine q.2) then some 3 else
  match ve, fl, b.pm.stalled.filter (fun f => mine f.ref) with
  | some r, _, _ =>
    if !r.ringStall then some 3 else
    (match getMan m r.ref.ctx r.ref.man with
      | some q => (match (bodyOf q.img r.ref.wb)[r.ref.item]? with
        | some (.vector v) => some (if v.outs.any (fun s => s.viaWindow && (getWin b s.window).ring && winFree (getWin b s.window) < streamBytes s.fmt (streamLen w s).toNat) then 2 else 1)
        | _ => some 1)
      | none => some 1)
  | none, _ :: _, _ => some 3
  | none, [], some f => some (if [1, 3].any (fun k => has (sidesOf f.desc) k && isRingSide b f.ref.ctx (sideBase f.desc k) && !ringReady b f.desc k) then 2 else 1)
  | none, [], none => none

/-- Whether the next run of a manifest with a waybill on an array waits for a completion slot alone (R201). -/
def awaitsSlot (m : Mach) (c a : Nat) : Bool :=
  !crRoom (getCtx m c) && (mansOf (getCtx m c)).any (fun e => manOn e.2 a && mayStart m c e.1)

/-- The cause an idle cycle of slot `c` on block `p` is charged to, none where the cycle is not idle (R202). -/
def idleCause (m : Mach) (p c : Nat) : Option Nat :=
  let b := getBlk m p
  match arrayOf m p with
  | none => none
  | some a =>
    match (runOrder b).filter (fun w => w.ctx == c) with
    | w :: ws => if (w :: ws).all (fun w => (stallOf m b w).isSome) then stallOf m b w else none
    | [] =>
      let x := getCtx m c
      let first := (mansOf x).findSome? (fun e => e.2.runs.findSome? (fun r =>
        if !r.started then none else
          ((List.range e.2.img.waybills.length).find? (fun w => (wbOf e.2.img w).array == a && !has r.doneWbs w)).map (fun w => (e.2, r, w))))
      match first with
      | none => some (if awaitsSlot m c a then 7 else 0)
      | some (q, r, w) =>
        let u := unmet b x q.img r.run w
        if !eligible q r w then some 9
        else if r.halted || (wbOf q.img w).ins.any (fun i => (getMs m (x.msBase + (q.img.decls.getD i.decl noDecl).relId)).frozen) then some 8
        else match u with
          | i :: _ =>
            some (match (q.img.decls.getD i.decl noDecl).cls with
              | 0 => 1
              | 1 => 3
              | 2 => 4
              | _ => 5)
          | [] => if (wbOf q.img w).report && !crRoom x then some 7 else some 6

/-- Counts `n` array cycles of the engines that hold work and wait for answers or room (Tables 5.8 and 6.5): what they move is counted as it
is moved. -/
def chargeEngines (m : Mach) (n : Nat) : Mach :=
  m.blocks.foldl (fun m e =>
    let m := match e.2.ve.running with
      | some r => if r.ringStall || !r.tags.isEmpty then veBusy m e.1 r.ref.ctx n else m
      | none => m
    if e.2.pm.stalled.isNone && !e.2.pm.flight.any (fun f => !f.readTags.isEmpty || !f.writeTags.isEmpty || !f.todo.isEmpty) then m else
    modBlk m e.1 (fun b => { b with pm := { b.pm with busy := satAdd b.pm.busy n } })) m

/-- Charges `n` array cycles of every held block: held cycles (R211) and idle cycles (R202, R396). -/
def chargeCycles (m : Mach) (n : Nat) : Mach :=
  let m := chargeEngines m n
  let m := { m with mgmt := { m.mgmt with roundTicks := m.mgmt.roundTicks + n } }
  m.blocks.foldl (fun m e =>
    match e.2.seq.holder with
    | none => m
    | some c =>
      let m := { m with mgmt := { m.mgmt with roundHeld := tmod 0 m.mgmt.roundHeld c (· + n) } }
      let m := modBlk m e.1 (fun b => { b with seq := { b.seq with heldCycles := b.seq.heldCycles + n } })
      match idleCause m e.1 c with
      | none => m
      | some k => acctAdd (modBlk m e.1 (fun b => { b with seq := { b.seq with idle := tmod 0 b.seq.idle (16 * c + k) (fun v => satAdd v n) } })) c (12 + k) n) m

end Sys2Proof.Machine
end

