-- ==== Sys2Proof/Machine/Knaob.lean ====
section
/-! DEFINITION. The mailboxes and the checks every Knaob command passes (R417 to R427): framing, tally, authority, the states in
which the module refuses, and the shape of an answer. -/

namespace Sys2Proof.Machine

/-! ### Mailboxes -/

/-- The number of a port's mailbox. -/
def portIx : Port → Nat
  | .host => 0
  | .board => 1
  | .debug => 2
  | .factory => 3

/-- A port's mailbox. -/
def getMbx (m : Mach) (p : Port) : Mbx := m.mgmt.mbx.getD (portIx p) mbxReset
/-- Changes a port's mailbox. -/
def modMbx (m : Mach) (p : Port) (f : Mbx → Mbx) : Mach := { m with mgmt := { m.mgmt with mbx := modNth m.mgmt.mbx (portIx p) f } }

/-- The code of a mailbox state (Table 16.2). -/
def mbxCode : MbxSt → Nat
  | .idle => 0
  | .busy => 1
  | .done => 2
  | .restarting => 3

/-- MP_MBX_STATUS of a mailbox (Table 16.2); while the management island restarts it answers retry-later (R409). -/
def statusWord (b : Mbx) : Nat := mbxCode b.st <<< 30 ||| ((if b.st = .restarting then 0x11 else b.status) % 256) <<< 16 ||| b.tally.toNat

/-- The header of a request (Table 16.4) with its payload: what the trailer is computed over. -/
def reqBytes (opcode : Nat) (r : Req) : List Byte :=
  leBytes 2 opcode ++ leBytes 2 r.tally.toNat ++ leBytes 2 r.len ++ leBytes 2 r.handle.toNat ++ padTo 8 r.resv ++ r.payload

/-- A response (Table 16.4) with its trailer. -/
def respBytes (opcode tally status word tag : Nat) (payload : List Byte) : List Byte :=
  let b := leBytes 2 opcode ++ leBytes 2 tally ++ leBytes 2 payload.length ++ leBytes 2 (status % 256) ++ leBytes 4 word ++ leBytes 4 tag ++ payload
  b ++ leBytes 4 (crc32c b)

/-- Bytes filled up with zeros to a multiple of 4 (R427). -/
def pad4 (bs : List Byte) : List Byte := padTo (alignUp bs.length 4) bs

/-- Writes a response and makes the mailbox DONE (R418). `moves` is set for an accepted request, which takes its tally and can
be returned again. -/
def respond (m : Mach) (opcode : Nat) (r : Req) (status tag : Nat) (payload : List Byte) (moves : Bool) : Mach :=
  let old := getMbx m r.port
  let b : Mbx := { old with st := .done, status := status, tally := if moves then r.tally else old.tally, accepted := old.accepted || moves,
                            inHand := none }
  let word := if r.port = .board then statusWord b else 0
  let bytes := respBytes opcode r.tally.toNat status word tag (pad4 payload)
  let b : Mbx := { b with resp := bytes, kept := if moves then bytes else old.kept, keptStatus := if moves then status else old.keptStatus }
  let m := modMbx m r.port (fun _ => b)
  if r.port = .host then signal m 0 else m

/-- Returns the response already given to the last accepted request (R421). -/
def respondAgain (m : Mach) (r : Req) : Mach :=
  let m := modMbx m r.port (fun b => { b with st := .done, status := b.keptStatus, resp := b.kept })
  if r.port = .host then signal m 0 else m

/-! ### What a command answers -/

/-- Why a request is refused: a status, and for the 0x3x family the byte offset of the field at fault (R421). -/
structure Bad where
  status : Nat
  detail : Nat
  deriving DecidableEq, Repr

/-- A check or a value. -/
abbrev K (α : Type) := Except Bad α

/-- A check on a field: refused with `status` where it fails. (DEDUCED, log entry 21) -/
def must (ok : Bool) (status detail : Nat) : K Unit := if ok then .ok () else .error { status := status, detail := detail }
/-- Requires that every field of a list, in payload order, is in range; the detail is the offset of the first that is not (R421). -/
def mustAll (l : List (Bool × Nat)) : K Unit :=
  match l.find? (fun q => !q.1) with
  | some q => .error { status := 0x35, detail := q.2 }
  | none => .ok ()

/-- What a command that passed its checks leaves: the module, its response payload, the op_tag of a long command, and whether it
stays in hand. A status other than OK is a refusal that still leaves a trace (R458). -/
structure Done where
  m : Mach
  payload : List Byte
  tag : Nat
  status : Nat
  busy : Bool

/-- An answer with a payload. -/
def okay (m : Mach) (payload : List Byte) : Done := { m := m, payload := payload, tag := 0, status := 0, busy := false }

/-- Starts a long command (R423): its op_tag and the module. (DESIGN CHOICE, log entry 5; DEDUCED, log entry 26) -/
def newOp (m : Mach) (p : Port) (opcode subject : Nat) : Mach × Nat :=
  let t := m.mgmt.nextTag
  let o : LongOp := { tag := t, port := p, opcode := opcode, subject := subject, outcome := none, waits := [] }
  ({ m with mgmt := { m.mgmt with ops := m.mgmt.ops ++ [o], nextTag := if t + 1 = 2 ^ 32 then 1 else t + 1 } }, t)

/-- The answer to an accepted long command. -/
def longOk (m : Mach) (tag : Nat) : Done := { m := m, payload := [], tag := tag, status := 0, busy := false }

/-! ### The gate -/

/-- Which handle a command takes: none; none or of an ACTIVE context; none or of any but one in TEARDOWN; of an ACTIVE context; of one ACTIVE or PARKED; of one PARKED; any that exists,
but for one in TEARDOWN; any that exists. -/
inductive HandleUse where
  | none | opt | optLive | active | orParked | parked | standing | any
  deriving DecidableEq, Repr

/-- The checks of R206 and R352 on a handle. -/
def checkHandle (m : Mach) (u : HandleUse) (h : Nat) : K Unit :=
  let st := (getCtx m (h / 4096)).st
  let live := handleLive m h && st != .teardown
  match u with
  | .none => must (h == 0) 0x35 0
  | .any => must (handleLive m h) 0x41 0
  | .standing => must live 0x41 0
  | .optLive => must (h == 0 || live) 0x41 0
  | .opt => do
    must (h == 0 || live) 0x41 0
    must (h == 0 || st == .active) 0x45 0
  | .active => do
    must live 0x41 0
    must (st == .active) 0x45 0
  | .orParked => do
    must live 0x41 0
    must (st == .active || st == .parked) 0x45 0
  | .parked => do
    must live 0x41 0
    must (st == .parked) 0x45 0

/-- Mask bit HOST (R425). -/
def aH : Nat := 1
/-- Mask bit BOARD. -/
def aB : Nat := 2
/-- Mask bit DEBUG. -/
def aD : Nat := 8

/-- The debug level in force (R455). -/
def debugLevel (m : Mach) : Nat := match m.sec.session with | some s => s.level | none => 0

/-- Whether a port hands its request to the caravaneer at all: the debug and factory TAPs only while the alarm does not hold
them in reset, the factory TAP only in MANUFACTURE (R444, R457); any port only while the module runs and is not held. (DEDUCED, log entry 24) -/
def portOpen (nv : NonVol) (m : Mach) (p : Port) : Bool :=
  if chipFenced m then false else
  match m.pwr.boot with
  | .running =>
    match p with
    | .host => m.pcie.linkUp
    | .board => true
    | .debug => !m.sec.locked
    | .factory => nv.lifecycle == 0 && !m.sec.locked
  | .boardOnly => p == .board
  | _ => false

/-- The authority check (R425, R426, R463): 0x21 where the debug level forbids, 0x20 where the mask does not hold the port. -/
def checkPort (m : Mach) (p : Port) (opcode mask : Nat) : K Unit :=
  match p with
  | .host => must (tbit mask 0) 0x20 0
  | .board => must (tbit mask 1) 0x20 0
  | .debug => do
    must (debugLevel m != 0 || opcode == 0 || opcode == 0x0601 || opcode == 0x0604 || opcode == 0x0605) 0x21 0
    must (tbit mask 3) 0x20 0
  | .factory => must (tbit mask 1 || tbit mask 3) 0x20 0

/-- Opcodes that need the data plane, answered 0x10 in P3 (R475). -/
def needsData (opcode : Nat) : Bool :=
  let f := opcode / 256
  f == 1 || f == 2 || opcode == 0x0606 || opcode == 0x0707 || (f == 8 && opcode != 0x0801 && opcode != 0x0805 && opcode != 0x0806 && opcode != 0x080F)

/-- The states in which the module refuses whole families: no image passed (R440), ERASED (R460), the security alarm (R457),
out of service (R411), P3 (R475), and before fabric-ready (R438). -/
def checkState (nv : NonVol) (m : Mach) (p : Port) (opcode mask : Nat) : K Unit := do
  let f := opcode / 256
  must (m.pwr.boot != .boardOnly || opcode == 0 || opcode == 0x0601 || opcode == 0x0504 || (0x0501 ≤ opcode && opcode ≤ 0x0503)) 0x45 0
  must (nv.lifecycle != 3 || tbit mask 3 || opcode == 0x0301 || f == 5 || f == 7) 0x63 0
  must (!m.sec.locked || ((f != 5 || opcode == 0x0504) && opcode != 0x0604)) 0x62 0
  must (!m.rst.oos || p != .host || tbit mask 3) 0x54 0
  must (m.pwr.st != 3 || !needsData opcode) 0x10 0
  must (m.pwr.fabricReady || f != 8) 0x10 0

/-- The first reserved field of a payload that is not zero (R12). -/
def firstReserved (payload : List Byte) (rs : List (Nat × Nat)) : Option Nat :=
  (rs.find? (fun q => !recZero payload q.1 q.2)).map (·.1)

/-- Whether a payload length is one the framing allows (R420). -/
def lenFramed (r : Req) : Bool := r.len == r.payload.length && r.len % 4 == 0 && r.len ≤ 4072

/-- Checks 4 to 6 of R421. (DEDUCED, log entry 22) -/
def checkReq (m : Mach) (opcode mask : Nat) (lenOk : List Byte → Bool) (resv : List Byte → List (Nat × Nat)) (r : Req) : K Unit := do
  checkPort m r.port opcode mask
  must (lenFramed r && lenOk r.payload) 0x33 0
  must (r.resv.all (· == 0)) 0x34 0
  match firstReserved r.payload (resv r.payload) with
  | some o => must false 0x34 o
  | none => .ok ()

/-- What check 8 of R421 begins with: the module's state, then the handle. -/
def checkObj (nv : NonVol) (m : Mach) (opcode mask : Nat) (u : HandleUse) (r : Req) : K Unit := do
  checkState nv m r.port opcode mask
  checkHandle m u r.handle.toNat

/-- Orders the shared checks of the object against a command's own (R421): a reserved or out-of-range field of the payload decides before them, and they
before everything else. -/
def withHandle {α : Type} (h : K Unit) (b : K α) : K α :=
  match h, b with
  | .ok _, b => b
  | .error f, .error e => .error (if e.status = 0x34 || e.status = 0x35 then e else f)
  | .error f, .ok _ => .error f

/-- A refusal: the 0x3x family carries its detail (R421). -/
def refuse (m : Mach) (opcode : Nat) (r : Req) (b : Bad) : Mach :=
  respond m opcode r b.status 0 (if b.status / 16 = 3 && b.status != 0x30 && b.status != 0x31 then leBytes 4 b.detail else []) false

/-- The tally a port expects next (R421). -/
def nextTally (b : Mbx) : W16 := if b.accepted then b.tally + 1 else 1

/-- Added to the opcode of a request that waits for a halted caravaneer (R455). -/
def heldBase : Nat := 0x10000

/-- Whether the caravaneer has a request in hand or waiting, which one that arrives now has to wait for (R419). -/
def handsFull (m : Mach) : Bool := !m.mgmt.accepted.isEmpty || m.mgmt.mbx.any (fun b => b.inHand.isSome)

/-- Whether a request of a port waits: while a debugger halts the caravaneer, but for the debug port (R455), behind another request (R419), and on the host
port behind host writes that a controller still holds (R189). -/
def mustWait (m : Mach) (p : Port) : Bool :=
  if m.sec.mpHalted then p != .debug
  else handsFull m || (p == .host && (waiting m).any (fun q => q.host && q.data.isSome))

/-- A request is accepted and waits for the caravaneer: it is copied out of the request area, the mailbox is BUSY, and the response before it is
discarded (R418). -/
def acceptReq (m : Mach) (opcode : Nat) (r : Req) : Mach :=
  let m := modMbx m r.port (fun b => { b with st := .busy, resp := [], inHand := some (heldBase + opcode, r) })
  { m with mgmt := { m.mgmt with accepted := m.mgmt.accepted ++ [r.port] } }

/-- What a port gets while the management island restarts: its status word answers retry-later, which the board port is sent (R409, R417). -/
def restartAnswer (m : Mach) (opcode : Nat) (r : Req) : Mach :=
  if r.port = .board then
    modMbx m .board (fun b => { b with resp := respBytes opcode r.tally.toNat 0x11 (statusWord b) 0 [] })
  else m

/-- A request reaches a mailbox: what it does before any command is chosen (R418, R419, R421 checks 1 and 2). None: the request goes
on to its command. (DEDUCED, log entry 22; DEDUCED, log entry 24) -/
def frontGate (nv : NonVol) (m : Mach) (opcode : Nat) (r : Req) : Option Mach :=
  let b := getMbx m r.port
  if !portOpen nv m r.port then some m
  else if b.st = .restarting then some (restartAnswer m opcode r)
  else if b.st = .busy then some (modMbx m r.port (fun b => { b with ignored := satAdd b.ignored 1 }))
  else if mustWait m r.port then some (acceptReq m opcode r)
  else if crc32c (reqBytes opcode r) != r.crc.toNat then some (respond m opcode r 0x30 0 (leBytes 4 0) false)
  else if b.accepted && r.tally = b.tally then some (respondAgain m r)
  else if r.tally != nextTally b then some (respond m opcode r 0x31 0 (leBytes 4 (nextTally b).toNat) false)
  else none

/-- Puts the answer of a command into its mailbox. -/
def finish (opcode : Nat) (r : Req) (d : Done) : Mach :=
  if d.busy then modMbx d.m r.port (fun b => { b with st := .busy, tally := r.tally, accepted := true, resp := [], inHand := some (opcode, r) })
  else respond d.m opcode r d.status d.tag d.payload (d.status == 0)

/-- A Knaob command whose effect keeps what fuses and flash hold (R421). (DESIGN CHOICE, log entry 25) -/
def knaob (opcode mask : Nat) (u : HandleUse) (lenOk : List Byte → Bool) (resv : List Byte → List (Nat × Nat))
    (body : Mach → Nat → Req → K Done) (r : Req) (nv : NonVol) (m : Mach) : Mach :=
  match frontGate nv m opcode r with
  | some m => m
  | none =>
    match (do checkReq m opcode mask lenOk resv r; withHandle (checkObj nv m opcode mask u r) (body m (r.handle.toNat / 4096) r) : K Done) with
    | .ok d => finish opcode r d
    | .error b => refuse m opcode r b

/-- A Knaob command that may change what fuses and flash hold. (DESIGN CHOICE, log entry 25) -/
def knaobNv (opcode mask : Nat) (u : HandleUse) (lenOk : List Byte → Bool) (resv : List Byte → List (Nat × Nat))
    (body : NonVol → Mach → Nat → Req → K (NonVol × Done)) (r : Req) (nv : NonVol) (m : Mach) : NonVol × Mach :=
  match frontGate nv m opcode r with
  | some m => (nv, m)
  | none =>
    match (do checkReq m opcode mask lenOk resv r; withHandle (checkObj nv m opcode mask u r) (body nv m (r.handle.toNat / 4096) r) : K (NonVol × Done)) with
    | .ok d => (d.1, finish opcode r d.2)
    | .error b => (nv, refuse m opcode r b)

/-- A payload of exactly `n` bytes. -/
def lenIs (n : Nat) : List Byte → Bool := fun p => p.length == n
/-- No reserved field. -/
def noResv : List Byte → List (Nat × Nat) := fun _ => []
/-- Reserved fields at fixed places. -/
def resvAt (rs : List (Nat × Nat)) : List Byte → List (Nat × Nat) := fun _ => rs

/-- STATUS (R417): returns the status word with no payload. The opcode the header carries is the row's own: a request with
another opcode that the table does not list is answered 0x32. -/
def statusCmd (opcode : Nat) (r : Req) (nv : NonVol) (m : Mach) : Mach :=
  if opcode = 0 then knaob 0 (aH + aB + aD) .none (lenIs 0) noResv (fun m _ _ => .ok (okay m [])) r nv m
  else match frontGate nv m opcode r with
    | some m => m
    | none => refuse m opcode r { status := 0x32, detail := 0 }

/-! ### Reading and writing what a command names in memory -/

/-- Whether an OUT entry's module is this one, for the caravaneer's own copies: before an identifier is assigned XR_MODULE_ID reads 0
and entries that name module 0 are taken as this module's (DEDUCED, log entry 11). -/
def ownModule (m : Mach) (k : Nat) : Bool := m.fab.module.getD 0 == k

/-- `n` bytes of a slot's own space, as a command reads them: the OUT entries alone admit the caravaneer's copies (DEDUCED, log entry 11). Pieces that lie on another module come from `ext`, which holds
what their answers bring, by offset. None where a piece does not translate, is refused, or comes poisoned. -/
def readRec (m : Mach) (c a n : Nat) (ext : List Byte) : Option (List Byte) :=
  (blocks4K a n).foldl (fun r q =>
    match r with
    | none => none
    | some d =>
      match translate m c 0x01 (a + q.1) q.2 with
      | .fault _ => none
      | .ok e phys =>
        if ownModule m e.module then
          if rdPoison m phys q.2 then none else some (d ++ rdBytes m phys q.2)
        else some (d ++ padTo q.2 (ext.drop q.1))) (some [])

/-- The pieces of `n` bytes at `a` that lie in one 2 MiB aligned block each. -/
def blocks2M (a n : Nat) : List (Nat × Nat) :=
  if n = 0 then [] else
    (List.range ((a + n - 1) / 0x200000 - a / 0x200000 + 1)).map (fun i =>
      let lo := max a ((a / 0x200000 + i) * 0x200000)
      (lo - a, min (a + n) ((a / 0x200000 + i + 1) * 0x200000) - lo))

/-- Where a range of a slot's own space lies in this module, if it lies there in one piece. -/
def ownRange (m : Mach) (c opcode a n : Nat) : Option Nat :=
  (blocks2M a n).foldl (fun r q =>
    match translate m c opcode (a + q.1) q.2 with
    | .fault _ => none
    | .ok e phys =>
      if !ownModule m e.module then none
      else if q.1 = 0 then some phys
      else match r with
        | some p0 => if p0 + q.1 = phys then some p0 else none
        | none => none) none

/-- The context slot a long command concerns, where it is of a context, serving or fabric family. -/
def opCtx (o : LongOp) : List Nat :=
  let f := o.opcode / 256
  if f = 1 || f = 2 || f = 8 then [o.subject] else []

/-- The end of a long command: its OP_DONE event, once the ring of its port has room (R423, R434). An unmap ends once the requests its
entry translated are answered (R277). -/
def opDone (tag : Nat) (m : Mach) : Mach :=
  match m.mgmt.ops.find? (fun o => o.tag == tag) with
  | none => m
  | some o =>
    match (if o.opcode = 0x0804 && o.outcome.isNone && !o.waits.any (fun t => m.fab.out.any (fun q => q.tag == t)) then some (0, 0) else o.outcome) with
    | none => m
    | some q =>
      let ring := if o.port = .host then m.mgmt.hostRing else m.mgmt.boardRing
      if !ringRoom ring then m else
      let e : Event :=
        { seq := 0, code := 1, contexts := (opCtx o).foldl (fun _ c => 2 ^ c) 0, subject := 0, unit := o.tag,
          detail := leBytes 2 o.opcode ++ leBytes 1 q.1 ++ leBytes 1 0 ++ leBytes 8 q.2 ++ leBytes 4 0, stamp := stampNow m (opCtx o).head? none 0 0 }
      let g := m.mgmt
      let m := { m with mgmt := { g with ops := g.ops.filter (fun o => o.tag != tag) } }
      if o.port = .host then hostEvent m clsInfo e else boardEvent m clsInfo e

end Sys2Proof.Machine
end

