-- ==== Sys2Proof/Machine/Contexts.lean ====
section
/-! DEFINITION. The context commands (chapter 8, R347 to R349): creation, extension, reclaim, close, the end of a teardown,
accounting statements, manifests, and the per-context units a command configures. -/

namespace Sys2Proof.Machine

/-! ### Fields -/

/-- Field `size` bytes at `off` of a request's payload. -/
def pf (r : Req) (off size : Nat) : Nat := recNat r.payload off size

/-- Whether a virtual fabric address has 57 bits (R427). -/
def addrOk (a : Nat) : Bool := a < 2 ^ 57

/-! ### Memory a creation is granted -/

/-- The end of the part of a region's window of a tier that may be granted: the near tier's top 1 GiB is reserved (R236). -/
def tierWindows (near : Bool) : List (Nat × Nat) :=
  (List.range 4).map (fun r =>
    if near then (r * 0x4000000000, r * 0x4000000000 + 0x37A11D6000)
    else (0x10000000000 + r * 0x8000000000, 0x10000000000 + r * 0x8000000000 + 0x7735940000))

/-- The ranges of the tiers that belong to somebody: memory granted to slots, and what the IN entries admit. -/
def usedRanges (m : Mach) : List (Nat × Nat) :=
  m.ctxs.flatMap (fun e => e.2.memory) ++
    (m.fab.waymap.filter (fun e => e.2.isIn && e.2.valid)).map (fun e => (e.2.base, segBytes e.2.size))

/-- The free gaps of a window, lowest first, from a list of used ranges in rising order. -/
def gapsIn (lo hi : Nat) : List (Nat × Nat) → List (Nat × Nat)
  | [] => if lo < hi then [(lo, hi - lo)] else []
  | (a, n) :: us =>
    if hi ≤ a then (if lo < hi then [(lo, hi - lo)] else [])
    else if a + n ≤ lo then gapsIn lo hi us
    else (if lo < a then [(lo, a - lo)] else []) ++ gapsIn (alignUp (max lo (a + n)) 2048) hi us

/-- Whether a region's window of a tier can be mapped: none of its stacks or packages is absent (R241). -/
def windowUp (m : Mach) (a : Nat) : Bool :=
  if a < 0x10000000000 then (List.range 3).all (fun i => (getCtl m (3 * (a / 0x4000000000) + i)).st != 3)
  else if a < 0x30000000000 then (List.range 4).all (fun i => (getCtl m (16 + 4 * ((a - 0x10000000000) / 0x8000000000) + i)).st != 3)
  else true

/-- The free gaps of a tier. -/
def tierGaps (m : Mach) (near : Bool) (used : List (Nat × Nat)) : List (Nat × Nat) :=
  let us := sortKey (fun q => q.1) used
  ((tierWindows near).filter (fun w => windowUp m w.1)).flatMap (fun w => gapsIn w.1 w.2 us)

/-- The lowest gap that holds `n` bytes. -/
def takeOne (gaps : List (Nat × Nat)) (n : Nat) : Option (Nat × Nat) :=
  (gaps.find? (fun g => n ≤ g.2)).map (fun g => (g.1, n))

/-- `k` pages of `size` bytes from a list of gaps, each page in one piece. -/
def takePages (size : Nat) : List (Nat × Nat) → Nat → Option (List (Nat × Nat))
  | _, 0 => some []
  | [], _ + 1 => none
  | (a, n) :: gs, k + 1 =>
    let t := min (n / size) (k + 1)
    if t = 0 then takePages size gs (k + 1)
    else (takePages size gs (k + 1 - t)).map (fun q => (a, t * size) :: q)

/-- The store and the two pools of a creation, where `used` is taken (R207). -/
def grantMem (m : Mach) (used : List (Nat × Nat)) (p : CtxPar) : Option ((Nat × Nat) × List (Nat × Nat) × List (Nat × Nat)) :=
  match takeOne (tierGaps m true used) p.storeBytes with
  | none => none
  | some s =>
    match takePages p.pageBytes (tierGaps m true (s :: used)) p.kvNear, takePages p.pageBytes (tierGaps m false used) p.kvFar with
    | some n, some f => some (s, n, f)
    | _, _ => none

/-! ### Milestone ranges and entries -/

/-- Whether a slot holds what its creation gave it. -/
def inUse (x : Ctx) : Bool := x.st == .active || x.st == .teardown || x.st == .parked

/-- The lowest number at or after `lo` where `n` numbers below `cap` are free of the given ranges in rising order (R207). -/
def lowestRun (cap n lo : Nat) : List (Nat × Nat) → Option Nat
  | [] => if lo + n ≤ cap then some lo else none
  | (a, k) :: us => if lo + n ≤ a then some lo else lowestRun cap n (max lo (a + k)) us

/-- The lowest free run of milestones. -/
def freeMs (m : Mach) (n : Nat) : Option Nat :=
  lowestRun 65536 n 0 (sortKey (fun q => q.1) ((m.ctxs.filter (fun e => inUse e.2)).map (fun e => (e.2.msBase, e.2.par.msCount))))

/-- The lowest free run of active-sequence entries. -/
def freeEntries (m : Mach) (n : Nat) : Option Nat :=
  lowestRun 1048576 n 0 (sortKey (fun q => q.1) ((m.ctxs.filter (fun e => inUse e.2)).map (fun e => (e.2.sv.seqBase, e.2.par.seqEntries))))

/-! ### Block runs -/

/-- The block runs of CTX_CREATE and CTX_EXTEND, `n` of them from `off` on: first array, count, mask, weight. -/
def readRuns (r : Req) (off n : Nat) : List (Nat × Nat × Nat × Nat) :=
  (List.range n).map (fun i => (pf r (off + 8 * i) 2, pf r (off + 8 * i + 2) 2, pf r (off + 8 * i + 4) 1, pf r (off + 8 * i + 5) 1))

/-- Range checks of block runs. -/
def checkRuns (off : Nat) (rs : List (Nat × Nat × Nat × Nat)) : K Unit :=
  rs.zipIdx.foldlM (fun _ q => do
    let o := off + 8 * q.2
    must (q.1.1 < 1024) 0x35 o
    must (1 ≤ q.1.2.1 && q.1.1 + q.1.2.1 ≤ 1024) 0x35 (o + 2)
    must (1 ≤ q.1.2.2.1 && q.1.2.2.1 < 64) 0x35 (o + 4)
    must (1 ≤ q.1.2.2.2) 0x35 (o + 5)
    must ((rs.take q.2).all (fun b => q.1.1 + q.1.2.1 ≤ b.1 || b.1 + b.2.1 ≤ q.1.1)) 0x35 o) ()

/-- The arrays of block runs. -/
def runArrays (rs : List (Nat × Nat × Nat × Nat)) : List ArrShare :=
  rs.flatMap (fun q => (List.range q.2.1).map (fun i => ({ array := q.1 + i, mask := q.2.2.1, weight := q.2.2.2 } : ArrShare)))

/-- Whether a mask on an array breaks R209 beside the other sharers. -/
def maskClash (m : Mach) (c : Nat) (s : ArrShare) : Bool :=
  (List.range 16).any (fun d => d != c && holdsBlocks (getCtx m d) &&
    (match shareOf (getCtx m d) s.array with | some t => t.mask &&& s.mask != 0 | none => false))

/-- Takes arrays into a block set: an array nobody else holds is held from now on (R208). -/
def enterBlocks (m : Mach) (c : Nat) (ss : List ArrShare) : Mach :=
  ss.foldl (fun m s =>
    match physOf m s.array with
    | none => m
    | some p =>
      let shared := (sharersOf m s.array).any (· != c)
      modBlk m p (fun b => if shared then b else { b with seq := { b.seq with holder := some c, heldCycles := 0 } })) m

/-! ### Creation -/

/-- Takes the keys of a slot out of the per-slot tables of a block: zeroed when a context is created in the slot (R101, R147, R172, R203). Its
windows and its alias are disabled (R118, R120). -/
def zeroSlot (c : Nat) (b : Blk) : Blk :=
  let a := { b.arr with tileFlags := tdel b.arr.tileFlags c, tileFirst := tdel b.arr.tileFirst c, tileFirstWb := tdel b.arr.tileFirstWb c }
  let v := { b.ve with flags := tdel b.ve.flags c, first := tdel b.ve.first c, firstWb := tdel b.ve.firstWb c,
                       idxFirst := tdel b.ve.idxFirst c, idxAdj := tdel b.ve.idxAdj c }
  let p := { b.pm with hist := tdel b.pm.hist c, flags := tdel b.pm.flags c, faultAddr := tdel b.pm.faultAddr c,
                       faultPos := tdel b.pm.faultPos c, faultWb := tdel b.pm.faultWb c, serialised := tdel b.pm.serialised c,
                       suppressed := tdel b.pm.suppressed c }
  let s := { b.seq with vtime := tdel b.seq.vtime c, pass := b.seq.pass.filter (fun e => e.1 / 4 != c),
                        idle := b.seq.idle.filter (fun e => e.1 / 16 != c) }
  let sp := { b.sp with wins := b.sp.wins.map (fun e => (e.1, if e.2.ctx = c then { e.2 with enable := false } else e.2)),
                        aliasOn := b.sp.aliasOn && b.sp.aliasCtx != c }
  { b with arr := a, ve := v, pm := p, seq := s, sp := sp }

/-- Zeroes the held counters of a slot (R429). -/
def zeroHeld (m : Mach) (c : Nat) : Mach :=
  zeroHeldBy (fun k => k < 0x100000000 && (k % 0x10000) / 32 % 0x80 == c && (k % 0x10000) / 0x1000 < 3) m

/-- The generation after `g` (R204). (DESIGN CHOICE, log entry 6) -/
def nextGen (g : Nat) : Nat := if g = 4095 then 1 else g + 1

/-- Gives a new handle its milestones, all reading zero (R177). -/
def giveMs (m : Mach) (base n h : Nat) : Mach :=
  let fresh : Milestone := { noMs with owner := h }
  { m with ms := (List.range n).foldl (fun t i => tset noMs t (base + i) fresh) m.ms }

/-- Makes a context in slot `c` (R207). -/
def makeCtx (m : Mach) (c base seqBase : Nat) (p : CtxPar) (mem : (Nat × Nat) × List (Nat × Nat) × List (Nat × Nat)) : Mach :=
  let old := getCtx m c
  let g := nextGen old.gen
  let sv : ServSt := { noServ with seqBase := seqBase, lastTaken := p.intakeSlots - 1, freeNear := List.range p.kvNear,
                                   freeFar := List.range p.kvFar }
  let x : Ctx := { ctxReset with st := .active, gen := g, par := p, msBase := base, stepCtr := BitVec.ofNat 64 p.step0, manGen := old.manGen,
                                 sv := sv, memory := mem.1 :: (mem.2.1 ++ mem.2.2), poolNear := mem.2.1, poolFar := mem.2.2 }
  let m := { m with blocks := (m.blocks.map (fun e => (e.1, zeroSlot c e.2))).filter (fun e => e.2 != blkReset) }
  let m := syncUnits (zeroHeld (setCtx m c x) c) c
  enterBlocks (giveMs m base p.msCount (c * 4096 + g)) c p.blocks

/-- The first free context slot (R207). (DEDUCED, log entry 60) -/
def freeSlot (m : Mach) : Option Nat := (List.range 16).find? (fun c => let s := (getCtx m c).st; s == .free || s == .closed)

/-- What a new context needs beside a slot: present arrays, disjoint banks, milestones, entries, memory. (DEDUCED, log entry 60) -/
def grantAll (m : Mach) (c : Nat) (p : CtxPar) : K (Nat × Nat × ((Nat × Nat) × List (Nat × Nat) × List (Nat × Nat))) := do
  must (p.blocks.all (fun s => (physOf m s.array).isSome)) 0x43 0
  must (p.blocks.all (fun s => !maskClash m c s)) 0x44 0
  match freeMs m p.msCount, freeEntries m p.seqEntries with
  | some b, some e =>
    match grantMem m (usedRanges m ++ m.zeroing) p with
    | some g => .ok (b, e, g)
    | none => .error { status := if (grantMem m (usedRanges m) p).isSome then 0x10 else 0x42, detail := 0 }
  | _, _ => .error { status := 0x42, detail := 0 }

/-- The parameters a CTX_CREATE carries (Table 8.2). -/
def readPar (r : Req) : CtxPar :=
  { blocks := runArrays (readRuns r 60 (pf r 52 2)), msCount := pf r 24 4, storeBytes := pf r 16 8, seed := pf r 0 8, step0 := pf r 8 8,
    portWeight := pf r 50 1, seqEntries := pf r 28 4, intakeSlots := pf r 48 2, kvNear := pf r 32 4, kvFar := pf r 36 4,
    pageBytes := pf r 40 4, kvGrow := pf r 51 1 == 1, chunk := pf r 44 2, maxTiles := pf r 46 2 }

/-- The range checks of Table 8.2. -/
def checkPar (r : Req) (p : CtxPar) : K Unit := do
  must (0x100000 ≤ p.storeBytes && p.storeBytes ≤ 0x100000000 && p.storeBytes % 0x100000 == 0) 0x35 16
  must (1 ≤ p.msCount && p.msCount ≤ 65536) 0x35 24
  must (p.seqEntries ≤ 1048576) 0x35 28
  must (2048 ≤ p.pageBytes && p.pageBytes ≤ 0x200000 && p.pageBytes % 2048 == 0) 0x35 40
  must (32 ≤ p.chunk && p.chunk ≤ 8192 && p.chunk % 32 == 0) 0x35 44
  must (1 ≤ p.maxTiles && p.maxTiles ≤ 4096) 0x35 46
  must (p.intakeSlots ≤ 1024) 0x35 48
  must (1 ≤ p.portWeight) 0x35 50
  must (pf r 51 1 ≤ 1) 0x35 51
  must (1 ≤ pf r 52 2 && pf r 52 2 ≤ 500) 0x35 52
  checkRuns 60 (readRuns r 60 (pf r 52 2))

/-- CTX_CREATE (R207). -/
def ctxCreate : Req → NonVol → Mach → Mach :=
  knaob 0x0101 aH .none (fun p => 60 ≤ p.length && p.length == 60 + 8 * recNat p 52 2)
    (fun p => (54, 6) :: (List.range (recNat p 52 2)).map (fun i => (60 + 8 * i + 6, 2)))
    (fun m _ r => do
      let p := readPar r
      checkPar r p
      match freeSlot m with
      | none => .error { status := 0x40, detail := 0 }
      | some c =>
        let g ← grantAll m c p
        let m := makeCtx m c g.1 g.2.1 p g.2.2
        .ok (okay m (leBytes 2 (handleOf m c) ++ leBytes 2 0 ++ leBytes 4 g.1)))

/-! ### Closing -/

/-- CTX_CLOSE (R213). A repeated close of a slot in TEARDOWN joins the one in progress (R206). -/
def ctxClose : Req → NonVol → Mach → Mach :=
  knaob 0x0102 (aH + aB) .any (lenIs 0) noResv
    (fun m c r => do
      let st := (getCtx m c).st
      must (st != .closed) 0x45 0
      let q := newOp m r.port 0x0102 c
      .ok (longOk (if st = .teardown then q.1 else startTeardown q.1 c 0) q.2))

/-- An accounting statement of slot `c` (Table 16.12): bits of `why` are 1 at teardown and 2 at park. It is signed unless the
identity key is unusable (R398). -/
def statementOf (nv : NonVol) (m : Mach) (c why : Nat) : Mach × List Byte :=
  let x := getCtx m c
  let seq := x.stmt + 1
  let signed := m.sec.keys && nv.lifecycle != 3
  let body := leBytes 4 0x4D335354 ++ leBytes 2 1 ++ leBytes 2 (b2n (!signed) + 2 * why) ++ leBytes 4 seq.toNat ++ leBytes 2 (handleOf m c) ++
    leBytes 2 (m.fab.module.getD 0xFFFF) ++ padTo 16 m.fuse.serial ++ leBytes 4 m.time.boot.toNat ++ leBytes 4 Config.coeffSet ++
    padTo 64 (nv.slots.getD m.pwr.fw fwEmpty).digest ++ stampBytes x.firstAct ++ stampBytes x.lastAct ++
    ((List.range 22).map (fun i => leBytes 8 (tget 0 x.acct i).toNat)).flatten ++
    ((List.range 22).map (fun i => leBytes 8 (tget 0 x.carried i).toNat)).flatten
  let sig := if signed then freeBytes m 512 else List.replicate 512 (0 : Byte)
  let m := if signed then freeStep m 512 else m
  (modCtx m c (fun x => { x with stmt := seq, stmtOut := body ++ sig }), body ++ sig)

/-- STATEMENT (R398). -/
def statementCmd (r : Req) (nv : NonVol) (m : Mach) : Mach :=
  knaob 0x0301 (aH + aB) .standing (lenIs 0) noResv (fun m c _ => let q := statementOf nv m c 0; .ok (okay q.1 q.2)) r nv m

/-- Releases a slot's milestones at the end of a teardown: they keep their values and are unowned. -/
def dropMs (m : Mach) (h : Nat) : Mach :=
  let one := fun (x : Milestone) => if x.owner = h then ({ x with owner := 0, declared := false, frozen := false, remote := false } : Milestone) else x
  { m with ms := (m.ms.map (fun e => (e.1, one e.2))).filter (fun e => e.2 != noMs) }

/-- TEARDOWN_END: a teardown ends: its statement is issued, its watch slots close, the slot becomes CLOSED (R213, R327,
Table 8.3 step 8), and the closes that wait for it are answered. It waits while the caravaneer is stopped (R34). -/
def teardownEnd (c : Nat) (nv : NonVol) (m : Mach) : Mach :=
  if (getCtx m c).st != .teardown || mpStopped m then m else
  let h := handleOf m c
  let m := (openWatches m c).foldl closeWatch m
  let m := (statementOf nv m c 1).1
  let m := modCtx (dropMs m h) c (fun x => { x with st := .closed })
  endOps { m with rst := { m.rst with counts := modNth m.rst.counts 0 (fun v => satAdd v 1), lastRung := 1 } } c [0x0102] 0

/-! ### Growing and shrinking -/

/-- CTX_EXTEND (R347). -/
def ctxExtend : Req → NonVol → Mach → Mach :=
  knaob 0x0103 aH .active (fun p => 4 ≤ p.length && p.length == 4 + 8 * recNat p 0 4)
    (fun p => (List.range (recNat p 0 4)).map (fun i => (4 + 8 * i + 6, 2)))
    (fun m c r => do
      let rs := readRuns r 4 (pf r 0 4)
      must (1 ≤ pf r 0 4 && pf r 0 4 ≤ 500) 0x35 0
      checkRuns 4 rs
      let ss := runArrays rs
      let x := getCtx m c
      must (ss.all (fun s => (physOf m s.array).isSome)) 0x43 0
      must (ss.all (fun s => (shareOf x s.array).isNone && !maskClash m c s)) 0x44 0
      let put := fun (x : Ctx) => ({ x with par := { x.par with blocks := x.par.blocks ++ ss } } : Ctx)
      .ok (okay (enterBlocks (modCtx m c put) c ss) []))

/-- CTX_RECLAIM (R348, R370). -/
def ctxReclaim : Req → NonVol → Mach → Mach :=
  knaob 0x0104 (aH + aB) .active (fun p => 8 ≤ p.length && p.length == 8 + 4 * recNat p 4 4) noResv
    (fun m c r => do
      let n := pf r 4 4
      let x := getCtx m c
      must (pf r 0 4 ≤ 10000) 0x35 0
      must (1 ≤ n) 0x35 4
      let rs := (List.range n).map (fun i => (pf r (8 + 4 * i) 2, pf r (10 + 4 * i) 2))
      let arrays := rs.flatMap (fun q => (List.range q.2).map (q.1 + ·))
      mustAll (rs.zipIdx.flatMap (fun e =>
        [(decide (e.1.1 < 1024) && noDup ((rs.take e.2).flatMap (fun q => (List.range q.2).map (q.1 + ·)) ++ [e.1.1]), 8 + 4 * e.2),
         (decide (1 ≤ e.1.2 ∧ e.1.1 + e.1.2 ≤ 1024) && noDup ((rs.take (e.2 + 1)).flatMap (fun q => (List.range q.2).map (q.1 + ·))), 10 + 4 * e.2)]))
      must (x.el.park.isNone && x.el.reclaim.isNone) 0x10 0
      must (arrays.all (fun a => (shareOf x a).isSome)) 0x43 0
      let q := newOp m r.port 0x0104 c
      let rec_ : Reclaim := { arrays := arrays, tag := q.2 }
      .ok (longOk (reevalCtx (modCtx q.1 c (fun x => { x with el := { x.el with reclaim := some rec_ } })) c) q.2))

/-! ### Manifests -/

/-- The slot a manifest handle names, where it is posted and current (R190). -/
def manOf (m : Mach) (c h : Nat) : Option (Nat × ManSt) :=
  let k := h / 256 % 16
  match getMan m c k with
  | some q => if h / 4096 = c && q.gen = h % 256 then some (k, q) else none
  | none => none

/-- A milestone at a posting: its init, its declaration, its remote bit (R180). -/
def declareMs (m : Mach) (base : Nat) (d : DeclD) : Mach :=
  if d.cls = 4 then m else
    modMs m (base + d.relId) (fun x => { x with value := if d.init then BitVec.ofNat 32 d.value else x.value, declared := true, remote := d.remote })

/-- The offset in a context's store an image of `n` bytes is copied to: the lowest that the images posted leave free. (DESIGN CHOICE, log
entry 87) -/
def storePlace (x : Ctx) (n : Nat) : Option Nat :=
  lowestRun x.par.storeBytes n 0 (sortKey (fun q => q.1) ((mansOf x).map (fun e => (e.2.place, e.2.img.bytes))))

/-- The resource checks of a posting (R190, R209, R328). (DEDUCED, log entry 54) -/
def checkPost (m : Mach) (c : Nat) (i : Image) : K Nat := do
  let x := getCtx m c
  must (i.waybills.all (fun w => (physOf m w.array).isSome)) 0x43 0
  must (i.waybills.all (fun w => (shareOf x w.array).isSome)) 0x42 0
  must (i.decls.all (fun d => d.cls == 4 || d.relId < x.par.msCount)) 0x42 0
  must (i.waybills.all (fun w => match shareOf x w.array with
    | some s => (List.range 6).all (fun b => nthN w.banks b == 0 || tbit s.mask b)
    | none => true)) 0x42 0
  must (i.tensors.all (fun t => t.watch == 0 || has (openWatches m c) (t.watch - 1))) 0x45 0
  must (storePlace x i.bytes).isSome 0x42 0
  must (!i.step || (mansOf x).all (fun e => !e.2.img.step)) 0x44 0
  match (List.range 16).find? (fun k => (getMan m c k).isNone) with
  | some k => .ok k
  | none => .error { status := 0x40, detail := 0 }

/-- Posts an image into manifest slot `k` (R176, R180, R183, R190): its bytes are copied into the store, then its init values and remote bits, then every block that waits
on one of its milestones is given the values in force. -/
def postImage (m : Mach) (c k : Nat) (i : Image) (bs : List Byte) : Mach :=
  let x := getCtx m c
  let at_ := (storePlace x i.bytes).getD 0
  let m := match storeBase x with | some s => wrBytes m (s + at_) bs | none => m
  let g := (tget 0 x.manGen k + 1) % 256
  let q : ManSt := { gen := g, order := x.posts, img := i, launched := 0, nextRun := 0, runs := [], halted := false, retiring := none, late := [], place := at_ }
  let m := modCtx m c (fun x => { x with mans := tset none x.mans k (some q), manGen := tset 0 x.manGen k g, posts := x.posts + 1 })
  let m := i.decls.foldl (fun m d => declareMs m x.msBase d) m
  let seen := fun (m : Mach) (w : WaybillD) => match physOf m w.array with
    | none => m
    | some p => w.ins.foldl (fun m e =>
        let n := x.msBase + (i.decls.getD e.decl noDecl).relId
        modBlk m p (fun b => { b with seq := { b.seq with view := tset 0 b.seq.view n (getMs m n).value } })) m
  reevalCtx (i.waybills.foldl seen m) c

/-- MANIFEST_POST (R190). `ext` holds what reads of other modules bring where the image lies there. (DEDUCED, log entry 54; DESIGN CHOICE, log entry 57) -/
def manifestPost (ext : List Byte) : Req → NonVol → Mach → Mach :=
  knaob 0x0109 aH .active (lenIs 16) (resvAt [(12, 4)])
    (fun m c r => do
      must (addrOk (pf r 0 8)) 0x35 0
      must (64 ≤ pf r 8 4 && pf r 8 4 ≤ 268435456) 0x35 8
      match readRec m c (pf r 0 8) (pf r 8 4) ext with
      | none => .error { status := 0x42, detail := 0 }
      | some bs =>
        match readImage bs with
        | .error off => .error { status := 0x36, detail := off }
        | .ok i =>
          let k ← checkPost m c i
          let m := postImage m c k i bs
          let h := c * 4096 + k * 256 + tget 0 (getCtx m c).manGen k
          .ok (okay m (leBytes 2 h ++ leBytes 2 0)))

/-- MANIFEST_LAUNCH (R191, R197). -/
def manifestLaunch : Req → NonVol → Mach → Mach :=
  knaob 0x010A aH .active (lenIs 8) (resvAt [(2, 2)])
    (fun m c r => do
      must (1 ≤ pf r 4 4) 0x35 4
      match manOf m c (pf r 0 2) with
      | none => .error { status := 0x41, detail := 0 }
      | some q =>
        must (!q.2.halted) 0x50 0
        must q.2.retiring.isNone 0x45 0
        .ok (okay (modMan m c q.1 (fun y => { y with launched := y.launched + pf r 4 4 })) (leBytes 4 q.2.launched)))

/-- MANIFEST_RETIRE (R193). -/
def manifestRetire : Req → NonVol → Mach → Mach :=
  knaob 0x010B aH .active (lenIs 4) (resvAt [(2, 2)])
    (fun m c r => do
      match manOf m c (pf r 0 2) with
      | none => .error { status := 0x41, detail := 0 }
      | some q =>
        must q.2.retiring.isNone 0x45 0
        let o := newOp m r.port 0x010B c
        .ok (longOk (finishRetire (modMan o.1 c q.1 (fun y => { y with retiring := some o.2 })) c q.1) o.2))

/-! ### Numerics records and watches -/

/-- Whether a slot's steps are all closed that its runs have left, and no run is in progress. -/
def settled (m : Mach) (c : Nat) : Bool := (inFlight (getCtx m c)).all (·.ended) && (closable m c).isNone

/-- Writes the numerics record of a save and answers it; none where the write is refused. -/
def writeRecord (m : Mach) (c a : Nat) : Option (Mach × Nat) :=
  let bs := recordBytes m c
  match fabWrite m (unitRef c) (.sequence c) a bs [] with
  | .ok m _ _ _ => some (m, bs.length)
  | .bad _ _ => none

/-- NUMERICS_SAVE (R336): closes the current step first; while runs of it are in progress the command stays in hand. -/
def numericsSave : Req → NonVol → Mach → Mach :=
  knaob 0x010D aH .active (lenIs 8) noResv
    (fun m c r => do
      must (addrOk (pf r 0 8)) 0x35 0
      let m := if (inFlight (getCtx m c)).all (·.ended) then settle m c else m
      if settled m c then
        match writeRecord m c (pf r 0 8) with
        | some q => .ok (okay q.1 (leBytes 4 q.2))
        | none => .error { status := 0x42, detail := 0 }
      else .ok { okay m [] with busy := true })

/-- A save in hand for slot `c` is carried out once the step it waits for has closed. -/
def resumeSave (m : Mach) (c : Nat) : Mach :=
  match (getMbx m .host).inHand with
  | some (op, r) =>
    if op != 0x010D || r.handle.toNat / 4096 != c || (getMbx m .host).st != .busy || !settled m c then m else
    match writeRecord m c (pf r 0 8) with
    | some q => respond q.1 0x010D r 0 0 (leBytes 4 q.2) true
    | none => respond m 0x010D r 0x42 0 [] true
  | _ => m

/-- STEP_CLOSE with what waits for it. -/
def stepCloseRow (c : Nat) (m : Mach) : Mach :=
  let saving : Bool := match (getMbx m .host).inHand with
    | some q => q.1 == 0x010D && q.2.handle.toNat / 4096 == c && (getMbx m .host).st == .busy
    | none => false
  if saving then
    match closable m c with
    | some s => resumeSave (closeStep m c s) c
    | none => resumeSave m c
  else stepClose c m

/-- NUMERICS_LOAD (R336). `ext` as for a posting. (DESIGN CHOICE, log entry 57) -/
def numericsLoad (ext : List Byte) : Req → NonVol → Mach → Mach :=
  knaob 0x010E aH .active (lenIs 8) noResv
    (fun m c r => do
      let a := pf r 0 8
      must (addrOk a) 0x35 0
      must ((openWatches m c).all (fun n => (getWatch m n).st == 1)) 0x45 0
      match readRec m c a 32 ext with
      | none => .error { status := 0x42, detail := 0 }
      | some hd =>
        let n := recNat hd 8 4
        match (if n ≤ 16384 then readRec m c a (32 + 96 * n) ext else some hd) with
        | none => .error { status := 0x42, detail := 0 }
        | some bs =>
          let q := if n ≤ 16384 then loadRecord m c bs else loadRecord m c []
          .ok (okay q.1 (leBytes 4 q.2.1 ++ leBytes 4 q.2.2)))

/-- WATCH_OPEN (R327). -/
def watchOpen : Req → NonVol → Mach → Mach :=
  knaob 0x010F aH .opt (lenIs 32) (resvAt [(10, 6), (24, 8)])
    (fun m _ r => do
      must (pf r 0 2 < 16384) 0x35 0
      must (r.handle == 0 || pf r 2 2 == r.handle.toNat) 0x35 2
      must (addrOk (pf r 16 8) && pf r 16 8 % 8 == 0) 0x35 16
      checkHandle m .active (pf r 2 2)
      must ((getWatch m (pf r 0 2)).st == 0) 0x44 0
      .ok (okay (openWatch m (pf r 0 2) r.payload) []))

/-- WATCH_CLOSE (R327). -/
def watchClose : Req → NonVol → Mach → Mach :=
  knaob 0x0110 aH .active (lenIs 4) (resvAt [(2, 2)])
    (fun m c r => do
      must (pf r 0 2 < 16384) 0x35 0
      must (has (openWatches m c) (pf r 0 2)) 0x41 0
      .ok (okay (closeWatch m (pf r 0 2)) []))

/-! ### Ordered windows, check-value units, serving -/

/-- ORDERED_OPEN (R255). -/
def orderedOpen : Req → NonVol → Mach → Mach :=
  knaob 0x0111 aH .active (lenIs 40) (resvAt [(17, 1), (26, 2)])
    (fun m c r => do
      let x := getCtx m c
      let n := pf r 8 8
      must (addrOk (pf r 0 8) && pf r 0 8 % 2048 == 0) 0x35 0
      must (1 ≤ n && n ≤ 0x100000000) 0x35 8
      must (pf r 16 1 < 4) 0x35 16
      must (pf r 18 2 < x.par.msCount) 0x35 18
      must (pf r 24 2 < x.par.msCount) 0x35 24
      must (addrOk (pf r 28 8)) 0x35 28
      match ownRange m c 0x02 (pf r 0 8) n, ownRange m c 0x02 (pf r 28 8) (max 1 (32 * pf r 36 4)) with
      | some t, some l =>
        must ((tierOf t).isSome && tierOf t == tierOf l) 0x42 0
        must (m.tier.wins.all (fun e => match e.2 with
          | some w => w.target + w.bytes ≤ t || t + n ≤ w.target
          | none => true)) 0x44 0
        match (List.range 64).find? (fun k => (tget none m.tier.wins k).isNone) with
        | none => .error { status := 0x40, detail := 0 }
        | some k =>
          let w : OrdWin := { ctx := c, target := t, bytes := n, fmt := pf r 16 1, closeMs := x.msBase + pf r 18 2, closeTarget := pf r 20 4,
                              doneMs := x.msBase + pf r 24 2, logAddr := l, nMax := pf r 36 4, closing := false, shares := [], log := [] }
          .ok (okay { m with tier := { m.tier with wins := tset none m.tier.wins k (some w) } } (leBytes 4 k))
      | _, _ => .error { status := 0x42, detail := 0 })

/-- CV_CONFIGURE (R380, R385). -/
def cvConfigure : Req → NonVol → Mach → Mach :=
  knaob 0x0112 aH .active (lenIs 36) (resvAt [(2, 2), (4, 2)])
    (fun m c r => do
      let g := pf r 4 8
      let w := fld g 50 6 + 1
      must (fld g 28 4 == 0) 0x34 4
      must (pf r 0 2 < 1024) 0x35 0
      if tbit g 63 then
        must (8 ≤ w) 0x35 4
        must (tbit g 56 || w % 8 == 0) 0x35 4
        must (!tbit g 60 || fld g 61 2 == 0) 0x35 4
        must (pf r 12 8 < 2 ^ w) 0x35 12
      else
        must (g == 0) 0x35 4
        must (pf r 12 8 == 0) 0x35 12
        must (pf r 20 8 == 0) 0x35 20
        must (pf r 28 8 == 0) 0x35 28
      match physOf m (pf r 0 2) with
      | none => .error { status := 0x43, detail := 0 }
      | some p =>
        must (shareOf (getCtx m c) (pf r 0 2)).isSome 0x43 0
        let old := (getBlk m p).cv.cfg.toNat
        must (!tbit old 63 || fld old 28 4 == c) 0x44 0
        let cv : CvSt := if tbit g 63 then
            { cvReset with cfg := BitVec.ofNat 64 (g ||| c <<< 28), poly := BitVec.ofNat 64 (pf r 12 8), init := BitVec.ofNat 64 (pf r 20 8),
                           expect := BitVec.ofNat 64 (pf r 28 8) }
          else { (getBlk m p).cv with cfg := 0, frameQ := [] }
        .ok (okay (modBlk m p (fun b => { b with cv := cv })) []))

/-- SERVING_CONFIG (R222, R264, R369). -/
def servingConfig : Req → NonVol → Mach → Mach :=
  knaob 0x0113 aH .active (fun p => 32 ≤ p.length && p.length == alignUp (32 + 8 * recNat p 24 4 + 2 * recNat p 28 4) 4)
    (fun p => [(2, 2)] ++ (List.range (recNat p 24 4)).map (fun i => (32 + 8 * i + 6, 2)) ++
      (if recNat p 28 4 % 2 = 1 then [(32 + 8 * recNat p 24 4 + 2 * recNat p 28 4, 2)] else []))
    (fun m c r => do
      let nb := pf r 24 4
      must (1 ≤ pf r 4 4 && pf r 4 4 ≤ 65536) 0x35 4
      must (addrOk (pf r 8 8)) 0x35 8
      must (addrOk (pf r 16 8)) 0x35 16
      match manOf m c (pf r 0 2) with
      | none => .error { status := 0x41, detail := 0 }
      | some q =>
        must q.2.img.step 0x45 0
        let binds := (List.range nb).map (fun i => (pf r (32 + 8 * i) 4, pf r (36 + 8 * i) 2))
        let privs := (List.range (pf r 28 4)).map (fun i => pf r (32 + 8 * nb + 2 * i) 2)
        mustAll (binds.zipIdx.flatMap (fun e =>
          [(decide (e.1.1 < q.2.img.waybills.length), 32 + 8 * e.2), (decide (e.1.2 < (getCtx m c).par.maxTiles), 36 + 8 * e.2)]))
        mustAll (privs.zipIdx.map (fun e =>
          (decide (e.1 < q.2.img.decls.length) && (q.2.img.decls.getD e.1 noDecl).cls == 1, 32 + 8 * nb + 2 * e.2)))
        let f : ServConf := { man := q.1, perPage := pf r 4 4, stepBuf := pf r 8 8, ptrTable := pf r 16 8, binds := binds, privates := privs }
        .ok (okay (modServ m c (fun s => { s with conf := some f })) []))

/-- The 64 bytes of an active-sequence entry (Table 8.4). -/
def entryBytes (h : Nat) (e : SeqEnt) : List Byte :=
  let st := match e.st with | .free => 0 | .prefill => 1 | .decode => 2 | .finishing => 3 | .preempted => 4
  if e.st = .free then List.replicate 64 (0 : Byte) else
  leBytes 4 (st <<< 28 ||| (e.cargo % 4096) <<< 16 ||| h) ++ leBytes 4 ((e.intake % 1024) <<< 22 ||| e.flags % 65536) ++ leBytes 8 e.tag ++
    leBytes 8 (e.prompt <<< 40 ||| e.position <<< 16) ++ leBytes 8 (e.maxNew <<< 43 ||| e.generated <<< 22 ||| e.served) ++
    leBytes 8 e.listAddr ++
    leBytes 8 ((e.pages.filter (fun g => g.1 == 0)).length <<< 40 ||| (e.pages.filter (fun g => g.1 != 0)).length <<< 16) ++
    (e.stops.map (fun s => leBytes 4 s)).flatten

/-- SEQ_READ (R216). -/
def seqRead : Req → NonVol → Mach → Mach :=
  knaob 0x0207 (aH + aD) .standing (lenIs 8) noResv
    (fun m c r => do
      let x := getCtx m c
      must (pf r 0 4 < x.par.seqEntries) 0x35 0
      must (1 ≤ pf r 4 4 && pf r 4 4 ≤ 63 && pf r 0 4 + pf r 4 4 ≤ x.par.seqEntries) 0x35 4
      .ok (okay m (((List.range (pf r 4 4)).map (fun i => padTo 64 (entryBytes (handleOf m c) (getEnt m c (pf r 0 4 + i))))).flatten)))

end Sys2Proof.Machine
end

