-- ==== Sys2Proof/Machine/Elastic.lean ====
section
/-! DEFINITION. Elastic jobs (chapter 13): re-shards, parks and unparks, twins, commits and restores. -/

namespace Sys2Proof.Machine

/-- Changes the elastic state of a slot. -/
def modEl (m : Mach) (c : Nat) (f : ElSt → ElSt) : Mach := modCtx m c (fun x => { x with el := f x.el })

/-- The convoy slots a context owns. -/
def convsOf (m : Mach) (c : Nat) : List Nat := (m.conv.slots.filter (fun e => e.2.st != 0 && e.2.rc.ctx == handleOf m c)).map (·.1)

/-- Whether no collective of a context runs. -/
def convsIdle (m : Mach) (c : Nat) : Bool := (convsOf m c).all (fun n => (getConv m n).st != 2)

/-! ### Re-sharding -/

/-- CTX_RESHARD (R344). -/
def ctxReshard : Req → NonVol → Mach → Mach :=
  knaob 0x0108 aH .active (lenIs 16) (resvAt [(4, 4)])
    (fun m c r => do
      let x := getCtx m c
      must (pf r 0 4 != x.layout) 0x35 0
      must x.el.reshard.isNone 0x10 0
      must ((inFlight x).all (fun e => e.step < pf r 8 8) && (!x.ran || x.lastStep.toNat < pf r 8 8)) 0x45 0
      let q := newOp m r.port 0x0108 c
      let e : Reshard := { epoch := pf r 0 4, sAt := pf r 8 8, tag := q.2 }
      .ok (longOk (modEl q.1 c (fun y => { y with reshard := some e })) q.2))

/-- Whether a manifest of a slot still has a launched run to start that takes a step number below `s` (R345). -/
def startsBelow (x : Ctx) (s : Nat) : Bool :=
  (mansOf x).any (fun e => e.2.nextRun < e.2.launched && !e.2.halted && e.2.retiring.isNone && nextStep x e.2 < s)

/-- RESHARD_EFFECT: a pending re-shard takes effect (R345). -/
def reshardEffect (c : Nat) (m : Mach) : Mach :=
  let x := getCtx m c
  match x.el.reshard with
  | none => m
  | some e =>
    let quiet := (inFlight x).all (fun r => e.sAt ≤ r.step || r.halted || r.ended) && !startsBelow x e.sAt && convsIdle m c &&
      m.tier.wins.all (fun w => match w.2 with | some w => w.ctx != c | none => true)
    if !quiet then m
    else endOp (modCtx m c (fun x => { x with layout := e.epoch, el := { x.el with reshard := none } })) e.tag 0 0

/-! ### Park -/

/-- CTX_PARK (R350, R370). -/
def ctxPark : Req → NonVol → Mach → Mach :=
  knaob 0x0105 aH .active (lenIs 12) noResv
    (fun m c r => do
      let x := getCtx m c
      must (pf r 0 4 ≤ 10000) 0x35 0
      must (addrOk (pf r 4 8) && pf r 4 8 % 2048 == 0) 0x35 4
      must (x.el.park.isNone && x.el.reclaim.isNone && x.el.restore.isNone) 0x10 0
      let q := newOp m r.port 0x0105 c
      let k : ParkSt := { image := pf r 4 8, tag := q.2, quiesced := false }
      .ok (longOk (reevalCtx (modEl q.1 c (fun y => { y with park := some k })) c) q.2))

/-- Whether a parking context is quiesced (R350, R370). -/
def quiesced (m : Mach) (c : Nat) : Bool :=
  let x := getCtx m c
  x.par.blocks.all (fun s => atBoundary m c s.array) && convsIdle m c && x.el.reshard.isNone &&
    (match x.el.src with | some s => s.commit.isNone | none => true) &&
    (x.el.src.isNone || (inFlight x).all (fun r => !r.ended))

/-- PARK_QUIESCED: quiescence is reached and the image write begins (R350). -/
def parkQuiesced (c : Nat) (m : Mach) : Mach :=
  match (getCtx m c).el.park with
  | none => m
  | some k => if !quiesced m c then m else modEl m c (fun y => { y with park := some { k with quiesced := true } })

/-- PARK_DEADLINE: the park fails and the context resumes (R350). -/
def parkDeadline (c : Nat) (m : Mach) : Mach :=
  match (getCtx m c).el.park with
  | none => m
  | some k => if k.quiesced then m else reevalCtx (endOp (modEl m c (fun y => { y with park := none })) k.tag 0x51 0) c

/-- The bytes and poisoned granules of the banks of a mask on block `p`, by offset in the stride. -/
def saveBanks (m : Mach) (p mask : Nat) : List (Nat × Byte) × List Nat :=
  let base := spAddr p 0
  let mine := fun (a : Nat) => base ≤ a && a < base + 0xC0000 && tbit mask ((a - base) / 0x20000)
  ((m.mem.filter (fun e => mine e.1)).map (fun e => (e.1 - base, e.2)), (m.poison.filter (fun e => mine e.1)).map (fun e => e.1 - base))

/-- The bytes of a slot's manifest store, by offset in it. -/
def saveStore (m : Mach) (c : Nat) : List (Nat × Byte) :=
  let x := getCtx m c
  match storeBase x with
  | some s => (m.mem.filter (fun e => s ≤ e.1 && e.1 < s + x.par.storeBytes)).map (fun e => (e.1 - s, e.2))
  | none => []

/-- The image of a slot (Table 13.1). (DESIGN CHOICE, log entry 56) -/
def imageOf (m : Mach) (c : Nat) : ParkImg :=
  let x := getCtx m c
  let at_ := x.par.blocks.filterMap (fun s => (physOf m s.array).map (fun p => (s, p)))
  { slot := c, ctx := x, blks := at_.map (fun q => (q.1.array, getBlk m q.2)),
    banks := at_.map (fun q => (q.1.array, saveBanks m q.2 q.1.mask)), store := saveStore m c,
    ms := (List.range x.par.msCount).map (fun i => (getMs m (x.msBase + i)).value.toNat), record := recordBytes m c,
    convs := (convsOf m c).map (fun n => let s := getConv m n; (n, s.rc, s.sched, s.next)),
    chans := m.conv.chans.filter (fun e => e.2.ctx == handleOf m c && (e.2.send.isSome || e.2.recv.isSome)) }

/-- The size of an image by the parts of Table 13.1. -/
def imageSize (i : ParkImg) : Nat :=
  let banks := (i.ctx.par.blocks.map (fun s => ((List.range 6).filter (tbit s.mask)).length)).foldl (· + ·) 0
  let runs := i.ctx.mans.foldl (fun a e => a + (match e.2 with | some q => q.runs.length * ceilDiv q.img.waybills.length 8 | none => 0)) 0
  let units := i.chans.foldl (fun a e => a + 64 + (match e.2.recv with | some h => h.unit * h.held.length | none => 0)) 0
  alignUp (64 + banks * 0x20000 + i.ctx.par.blocks.length * 512 + 4 * i.ms.length + i.ctx.par.storeBytes + 4096 + runs + i.record.length +
    16384 * i.convs.length + units + 64 * i.ctx.par.seqEntries + 65536) 2048

/-- The header of an image (Table 13.1), its CRC last. -/
def imageHeader (m : Mach) (c size : Nat) : List Byte :=
  let x := getCtx m c
  let b := leBytes 4 0x4D33504B ++ leBytes 2 1 ++ leBytes 2 (handleOf m c) ++ leBytes 8 size ++ leBytes 4 x.layout ++ leBytes 4 0 ++
    leBytes 8 x.stepCtr.toNat ++ List.replicate 28 (0 : Byte)
  b ++ leBytes 4 (crc32c b)

/-- Whether 64 bytes are the header of an image. -/
def headerGood (bs : List Byte) : Bool := recNat bs 0 4 == 0x4D33504B && recNat bs 4 2 == 1 && recNat bs 60 4 == crc32c (bs.take 60)

/-- PARK_COMPLETE: the numerics record is saved, the image written with its header last, the banks zeroed, the blocks released, a
statement issued and the slot PARKED (R336, R351, R398). An image address that does not translate fails the park. -/
def parkComplete (c : Nat) (nv : NonVol) (m : Mach) : Mach :=
  match (getCtx m c).el.park with
  | none => m
  | some k =>
    if !k.quiesced || !quiesced m c then m else
    let m := settle m c
    let img := imageOf m c
    let size := imageSize img
    let body := freeBytes m (size - 64)
    match fabWrite (freeStep m (size - 64)) (unitRef c) (.sequence c) (k.image + 64) body [] with
    | .bad m _ => reevalCtx (endOp (modEl m c (fun y => { y with park := none })) k.tag 0x50 0) c
    | .ok m _ _ _ =>
      let m := match fabWrite m (unitRef c) (.sequence c) k.image (imageHeader m c size) [] with
        | .ok m _ _ _ => m
        | .bad m _ => m
      let m := (statementOf nv m c 2).1
      let m := leaveBlocks (countSets m c false) c
      let m := modCtx m c (fun x => { x with st := .parked, el := { x.el with park := none } })
      endOp { m with parked := tset none m.parked c (some img) } k.tag 0 0

/-! ### Unpark -/

/-- Puts saved banks back on the block behind an array. -/
def loadBanks (m : Mach) (a : Nat) (q : List (Nat × Byte) × List Nat) : Mach :=
  match physOf m a with
  | none => m
  | some p =>
    let m := q.1.foldl (fun m e => { m with mem := memPut m.mem (spAddr p e.1) e.2 }) m
    q.2.foldl (fun m g => setPoison m (spAddr p g) true) m

/-- Puts the windows, alias and per-slot registers that slot `old` had on a saved block back on the block behind an array, for
slot `c`. -/
def loadBlk (m : Mach) (a old c : Nat) (s : Blk) : Mach :=
  match physOf m a with
  | none => m
  | some p =>
    modBlk m p (fun b =>
      let wins := (s.sp.wins.filter (fun e => e.2.ctx == old && e.2 != noWin)).foldl (fun t e => tset noWin t e.1 { e.2 with ctx := c }) b.sp.wins
      let sp := { b.sp with wins := wins }
      let sp := if s.sp.aliasOn && s.sp.aliasCtx = old then { sp with aliasOn := true, aliasBank := s.sp.aliasBank, aliasCtx := c } else sp
      let pass := (List.range 4).foldl (fun t k => tset 0 t (4 * c + k) (tget 0 s.seq.pass (4 * old + k))) b.seq.pass
      let b := { b with sp := sp, seq := { b.seq with pass := pass } }
      let arr := { b.arr with tileFlags := tset 0 b.arr.tileFlags c (tget 0 s.arr.tileFlags old), tileFirst := tset 0 b.arr.tileFirst c (tget 0 s.arr.tileFirst old),
                              tileFirstWb := tset 0 b.arr.tileFirstWb c (tget 0 s.arr.tileFirstWb old) }
      let ve := { b.ve with flags := tset 0 b.ve.flags c (tget 0 s.ve.flags old), first := tset 0 b.ve.first c (tget 0 s.ve.first old),
                            firstWb := tset 0 b.ve.firstWb c (tget 0 s.ve.firstWb old), idxFirst := tset 0 b.ve.idxFirst c (tget 0 s.ve.idxFirst old),
                            idxAdj := tset 0 b.ve.idxAdj c (tget 0 s.ve.idxAdj old) }
      let pm := { b.pm with flags := tset 0 b.pm.flags c (tget 0 s.pm.flags old), faultAddr := tset 0 b.pm.faultAddr c (tget 0 s.pm.faultAddr old),
                            faultPos := tset 0 b.pm.faultPos c (tget 0 s.pm.faultPos old), faultWb := tset 0 b.pm.faultWb c (tget 0 s.pm.faultWb old),
                            serialised := tset 0 b.pm.serialised c (tget 0 s.pm.serialised old),
                            suppressed := tset 0 b.pm.suppressed c (tget 0 s.pm.suppressed old) }
      let idle := (List.range 16).foldl (fun t k => tset 0 t (16 * c + k) (tget 0 s.seq.idle (16 * old + k))) b.seq.idle
      { b with arr := arr, ve := ve, pm := pm, seq := { b.seq with idle := idle } })

/-- Whether the saved block set can be taken again (R353). -/
def setFree (m : Mach) (c : Nat) (bs : List ArrShare) : Bool := bs.all (fun s => (physOf m s.array).isSome && !maskClash m c s)

/-- Restores what an image holds of blocks into slot `c`. -/
def loadSet (m : Mach) (i : ParkImg) (c : Nat) : Mach :=
  let m := enterBlocks m c i.ctx.par.blocks
  let m := i.banks.foldl (fun m q => loadBanks m q.1 q.2) m
  i.blks.foldl (fun m q => loadBlk m q.1 i.slot c q.2) m

/-- Makes the convoys of a slot ABORTED, their collectives gone (Table 13.1). -/
def abortConvs (m : Mach) (c : Nat) : Mach := (convsOf m c).foldl (fun m n => modConv m n (fun s => { s with st := 3, coll := none })) m

/-- Reopens the channel halves of an image with their units for the owner `h` (Table 13.1); one that is still open has them. -/
def reopenChans (m : Mach) (i : ParkImg) (h : Nat) : Mach :=
  i.chans.foldl (fun m e =>
    if (getChan m e.1).send.isSome || (getChan m e.1).recv.isSome then m else modChan m e.1 (fun _ => { e.2 with ctx := h })) m

/-- CTX_UNPARK (R353). `good` says what the check of an image on another module finds; one in this module is read. -/
def ctxUnpark (image : Nat) (good : Bool) : Req → NonVol → Mach → Mach :=
  knaob 0x0106 aH .parked (lenIs 0) noResv
    (fun m c r => do
      match tget none m.parked c with
      | none => .error { status := 0x36, detail := 0 }
      | some i =>
        let here := match readRec m c image 64 [] with
          | some h => headerGood h
          | none => good
        must (setFree m c i.ctx.par.blocks) 0x10 0
        must (here && good) 0x36 0
        let q := newOp m r.port 0x0106 c
        let m := modCtx q.1 c (fun x => { x with st := .active })
        let m := reopenChans (countSets (abortConvs (loadSet m i c) c) c true) i (handleOf m c)
        let m := resumeRecord m c i.record
        .ok (longOk (reevalCtx (endOp { m with parked := tset none m.parked c none } q.2 0 0) c) q.2))

/-- Puts the bytes of a saved store into the store of slot `d`. -/
def loadStore (m : Mach) (d : Nat) (bs : List (Nat × Byte)) : Mach :=
  match storeBase (getCtx m d) with
  | some s => bs.foldl (fun m e => wrBytes m (s + e.1) [e.2]) m
  | none => m

/-- Loads an image made by another context into the context just created in slot `d`, and answers the command with its handle (R354). The long
commands that its retires and switches belong to, and the cargo sets of its runs in flight, are those of the module it was made on. (DEDUCED, log entry
116) -/
def loadImage (m : Mach) (i : ParkImg) (d tag : Nat) : Mach :=
  let y := getCtx m d
  let o := i.ctx
  let mans := o.mans.map (fun e => (e.1, e.2.map (fun q => { q with retiring := q.retiring.map (fun _ => 0), runs := q.runs.map (fun r => { r with sets := [] }) })))
  let x : Ctx := { y with stepCtr := o.stepCtr, lastStep := o.lastStep, layout := o.layout, mans := mans, manGen := o.manGen, posts := o.posts,
                          sv := { o.sv with seqBase := y.sv.seqBase, bindings := [], switches := o.sv.switches.map (fun q => (q.1, q.2.1, 0)) }, orLate := o.orLate, orDirect := o.orDirect,
                          orSkipped := o.orSkipped, xrTimeout := o.xrTimeout, xrRejected := o.xrRejected, acct := o.acct, carried := o.acct,
                          firstAct := o.firstAct, lastAct := o.lastAct, closes := o.closes, closed := o.closed, ran := o.ran,
                          el := { elReset with twin := o.el.twin, twinM := o.el.twinM, twinH := o.el.twinH, undoHeld := o.el.undoHeld, lastAck := o.el.lastAck,
                                               lineage := o.el.lineage, layoutRej := o.el.layoutRej, abandon := o.el.abandon } }
  let m := loadStore (syncUnits (setCtx m d x) d) d i.store
  let h := handleOf m d
  let decls := (mansOf x).flatMap (fun e => e.2.img.decls)
  let m := i.ms.zipIdx.foldl (fun m e =>
    let dec := decls.filter (fun dd => dd.cls != 4 && dd.relId == e.2)
    modMs m (x.msBase + e.2) (fun s => { s with value := BitVec.ofNat 32 e.1, declared := !dec.isEmpty, remote := dec.any (·.remote) })) m
  let m := loadSet m i d
  let m := i.convs.foldl (fun m e =>
    match (List.range 64).find? (fun n => (getConv m n).st == 0) with
    | none => m
    | some n => modConv m n (fun _ => { convReset with st := 3, rc := { e.2.1 with ctx := h }, sched := e.2.2.1, next := e.2.2.2 })) m
  let m := resumeRecord (reopenChans m i h) d i.record
  reevalCtx (endOp m tag 0 h) d

/-- CTX_UNPARK_IMAGE (R354): a context in a new slot from the image that lies at the named address, `img`; none where the check
of the image fails. -/
def ctxUnparkImage (img : Option ParkImg) : Req → NonVol → Mach → Mach :=
  knaob 0x0107 aH .active (lenIs 8) noResv
    (fun m c r => do
      must (addrOk (pf r 0 8) && pf r 0 8 % 2048 == 0) 0x35 0
      must (getCtx m c).par.blocks.isEmpty 0x45 0
      match img with
      | none => .error { status := 0x36, detail := 0 }
      | some i =>
        match freeSlot m with
        | none => .error { status := 0x40, detail := 0 }
        | some d =>
          must (setFree m d i.ctx.par.blocks) 0x10 0
          let g ← grantAll m d i.ctx.par
          let q := newOp m r.port 0x0107 d
          .ok (longOk (loadImage (makeCtx q.1 d g.1 g.2.1 i.ctx.par g.2.2) i d q.2) q.2))

/-! ### Twins: the source -/

/-- A twin packet (Table 13.4). -/
def twinPk (m : Mach) (c opcode dst peer addr step : Nat) (data : List Byte) (poison : List Nat) : Packet :=
  let x := getCtx m c
  { opcode := opcode, keyed := false, saturated := false, poison := poison, cls := 2, ordered := false, relaxed := false,
    length := alignUp data.length 32, src := modId m, dst := dst, addr := addr, membership := x.mem.id, peer := peer, epoch := x.mem.epoch,
    sequence := step % 2 ^ 24, subcode := 0, srcSlot := c, tag := 0, data := data }

/-- Sends a twin packet under a tag of its own, by which its receiver knows a duplicate (R284). (DESIGN CHOICE, log entry 42) -/
def sendTagged (m : Mach) (pk : Packet) : Mach :=
  let t := m.fab.nextTag
  sendPk { m with fab := { m.fab with nextTag := (t + 1) % 2 ^ 32 } } { pk with tag := t }

/-- Bytes of a record area (Table 13.3). -/
def areaBytes : Nat := 32 + 96 * 16384

/-- Bytes of tile `t` of a registration of `k` tiles: of the last only what the record area has left. -/
def tileLen (k t : Nat) : Nat := if t + 1 = k then areaBytes % 2048 else 2048

/-- The bytes that tiles of a registration take in the journal. -/
def tilesBytes (s : TwinSrc) (ts : List Nat) : Nat := ts.foldl (fun a t => a + tileLen s.tiles.length t) 0

/-- Tile `t` of a registration as it stands, filled up with zeros, and its poisoned granules. -/
def srcTile (m : Mach) (s : TwinSrc) (t : Nat) : TileBuf :=
  let n := tileLen s.tiles.length t
  { data := padTo 2048 (rdBytes m (nthN s.tiles t) n), poison := poisonMask m (nthN s.tiles t) n }

/-- Sends the named tiles and the seal of a commit or resync. -/
def sendTiles (m : Mach) (c : Nat) (s : TwinSrc) (k : Commit) (ts : List Nat) : Mach :=
  let m := ts.foldl (fun m t =>
    let b := srcTile m s t
    acctAdd (sendTagged m (twinPk m c 0x38 s.peerM s.peerH (2048 * t) k.step b.data b.poison)) c 9 2048) m
  acctAdd (sendTagged m (twinPk m c 0x39 s.peerM s.peerH 0 k.step (padTo 32 (leBytes 8 k.step ++ leBytes 4 k.tiles ++ leBytes 1 (b2n k.resync))) [])) c 9 32

/-- Starts a resync of a registration at a step (R359). -/
def startResync (m : Mach) (c step : Nat) (s : TwinSrc) : Mach :=
  let k : Commit := { step := step, tiles := s.tiles.length, resync := true }
  let s' : TwinSrc := { s with dirty := [], commit := some k, owed := false }
  sendTiles (modEl m c (fun y => { y with src := some s', twin := 1, twinM := s.peerM, twinH := s.peerH, undoHeld := 0 })) c s' k (List.range s.tiles.length)

/-- A registration enters (R359): with a resync, unless the partner's copy is that of a lost member, which a restore is to take first (R362). (DEDUCED,
log entry 101) -/
def enterSrc (m : Mach) (c step : Nat) (s : TwinSrc) : Mach :=
  if s.owed then modEl m c (fun y => { y with src := some s, twin := 1, twinM := s.peerM, twinH := s.peerH, undoHeld := 0 })
  else startResync m c step s

/-- The 2 KiB tiles of a range of a slot's own space in this module's tiers, by local address. -/
def tileAddrs (m : Mach) (c opcode a n : Nat) : Option (List Nat) :=
  (List.range (ceilDiv n 2048)).foldl (fun r i =>
    match r with
    | none => none
    | some l =>
      match translate m c opcode (a + 2048 * i) (min 2048 (n - 2048 * i)) with
      | .fault _ => none
      | .ok e phys => if m.fab.module = some e.module && (tierOf phys).isSome then some (l ++ [phys]) else none) (some [])

/-- TWIN_SET (R355, R370). `copy`, `journal` and `depth` are what the partner registered, and `held` says that its copy is that of another module's
member (R362). -/
def twinSet (copy journal depth : Nat) (held : Bool) : Req → NonVol → Mach → Mach :=
  knaob 0x080D aH .active (fun p => 24 ≤ p.length && p.length == 24 + 16 * recNat p 16 4) (resvAt [(20, 4)])
    (fun m c r => do
      let n := pf r 16 4
      let rs := (List.range n).map (fun i => (pf r (24 + 16 * i) 8, pf r (32 + 16 * i) 8))
      let total := rs.foldl (fun a q => a + q.2) 0
      let others := m.ctxs.foldl (fun a e => a + (if e.1 = c then 0 else match e.2.el.src with | some s => 2048 * s.ranges | none => 0)) 0
      must (pf r 0 2 < 8192) 0x35 0
      must (pf r 4 4 ≤ 1000) 0x35 4
      must (addrOk (pf r 8 8) && pf r 8 8 % 2048 == 0) 0x35 8
      must (1 ≤ n && n ≤ 64) 0x35 16
      mustAll (rs.zipIdx.flatMap (fun e =>
        [(addrOk e.1.1 && e.1.1 % 2048 == 0, 24 + 16 * e.2), (e.1.2 % 2048 == 0 && e.1.2 != 0, 32 + 16 * e.2)]))
      must (total + areaBytes == copy) 0x35 24
      must (total + others ≤ 0x8000000000) 0x42 0
      match (rs ++ [(pf r 8 8, areaBytes)]).foldl (fun (l : Option (List Nat)) q =>
          match l, tileAddrs m c 0x03 q.1 q.2 with
          | some l, some k => some (l ++ k)
          | _, _ => none) (some []) with
      | none => .error { status := 0x42, detail := 0 }
      | some tiles =>
        let q := newOp m r.port 0x080D c
        let s : TwinSrc := { peerM := pf r 0 2, peerH := pf r 2 2, timeout := if pf r 4 4 = 0 then 200 else pf r 4 4, journal := journal, depth := depth,
                             ranges := total / 2048, tiles := tiles, dirty := [], commit := none, tag := some q.2, owed := held }
        let x := getCtx m c
        match x.el.src with
        | some old =>
          if old.commit.isSome then
            let m := match x.el.nextSrc with
              | some z => (match z.tag with | some t => endOp q.1 t 0x50 0 | none => q.1)
              | none => q.1
            .ok (longOk (modEl m c (fun y => { y with nextSrc := some s })) q.2)
          else .ok (longOk (enterSrc q.1 c x.lastStep.toNat s) q.2)
        | none => .ok (longOk (enterSrc q.1 c x.lastStep.toNat s) q.2))

/-- The ended runs of a slot that wait for the commit of a step (R357). -/
def waitingRuns (x : Ctx) (step : Nat) : List (Nat × Nat) :=
  (mansOf x).flatMap (fun e => if e.2.img.step then ((e.2.runs.filter (fun r => r.ended && r.step == step)).map (fun r => (e.1, r.run))) else [])

/-- A commit or resync is over: the runs that wait for its step complete, and a twin-set that waits starts its resync. -/
def endCommit (m : Mach) (c : Nat) (k : Commit) : Mach :=
  let m := modEl m c (fun y => { y with src := y.src.map (fun s => { s with commit := none, tag := none }) })
  let m := if k.resync then m else (waitingRuns (getCtx m c) k.step).foldl (fun m q => finishRun m c q.1 q.2) m
  match (getCtx m c).el.nextSrc with
  | some s => enterSrc (modEl m c (fun y => { y with nextSrc := none })) c (getCtx m c).lastStep.toNat s
  | none => reevalCtx m c

/-- Drops the tiles and seals of slot `c` that have not been sent. -/
def dropTiles (m : Mach) (c : Nat) : Mach :=
  let keep := fun (q : Packet) => !(q.cls == 2 && q.srcSlot == c && (q.opcode == 0x38 || q.opcode == 0x39))
  { m with fab := { m.fab with txq := m.fab.txq.filter keep, again := m.fab.again.filter keep } }

/-- A commit is abandoned (R359): what of it has not been sent is sent no more, and the context is UNPROTECTED. -/
def abandonCommit (m : Mach) (c : Nat) (k : Commit) : Mach :=
  let m := dropTiles m c
  let tag := (getCtx m c).el.src.bind (·.tag)
  let m := modEl m c (fun y => { y with twin := 3, abandon := satAdd y.abandon 1 })
  let m := reportCtx m 0x200A (unitCtx c (handleOf m c)) c 0 (leBytes 8 k.step)
  let m := match tag with | some t => endOp m t 0x52 0 | none => m
  endCommit m c k

/-- Writes the numerics record into the record area of a registration, tile by tile. -/
def writeArea (m : Mach) (s : TwinSrc) (bs : List Byte) : Mach :=
  (s.tiles.drop s.ranges).zipIdx.foldl (fun m q => wrBytes m q.1 ((bs.drop (2048 * q.2)).take 2048)) m

/-- The lowest step whose run has ended and waits for its commit. -/
def commitStep (x : Ctx) : Option Nat :=
  let ss := (mansOf x).flatMap (fun e => if e.2.img.step then (e.2.runs.filter (·.ended)).map (·.step) else [])
  match ss with
  | [] => none
  | s :: r => some (r.foldl min s)

/-- Saves the numerics record of a slot for the commit of a step: its record area holds the record as its earlier steps leave it (R357). -/
def saveForCommit (m : Mach) (c step : Nat) (s : TwinSrc) : Mach :=
  let m := if (inFlight (getCtx m c)).all (fun r => r.ended || step < r.step) then settle m c else m
  writeArea m s (recordBytes m c)

/-- Takes the dirty set of a registration and sends the tiles with their seal: every tile where the context is UNPROTECTED or its resync is still to be run, a resync; a
commit that exceeds the journal is abandoned before a tile is sent (R357, R359). -/
def sendCommit (m : Mach) (c step : Nat) (s : TwinSrc) : Mach :=
  if (getCtx m c).el.twin = 3 || s.owed then
    let k : Commit := { step := step, tiles := s.tiles.length, resync := true }
    let s' : TwinSrc := { s with dirty := [], commit := some { k with resync := false }, owed := false }
    sendTiles (modEl m c (fun y => { y with src := some s', twin := 1, undoHeld := 0 })) c s' k (List.range s.tiles.length)
  else
    let k : Commit := { step := step, tiles := s.dirty.length, resync := false }
    let s' : TwinSrc := { s with dirty := [], commit := some k }
    let m := modEl m c (fun y => { y with src := some s' })
    if s.journal < tilesBytes s s.dirty then abandonCommit m c k else sendTiles m c s' k s.dirty

/-- STEP_COMMIT: after a step run the numerics record is saved, the dirty set taken, and the tiles sent with their seal; the first
commit after UNPROTECTED is a resync; one that exceeds the journal is abandoned before a tile is sent (R357, R359). -/
def stepCommit (c : Nat) (m : Mach) : Mach :=
  let x := getCtx m c
  match x.el.src, commitStep x with
  | some s, some step =>
    if s.commit.isSome || x.el.restore.isSome || x.st != .active then m else
    let m := saveForCommit m c step s
    match (getCtx m c).el.src with
    | none => m
    | some s => sendCommit m c step s
  | _, _ => m

/-- COMMIT_TIMEOUT: the acknowledgement of a commit or resync does not come (R359). -/
def commitTimeout (c : Nat) (m : Mach) : Mach :=
  match (getCtx m c).el.src.bind (·.commit) with
  | some k => abandonCommit m c k
  | none => m

/-! ### Twins: arriving packets -/

/-- Takes the oldest released packet of a twin opcode that passes customs checks 1 and 5; what fails is discarded and counted. -/
def twinArrive (m : Mach) (opcode : Nat) (f : Mach → Packet → Mach) : Mach :=
  match takeReleased m opcode with
  | none => m
  | some (pk, m) =>
    match customsColl m pk with
    | some r => countCustoms m pk r
    | none => f m pk

/-- Whether slot `c` is the local owner a source-side packet names, registered with its sender. -/
def srcOf (m : Mach) (pk : Packet) : Option TwinSrc :=
  let c := pk.peer / 4096
  if handleLive m pk.peer && (getCtx m c).st == .active then
    match (getCtx m c).el.src with
    | some s => if s.peerM = pk.src then some s else none
    | none => none
  else none

/-- The registration a twin-side packet names (Table 13.4): by its local owner and partner module; where several have them, the one whose
partner slot sent the packet. (DEDUCED, log entry 101) -/
def regOf (m : Mach) (pk : Packet) : Option (Nat × TwinReg) :=
  let named := m.twins.filterMap (fun e => match e.2 with
    | some g => if g.ctx = pk.peer && g.peerM = pk.src then some (e.1, g) else none
    | none => none)
  (named.find? (fun q => q.2.peerH / 4096 == pk.srcSlot)).or named.head?

/-- Changes a twin registration. -/
def modTwin (m : Mach) (n : Nat) (f : TwinReg → TwinReg) : Mach := { m with twins := tmod none m.twins n (Option.map f) }

/-- The tiles of a packet by their number in the copy. -/
def packetTiles (pk : Packet) : List (Nat × TileBuf) :=
  (List.range (pk.data.length / 2048)).map (fun i =>
    (pk.addr / 2048 + i, { data := (pk.data.drop (2048 * i)).take 2048,
                           poison := (pk.poison.filter (fun g => 64 * i ≤ g && g < 64 * (i + 1))).map (· - 64 * i) }))

/-- Bytes of tile `t` of the copy: of the last only what the record area has left. -/
def copyLen (g : TwinReg) (t : Nat) : Nat := min 2048 (g.bytes - 2048 * t)

/-- Writes the first `n` bytes of a tile at an address of a registration's areas. -/
def writeSpan (m : Mach) (k : Nat) (g : TwinReg) (a n : Nat) (b : TileBuf) : Mach :=
  match fabWrite m (unitRef (g.ctx / 4096)) (.twin k) a (b.data.take n) (b.poison.filter (fun i => 32 * i < n)) with
  | .ok m _ _ _ => m
  | .bad m _ => m

/-- Reads the tile of `n` bytes at an address of a registration's areas. -/
def readSpan (m : Mach) (g : TwinReg) (a n : Nat) : TileBuf :=
  match translate m (g.ctx / 4096) 0x04 a n with
  | .ok _ phys => { data := padTo 2048 (rdBytes m phys n), poison := poisonMask m phys n }
  | .fault _ => noTile

/-- Writes tile `t` of the copy. -/
def writeCopy (m : Mach) (k : Nat) (g : TwinReg) (t : Nat) (b : TileBuf) : Mach := writeSpan m k g (g.copy + 2048 * t) (copyLen g t) b
/-- Tile `t` of the copy as it stands. -/
def readCopy (m : Mach) (g : TwinReg) (t : Nat) : TileBuf := readSpan m g (g.copy + 2048 * t) (copyLen g t)

/-- The place of the `i`-th tile of a commit in the journal, tiles in order of arrival. (DESIGN CHOICE, log entry 117) -/
def journalAt (g : TwinReg) (i : Nat) : Nat := g.journal + 2048 * i
/-- The place of the pre-image of the `i`-th tile of the commit of a step in the undo area: each commit has a part of the journal's size, by its step.
(DESIGN CHOICE, log entry 117) -/
def undoAt (g : TwinReg) (step i : Nat) : Nat := g.undo + step % max 1 g.depth * g.jbytes + 2048 * i

/-- Whether the tiles of a packet lie in the copy of a registration. -/
def tileFits (g : TwinReg) (pk : Packet) : Bool := pk.addr % 2048 == 0 && pk.addr + pk.data.length ≤ alignUp g.bytes 2048

/-- The registration with the tiles of a step about to come: those of another step never sealed are discarded (R358). What comes before the first seal,
after tiles never sealed, or for a step that does not follow the last commit can only be a resync, and goes straight into the copy (R359). (DEDUCED, log
entry 101) -/
def beginHand (g : TwinReg) (step : Nat) : TwinReg :=
  if !g.inHand.isEmpty && g.hand = step then g else
    { g with hand := step, inHand := [],
             direct := !g.inHand.isEmpty || (match g.last with | some q => (q + 1) % 2 ^ 24 != step | none => true) }

/-- Takes one tile in registration `n`: straight into the copy, or into the journal as far as it holds it (R358, R359). -/
def takeTile (n : Nat) (m : Mach) (q : Nat × TileBuf) : Mach :=
  match tget none m.twins n with
  | none => m
  | some g =>
    let i := (g.inHand.findIdx? (fun e => e.1 == q.1)).getD g.inHand.length
    let hold := fun (m : Mach) (b : TileBuf) => modTwin m n (fun g =>
      { g with inHand := if g.inHand.any (fun e => e.1 == q.1) then g.inHand.map (fun e => if e.1 = q.1 then (q.1, b) else e) else g.inHand ++ [(q.1, b)] })
    if g.direct then hold (writeCopy m n g q.1 q.2) noTile
    else if 2048 * i + copyLen g q.1 ≤ g.jbytes then hold (writeSpan m n g (journalAt g i) (copyLen g q.1) q.2) noTile
    else hold m q.2

/-- Takes the arriving tiles of a packet in registration `n`. -/
def takeTiles (m : Mach) (n : Nat) (g : TwinReg) (pk : Packet) : Mach :=
  let m := modTwin m n (fun g => beginHand g pk.sequence)
  acctAdd ((packetTiles pk).foldl (takeTile n) m) (g.ctx / 4096) 10 pk.data.length

/-- TWIN_TILE (R358, R359); tiles that lie outside the copy are discarded as unmatched. -/
def twinTile (m : Mach) : Mach :=
  twinArrive m 0x38 (fun m pk =>
    match regOf m pk with
    | none => countUnmatched m
    | some (n, g) => if tileFits g pk then takeTiles m n g pk else countUnmatched m)

/-- A packet from a twin to its partner. -/
def twinReply (m : Mach) (g : TwinReg) (opcode addr step : Nat) (data : List Byte) (poison : List Nat) : Mach :=
  acctAdd (sendTagged m (twinPk m (g.ctx / 4096) opcode g.peerM g.peerH addr step data poison)) (g.ctx / 4096) 9 data.length

/-- The tiles in hand with their bytes, from the journal where it holds them. -/
def handTiles (m : Mach) (g : TwinReg) : List (Nat × TileBuf) :=
  g.inHand.zipIdx.map (fun e => (e.1.1, if e.1.2 = noTile then readSpan m g (journalAt g e.2) (copyLen g e.1.1) else e.1.2))

/-- Applies the tiles in hand of registration `n`: a commit, whose pre-images go to its part of the undo area, or a resync, which clears the undo; and
acknowledges (R358, R359). -/
def applyCommit (m : Mach) (n : Nat) (g : TwinReg) (step : Nat) (resync : Bool) : Mach :=
  let ts := handTiles m g
  let undo := !resync && !g.direct
  let m := if undo && g.depth != 0 then
      ts.zipIdx.foldl (fun m e => writeSpan m n g (undoAt g step e.2) (copyLen g e.1.1) (readCopy m g e.1.1)) m else m
  let m := if g.direct then m else ts.foldl (fun m e => writeCopy m n g e.1 e.2) m
  let undos := if undo then ((step, ts.map (·.1)) :: g.undos).take g.depth else []
  twinReply (modTwin m n (fun g => { g with last := some step, undos := undos })) g 0x3A 0 step (padTo 32 (leBytes 8 step)) []

/-- Refuses a commit with the reason of Table 13.4. -/
def refuseCommit (m : Mach) (g : TwinReg) (step why : Nat) : Mach := twinReply m g 0x3B 0 step (padTo 32 (leBytes 8 step ++ leBytes 1 why)) []

/-- TWIN_SEAL: a commit is applied with its undo, or a resync goes into the copy and clears the undo; the twin acknowledges, or
refuses a count that does not match or tiles beyond the journal (R358, R359). -/
def twinSeal (m : Mach) : Mach :=
  twinArrive m 0x39 (fun m pk =>
    let step := recNat pk.data 0 8
    let resync := recNat pk.data 12 1 != 0
    match regOf m pk with
    | none => countUnmatched m
    | some (n, g) =>
      let m := modTwin m n (fun g => { g with inHand := [], direct := false })
      if g.inHand.length != recNat pk.data 8 4 then refuseCommit m g step 2
      else if !resync && g.inHand.any (fun e => e.2 != noTile) then refuseCommit m g step 3
      else applyCommit m n g step resync)

/-- The commit or resync in hand of slot `c` is acknowledged: the context is PROTECTED at its step (R357, R359). -/
def ackCommit (m : Mach) (c : Nat) (s : TwinSrc) (k : Commit) : Mach :=
  let was := (getCtx m c).el.twin
  let held := if was = 1 then 0 else min ((getCtx m c).el.undoHeld + 1) s.depth
  let m := acctAdd (modEl m c (fun y => { y with twin := 2, lastAck := BitVec.ofNat 64 k.step, undoHeld := held })) c 10 32
  let m := match s.tag with | some t => endOp m t 0 0 | none => m
  endCommit m c k

/-- TWIN_ACK: the commit or resync in hand ends; the context is PROTECTED at its step (R357, R359). -/
def twinAck (m : Mach) : Mach :=
  twinArrive m 0x3A (fun m pk =>
    match srcOf m pk with
    | none => countUnmatched m
    | some s =>
      match s.commit with
      | none => m
      | some k => if recNat pk.data 0 8 != k.step then m else ackCommit m (pk.peer / 4096) s k)

/-- TWIN_NACK: the twin refuses the commit in hand, which is abandoned (R359). -/
def twinNack (m : Mach) : Mach :=
  twinArrive m 0x3B (fun m pk =>
    match srcOf m pk with
    | none => countUnmatched m
    | some s =>
      match s.commit with
      | none => m
      | some k => if recNat pk.data 0 8 != k.step then m else abandonCommit m (pk.peer / 4096) k)

/-- Whether two registrations of one owner have the same areas: the second takes over what the first holds for a lost partner (R362). -/
def sameAreas (a b : TwinReg) : Bool :=
  a.ctx == b.ctx && a.copy == b.copy && a.bytes == b.bytes && a.journal == b.journal && a.jbytes == b.jbytes && a.undo == b.undo && a.depth == b.depth

/-- Enters registration `g`, whose journal and undo lie at local addresses `j` and `u`. One with the areas of an older registration takes its
place and its copy, so that a spare is registered under the twin of a failed member (R362). (DEDUCED, log entry 101) -/
def acceptReg (m : Mach) (g : TwinReg) (j u : Nat) : Done :=
  match m.twins.findSome? (fun e => e.2.bind (fun o => if sameAreas o g then some (e.1, o) else none)) with
  | some (n, o) => okay { m with twins := tset none m.twins n (some { g with last := o.last, undos := o.undos }) } (leBytes 4 n)
  | none =>
    let n := ((List.range (m.twins.length + 1)).find? (fun k => (tget none m.twins k).isNone)).getD 0
    let un := g.depth * g.jbytes
    let m := freeStep (wrBytes m j (freeBytes m g.jbytes)) g.jbytes
    let m := freeStep (wrBytes m u (freeBytes m un)) un
    okay { m with twins := tset none m.twins n (some g) } (leBytes 4 n)

/-- TWIN_ACCEPT (R355, R362). -/
def twinAccept : Req → NonVol → Mach → Mach :=
  knaob 0x080C aH .active (lenIs 48) (resvAt [(5, 3)])
    (fun m c r => do
      let copyN := pf r 16 8
      must (pf r 0 2 < 8192) 0x35 0
      must (pf r 4 1 ≤ 2) 0x35 4
      must (addrOk (pf r 8 8) && pf r 8 8 % 2048 == 0) 0x35 8
      must (copyN != 0) 0x35 16
      must (addrOk (pf r 24 8) && pf r 24 8 % 2048 == 0) 0x35 24
      must (2048 ≤ pf r 32 8 && pf r 32 8 ≤ copyN && pf r 32 8 % 32 == 0) 0x35 32
      must (addrOk (pf r 40 8) && pf r 40 8 % 2048 == 0) 0x35 40
      match ownRange m c 0x03 (pf r 8 8) copyN, ownRange m c 0x03 (pf r 24 8) (pf r 32 8), ownRange m c 0x03 (pf r 40 8) (max 1 (pf r 4 1 * pf r 32 8)) with
      | some _, some j, some u =>
        must (m.twins.all (fun e => match e.2 with
          | some g => g.ctx != r.handle.toNat || g.peerM != pf r 0 2 || g.peerH != pf r 2 2
          | none => true)) 0x44 0
        let g : TwinReg := { ctx := r.handle.toNat, peerM := pf r 0 2, peerH := pf r 2 2, depth := pf r 4 1, copy := pf r 8 8, bytes := copyN,
                             journal := pf r 24 8, jbytes := pf r 32 8, undo := pf r 40 8, last := none, inHand := [], undos := [] }
        .ok (acceptReg m g j u)
      | _, _, _ => .error { status := 0x42, detail := 0 })

/-! ### Restores -/

/-- A restore takes the place of a resync in hand (R362): what of it has not been sent is dropped, and it is run again if the restore fails. (DEDUCED, log
entry 101) -/
def cancelResync (m : Mach) (c : Nat) (s : TwinSrc) : Mach :=
  if s.commit.isNone then m else
    dropTiles (modEl m c (fun y => { y with src := y.src.map (fun s => { s with commit := none, owed := true }) })) c

/-- RESTORE (R362, R370). The request names the registration in its address field. (DEDUCED, log entry 101) -/
def restoreCmd : Req → NonVol → Mach → Mach :=
  knaob 0x080E aH .active (lenIs 24) (resvAt [(2, 2)])
    (fun m c r => do
      let x := getCtx m c
      let step := pf r 8 8
      must (pf r 0 2 < 8192) 0x35 0
      must (pf r 16 8 == (step + 1) % 2 ^ 64) 0x35 16
      must ((inFlight x).isEmpty && x.el.restore.isNone && x.el.park.isNone) 0x10 0
      match x.el.src with
      | none => .error { status := 0x45, detail := 0 }
      | some s =>
        must (s.peerM == pf r 0 2) 0x45 0
        let q := newOp m r.port 0x080E c
        let e : Restore := { peerM := s.peerM, step := step, counter := pf r 16 8, tag := q.2, got := [] }
        let m := modEl (cancelResync q.1 c s) c (fun y => { y with restore := some e })
        let m := acctAdd (sendTagged m (twinPk m c 0x3C s.peerM s.peerH (pf r 4 4) step (padTo 32 (leBytes 8 step)) [])) c 9 32
        .ok (longOk m q.2))

/-- The pre-image of tile `t` that the undo of a commit holds, as it stands in the undo area. -/
def preImage (m : Mach) (g : TwinReg) (t : Nat) (u : Nat × List Nat) : Option TileBuf :=
  (u.2.findIdx? (· == t)).map (fun i => readSpan m g (undoAt g u.1 i) (copyLen g t))

/-- The value of a tile as of a step (R360): the oldest pre-image among the commits newer than it, else the copy. -/
def tileAsOf (m : Mach) (g : TwinReg) (step t : Nat) : TileBuf :=
  (g.undos.filter (fun u => step < u.1)).foldl (fun b u => (preImage m g t u).getD b) (readCopy m g t)

/-- Whether a registration holds the copy as of a step (R360). -/
def holdsStep (g : TwinReg) (step : Nat) : Bool :=
  match g.last with
  | some q => step ≤ q && q - step ≤ (g.undos.filter (fun u => step < u.1)).length
  | none => false

/-- Rolls registration `n` back to a step and sends every tile as of it, then the end (R360, R362). -/
def serveRestore (m : Mach) (n : Nat) (g : TwinReg) (step : Nat) : Mach :=
  let k := ceilDiv g.bytes 2048
  let ts := (List.range k).map (fun t => (t, tileAsOf m g step t))
  let m := (ts.filter (fun q => g.undos.any (fun u => step < u.1 && has u.2 q.1))).foldl (fun m q => writeCopy m n g q.1 q.2) m
  let m := modTwin m n (fun g => { g with last := some step, undos := g.undos.filter (fun u => u.1 ≤ step), inHand := [], direct := false })
  let m := ts.foldl (fun m q => twinReply m g 0x3D (2048 * q.1) step q.2.data q.2.poison) m
  twinReply m g 0x3E 0 step (padTo 32 (leBytes 8 step ++ leBytes 4 k ++ leBytes 1 0)) []

/-- The registration a restore request is for: the one it names, where that is of the partner it comes from, else as for other packets. -/
def regNamed (m : Mach) (pk : Packet) : Option (Nat × TwinReg) :=
  match tget none m.twins pk.addr with
  | some g => if g.ctx = pk.peer && g.peerM = pk.src then some (pk.addr, g) else regOf m pk
  | none => regOf m pk

/-- RESTORE_REQ: the twin serves every tile as of the named step, rolled back to it, or answers that it does not hold it (R360, R362). -/
def restoreReq (m : Mach) : Mach :=
  twinArrive m 0x3C (fun m pk =>
    let step := recNat pk.data 0 8
    match regNamed m pk with
    | none => countUnmatched m
    | some (n, g) =>
      if holdsStep g step then serveRestore m n g step
      else twinReply m g 0x3E 0 step (padTo 32 (leBytes 8 step ++ leBytes 4 0 ++ leBytes 1 1)) [])

/-- Writes arriving tiles to the ranges they belong to (R362). -/
def landTiles (m : Mach) (c : Nat) (s : TwinSrc) (e : Restore) (pk : Packet) : Mach :=
  let bs := packetTiles pk
  let m := bs.foldl (fun m b =>
    let n := tileLen s.tiles.length b.1
    match s.tiles[b.1]? with
    | none => m
    | some a => (b.2.poison.filter (fun g => 32 * g < n)).foldl (fun m g => wrPoison m (a + 32 * g) 32) (wrBytes m a (b.2.data.take n))) m
  let e' : Restore := { e with got := bs.foldl (fun l b => insNat b.1 l) e.got }
  acctAdd (modEl m c (fun y => { y with restore := some e' })) c 10 pk.data.length

/-- RESTORE_DATA: tiles of the named step arrive and are written to the ranges (R362). -/
def restoreData (m : Mach) : Mach :=
  twinArrive m 0x3D (fun m pk =>
    match srcOf m pk, (getCtx m (pk.peer / 4096)).el.restore with
    | some s, some e => landTiles m (pk.peer / 4096) s e pk
    | _, _ => countUnmatched m)

/-- A restore is aborted (R364): its ranges enter ZEROING and the lineage is broken. -/
def abortRestore (m : Mach) (c : Nat) (e : Restore) : Mach :=
  let tiles := match (getCtx m c).el.src with | some s => s.tiles.zipIdx.map (fun e => (e.1, tileLen s.tiles.length e.2)) | none => []
  let m := startZeroing (modEl m c (fun y => { y with restore := none, lineage := true })) tiles
  endOp (reportCtx m 0x2009 (unitCtx c (handleOf m c)) c 0 (leBytes 2 e.peerM)) e.tag 0x52 0

/-- A restore ends: the counters and the record are those of the step and the context is PROTECTED at it, without the resync it was to begin with
(R362). -/
def finishRestore (m : Mach) (c : Nat) (s : TwinSrc) (e : Restore) : Mach :=
  let put := fun (x : Ctx) =>
    ({ x with stepCtr := BitVec.ofNat 64 e.counter, lastStep := BitVec.ofNat 64 e.step, closed := some e.step,
              el := { x.el with restore := none, twin := 2, lastAck := BitVec.ofNat 64 e.step,
                                undoHeld := x.el.undoHeld - (x.el.lastAck.toNat - e.step), src := x.el.src.map (fun s => { s with dirty := [], tag := none, owed := false }) } } : Ctx)
  let m := dropStats (modCtx m c put) c
  let area := ((List.range (s.tiles.length - s.ranges)).map (fun i => (srcTile m s (s.ranges + i)).data)).flatten
  let m := match s.tag with | some t => endOp m t 0 0 | none => m
  endOp (loadRecord m c area).1 e.tag 0 0

/-- The twin does not hold the step: the restore fails and changes nothing (R362); a resync that it held up is run. -/
def failRestore (m : Mach) (c : Nat) (s : TwinSrc) (e : Restore) : Mach :=
  let m := endOp (modEl m c (fun y => { y with restore := none })) e.tag 0x52 0
  if s.owed then startResync m c (getCtx m c).lastStep.toNat s else m

/-- RESTORE_END: the restore ends: the record is loaded and the context is PROTECTED at the step; or the twin does not hold it
(R362). -/
def restoreEnd (m : Mach) : Mach :=
  twinArrive m 0x3E (fun m pk =>
    let c := pk.peer / 4096
    match srcOf m pk, (getCtx m c).el.restore with
    | some s, some e =>
      if recNat pk.data 12 1 != 0 then failRestore m c s e
      else if e.got.length != recNat pk.data 8 4 then abortRestore m c e
      else finishRestore m c s e
    | _, _ => countUnmatched m)

/-- RESTORE_TIMEOUT: the twin falls silent or is lost (R364). -/
def restoreTimeout (c : Nat) (m : Mach) : Mach :=
  match (getCtx m c).el.restore with
  | some e => abortRestore m c e
  | none => m

end Sys2Proof.Machine
end

