-- ==== Sys2Proof/Machine/Cargo.lean ====
section
/-! DEFINITION. Cargo sets (R365 to R370): loading from neighbours, sealing, binding, swaps and pointer switches. -/

namespace Sys2Proof.Machine

/-! ### Loading -/

/-- How a fetch of a tile went: on its way under a tag from a source, written, or given up. -/
inductive Fetched where
  | sent (m : Mach) (source tag : Nat)
  | got (m : Mach) (data : List Byte)
  | failed (m : Mach)

/-- Reads tile `t` of a base from the sources from number `i` on, until one answers good or is waited for (R251, R366). -/
def fetchTile (m : Mach) (h : Holder) (keeper t : Nat) (sources : List Nat) (i : Nat) : Nat → Fetched
  | 0 => .failed m
  | fuel + 1 =>
    match sources[i]? with
    | none => .failed m
    | some s =>
      match fabAccess m (unitRef keeper) h 0x04 0 (s + 2048 * t) 2048 [] [] false false with
      | .sent m tag => .sent m i tag
      | .done m resp => if resp.poison.isEmpty then .got m resp.data else fetchTile m h keeper t sources (i + 1) fuel
      | _ => fetchTile m h keeper t sources (i + 1) fuel

/-- The source number that marks a tile no source delivered. -/
def noSource : Nat := 255

/-- A tile of a set is good: written whole to its page, and no longer left. -/
def cargoGot (m : Mach) (k t : Nat) (data : List Byte) : Mach :=
  let m := wrBytes m (nthN (getCargo m k).pages t) data
  modCargo m k (fun s => { s with left := delNat t s.left, fetches := tdel s.fetches t })

/-- Fetches the tiles left of a loading set, one outstanding at a time (R366). -/
def cargoPump (m : Mach) (k : Nat) : Nat → Mach
  | 0 => m
  | fuel + 1 =>
    let s := getCargo m k
    match s.left with
    | [] => m
    | t :: _ =>
      if s.seed || !s.fetches.isEmpty then m else
      match fetchTile m (.cargo k) s.keeper t s.sources 0 8 with
      | .sent m i tag => modCargo m k (fun s => { s with fetches := tput t (i, tag) s.fetches })
      | .got m d => cargoPump (cargoGot m k t d) k fuel
      | .failed m => modCargo m k (fun s => { s with fetches := tput t (noSource, 0) s.fetches })

/-- The next source of a tile is tried (R251, R366). -/
def cargoNext (m : Mach) (k t i : Nat) : Mach :=
  let s := getCargo m k
  match fetchTile m (.cargo k) s.keeper t s.sources (i + 1) 8 with
  | .sent m j tag => modCargo m k (fun s => { s with fetches := tput t (j, tag) s.fetches })
  | .got m d => let m := cargoGot m k t d; cargoPump m k ((getCargo m k).left.length + 1)
  | .failed m => modCargo m k (fun s => { s with fetches := tput t (noSource, 0) s.fetches })

/-- An answer to a fetch of a set: good data is written, anything else moves to the next source. -/
def cargoResponse (m : Mach) (k tag : Nat) (data : List Byte) (good : Bool) : Mach :=
  match (getCargo m k).fetches.find? (fun e => e.2.2 == tag && e.2.1 != noSource) with
  | none => m
  | some e =>
    if good then let m := cargoGot m k e.1 data; cargoPump m k ((getCargo m k).left.length + 1) else cargoNext m k e.1 e.2.1

/-- A source of a loading set does not answer within 200 µs: its request is given up and the next source tried. -/
def cargoSourceTimeout (m : Mach) (k : Nat) : Mach :=
  match (getCargo m k).fetches.find? (fun e => e.2.1 != noSource) with
  | none => m
  | some e => cargoNext { m with fab := { m.fab with out := m.fab.out.filter (fun o => o.tag != e.2.2) } } k e.1 e.2.1

/-- Starts loading a set into its pages. -/
def startLoad (m : Mach) (k : Nat) : Mach := cargoPump m k ((getCargo m k).left.length + 1)

/-- The tiles of a base in the keeper's space: mapped to this module's tiers by entries with the cargo bit, of which IN entries
with the cargo bit admit them (R366). -/
def cargoPages (m : Mach) (c a n : Nat) : Option (List Nat) :=
  match tileAddrs m c 0x01 a n with
  | none => none
  | some ps =>
    let outOk := (List.range (n / 2048)).all (fun i => match outEntry m c (a + 2048 * i) 2048 with | some e => e.cargo | none => false)
    let inOk := ps.all (fun p => match inEntry m p 2048 with | some e => e.cargo | none => false)
    if outOk && inOk then some ps else none

/-- CARGO_LOAD (R366). -/
def cargoLoad : Req → NonVol → Mach → Mach :=
  knaob 0x0201 aH .opt (lenIs 92) (resvAt [(26, 2)])
    (fun m _ r => do
      let k := pf r 0 2
      let c := pf r 2 2 / 4096
      let n := pf r 25 1
      let bytes := pf r 12 8
      must (k < 4096) 0x35 0
      must (addrOk (pf r 4 8) && pf r 4 8 % 2048 == 0) 0x35 4
      must (bytes != 0 && bytes % 2048 == 0) 0x35 12
      must (200 ≤ pf r 20 4 && pf r 20 4 ≤ 50000) 0x35 20
      must (pf r 24 1 ≤ 1) 0x35 24
      must (n ≤ 8 && (pf r 24 1 == 1 || 1 ≤ n)) 0x35 25
      mustAll ((List.range 8).map (fun i => (addrOk (pf r (28 + 8 * i) 8), 28 + 8 * i)))
      checkHandle m .active (pf r 2 2)
      must ((getCargo m k).st == 0) 0x45 0
      match cargoPages m c (pf r 4 8) bytes with
      | none => .error { status := 0x42, detail := 0 }
      | some ps =>
        let q := newOp m r.port 0x0201 c
        let s : CargoSet := { cargoReset with st := 1, keeper := c, base := pf r 4 8, bytes := bytes, pages := ps, seed := pf r 24 1 == 1,
                                              sources := (List.range n).map (fun i => pf r (28 + 8 * i) 8), refetchUs := pf r 20 4,
                                              left := List.range ps.length, tag := some q.2 }
        .ok (longOk (startLoad (modCargo q.1 k (fun _ => s)) k) q.2))

/-- CARGO_SEAL (R366). -/
def cargoSeal : Req → NonVol → Mach → Mach :=
  knaob 0x0202 aH .opt (lenIs 4) (resvAt [(2, 2)])
    (fun m _ r => do
      must (pf r 0 2 < 4096) 0x35 0
      let s := getCargo m (pf r 0 2)
      must ((s.st == 1 || s.st == 4) && s.seed && !s.sealed) 0x45 0
      .ok (okay (modCargo m (pf r 0 2) (fun s => { s with sealed := true, left := [] })) []))

/-- Ends the sequences of a set whose weights are gone with ERROR and MEM_POISON (R368). -/
def endSetEntries (m : Mach) (k : Nat) : Mach :=
  (List.range 16).foldl (fun m c =>
    let x := getCtx m c
    if x.sv.conf.isNone then m else
    x.sv.entries.foldl (fun m e =>
      if e.2.st != .free && e.2.st != .finishing && baseSet m c e.2.cargo = k then modEnt m c e.1 (fun e => { e with st := .finishing, code := cMemPoison })
      else m) m) m

/-- A load or reload fails: the set is EMPTY and its pages zeroed (R366, R368). -/
def failLoad (m : Mach) (k : Nat) : Mach :=
  let s := getCargo m k
  let m := match s.tag with | some t => endOp m t 0x52 0 | none => m
  let m := s.pages.foldl (fun m a => zeroRange m a 2048) m
  let m := if s.st = 4 then endSetEntries m k else m
  let m := s.bound.foldl (fun m c => modServ m c (fun v => { v with bindings := delNat k v.bindings })) m
  { m with cargo := tdel m.cargo k }

/-- CARGO_SET_READY: every tile holds good data and the set is READY; a tile no source delivered fails the load (R366). -/
def cargoSetReady (k : Nat) (m : Mach) : Mach :=
  let s := getCargo m k
  if s.st != 1 && s.st != 4 then m
  else if s.fetches.any (fun e => e.2.1 == noSource) then failLoad m k
  else if !s.left.isEmpty || (s.seed && !s.sealed) then m
  else if s.pages.any (fun a => rdPoison m a 2048) then failLoad m k
  else
    let m := match s.tag with | some t => endOp m t 0 0 | none => m
    modCargo m k (fun s => { s with st := 2, tag := none, sealed := false })

/-! ### Binding -/

/-- CARGO_BIND (R367). -/
def cargoBind : Req → NonVol → Mach → Mach :=
  knaob 0x0203 aH .active (lenIs 4) (resvAt [(2, 2)])
    (fun m c r => do
      let k := pf r 0 2
      must (k < 4096) 0x35 0
      must ((getCargo m k).st == 2) 0x45 0
      .ok (okay (modServ (modCargo m k (fun s => { s with bound := insNat c s.bound })) c (fun v => { v with bindings := insNat k v.bindings })) []))

/-- CARGO_UNBIND (R367): a set no context is bound to any longer is EMPTY and its pages enter ZEROING. -/
def cargoUnbind : Req → NonVol → Mach → Mach :=
  knaob 0x0204 aH .active (lenIs 4) (resvAt [(2, 2)])
    (fun m c r => do
      let k := pf r 0 2
      must (k < 4096) 0x35 0
      let s := getCargo m k
      must (has s.bound c) 0x45 0
      let m := modServ m c (fun v => { v with bindings := delNat k v.bindings })
      let left := delNat c s.bound
      if left.isEmpty then
        let m := match s.tag with | some t => endOp m t 0x50 0 | none => m
        .ok (okay (startZeroing { m with cargo := tdel m.cargo k } (s.pages.map (fun a => (a, 2048)))) [])
      else .ok (okay (modCargo m k (fun s => { s with bound := left })) []))

/-! ### Swaps and switches -/

/-- CARGO_SWAP (R368). -/
def cargoSwap : Req → NonVol → Mach → Mach :=
  knaob 0x0205 aH .opt (lenIs 68) noResv
    (fun m _ r => do
      let k := pf r 0 2
      let n := pf r 3 1
      must (k < 4096) 0x35 0
      must (pf r 2 1 ≤ 1) 0x35 2
      must (n ≤ 8 && (pf r 2 1 == 1 || 1 ≤ n)) 0x35 3
      mustAll ((List.range 8).map (fun i => (addrOk (pf r (4 + 8 * i) 8), 4 + 8 * i)))
      must ((getCargo m k).st == 2) 0x45 0
      let q := newOp m r.port 0x0205 (getCargo m k).keeper
      let nx := (pf r 2 1 == 1, (List.range n).map (fun i => pf r (4 + 8 * i) 8))
      .ok (longOk (modCargo q.1 k (fun s => { s with st := 3, next := some nx, tag := some q.2 })) q.2))

/-- Whether slot `c` has a run that the sequence unit has built with rows of set `k` and that is still to start: its start is under way (R220). (DEDUCED, log entry 119) -/
def builtWith (m : Mach) (c k : Nat) : Bool :=
  (mansOf (getCtx m c)).any (fun e => e.2.runs.any (fun r => r.built && !r.started && has (runSets m c e.1 r) k))

/-- SWAP_DRAINED: no run and no repair of a DRAINING set is left: it is RELOADING (R368, R370). -/
def swapDrained (k : Nat) (m : Mach) : Mach :=
  let s := getCargo m k
  match s.next with
  | none => m
  | some q =>
    if s.st != 3 || s.inFlight != 0 || s.bound.any (fun c => builtWith m c k) || m.tier.repairs.any (·.set == k) then m
    else startLoad (modCargo m k (fun s => { s with st := 4, seed := q.1, sources := q.2, next := none, sealed := false, fetches := [],
                                                    left := List.range s.pages.length })) k

/-- CARGO_SWITCH (R369). -/
def cargoSwitch : Req → NonVol → Mach → Mach :=
  knaob 0x0206 aH .active (lenIs 36) (resvAt [(2, 2), (24, 12)])
    (fun m c r => do
      let k := pf r 0 2
      let set := pf r 20 4
      must (fld (pf r 4 8) 57 7 == 0) 0x34 4
      must (fld (pf r 12 8) 57 7 == 0) 0x34 12
      must (set < 4096) 0x34 20
      must (k < 4096) 0x35 0
      must (getCtx m c).sv.conf.isSome 0x45 0
      must ((getCargo m set).st == 2 && has (getCargo m set).bound c) 0x45 0
      let q := newOp m r.port 0x0206 c
      let old := (getCtx m c).sv.switches
      let m := (old.filter (fun e => e.1 == k)).foldl (fun m e => endOp m e.2.2 0x50 0) q.1
      let new := (old.filter (fun e => e.1 != k)) ++ [(k, (r.payload.drop 4).take 32, q.2)]
      .ok (longOk (modServ m c (fun v => { v with switches := new })) q.2))

end Sys2Proof.Machine
end

