-- ==== Sys2Proof/Machine/Tiers.lean ====
section
/-! DEFINITION. The tiers (chapter 9): accesses through the controller code, write-backs, patrol, retirement, refresh, repair of
cargo tiles, ordered closes, zeroing, calibration, and host requests through BAR2. -/

namespace Sys2Proof.Machine

/-! ### Places -/

/-- The channel of its stack a near-tier address lies in (R234). -/
def chanOf (a : Nat) : Nat := let o := a % 0x4000000000; (o / 4096 / 3 * 4096 + o % 4096) / 256 % 32
/-- The pseudo-channel of its channel a near-tier address lies in: 128 B units alternate (R234). -/
def pseudoOf (a : Nat) : Nat := let o := a % 0x4000000000; (o / 4096 / 3 * 4096 + o % 4096) / 128 % 2
/-- The subchannel of its package a far-tier address lies in: 256 B units rotate over the eight (R235). -/
def subchanOf (a : Nat) : Nat := let o := (a - 0x10000000000) % 0x8000000000; (o / 4096 / 4 * 4096 + o % 4096) / 256 % 8
/-- The page of its package a far-tier address lies in (R235). -/
def pageOf (a : Nat) : Nat := (a - 0x10000000000) % 0x8000000000 / 4096 / 4
/-- The channel or page of an address of controller `k`. -/
def errPlace (k a : Nat) : Nat := if k < 16 then chanOf a else pageOf a

/-- One second in ns. -/
def secNs : Nat := 1000000000

/-! ### The background bucket -/

/-- The rate at which a controller's background bucket refills, 1 % of its data rate, in 1/10,000 B a ns (R387). -/
def ctlBkt (k : Nat) : Nat := if k < 16 then 204800 else 12800
/-- Its limit, 64 KiB. -/
def ctlCap : Nat := 65536
/-- Whether the background bucket of a controller covers `n` bytes (R387). -/
def bktCovers (m : Mach) (k n : Nat) : Bool := 10000 * n ≤ bktLevel m (getCtl m k).bkt (ctlBkt k) ctlCap
/-- Draws `n` bytes from it. -/
def drawBkt (m : Mach) (k n : Nat) : Mach :=
  bgWork (modCtl m k (fun x => { x with bkt := bktDraw m x.bkt (ctlBkt k) ctlCap n })) (if k < 16 then n else 4 * n)

/-! ### Retirement -/

/-- A channel crosses a limit of R247. It starts to retire, or waits for the copy of another; of a stack whose pool is spent the crossing is only
counted, when `fresh` says that the channel was below the limit before (R249). Each raises the alert toward the caravaneer (Table 9.6).
(DEDUCED, log entry 96) -/
def retireChan (m : Mach) (k ch : Nat) (fresh : Bool) : Mach :=
  let x := getCtl m k
  if has x.retired ch || x.retiring == some ch || has x.crossed ch then m
  else if 2 ≤ x.retired.length + b2n x.retiring.isSome + x.crossed.length then
    (if fresh then modCtl m k (fun x => { x with late := x.late + 1, alert := true }) else m)
  else if x.retiring.isSome then modCtl m k (fun x => { x with crossed := x.crossed ++ [ch], alert := true })
  else modCtl m k (fun x => { x with retiring := some ch, alert := true })

/-- The spare page behind a page of a package, if it was retired. -/
def spareOf (x : Ctl) (page : Nat) : Option Nat := (x.remap.find? (fun q => q.1 == page)).map (·.2)

/-- Retires one page to the lowest free spare page (R250). The corrections counted so far were the old page's: they stay in the hour's
count under a place no page has. -/
def retirePage (m : Mach) (k page : Nat) : Mach :=
  let x := getCtl m k
  if x.spareFree = 0 then m
  else modCtl m k (fun x =>
    { x with remap := x.remap.filter (fun q => q.1 != page) ++ [(page, 0x40000 - x.spareFree)], spareFree := x.spareFree - 1,
             pagesRetired := satAdd x.pagesRetired 1, poolSpent := x.spareFree == 1,
             corr := x.corr.map (fun e => if e.place = page then { e with place := 2 ^ 40 + page } else e) })

/-- The pages of a row that are still to be retired, where three of it are (R250). -/
def rowLeft (m : Mach) (k page : Nat) : List Nat :=
  let row := Config.rowPages page
  let gone := fun g => (spareOf (getCtl m k) g).isSome
  if (row.filter gone).length < 3 then [] else row.filter (fun g => !gone g && !has (getCtl m k).copies g)

/-- Bytes that the copy of a page reads and writes (Table 14.7). -/
def copyBytes : Nat := 8192

/-- Copies the pages that wait while the bucket covers a copy, and lines up the rest of a row (R250, R387). (DEDUCED, log entry 97) -/
def copyPages (m : Mach) (k : Nat) : Nat → Mach
  | 0 => m
  | fuel + 1 =>
    match (getCtl m k).copies with
    | [] => m
    | page :: rest =>
      if (getCtl m k).spareFree = 0 then modCtl m k (fun x => { x with copies := [] })
      else if !bktCovers m k copyBytes then m
      else
        let m := retirePage (drawBkt (modCtl m k (fun x => { x with copies := rest })) k copyBytes) k page
        let left := rowLeft m k page
        copyPages (modCtl m k (fun x => { x with copies := x.copies ++ left })) k fuel

/-- A page of a package is to be retired (R250): its copy runs when the background bucket covers it. -/
def askRetire (m : Mach) (k page : Nat) : Mach :=
  if has (getCtl m k).copies page then m
  else copyPages (modCtl m k (fun x => { x with copies := x.copies ++ [page] })) k 64

/-- The page copies that wait, as time goes on (R387). -/
def copyTick (m : Mach) : Mach :=
  let ks := (m.tier.ctls.filter (fun e => !e.2.copies.isEmpty)).map (·.1)
  ks.foldl (fun m k => copyPages m k 64) m

/-! ### Errors -/

/-- The corrections and detections of a controller within a span before now. -/
def recent (m : Mach) (span : Nat) (es : List ErrAt) : List ErrAt := es.filter (fun e => now m - e.ns < span)

/-- A detection counts toward the retirement of its channel (R247) or retires its page (R250). -/
def noteTierUnc (m : Mach) (k a : Nat) : Mach :=
  let pl := errPlace k a
  let m := modCtl m k (fun x => { x with unc := recent m (3600 * secNs) x.unc ++ [{ ns := now m, place := pl, granule := a / 32 }] })
  let n := ((getCtl m k).unc.filter (fun e => e.place == pl)).length
  if 16 ≤ k then askRetire m k pl
  else if 2 ≤ n then retireChan m k pl (n == 2)
  else m

/-- One symbol of a granule is corrected (Table 9.4): counted, flagged, logged and put in hand for write-back; a channel over the
threshold (R247) or a page with 16 corrected granules (R250) is retired. -/
def tierCorrect (m : Mach) (k a : Nat) : Mach :=
  let pl := errPlace k a
  let span := if k < 16 then 3600 * secNs else 24 * 3600 * secNs
  let m := modCtl m k (fun x =>
    { x with corrected := satAdd x.corrected 1, eccStatus := setBit x.eccStatus 0, wb := delNat a x.wb ++ [a],
             corr := recent m span x.corr ++ [{ ns := now m, place := pl, granule := a / 32 }] })
  let m := logRec m 0x1002 clsCorrected (unitCtl k) 0 0 none (leBytes 8 a)
  let mine := (getCtl m k).corr.filter (fun e => e.place == pl)
  let lim := (getCtl m k).threshold.toNat
  if k < 16 then (if lim < mine.length then retireChan m k pl (mine.length == lim + 1) else m)
  else if 16 ≤ (mine.foldl (fun s e => insNat e.granule s) []).length then askRetire m k pl
  else m

/-- The word of NT_ECC_FIRST and FT_ECC_FIRST (Table 9.13). -/
def tierFirst (source : Nat) (cargo : Bool) (a : Nat) : W64 :=
  BitVec.ofNat 64 (1 <<< 63 ||| source <<< 62 ||| b2n cargo <<< 61 ||| a / 32 * 32)

/-- An uncorrectable granule is found (R244): counted, flagged, recorded, poisoned and reported. `who` is the context whose request
found it, none for the patrol and for the host; `patrol` tells those apart. -/
def tierDetect (m : Mach) (k a : Nat) (patrol : Bool) (who : Option Nat) : Mach :=
  let cargo := (cargoAt m a).isSome
  let m := modCtl m k (fun x =>
    { x with uncorrected := satAdd x.uncorrected 1, eccStatus := setBit x.eccStatus (if patrol then 2 else 1), wb := delNat a x.wb,
             eccFirst := if x.eccFirst.getLsbD 63 then x.eccFirst else tierFirst (b2n patrol) cargo a })
  let m := setPoison m a true
  let m := if patrol then report m 0x5005 clsInfo (unitCtl k) none 0 0 (leBytes 8 a)
    else match who with
      | some c => reportCtx m 0x2002 (unitCtl k) c 0 (leBytes 8 a ++ leBytes 1 (b2n cargo))
      | none => report m 0x2002 clsContained (unitCtl k) none 0 0 (leBytes 8 a ++ leBytes 1 (b2n cargo))
  noteUnc m

/-- The granules an access reads through the code: all of a read's, the partly written ones of a write (R244). -/
def tierTouched (a n : Nat) (write : Bool) : List Nat :=
  (granules a n).filter (fun g => !write || g < a || a + n < g + 32)

/-! ### Fabric requests -/

/-- The slot whose memory a request reaches: the owner of its IN entry, or of the milestone. -/
def requestOwner (m : Mach) (pk : Packet) : Nat :=
  if pk.opcode = 0x07 then (match msAt pk.addr with | some n => (getMs m n).owner / 4096 | none => 0)
  else match inFor m (m.fab.module == some pk.src) pk.peer pk.addr (targetLen pk) with
    | some e => e.owner / 4096
    | none => 0

/-- A request that passed customs is performed and answered (Table 10.4, R396). -/
def performAt (m : Mach) (pk : Packet) : Mach :=
  let c := requestOwner m pk
  let q := performReq (acctAdd (acctReq m c pk) c 10 pk.data.length) pk
  sendPk (acctAdd q.1 c 9 q.2.data.length) q.2

/-! ### Repair of cargo tiles -/

/-- Ends the waybill of a request with MEM_POISON, and the run with it, even where the waybill has ended since (R252). -/
def endHeld (m : Mach) (q : TierReq) : Mach :=
  match q.ref with
  | none => m
  | some r => haltMan (endWb m r.1 r.2.stream cMemPoison) r.2.ctx r.2.man cMemPoison r.2.wb

/-- A host read is completed, with the poisoned indication where bytes are poisoned (Table 9.5). -/
def hostRead (m : Mach) (a n : Nat) : Mach :=
  { m with pcie := { m.pcie with reads := m.pcie.reads ++ [rdBytes m a n], aer := m.pcie.aer + b2n (rdPoison m a n) } }

/-- What a request does once its granules have passed the code: a write is written, a read that meets poison ends its waybill with MEM_POISON
(Table 9.5). -/
def serveTier (m : Mach) (q : TierReq) : Mach :=
  match q.data with
  | some d =>
    let put := fun (x : Ctl) => { x with wb := x.wb.filter (fun w => w + 32 ≤ q.a || q.a + d.length ≤ w) }
    wrBytes ((tierTouched q.a d.length false).foldl (fun m g => match ctlOf g with | some k => modCtl m k put | none => m) m) q.a d
  | none =>
    if q.host then hostRead m q.a q.n
    else match q.ref with
      | some r => if rdPoison m q.a q.n then endWb m r.1 r.2.stream cMemPoison else m
      | none => m

/-- A repair ends: it is taken out, the tile's errors are counted in the near tier and its page retired in the far tier (Table 9.7
step 5). -/
def endRepair (m : Mach) (r : Repair) (good : Bool) : Mach :=
  let m := { m with tier := { m.tier with repairs := m.tier.repairs.filter (fun q => !(q.set == r.set && q.tile == r.tile)) } }
  let m := modCtl m r.ctl (fun x =>
    if good then { x with refetchOk := satAdd x.refetchOk 1 } else { x with refetchBad := satAdd x.refetchBad 1 })
  (if 16 ≤ r.ctl then r.bad.take 1 else r.bad).foldl (fun m g => noteTierUnc m r.ctl g) m

/-- The repair a request waits for (R251): the first that one of its granules meets. -/
def repairMet (m : Mach) (q : TierReq) : Option Repair := (granules q.a (reqLen q)).findSome? (repairAt m)

/-- The slots whose waymap reaches an address of this module through a cargo segment, and those bound to the set. -/
def cargoMappers (m : Mach) (set a : Nat) : List Nat :=
  (List.range 16).filter (fun c =>
    has (getCargo m set).bound c ||
      m.fab.waymap.any (fun e => !e.2.isIn && e.2.valid && e.2.cargo && e.2.owner == handleOf m c && handleOf m c != 0 &&
        m.fab.module == some e.2.module && e.2.target ≤ a && a < e.2.target + segBytes e.2.size))

/-- A fabric request that waited is answered as R252 says: a read with every granule poisoned; any other is performed. -/
def failPk (m : Mach) (pk : Packet) : Mach :=
  if pk.opcode = 0x01 || pk.opcode = 0x04 then
    sendPk m (mkResp pk 0x10 (rdBytes m pk.addr pk.length) (List.range (ceilDiv pk.length 32)) 0 false)
  else performAt m pk

/-- What was held goes back to the head of the controller's input, in the order in which it came. -/
def backToInput (m : Mach) (k : Nat) (qs : List TierReq) : Mach := modCtl m k (fun x => { x with input := qs ++ x.input })

/-- A held access whose tile was not repaired (R252): a read is answered poisoned, whatever of the tile it asked for; a write goes on. What is left of
it to do comes back. -/
def failHeld (m : Mach) (tile : Nat) (q : TierReq) : Mach × List TierReq :=
  match q.pk, q.pm with
  | some pk, _ => (failPk m pk, [])
  | none, some z =>
    (modBlk m z.1 (fun b => { b with pm := { b.pm with flight := b.pm.flight.map (fun f =>
      if f.ref = z.2 then { f with badTiles := f.badTiles ++ [tile] } else f) } }), [q])
  | none, none =>
    if q.data.isSome then (m, [q])
    else if q.host then ({ m with pcie := { m.pcie with reads := m.pcie.reads ++ [rdBytes m q.a q.n], aer := m.pcie.aer + 1 } }, [])
    else (endHeld m q, [])

/-- No source delivers (R252): the held reads are answered poisoned, the runs that consumed the tile halt, every context that maps
the set is told, and the page is retired with its poison. -/
def repairFail (m : Mach) (r : Repair) : Mach :=
  let a := nthN (getCargo m r.set).pages r.tile
  let mask := (cargoMappers m r.set a).foldl (fun s c => s + (1 <<< c)) 0
  let m := report m 0x2003 clsContained (unitCtl r.ctl) none mask r.set (leBytes 8 a)
  let m := endRepair m r false
  let z := r.held.foldl (fun (s : Mach × List TierReq) q => let y := failHeld s.1 a q; (y.1, s.2 ++ y.2)) (m, [])
  backToInput z.1 r.ctl z.2

/-- A good tile came: it is written whole and the held accesses are performed in arrival order (Table 9.7 step 4). -/
def repairGood (m : Mach) (r : Repair) (data : List Byte) : Mach :=
  backToInput (endRepair (wrBytes m (nthN (getCargo m r.set).pages r.tile) data) r true) r.ctl r.held

/-- Tries the sources of a repair from number `i` on. -/
def repairTry (m : Mach) (r : Repair) (i : Nat) : Mach :=
  let s := getCargo m r.set
  match fetchTile m (.repair r.ctl) s.keeper r.tile s.sources i 8 with
  | .sent m j tag => modRepair m r.set r.tile (fun r => { r with source := j, tag := tag })
  | .got m d => repairGood m r d
  | .failed m => modRepair m r.set r.tile (fun r => { r with source := noSource })

/-- Starts the repair of a tile for an uncorrectable granule, or joins the one in progress (R251). An empty source list ends it at once (R252). -/
def startRepair (m : Mach) (k set tile g : Nat) : Mach :=
  match repairOf m set tile with
  | some _ => modRepair m set tile (fun r => { r with bad := r.bad ++ [g] })
  | none =>
    let r : Repair := { ctl := k, set := set, tile := tile, source := 0, tag := 0, started := now m, got := [], bad := [g], held := [] }
    let m := { m with tier := { m.tier with repairs := m.tier.repairs ++ [r] } }
    if (getCargo m set).sources.isEmpty then repairFail m r else repairTry m r 0

/-! ### Accesses -/

/-- What the code finds in the granules of an access: single symbols corrected, more detected; a granule already poisoned counts
nothing (R242 to R244). Cargo granules start a repair. -/
def throughCode (m : Mach) (gs single double : List Nat) (who : Option Nat) : Mach :=
  let at_ := fun g => (ctlOf g).getD 0
  let m := (gs.filter (fun g => has single g && !isPoison m g)).foldl (fun m g => tierCorrect m (at_ g) g) m
  (gs.filter (fun g => has double g && !isPoison m g)).foldl (fun m g =>
    let m := tierDetect m (at_ g) g false who
    match cargoAt m g with
    | some q => startRepair m (at_ g) q.1 q.2 g
    | none => noteTierUnc m (at_ g) g) m

/-- Whether a granule of a narrow read joins an outstanding read (R259). -/
def joinsAt (m : Mach) (k : Nat) (q : TierReq) (g : Nat) : Bool :=
  q.joins && (getCtl m k).narrow.any (fun e => e.1 == g && e.2 < 64)

/-- A narrow read, granule by granule (R259): it joins a read outstanding to the granule, at no access, or opens one through the code. -/
def narrowRead (m : Mach) (k : Nat) (q : TierReq) : Mach :=
  (granules q.a q.n).foldl (fun m g =>
    if joinsAt m k q g then
      modCtl m k (fun x => { x with combined := satAdd x.combined 1, narrow := x.narrow.map (fun e => if e.1 = g then (e.1, e.2 + 1) else e) })
    else throughCode (modCtl m k (fun x => openNarrow k x g)) [g] q.single q.double q.who) m

/-- Holds a request at the repair of a tile it meets; where the controller holds 64 already it comes back (R251). -/
def holdReq (m : Mach) (k : Nat) (r : Repair) (q : TierReq) : Mach × Option TierReq :=
  if 64 ≤ heldAt m k then (m, some q) else (modRepair m r.set r.tile (fun r => { r with held := r.held ++ [q] }), none)

/-- Takes a request in at a controller (R237 to R244, R251, R259): it goes through the code and is served, or held while a tile it meets is
repaired. One that is not taken comes back as it then stands. -/
def takeReq (m : Mach) (k : Nat) (q : TierReq) : Mach × Option TierReq :=
  let later : TierReq := { q with single := [], double := [], ondie := 0 }
  match repairMet m q with
  | some r => holdReq m k r q
  | none =>
    match q.pk, q.pm with
    | some pk, _ => (performAt m pk, none)
    | none, some z => (pmResume m z [], none)
    | none, none =>
      let m := modCtl m k (fun x => { x with ondie := satAdd x.ondie q.ondie })
      let m := if q.data.isNone && q.n ≤ 64 && !q.host then narrowRead m k q
        else throughCode m (tierTouched q.a (reqLen q) q.data.isSome) q.single q.double q.who
      match repairMet m later with
      | some r => holdReq m k r later
      | none => (serveTier m later, none)

/-- A request arrives at a controller. Behind a stalled input it waits; the one that is not taken stalls it (R251). -/
def arriveReq (m : Mach) (k : Nat) (q : TierReq) : Mach :=
  if !(getCtl m k).input.isEmpty then modCtl m k (fun x => { x with input := x.input ++ [q] })
  else
    let r := takeReq m k q
    match r.2 with
    | none => r.1
    | some q => modCtl r.1 k (fun x => { x with input := q :: x.input })

/-- Takes in the requests behind a stalled input, in order, until one stalls it again. -/
def drainInput (m : Mach) (k : Nat) : Nat → Mach
  | 0 => m
  | fuel + 1 =>
    match (getCtl m k).input with
    | [] => m
    | q :: rest =>
      let r := takeReq (modCtl m k (fun x => { x with input := rest })) k q
      match r.2 with
      | none => drainInput r.1 k fuel
      | some q => modCtl r.1 k (fun x => { x with input := q :: x.input })

/-- What goes on once a repair has ended: what it held, and what is behind (R251). -/
def afterRepair (m : Mach) (k : Nat) : Mach := drainInput m k ((getCtl m k).input.length + 1)

/-- An answer to a repair's read: good data repairs the tile, anything else moves to the next source. -/
def repairResponse (m : Mach) (tag : Nat) (data : List Byte) (good : Bool) : Mach :=
  match m.tier.repairs.find? (fun r => r.tag == tag && r.source != noSource) with
  | none => m
  | some r =>
    if fenced m (nthN (getCargo m r.set).pages r.tile) then m
    else afterRepair (if good then repairGood m r data else repairTry m r (r.source + 1)) r.ctl

/-- CARGO_SOURCE_TIMEOUT: the read under a tag was not answered within 200 µs, and the next source is tried (R251, R366). -/
def sourceTimeout (tag : Nat) (m : Mach) : Mach :=
  match m.fab.out.find? (fun o => o.tag == tag) with
  | none => m
  | some o =>
    match o.holder with
    | .repair _ =>
      let m := { m with fab := { m.fab with out := m.fab.out.filter (fun o => o.tag != tag) } }
      repairResponse m tag [] false
    | .cargo k => cargoSourceTimeout m k
    | _ => m

/-- CARGO_REFETCH_DEADLINE: no good tile came by the set's re-fetch deadline (R252). -/
def refetchDeadline (set tile : Nat) (m : Mach) : Mach :=
  match repairOf m set tile with
  | none => m
  | some r => afterRepair (repairFail { m with fab := { m.fab with out := m.fab.out.filter (fun o => o.tag != r.tag || r.source == noSource) } } r) r.ctl

/-- TIER_ACCESS: a controller performs a read or write of `n` bytes at `a` (R237 to R244, R251, R259). `who` is the context it serves,
`at` the block and item of a waybill that consumes it; `single` and `double` are the granules in which the code finds one and more
bad symbols, `ondie` the repairs the die reports, `joins` whether a narrow read of the same granule is still outstanding. -/
def tierAccess (a n : Nat) (data : Option (List Byte)) (who : Option Nat) (ref : Option (Nat × ItemRef)) (single double : List Nat)
    (ondie : Nat) (joins : Bool) (m : Mach) : Mach :=
  match ctlOf a with
  | none => m
  | some k =>
    let len := match data with | some d => d.length | none => n
    if len = 0 || a / 4096 != (a + len - 1) / 4096 then m
    else if fenced m a then (match ref with | some q => endWb m q.1 q.2.stream cMemPoison | none => m)
    else arriveReq m k { a := a, n := len, data := data, who := who, ref := ref, single := single, double := double, ondie := ondie,
                         joins := joins, host := false }

/-- TIER_ECC_WRITEBACK: the oldest corrected granule in hand is written back in a free write slot (Table 9.4). -/
def tierWriteback (k : Nat) (m : Mach) : Mach := modCtl m k (fun x => { x with wb := x.wb.drop 1 })

/-- What a patrol read finds in a granule (R246). -/
def patrolFinds (m : Mach) (k g : Nat) (single double : Bool) : Mach :=
  if isPoison m g then m
  else if double then
    let m := tierDetect m k g true none
    match cargoAt m g with
    | some q => startRepair m k q.1 q.2 g
    | none => noteTierUnc m k g
  else if single then tierCorrect m k g
  else m

/-- TIER_PATROL_READ: the patrol reads the granule at `a`, once the controller's background bucket covers it (R246, R387); `ondie` are the repairs
the die reports, `ends` says that it ends a pass. -/
def tierPatrol (a : Nat) (single double ends : Bool) (ondie : Nat) (m : Mach) : Mach :=
  match ctlOf a with
  | none => m
  | some k =>
    if fenced m a || !bktCovers m k 32 then m else
    let m := modCtl (drawBkt m k 32) k (fun x => { x with ondie := satAdd x.ondie ondie, passes := if ends then satAdd x.passes 1 else x.passes })
    patrolFinds m k (a / 32 * 32) single double

/-- RETIREMENT_COPY_DONE: the copy of a retiring channel ends, the remap takes effect and the channel is powered down, `ns`
after it began (Table 9.6, R388). A channel that crossed the limit meanwhile is next (R247). -/
def copyDone (k ns : Nat) (m : Mach) : Mach :=
  match (getCtl m k).retiring with
  | none => m
  | some ch =>
    let m := modCtl m k (fun x =>
      let r := insNat ch x.retired
      { x with retiring := x.crossed.head?, crossed := x.crossed.drop 1, retired := r, poolSpent := r.length == 2 })
    report m 0x1005 clsCorrected (unitCtl k) none 0 0 (leBytes 8 2500000000 ++ leBytes 8 ns)

/-- REFRESH_EVALUATION: hourly, a package's refresh rate is doubled while a die is at 85 °C or more (`hot`) or more than 1,024
granules were corrected in the hour, and restored after 24 h below both limits (R250). -/
def refreshEval (k : Nat) (hot : Bool) (m : Mach) : Mach :=
  if k < 16 then m else
  let x := getCtl m k
  if hot || 1024 < (recent m (3600 * secNs) x.corr).length then modCtl m k (fun x => { x with refreshX2 := true, coolSince := now m })
  else if x.refreshX2 && 24 * 3600 * secNs ≤ now m - x.coolSince then modCtl m k (fun x => { x with refreshX2 := false })
  else m

/-! ### Ordered windows -/

/-- Applies the log of a window: by element, then by key, equal keys in arrival order (R256). -/
def applyLog (m : Mach) (w : OrdWin) : Mach :=
  (sortKey (fun (e : OrdEnt) => e.addr * 2 ^ 64 + e.key) w.log).foldl (fun m e => (adderElem m e.addr w.fmt false e.poison e.val).1) m

/-- ORDERED_CLOSE: the close milestone meets its target, and each controller sorts its log and applies it (R256). -/
def orderedClose (n : Nat) (m : Mach) : Mach :=
  match tget none m.tier.wins n with
  | none => m
  | some w =>
    if w.closing || !msMet (getMs m w.closeMs).value.toNat w.closeTarget then m
    else
      let m := applyLog m w
      { m with tier := { m.tier with wins := tset none m.tier.wins n (some { w with closing := true, log := [] }) } }

/-- ORDERED_SHARE_CLOSED: every controller has finished its share; the done milestone advances by 1 and the window's slot is free
(R256). -/
def orderedDone (n : Nat) (m : Mach) : Mach :=
  match tget none m.tier.wins n with
  | none => m
  | some w => if w.closing then advanceMs { m with tier := { m.tier with wins := tdel m.tier.wins n } } w.doneMs 1 else m

/-! ### Zeroing and calibration -/

/-- ZEROING_COMPLETE: the ZEROING range that begins at `a` has been overwritten and may be mapped again (R215). Pages of a pool that it
holds are free again (R225). -/
def zeroingComplete (a : Nat) (m : Mach) : Mach :=
  match m.zeroing.find? (fun q => q.1 == a) with
  | none => m
  | some q =>
    let m := zeroRange { m with zeroing := m.zeroing.erase q } q.1 q.2
    (List.range 16).foldl (fun m c =>
      let x := getCtx m c
      let back := x.sv.zeroing.filter (fun g => pageAddr x g == a)
      if back.isEmpty then m
      else modServ m c (fun s => back.foldl freePage { s with zeroing := s.zeroing.filter (fun g => !back.any (· == g)) })) m

/-- The margin key of a unit (R389). -/
def marginKey (quantity unit : Nat) : Nat := quantity * 2 ^ 32 + unit

/-- How far a result lies on the good side of its warning level (Table 14.8, Table 18.6): quantity 0 droop depth in mV, 1 slack in ps, 2 optical power in
hundredths of a dB below its value at manufacture, 3 symbol errors in 10^9, 4 eye width in hundredths of a UI, 5 die temperature in °C.
(DESIGN CHOICE, log entry 111) -/
def marginDist (quantity : Nat) (x : Int) : Int :=
  match quantity with
  | 0 => 40 - x
  | 1 => x - 25
  | 2 => 150 - x
  | 3 => 10000 - x
  | 4 => x - 30
  | _ => 90 - x

/-- Records a margin result (R389): `d` says how far it lies above its warning level. A margin that crosses below the level is logged
and sent to the board controller. -/
def noteMargin (m : Mach) (quantity unit : Nat) (x : Int) : Mach :=
  let key := marginKey quantity unit
  let old := tget [] m.health.margins key
  let was := match old.getLast? with | some q => decide (marginDist quantity q.2 < 0) | none => false
  let new := (old.filter (fun q => now m - q.1 < 24 * 3600 * secNs)) ++ [(now m, x)]
  let m := { m with health := { m.health with margins := tset [] m.health.margins key new } }
  if marginDist quantity x < 0 && !was then report m 0x5001 clsInfo (unitChip 5) none 0 0 (leBytes 1 quantity ++ leBytes 4 unit) else m

/-- What the time a calibration blocks costs its bucket: 1 µs of a pseudo-channel, 2 µs of a subchannel, at their shares of the data rate
(Table 14.7). (DEDUCED, log entry 97) -/
def calBytes : Nat := 32000

/-- PERIODIC_CALIBRATION: a channel or subchannel is calibrated, once the background bucket covers its time (R386, R387), and its eye width
measured (Table 14.8): quantity 4, unit of its controller and channel. -/
def calibrate (k ch : Nat) (d : Int) (m : Mach) : Mach :=
  if 32 ≤ k || !bktCovers m k calBytes then m else noteMargin (drawBkt m k calBytes) 4 (k * 64 + ch) d

/-! ### Host requests -/

/-- Whether bytes lie where BAR2 reaches (R233). -/
def bar2Reaches (a n : Nat) : Bool := 0 < n && isPopulated a && isPopulated (a + n - 1) && (aliasFree a n)
where
  /-- No byte in an alias range: an alias belongs to a context slot, and a host request comes from none (R120). -/
  aliasFree (a n : Nat) : Bool := !isSp a || ((a - spBase) % 0x100000 + n ≤ 0xC0000)

/-- What the module completes a BAR2 request with: none where it reaches memory, 1 Unsupported Request, 2 Completer Abort (R233, R475). -/
def bar2Stop (m : Mach) (a n : Nat) : Option Nat :=
  if m.pwr.boot != .running || !m.pcie.linkUp then some 1
  else if m.pwr.st = 3 || m.rst.oos then some 2
  else if bar2Reaches a n then none else some 1

/-- A host access to scratchpad bytes: a request of master 6 to each line, through SECDED (R107, R112, R121). -/
def bar2Bank (m : Mach) (a n : Nat) (single double : List Nat) (write : Bool) : Mach :=
  let p := (a - spBase) / 0x100000
  let off := (a - spBase) % 0x100000
  let at_ := fun (l : List Nat) => l.filterMap (fun g => if spAddr p 0 ≤ g then some (g - spAddr p 0) else none)
  let reads := touched off n write
  let m := ((at_ single).filter (fun g => has reads g && !isPoison m (spAddr p g))).foldl (fun m g => spCorrect m p g) m
  let m := ((at_ double).filter (fun g => has reads g && !isPoison m (spAddr p g))).foldl (fun m g => spDetect m p g false 16) m
  portLines m a n write

/-- A host request reaches a bank or a tier controller. -/
def hostReq (m : Mach) (q : TierReq) : Mach :=
  let len := match q.data with | some d => d.length | none => q.n
  if isSp q.a then serveTier (bar2Bank m q.a len q.single q.double q.data.isSome) q
  else match ctlOf q.a with
    | some k => arriveReq m k q
    | none => serveTier m q

/-- BAR2_READ: a host read reaches module memory, or is completed with Unsupported Request or Completer Abort and changes nothing
of the module (R233, R475). A poisoned granule gives the completion its poisoned indication (Table 9.5). (DEDUCED, log entry 44) -/
def bar2Read (a n : Nat) (single double : List Nat) (ondie : Nat) (m : Mach) : Mach :=
  match bar2Stop m a n with
  | some 1 => { m with pcie := { m.pcie with ur := m.pcie.ur + 1 } }
  | some _ => { m with pcie := { m.pcie with ca := m.pcie.ca + 1 } }
  | none =>
    if fenced m a then { m with pcie := { m.pcie with reads := m.pcie.reads ++ [List.replicate n 0], aer := m.pcie.aer + 1 } }
    else hostReq m { a := a, n := n, data := none, who := none, ref := none, single := single, double := double, ondie := ondie, joins := false,
                     host := true }

/-- BAR2_WRITE: a host write reaches module memory, or is discarded and reported (R233). (DEDUCED, log entry 44) -/
def bar2Write (a : Nat) (data : List Byte) (single double : List Nat) (ondie : Nat) (m : Mach) : Mach :=
  match bar2Stop m a data.length with
  | some 1 => { m with pcie := { m.pcie with ur := m.pcie.ur + 1 } }
  | some _ => { m with pcie := { m.pcie with ca := m.pcie.ca + 1 } }
  | none =>
    if fenced m a then m
    else hostReq m { a := a, n := data.length, data := some data, who := none, ref := none, single := single, double := double, ondie := ondie,
                     joins := false, host := true }

/-! ### Commands -/

/-- A stack controller takes a new threshold: a channel whose corrections of the last hour exceed it, and did not exceed the old one, has crossed it
(R247, R249). -/
def setThreshold (m : Mach) (k t : Nat) : Mach :=
  let x := getCtl m k
  let count := fun (ch : Nat) => ((recent m (3600 * secNs) x.corr).filter (fun e => e.place == ch)).length
  (List.range 32).foldl (fun m ch => if t < count ch && count ch ≤ x.threshold.toNat then retireChan m k ch true else m)
    (modCtl m k (fun x => { x with threshold := BitVec.ofNat 32 t }))

/-- RETIRE_THRESHOLD (R247). -/
def retireThreshold : Req → NonVol → Mach → Mach :=
  knaob 0x0706 aB .none (lenIs 4) noResv
    (fun m _ r => do
      let t := pf r 0 4
      must (1024 ≤ t && t ≤ 16777215) 0x35 0
      .ok (okay ((List.range 12).foldl (fun m k => setThreshold m k t) m) []))

/-- Clears W1C bits of a controller's ECC flags, with ECC_FIRST where the flag it records is cleared (R267). -/
def clearEcc (x : Ctl) (clear sets : W32) : Ctl :=
  let source := b2n (x.eccFirst.getLsbD 62)
  { x with eccStatus := w1c x.eccStatus (clear &&& 7) (sets &&& 7),
           eccFirst := if x.eccFirst.getLsbD 63 && clearedBit clear sets (1 + source) then 0 else x.eccFirst }

/-- ECC_CLEAR (R267, R430); `sets` are the flags that are set in the same cycle. (DESIGN CHOICE, log entry 36) -/
def eccClear (sets : W32) : Req → NonVol → Mach → Mach :=
  knaob 0x0707 aB .none (lenIs 8) (resvAt [(2, 2)])
    (fun m _ r => do
      let tier := pf r 0 1
      let unit := pf r 1 1
      let bits := pf r 4 4
      must (bits < 8) 0x34 4
      must (tier ≤ 1) 0x35 0
      must (unit < (if tier = 0 then 12 else 16)) 0x35 1
      let k := if tier = 0 then unit else 16 + unit
      let b := BitVec.ofNat 32 bits
      .ok (okay (modCtl m k (fun x => clearEcc x b sets)) (leBytes 4 (racedBits b (sets &&& 7)).toNat)))

end Sys2Proof.Machine
end

