-- ==== Sys2Proof/Machine/Links.lean ====
section
/-! DEFINITION. The link layer (R278 to R286): packets as bytes, flits, tolls, replay, lanes and reach, the reorder buffer,
and the egress arbiter (R212). -/

namespace Sys2Proof.Machine

/-! ### Packets as bytes (Table 10.3) -/

/-- Whether a packet of an opcode carries data (Tables 10.4 and 11.3). -/
def carriesData (opcode : Nat) : Bool := opcode != 0x01 && opcode != 0x04 && opcode != 0x11 && opcode != 0x12

/-- Byte 1 of the header: flags and class. -/
def flagByte (pk : Packet) : Nat :=
  b2n pk.keyed <<< 7 ||| b2n pk.saturated <<< 6 |||
    (if pk.length ≤ 64 || !carriesData pk.opcode then b2n (has pk.poison 0) <<< 4 ||| b2n (has pk.poison 1) <<< 5 else 0) |||
    (pk.cls % 4) <<< 2 ||| b2n pk.ordered <<< 1 ||| b2n pk.relaxed

/-- The 16-byte poison mask of a packet whose data exceeds 64 B. -/
def poisonWord (ps : List Nat) : Nat := ps.foldl (fun a i => a ||| 1 <<< i) 0

/-- The bytes of a packet (R278). -/
def pkBytes (pk : Packet) : List Byte :=
  leBytes 1 pk.opcode ++ leBytes 1 (flagByte pk) ++ leBytes 2 ((pk.length / 32 - 1) % 128) ++ leBytes 2 (pk.src % 8192) ++
    leBytes 2 (pk.dst % 8192) ++ leBytes 8 pk.addr ++ leBytes 2 pk.membership ++ leBytes 2 pk.peer ++ leBytes 4 pk.epoch ++
    leBytes 3 pk.sequence ++ leBytes 1 (pk.subcode % 16 * 16 + pk.srcSlot % 16) ++ leBytes 4 pk.tag ++
    (if carriesData pk.opcode then (if 64 < pk.length then leBytes 16 (poisonWord pk.poison) else []) ++ padTo pk.length pk.data else [])

/-- Reads one packet from the front of a byte stream: none while it has not come whole. -/
def pkParse (bs : List Byte) : Option (Packet × List Byte) :=
  if bs.length < 32 then none else
  let op := recNat bs 0 1
  let fl := recNat bs 1 1
  let len := ((recNat bs 2 2) % 128 + 1) * 32
  let mask := if carriesData op && 64 < len then 16 else 0
  let n := if carriesData op then len else 0
  if bs.length < 32 + mask + n then none else
  let pz := if carriesData op && 64 < len then (List.range 128).filter (tbit (recNat bs 32 16))
    else (List.range 2).filter (fun i => tbit fl (4 + i))
  let pk : Packet :=
    { opcode := op, keyed := tbit fl 7, saturated := tbit fl 6, poison := pz, cls := fld fl 2 2, ordered := tbit fl 1, relaxed := tbit fl 0,
      length := if op = 0x11 || op = 0x12 then 0 else len, src := recNat bs 4 2 % 8192, dst := recNat bs 6 2 % 8192, addr := recNat bs 8 8,
      membership := recNat bs 16 2, peer := recNat bs 18 2, epoch := recNat bs 20 4, sequence := recNat bs 24 3,
      subcode := recNat bs 27 1 / 16, srcSlot := recNat bs 27 1 % 16, tag := recNat bs 28 4, data := (bs.drop (32 + mask)).take n }
  some (pk, bs.drop (32 + mask + n))

/-- Every whole packet of a byte stream, idle zero bytes between packets left out, and the bytes of the packet still to come. -/
def pkParseAll : Nat → List Byte → List Packet × List Byte
  | 0, bs => ([], bs)
  | fuel + 1, bs =>
    let bs := bs.dropWhile (· == 0)
    match pkParse bs with
    | none => ([], bs)
    | some (pk, rest) => let q := pkParseAll fuel rest; (pk :: q.1, q.2)

/-- Bytes of a packet of an opcode and length on a link: the header, and with data its bytes and, above 64 B, the poison mask. -/
def wireBytes (opcode len : Nat) : Nat := 32 + (if carriesData opcode then (if 64 < len then 16 else 0) + len else 0)
/-- Bytes of a packet on a link. -/
def pkSize (pk : Packet) : Nat := wireBytes pk.opcode pk.length

/-- The check value of flits: CRC-64 of ECMA-182 (Table 10.5). -/
def crc64Cfg : CvCfg :=
  { width := 64, poly := 0x42F0E1EBA9EA3693, init := 0, reflectIn := false, reflectOut := false, invert := false }
/-- CRC-64 of bytes. -/
def crc64 (bs : List Byte) : Nat := checkValue crc64Cfg bs

/-! ### Links -/

/-- Link `k`. -/
def getLink (m : Mach) (k : Nat) : LinkS := tget linkReset m.fab.links k
/-- Changes link `k`. -/
def modLink (m : Mach) (k : Nat) (f : LinkS → LinkS) : Mach := { m with fab := { m.fab with links := tmod linkReset m.fab.links k f } }
/-- The next flit sequence; 0xFFF marks control flits (R281). -/
def nextFlit (s : Nat) : Nat := (s + 1) % 4095
/-- The unit of link `k` (Table 15.4). -/
def unitLink (k : Nat) : Nat := unitChip (0x10 + k)

/-- The acknowledgement field of a flit the module sends (Table 10.5). -/
def ackField (x : LinkS) : Nat := (if x.heard then x.lastRecv ||| 1 <<< 14 else 0)

/-- Puts a flit of packet bytes on the wire and in the retry buffer (R281, R283). -/
def emitFlit (x : LinkS) (body : List Byte) (pks : List Packet) : LinkS :=
  { x with nextSeq := nextFlit x.nextSeq, sent := x.sent ++ [{ seq := x.nextSeq, body := body, pks := pks }],
           line := x.line ++ [.packets x.nextSeq (ackField x) body] }

/-- Puts the flits of the retry buffer on the wire again, from the oldest (R283). -/
def resendFlits (x : LinkS) : LinkS :=
  { x with replay := satAdd x.replay x.sent.length, line := x.line ++ x.sent.map (fun q => .packets q.seq (ackField x) q.body) }

/-- The bytes of a flit on the wire (Table 10.5). The spec places the toll counts of a control flit nowhere: their bytes are free. -/
def flitBytes (q : LineFlit) : List Byte :=
  let head := match q with
    | .packets seq ack body => leBytes 2 seq ++ leBytes 2 ack ++ padTo 244 body
    | .control ack tolls => leBytes 2 0xFFF ++ leBytes 2 ack ++ padTo 244 (Config.tollBytes tolls)
  head ++ leBytes 8 (crc64 head)

/-! ### The reorder buffer and the tolls the module grants -/

/-- The modules that are granted a reserve of the reorder buffer (R280): the other modules in a member set, in ascending order as far as reserves
of 4 packets fit it with room left. (DESIGN CHOICE, log entry 90) -/
def reserveModules (m : Mach) : List Nat :=
  ((m.ctxs.foldl (fun a e => e.2.mem.members.foldl (fun a x => insNat x a) a) []).filter (fun x => m.fab.module != some x)).take 4095

/-- Packets of a source in the reorder buffer. -/
def heldFrom (m : Mach) (src : Nat) : Nat := (m.fab.reorder.filter (fun q => q.src == src)).length

/-- Bytes in the reorder buffer. -/
def heldBytes (m : Mach) : Nat := m.fab.reorder.foldl (fun a q => a + pkSize q) 0

/-- Whether the reorder buffer is full outside the reserves of 4 packets a source (R280). (DESIGN CHOICE, log entry 90) -/
def outsideFull (m : Mach) : Bool :=
  let srcs := m.fab.reorder.foldl (fun a q => insNat q.src a) []
  let own := reserveModules m
  16384 - 4 * own.length ≤ srcs.foldl (fun a s => a + (heldFrom m s - (if has own s then 4 else 0))) 0

/-- Whether the reorder buffer has room for a packet (R280). -/
def reorderTakes (m : Mach) (pk : Packet) : Bool :=
  heldBytes m + pkSize pk ≤ 2 ^ 23 && (!outsideFull m || (has (reserveModules m) pk.src && heldFrom m pk.src < 4))

/-- The rate of a link's bucket, 498.5 MB/s. -/
def linkRate : Nat := 4985
/-- Its limit. -/
def linkCap : Nat := 8192

/-- Whether a context of this module is being restored from its twin, which sends it background packets (R291, R362). -/
def remounting (m : Mach) : Bool := m.ctxs.any (fun e => e.2.el.restore.isSome)

/-- Whether the inbound bucket of link `k` covers a background packet of the longest kind, 4 KiB of tiles (R291, R387). -/
def inboundCovers (m : Mach) (k : Nat) : Bool := 10000 * 4144 ≤ bktLevel m (getLink m k).bktIn linkRate linkCap

/-- The toll counts link `k` grants its plane (R282): of requests none while the reorder buffer is full outside the reserves (R280), and never
more than its space in 256 B units; of collective packets none while a remount has used up the link's inbound share for background work (R291).
How the space is shared among the links, and the buffers of the other classes, are free. (DESIGN CHOICE, log entry 90) -/
def tollCounts (m : Mach) (k : Nat) : List Nat :=
  let room := (2 ^ 23 - heldBytes m) / 256
  [if outsideFull m then 0 else min room (Config.tollGrant k 0 room), Config.tollGrant k 1 0,
   if remounting m && !inboundCovers m k then 0 else Config.tollGrant k 2 0]

/-- Sends a control flit: the acknowledgement, a NAK where `nak` says so, and the full toll counts (R281 to R283). (DESIGN CHOICE, log entry 90) -/
def sendControl (m : Mach) (k : Nat) (nak : Bool) : Mach :=
  let q := tollCounts m k
  modLink m k (fun x => { x with line := x.line ++ [.control (ackField x ||| b2n nak <<< 15) q] })

/-- Refuses a flit: the module NAKs it, once until a flit comes in order (R283). -/
def refuseFlit (m : Mach) (k : Nat) : Mach :=
  let first := !(getLink m k).nakSent
  sendControl (modLink m k (fun x => { x with nakSent := true })) k first

/-- Link `k` goes down (R284): its unacknowledged packets are sent again on the other links, before those that wait. -/
def linkDown (m : Mach) (k : Nat) : Mach :=
  let x := getLink m k
  if x.st = .down then m else
  let lost := x.sent.flatMap (·.pks) ++ x.partPks
  let y : LinkS :=
    { linkReset with failed := x.failed, replay := x.replay, fec := x.fec, down := satAdd x.down 1, downSince := some (now m), line := x.line,
                     bktOut := x.bktOut, bktIn := x.bktIn }
  let m := modLink m k (fun _ => y)
  let m := { m with fab := { m.fab with again := m.fab.again ++ lost } }
  report m 0x1004 clsCorrected (unitLink k) none 0 0 (leBytes 1 k)

/-- Sends every unacknowledged flit again (R283), or takes the link down where 16 replays of the same flit have failed. -/
def replayLink (m : Mach) (k : Nat) : Mach :=
  let x := getLink m k
  if x.sent.isEmpty then m
  else if 16 ≤ x.sameReplays then linkDown m k
  else modLink m k (fun x => { resendFlits x with sameReplays := x.sameReplays + 1 })

/-- Takes the flits up to sequence `a` out of the retry buffer, where it holds `a`. -/
def ackFlits (x : LinkS) (a : Nat) : LinkS :=
  match x.sent.findIdx? (fun q => q.seq == a) with
  | some i => { x with sent := x.sent.drop (i + 1), sameReplays := 0 }
  | none => x

/-! ### Arrival -/

/-- The reserved opcodes of collective packets (Tables 11.3 and 13.4). -/
def reservedColl (opcode : Nat) : Bool := opcode = 0x23 || (0x27 ≤ opcode && opcode ≤ 0x37) || opcode = 0x3F

/-- Hands a packet to customs: check 1 of Table 10.6 is made here, and what fails it is discarded with no reply. A collective
packet of a reserved opcode is discarded as unmatched (R300). -/
def releasePk (m : Mach) (pk : Packet) : Mach :=
  let ok := m.fab.module == some pk.dst &&
    ((pk.cls == 0 && 0x01 ≤ pk.opcode && pk.opcode ≤ 0x07) || (pk.cls == 1 && 0x10 ≤ pk.opcode && pk.opcode ≤ 0x12) ||
      (pk.cls == 2 && 0x20 ≤ pk.opcode && pk.opcode ≤ 0x3F))
  if !ok then countCustoms m pk 0
  else if pk.cls == 2 && reservedColl pk.opcode then
    match customsColl m pk with
    | some r => countCustoms m pk r
    | none => countUnmatched m
  else { m with fab := { m.fab with released := m.fab.released ++ [pk] } }

/-- Releases the held packets of a pair that now stand in sequence. -/
def releaseHeld (m : Mach) (pair : Nat) : Nat → Mach
  | 0 => m
  | fuel + 1 =>
    let e := tget 0 m.fab.seqIn pair
    match m.fab.reorder.find? (fun q => pairOf q == pair && q.sequence == e) with
    | none => m
    | some pk =>
      let f := m.fab
      let f' : FabS := { f with reorder := f.reorder.filter (fun q => q != pk), seqIn := tset 0 f.seqIn pair ((e + 1) % 2 ^ 24) }
      releaseHeld (releasePk { m with fab := f' } pk) pair fuel

/-- How many packets are remembered against duplicates (log entry 42). -/
def dupMemory : Nat := 16384

/-- What tells a packet outside the ordered streams from others: its tag, and of a collective packet, which has none of its own, what
identifies it in the operation, channel or commit (R300). None of a CH_CLOSE, whose repetition changes nothing. (DESIGN CHOICE, log entry 42) -/
def dupKey (pk : Packet) : Option (List Nat) :=
  if pk.cls = 0 then (if pk.relaxed || !pk.ordered then some [0, pairOf pk, pk.tag] else none)
  else if pk.cls = 1 then some [1, pk.src, pk.tag]
  else if pk.cls = 2 && pk.opcode != 0x26 then some [2, pairOf pk, pk.opcode, pk.addr, pk.sequence, pk.subcode, pk.tag]
  else none

/-- A packet outside the ordered streams: released at once, a duplicate dropped (R284). -/
def arriveFree (m : Mach) (pk : Packet) : Mach :=
  match dupKey pk with
  | none => releasePk m pk
  | some key =>
    if m.fab.seen.any (· == key) then m
    else
      let seen := m.fab.seen ++ [key]
      releasePk { m with fab := { m.fab with seen := seen.drop (seen.length - dupMemory) } } pk

/-- A packet comes off a link (R280, R284): ordered requests in sequence, the rest at once; a duplicate is dropped. None where the reorder buffer
has no room for it. (DESIGN CHOICE, log entries 42 and 90) -/
def arrivePk (m : Mach) (pk : Packet) : Option Mach :=
  if pk.cls != 0 || pk.relaxed || !pk.ordered then some (arriveFree m pk)
  else
    let pair := pairOf pk
    let e := tget 0 m.fab.seqIn pair
    if 2 ^ 23 ≤ (pk.sequence + 2 ^ 24 - e) % 2 ^ 24 then some m
    else if m.fab.reorder.any (fun q => pairOf q == pair && q.sequence == pk.sequence) then some m
    else if pk.sequence != e && !reorderTakes m pk then none
    else
      let m := { m with fab := { m.fab with reorder := m.fab.reorder ++ [pk] } }
      some (releaseHeld m pair (m.fab.reorder.length + 1))

/-- A packet that arrives over link `k`: what a twin sends to a remount draws on the link's inbound share for background work (R291). -/
def arriveOn (k : Nat) (m : Mach) (pk : Packet) : Option Mach :=
  (arrivePk m pk).map (fun m =>
    if pk.cls = 2 ∧ 0x3D ≤ pk.opcode ∧ pk.opcode ≤ 0x3E then
      modLink (bgWork m (4 * pkSize pk)) k (fun x => { x with bktIn := bktDraw m x.bktIn linkRate linkCap (pkSize pk) })
    else m)

/-- The acknowledgement field of a flit: what it acknowledges, and a NAK, which makes the sender replay (R283). -/
def takeAck (m : Mach) (k ack : Nat) : Mach :=
  let m := if tbit ack 14 then modLink m k (fun x => ackFlits x (ack % 4096)) else m
  if tbit ack 15 then replayLink m k else m

/-- FLIT: a flit of 256 bytes arrives on link `k`, after `fec` corrected codewords. One that fails its CRC, is out of sequence or brings a
packet for which there is no room is refused; the next in sequence is acknowledged and its packets arrive. (DESIGN CHOICE, log entry 66) -/
def flit (k : Nat) (raw : List Byte) (fec : Nat) (m : Mach) : Mach :=
  let x := getLink m k
  if 18 ≤ k || x.st != .up || m.fab.module.isNone || raw.length != 256 then m else
  let m := modLink m k (fun x => { x with fec := satAdd x.fec fec })
  if crc64 (raw.take 248) != recNat raw 248 8 then refuseFlit m k
  else
    let seq := recNat raw 0 2 % 4096
    let m := takeAck m k (recNat raw 2 2)
    if seq = 4095 || (getLink m k).st != .up then m
    else if seq = nextFlit x.lastRecv then
      let q := pkParseAll 16 (x.rx ++ (raw.drop 4).take 244)
      let taken := modLink m k (fun x => { x with lastRecv := seq, heard := true, nakSent := false, rx := q.2 })
      match q.1.foldlM (arriveOn k) taken with
      | some m => sendControl m k false
      | none => refuseFlit m k
    else if (x.lastRecv + 4095 - seq) % 4095 < 512 then sendControl m k false
    else refuseFlit m k

/-- CONTROL_FLIT: a control flit repeats the full toll counts of the three classes. One whose CRC fails is lost. -/
def controlFlit (k : Nat) (ok : Bool) (tolls : List Nat) (m : Mach) : Mach :=
  if !ok || 18 ≤ k || (getLink m k).st != .up then m
  else modLink m k (fun x => { x with tolls := (List.range 3).map (nthN tolls) })

/-- REPLAY_TIMEOUT: no acknowledgement within 4 µs (R283). -/
def replayTimeout (k : Nat) (m : Mach) : Mach := if (getLink m k).st = .up then replayLink m k else m

/-! ### Lanes -/

/-- LANE_FAILURE: a lane is declared failed and the link retrains without it, or goes down with its last lane (R284). (DESIGN CHOICE, log entry 66) -/
def laneFailure (k lane : Nat) (m : Mach) : Mach :=
  let x := getLink m k
  if x.st != .up || !has x.lanes lane then m else
  let m := modLink m k (fun x => { x with lanes := delNat lane x.lanes, failed := insNat lane x.failed, retraining := true })
  let m := report m 0x1003 clsCorrected (unitLink k) none 0 0 (leBytes 1 k ++ leBytes 1 lane)
  if (getLink m k).lanes.isEmpty then linkDown m k else m

/-- LANE_RETRAIN_COMPLETE: the link resumes on the lanes left and replays every unacknowledged flit; the episode is logged with
the bytes moved and the time it took (R284, R388). -/
def laneRetrained (k ns : Nat) (m : Mach) : Mach :=
  let x := getLink m k
  if x.st != .up || !x.retraining then m else
  let m := modLink m k (fun x => { resendFlits x with retraining := false })
  report m 0x1005 clsCorrected (unitLink k) none 0 0 (leBytes 8 (256 * x.sent.length) ++ leBytes 8 ns)

/-- PORT_SILENT: the switch plane port has sent no flit for 10 µs (R284). -/
def portSilent (k : Nat) (m : Mach) : Mach := if (getLink m k).st = .up then linkDown m k else m

/-- A link as training leaves it, on the lanes that came up. -/
def trained (x : LinkS) (lanes : List Nat) : LinkS :=
  { linkReset with st := .up, lanes := lanes, failed := (List.range 4).filter (fun i => !has lanes i), replay := x.replay, fec := x.fec, down := x.down,
                   bktOut := x.bktOut, bktIn := x.bktIn }

/-- LINK_RETRAIN_ATTEMPT: a down link is trained again (R284), on the lanes that train; out of service the links stay down. -/
def linkRetrain (k : Nat) (lanes : List Nat) (m : Mach) : Mach :=
  if 18 ≤ k || (getLink m k).st = .up || m.rst.oos || !m.pwr.fabricReady then m else
  let up := (List.range 4).filter (has lanes)
  if up.isEmpty then m else
  let m := recoveryRec { m with health := { m.health with longDown := delNat k m.health.longDown } } (unitLink k)
  modLink m k (fun x => trained x up)

/-- LINK_DOWN_PERSISTENT: a link has stayed down for 24 h, a loss beyond the pools (R393). -/
def linkDownPersistent (k : Nat) (m : Mach) : Mach :=
  let x := getLink m k
  if 18 ≤ k || x.st = .up || has m.health.longDown k then m
  else compareFloor { m with health := { m.health with longDown := insNat k m.health.longDown } } true

/-! ### Reach -/

/-- UNREACH: plane `k` returns a header; its reach bit for the destination clears and the packet is sent again on another link
(R285). The packet is known by its opcode, sequence and tag. -/
def unreach (k dst opcode sequence tag : Nat) (m : Mach) : Mach :=
  let f := m.fab
  if 18 ≤ k then m else
  let f := { f with reachClear := if f.reachClear.any (· == (dst, k)) then f.reachClear else f.reachClear ++ [(dst, k)] }
  match f.wire.findIdx? (fun q => q.1 == k && q.2.dst == dst && q.2.opcode == opcode && q.2.sequence == sequence && q.2.tag == tag) with
  | none => { m with fab := f }
  | some i => match f.wire[i]? with
    | none => { m with fab := f }
    | some q => { m with fab := { f with wire := f.wire.eraseIdx i, again := f.again ++ [q.2] } }

/-- REACH_RESTORE: a cleared reach bit is set again, 1 s after it was cleared (R285). -/
def reachRestore (k dst : Nat) (m : Mach) : Mach :=
  { m with fab := { m.fab with reachClear := m.fab.reachClear.filter (fun q => q != (dst, k)) } }

/-- REORDER_HOLE_EXPIRY: a hole of a pair has stayed open for the response timeout: the pair's held packets are discarded and
counted, and the pair goes on after the last of them (R280). -/
def holeExpiry (src slot : Nat) (m : Mach) : Mach :=
  let pair := 16 * src + slot
  let held := m.fab.reorder.filter (fun q => pairOf q == pair)
  if held.isEmpty then m else
  let e := tget 0 m.fab.seqIn pair
  let far := held.foldl (fun a q => max a ((q.sequence + 2 ^ 24 - e) % 2 ^ 24)) 0
  let f := m.fab
  let m := { m with fab := { f with reorder := f.reorder.filter (fun q => pairOf q != pair),
                                    seqIn := tset 0 f.seqIn pair ((e + far + 1) % 2 ^ 24) } }
  held.foldl (fun m q => countCustoms m q 9) m

/-! ### Egress -/

/-- The tolls a packet takes: one per 256 B (R282). -/
def tollsOf (pk : Packet) : Nat := ceilDiv (pkSize pk) 256
/-- The flits a packet adds to a link: its bytes run on in the flit being filled (R281). -/
def flitsOf (x : LinkS) (pk : Packet) : Nat := ceilDiv (x.part.length + pkSize pk) 244

/-- The packets that wait for a link: first those a link had taken before (R284, R285). -/
def waitingPks (m : Mach) : List Packet := m.fab.again ++ m.fab.txq

/-- 256 B units of the response to a request (Table 10.4). -/
def respUnits (opcode len : Nat) : Nat := if opcode = 0x01 || opcode = 0x04 || opcode = 0x06 then ceilDiv (wireBytes 0x10 len) 256 else 1

/-- Whether the response of a request can be placed beside those of the requests already sent: else the request waits (R282). How many units the
module has for responses is free, but for one request alone, whose response can be placed: else it could never be sent. (DESIGN CHOICE, log entry 90) -/
def responseFits (m : Mach) (pk : Packet) : Bool :=
  pk.cls != 0 ||
    (let gone := m.fab.out.filter (fun o => !(waitingPks m).any (fun q => q.cls == 0 && q.tag == o.tag))
     gone.isEmpty || gone.foldl (fun a o => a + respUnits o.opcode o.len) (respUnits pk.opcode pk.length) ≤ Config.respRoom)

/-- The data bytes a request asks for. -/
def askedBytes (pk : Packet) : Nat := if pk.cls = 0 && (pk.opcode = 0x01 || pk.opcode = 0x04) then pk.length else 0

/-- Whether a packet is background work (Table 14.7): a request of a cargo load, or restore traffic. -/
def isBackground (m : Mach) (pk : Packet) : Bool :=
  if pk.cls = 0 then m.fab.out.any (fun o => o.tag == pk.tag && (match o.holder with | .cargo _ => true | _ => false))
  else pk.cls == 2 && 0x3C ≤ pk.opcode && pk.opcode ≤ 0x3E

/-- Whether link `k`'s background buckets cover a packet, if it is background work, and the data it asks for (R387). -/
def bucketTakes (m : Mach) (pk : Packet) (k : Nat) : Bool :=
  let x := getLink m k
  !isBackground m pk ||
    (10000 * pkSize pk ≤ bktLevel m x.bktOut linkRate linkCap && 10000 * askedBytes pk ≤ bktLevel m x.bktIn linkRate linkCap)

/-- Whether link `k` can take a packet (R282, R283, R285, R387). -/
def linkTakes (m : Mach) (pk : Packet) (k : Nat) : Bool :=
  let x := getLink m k
  x.st == .up && !x.retraining && !m.fab.reachClear.any (· == (pk.dst, k)) && tollsOf pk ≤ nthN x.tolls pk.cls &&
    x.sent.length + flitsOf x pk ≤ 512 && bucketTakes m pk k

/-- The link a packet goes to (R285): the most request tolls weighted by lanes, the lowest number among equals. (DESIGN CHOICE, log entry 8) -/
def bestLink (m : Mach) (pk : Packet) : Option Nat :=
  ((List.range 18).foldl (fun (b : Option (Nat × Nat)) k =>
    if !linkTakes m pk k then b else
      let x := getLink m k
      let w := nthN x.tolls 0 * x.lanes.length
      match b with
      | some q => if q.2 < w then some (k, w) else b
      | none => some (k, w)) none).map (·.1)

/-- The flits that a packet completes on a link: its bytes follow those of the flit being filled, and what is left over begins the next (R281). -/
def fillFlits (x : LinkS) (pk : Packet) : LinkS :=
  let bytes := x.part ++ pkBytes pk
  let n := bytes.length / 244
  let last := (bytes.length - 1) / 244
  let x := (List.range n).foldl (fun x i =>
    emitFlit x ((bytes.drop (244 * i)).take 244) ((if i = 0 then x.partPks else []) ++ (if i = last then [pk] else []))) x
  { x with part := bytes.drop (244 * n), partPks := (if n = 0 then x.partPks else []) ++ (if last = n then [pk] else []) }

/-- Sends the flit being filled as it is: idle bytes are zero (R281). -/
def closeFlit (x : LinkS) : LinkS :=
  if x.part.isEmpty then x else { emitFlit x (padTo 244 x.part) x.partPks with part := [], partPks := [] }

/-- Puts a packet on a link: tolls and buckets are drawn on, and its bytes go out (R281, R282, R387). -/
def putOnLink (m : Mach) (k : Nat) (pk : Packet) : Mach :=
  let bg := isBackground m pk
  let m' := modLink m k (fun x =>
    let x := fillFlits x pk
    { x with tolls := modNth x.tolls pk.cls (· - tollsOf pk),
             bktOut := if bg then bktDraw m x.bktOut linkRate linkCap (pkSize pk) else x.bktOut,
             bktIn := if bg then bktDraw m x.bktIn linkRate linkCap (askedBytes pk) else x.bktIn })
  let m' := if bg then bgWork m' (4 * pkSize pk) else m'
  { m' with fab := { m'.fab with wire := m'.fab.wire ++ [(k, pk)] } }

/-- Whether a packet goes before the contexts' shares: a response, which belongs to no context, and background work (R212, R387). -/
def beforeShares (m : Mach) (pk : Packet) : Bool := pk.cls == 1 || isBackground m pk

/-- Whether the waiting packet at place `i` may leave: no earlier ordered request of its pair waits, and its response can be placed (R279, R280, R282). -/
def mayLeave (m : Mach) (i : Nat) (pk : Packet) : Bool :=
  (pk.cls != 0 || !pk.ordered ||
    !((waitingPks m).take i).any (fun q => q.cls == 0 && q.ordered && q.dst == pk.dst && q.srcSlot == pk.srcSlot)) && responseFits m pk

/-- The first waiting packet that a link can take and `want` accepts. -/
def sendable (m : Mach) (want : Packet → Bool) : Option (Nat × Packet) :=
  (((List.range (waitingPks m).length).zip (waitingPks m)).find? (fun q => want q.2 && (bestLink m q.2).isSome && mayLeave m q.1 q.2))

/-- The slot's weight at the arbiter (R212). -/
def portQuantum (m : Mach) (c : Nat) : Nat := 256 * max 1 (getCtx m c).par.portWeight

/-- Takes the waiting packet at place `i` out. -/
def unwait (f : FabS) (i : Nat) : FabS :=
  if i < f.again.length then { f with again := f.again.eraseIdx i } else { f with txq := f.txq.eraseIdx (i - f.again.length) }

/-- Numbers a packet that leaves for the first time, if it is an ordered request: in its pair of destination and source slot (R280). -/
def numberPk (f : FabS) (i : Nat) (pk : Packet) : FabS × Packet :=
  if i < f.again.length || pk.cls != 0 || !pk.ordered then (f, pk) else
  let key := 16 * pk.dst + pk.srcSlot
  let sq := tget 0 f.seqOut key
  ({ f with seqOut := tset 0 f.seqOut key ((sq + 1) % 2 ^ 24) }, { pk with sequence := sq })

/-- Sends the waiting packet at place `i`. -/
def sendAt (m : Mach) (i : Nat) (pk : Packet) : Mach :=
  match bestLink m pk with
  | none => m
  | some k =>
    let q := numberPk m.fab i pk
    putOnLink { m with fab := unwait q.1 i } k q.2

/-- Deficit round robin at link `k` (R212) from the slot served last: the slot sends while its deficit covers its packet, else the next
slot is visited and gains its weight. A slot with nothing to send keeps no deficit. -/
def drrSend (m : Mach) (k : Nat) : Nat → Mach
  | 0 => m
  | fuel + 1 =>
    let x := getLink m k
    let c := x.arb
    let go := fun (m : Mach) =>
      let d := (c + 1) % 16
      modLink m k (fun x => { x with arb := d, deficit := tmod 0 x.deficit d (· + portQuantum m d) })
    match sendable m (fun q => !beforeShares m q && q.srcSlot == c && bestLink m q == some k) with
    | none => drrSend (go (modLink m k (fun x => { x with deficit := tset 0 x.deficit c 0 }))) k fuel
    | some (i, pk) =>
      if pkSize pk ≤ tget 0 x.deficit c then sendAt (modLink m k (fun x => { x with deficit := tmod 0 x.deficit c (· - pkSize pk) })) i pk
      else drrSend (go m) k fuel

/-- With nothing to send, a flit begun is closed on every link that is up, and a control flit returns the tolls (R281). -/
def idleLinks (m : Mach) : Mach :=
  (List.range 18).foldl (fun m k =>
    let x := getLink m k
    if x.st != .up || x.retraining then m else sendControl (modLink m k closeFlit) k false) m

/-- A waiting packet now addressed to this module takes the on-chip network (R287). -/
def ownPacket (m : Mach) : Option (Nat × Packet) :=
  ((List.range (waitingPks m).length).zip (waitingPks m)).find? (fun q => m.fab.module == some q.2.dst)

/-- The waiting packets under the identifier the module now has (R270). -/
def renamed (m : Mach) (id : Nat) : Mach :=
  { m with fab := { m.fab with again := m.fab.again.map (fun q => { q with src := id }), txq := m.fab.txq.map (fun q => { q with src := id }) } }

/-- PACKET_SEND: one packet leaves (R285, R212): what goes before the shares first, then at the link of the oldest packet that may leave the one
its arbiter chooses. Until an identifier is assigned nothing is sent (R270). (DEDUCED, log entry 91) -/
def packetSend (m : Mach) : Mach :=
  if m.pwr.st = 3 then m else
  match m.fab.module with
  | none => m
  | some id =>
    let m := renamed m id
    match ownPacket m with
    | some (i, pk) => releasePk { m with fab := unwait m.fab i } pk
    | none =>
      match sendable m (beforeShares m) with
      | some (i, pk) => sendAt m i pk
      | none =>
        match (sendable m (fun _ => true)).bind (fun q => bestLink m q.2) with
        | some k => drrSend m k 320
        | none => idleLinks m

/-- What follows from a way of the waymap in which the patrol finds one bit (0) or two (1) in error: a log record, and in the second case no lookup uses
the entry (R374). -/
def notePatrol (set i : Nat) (m : Mach) (w : Nat) : Mach :=
  let e := tget noWay m.fab.waymap (8 * set + w)
  let who : Option Nat := if e.valid then some (e.owner / 4096) else none
  if 8 ≤ w then m else
  let m := if i = 0 then m else noteUnc { m with fab := { m.fab with wayBad := insNat (8 * set + w) m.fab.wayBad } }
  logRec m (Config.logCode i) (if i = 0 then clsCorrected else clsContained) (unitChip 0) 0 0 who (leBytes 4 (8 * set + w))

/-- WAYMAP_PATROL: the patrol reads the next set (R386). `single` and `double` are the ways found with one and two bits in error: the
first are corrected; the others serve no lookup until the caravaneer rewrites them from its shadow copy (R374). Each is logged. -/
def waymapPatrol (single double : List Nat) (m : Mach) : Mach :=
  let s := m.fab.wayPatrol
  let m := double.foldl (notePatrol s 1) (single.foldl (notePatrol s 0) m)
  { m with fab := { m.fab with wayPatrol := (s + 1) % 524288 } }

end Sys2Proof.Machine
end

