-- ==== Sys2Proof/Machine/Packets.lean ====
section
/-! DEFINITION. Packets at customs and at the engines that hold their tags (R287 to R292). -/

namespace Sys2Proof.Machine

/-! ### Requests -/

/-- A request at customs: performed and answered, or held at its controller (R251), or answered with the reason of the first check that fails, which
is counted (R287, R288). -/
def requestAt (m : Mach) (pk : Packet) : Mach :=
  match customsReason m pk (m.fab.module == some pk.src) with
  | some r => sendPk (countCustoms m pk r) (mkResp pk 0x12 [] [] r false)
  | none =>
    match waitsAt m pk with
    | some g => arriveReq m ((ctlOf g).getD 0)
        { a := pk.addr, n := targetLen pk, data := none, who := none, ref := none, single := [], double := [], ondie := 0, joins := false, host := false,
          pk := some pk }
    | none => performAt m pk

/-- Whether the released packet at place `i` may be performed: an ordered request stands behind the earlier ones of its stream, whatever their
kind (R279, R280). -/
def mayPerform (m : Mach) (i : Nat) (pk : Packet) : Bool := !behind (m.fab.released.take i ++ heldPks m) pk

/-- The oldest released request of an opcode that may be performed. -/
def nextRequest (m : Mach) (opcode : Nat) : Option (Nat × Packet) :=
  ((List.range m.fab.released.length).zip m.fab.released).find? (fun q => q.2.cls == 0 && q.2.opcode == opcode && mayPerform m q.1 q.2)

/-- The row of a request opcode: the oldest released packet of it that may be performed passes customs. -/
def requestRow (opcode : Nat) (m : Mach) : Mach :=
  match nextRequest m opcode with
  | none => m
  | some (i, pk) => requestAt { m with fab := { m.fab with released := m.fab.released.eraseIdx i } } pk

/-! ### Responses -/

/-- Whether a request is answered by data (Table 10.4). -/
def wantsData (opcode : Nat) : Bool := opcode == 0x01 || opcode == 0x04 || opcode == 0x06

/-- Every 32 B granule of `n` bytes. -/
def allGranules (n : Nat) : List Nat := List.range (ceilDiv n 32)

/-- Gives an answer to the engine that holds its tag. -/
def giveAnswer (m : Mach) (q : OutReq) (data : List Byte) (poison : List Nat) (sat : Bool) : Mach :=
  match q.holder with
  | .premutar p => pmResponse m p q.tag data poison
  | .vector p => veResponse m p q.tag data poison sat
  | .advance _ => m
  | .repair _ => repairResponse m q.tag data poison.isEmpty
  | .cargo k => cargoResponse m k q.tag data poison.isEmpty
  | .twin _ => m
  | .restore _ => m
  | .convoy n => convResponse m n q.tag data poison
  | .sequence _ => m
  | .watch _ => m

/-- Gives a refusal to the engine that holds its tag (R288). -/
def refused (m : Mach) (q : OutReq) (r : Nat) : Mach :=
  let m := { m with fab := { m.fab with merges := m.fab.merges.filter (fun g => g.tag != q.tag) } }
  match q.holder with
  | .premutar p => pmNack m p q.tag q.virt q.len r
  | .vector p => veNack m p q.tag (reasonCode r)
  | .advance _ => refuseAdvance m q.ctx q.man q.run q.wb (reasonCode r)
  | .repair _ => repairResponse m q.tag [] false
  | .cargo k => cargoResponse m k q.tag [] false
  | .twin _ => m
  | .restore _ => m
  | .convoy n => convFailed m n q.tag
  | .sequence _ => m
  | .watch n => proposalFault m n

/-- The granule that a write of part of it waits for has come: the bytes go into it and it is written whole; one that came poisoned is left as
it is (R244). (DESIGN CHOICE, log entry 83) -/
def mergeAnswer (m : Mach) (q : OutReq) (g : Merge) (data : List Byte) (poison : List Nat) : Mach :=
  let m := { m with fab := { m.fab with merges := m.fab.merges.filter (fun e => e.tag != q.tag) } }
  if !poison.isEmpty then giveAnswer m q [] [] false
  else match fabAccess m (unitRef q.ctx) q.holder 0x02 0 q.virt 32 (spliceBytes data g.off g.data) (if g.poison then [0] else []) false false with
    | .fault _ => refused m q 0
    | .nack m r => refused m q r
    | .done m _ => giveAnswer m q [] [] false
    | .sent m tag => match q.holder with
      | .convoy n => modColl m n (fun c => { c with writes := c.writes.map (fun t => if t = q.tag then tag else t) })
      | _ => m

/-- Gives an answer to the engine that holds its tag, or to the write of part of a granule that waits for it. -/
def answer (m : Mach) (q : OutReq) (data : List Byte) (poison : List Nat) (sat : Bool) : Mach :=
  match m.fab.merges.find? (fun g => g.tag == q.tag) with
  | some g => mergeAnswer m q g data poison
  | none => giveAnswer m q data poison sat

/-- Takes a request out of those that wait, and its packet out of those that wait for a link: an expired request is sent no more (R285). -/
def closeReq (m : Mach) (tag : Nat) : Mach :=
  let f := m.fab
  let keep := fun (q : Packet) => q.cls != 0 || q.tag != tag
  { m with fab := { f with out := f.out.filter (fun o => o.tag != tag), again := f.again.filter keep, txq := f.txq.filter keep } }

/-- The outstanding request a response answers, if its kind fits. -/
def reqOf (m : Mach) (pk : Packet) : Option OutReq :=
  m.fab.out.find? (fun o => o.tag == pk.tag && (pk.opcode == 0x12 || (pk.opcode == 0x10) == wantsData o.opcode))

/-- The row of a response opcode: a response for no outstanding request is discarded under reason 8. -/
def responseRow (opcode : Nat) (f : Mach → OutReq → Packet → Mach) (m : Mach) : Mach :=
  match takeReleased m opcode with
  | none => m
  | some (pk, m) =>
    match reqOf m pk with
    | none => countCustoms m pk 8
    | some q => f (closeReq m q.tag) q pk

/-- DATA. -/
def dataRow : Mach → Mach :=
  responseRow 0x10 (fun m q pk => answer (acctAdd m q.ctx 10 pk.data.length) q (padTo q.len pk.data) pk.poison pk.saturated)

/-- The end of the waybill whose Premutar write came back with poison (R292). -/
def poisonWrite (m : Mach) (p tag : Nat) : Mach :=
  match (getBlk m p).pm.flight.find? (fun f => has f.writeTags tag) with
  | some f => endWb m p f.ref.stream cMemPoison
  | none => m

/-- A write completes as acknowledged with poison (R292). -/
def expireWrite (m : Mach) (q : OutReq) : Mach :=
  match q.holder with
  | .premutar p => answer (poisonWrite m p q.tag) q [] [] false
  | .convoy n => convFailed m n q.tag
  | .watch n => proposalFault m n
  | _ => answer m q [] [0] false

/-- The granule that a Premutar's write of part of it waits for has not come in time (R292): the waybill ends with MEM_POISON and the granule is
written poisoned. None where the tag is of no such read. (DESIGN CHOICE, log entry 83) -/
def lateMerge (m : Mach) (p tag : Nat) : Option Mach :=
  ((getBlk m p).pm.flight.find? (fun f => f.moved && f.readTags.any (fun t => t.1 == tag))).map (fun f =>
    let gs := (f.readTags.filter (fun t => t.1 == tag)).map (·.2 / 32)
    endWb (setFlight m p { f with farPz := f.farPz ++ gs }) p f.ref.stream cMemPoison)

/-- A request completes as expired (R292): a read with every granule poisoned, a write acknowledged with poison, an advance
refused. The read of a granule for a write of part of it is that write. -/
def expire (m : Mach) (q : OutReq) : Mach :=
  if q.opcode = 0x07 then refuseAdvance m q.ctx q.man q.run q.wb cMsRemote
  else if m.fab.merges.any (fun g => g.tag == q.tag) then
    expireWrite { m with fab := { m.fab with merges := m.fab.merges.filter (fun g => g.tag != q.tag) } } q
  else if wantsData q.opcode then
    match q.holder with
    | .premutar p => match lateMerge m p q.tag with
      | some m => answer m q (List.replicate q.len 0) [] false
      | none => answer m q (List.replicate q.len 0) (allGranules q.len) false
    | _ => answer m q (List.replicate q.len 0) (allGranules q.len) false
  else expireWrite m q

/-- ACK: a write acknowledged with poison ends its waybill with MEM_POISON (Table 9.5, R403). -/
def ackRow : Mach → Mach :=
  responseRow 0x11 (fun m q pk =>
    match q.holder with
    | .premutar p => answer (if pk.poison.isEmpty then m else poisonWrite m p q.tag) q [] [] false
    | _ => answer m q [] pk.poison pk.saturated)

/-- NACK: a refusal reaches its requester; a reason outside 1 to 7 completes the request as expired (R288). -/
def nackRow : Mach → Mach :=
  responseRow 0x12 (fun m q pk =>
    let r := pk.addr % 256
    let m := modCtx m q.ctx (fun x => { x with xrRejected := satAdd x.xrRejected 1 })
    if 1 ≤ r && r ≤ 7 then refused m q r else expire m q)

/-- RESPONSE_TIMEOUT: the response timeout of a request expires (R292). -/
def responseTimeout (tag : Nat) (m : Mach) : Mach :=
  match m.fab.out.find? (fun o => o.tag == tag) with
  | none => m
  | some q => expire (modCtx (closeReq m tag) q.ctx (fun x => { x with xrTimeout := satAdd x.xrTimeout 1 })) q

end Sys2Proof.Machine
end

