-- ==== Sys2Proof/Machine/Xitriver.lean ====
section
/-! DEFINITION. The commands of the fabric: identifier, memberships, waymap, timeouts, customs flags (chapter 10). -/

namespace Sys2Proof.Machine

/-- MODULE_ID_SET (R270). -/
def moduleIdSet : Req → NonVol → Mach → Mach :=
  knaob 0x0801 (aH + aB) .none (lenIs 4) (resvAt [(2, 2)])
    (fun m _ r => do
      must (pf r 0 2 < 8192) 0x35 0
      must (m.fab.module.isNone || (List.range 16).all (fun c => let st := (getCtx m c).st; st == .free || st == .closed)) 0x45 0
      .ok (okay { m with fab := { m.fab with module := some (pf r 0 2) } } []))

/-- The members a 1,024-byte mask names. -/
def memberList (bs : List Byte) : List Nat := ((List.range bs.length).zip bs).flatMap (fun q => ((List.range 8).filter q.2.getLsbD).map (8 * q.1 + ·))

/-- The membership a command installs (R276). -/
def newMembership (x : Membership) (id e : Nat) (keep : Bool) (members : List Nat) : Membership :=
  { id := id, epoch := e, carried := if keep then x.epoch else x.carried, carriedValid := keep, members := members }

/-- MEMBERSHIP_SET (R275, R276). -/
def membershipSet : Req → NonVol → Mach → Mach :=
  knaob 0x0802 aH .active (lenIs 1032) (resvAt [(3, 1)])
    (fun m c r => do
      let x := (getCtx m c).mem
      must (pf r 2 1 ≤ 1) 0x35 2
      must (pf r 4 4 != x.epoch && (!x.carriedValid || pf r 4 4 != x.carried)) 0x35 4
      .ok (okay (modCtx m c (fun y => { y with mem := newMembership x (pf r 0 2) (pf r 4 4) (pf r 2 1 == 1) (memberList (r.payload.drop 8)) })) []))

/-! ### The waymap -/

/-- The first and last-plus-one of the populated bytes of the region window, or of the strides, that hold an address; the
module-reserved area is left out (Table 9.1, R236). -/
def windowOf (a : Nat) : Option (Nat × Nat) :=
  if a < 0x10000000000 then
    let b := a / 0x4000000000 * 0x4000000000
    if a < b + 0x37A11D6000 then some (b, b + 0x37A11D6000) else none
  else if a < 0x30000000000 then
    let b := 0x10000000000 + (a - 0x10000000000) / 0x8000000000 * 0x8000000000
    if a < b + 0x7735940000 then some (b, b + 0x7735940000) else none
  else if isSp a then some (spBase, spBase + 1088 * 0x100000)
  else none

/-- Whether every byte of a segment lies where R233 and R271 let a mapping lie. -/
def segReachable (a n : Nat) : Bool := match windowOf a with | some w => a + n ≤ w.2 | none => false

/-- Whether every controller that serves an address's window is present. -/
def windowPresent (m : Mach) (a : Nat) : Bool :=
  if a < 0x10000000000 then (List.range 3).all (fun i => (getCtl m (3 * (a / 0x4000000000) + i)).st != 3)
  else if a < 0x30000000000 then (List.range 4).all (fun i => (getCtl m (16 + 4 * ((a - 0x10000000000) / 0x8000000000) + i)).st != 3)
  else true

/-- Whether a segment meets a range in ZEROING (R215). -/
def meetsZeroing (m : Mach) (a n : Nat) : Bool := m.zeroing.any (fun q => q.1 < a + n && a < q.1 + q.2)

/-- Whether a segment overlaps an entry of the same kind, and for OUT of the same slot (R273). -/
def wayOverlaps (m : Mach) (isIn : Bool) (c a n : Nat) : Bool :=
  m.fab.waymap.any (fun e => e.2.valid && e.2.isIn == isIn && (isIn || e.2.owner / 4096 == c) && e.2.base < a + n && a < e.2.base + segBytes e.2.size)

/-- The lowest free way of a set. -/
def freeWay (t : Tbl WayEnt) (s : Nat) : Option Nat := (List.range 8).find? (fun w => !(tget noWay t (8 * s + w)).valid)

/-- Puts entries at their sets, all or nothing. -/
def putWays (t : Tbl WayEnt) : List WayEnt → Option (Tbl WayEnt)
  | [] => some t
  | e :: es =>
    let s := waymapSet (b2n e.isIn) (if e.isIn then 0 else e.owner / 4096) e.size e.base
    match freeWay t s with
    | none => none
    | some w => putWays (tset noWay t (8 * s + w) e) es

/-- The advance segment (R273). -/
def isAdvance (a : Nat) : Bool := a == 0x7F002000000

/-- WAYMAP_MAP (R272 to R274). Over pages of a cargo set only a context bound to it, or its keeper, may map (R367). (DEDUCED, log entry 118) -/
def waymapMap : Req → NonVol → Mach → Mach :=
  knaob 0x0803 aH .active (lenIs 32) (resvAt [(3, 1), (20, 4)])
    (fun m c r => do
      let isIn := pf r 0 1 == 1
      let z := pf r 1 1
      let p := pf r 2 1
      let n := pf r 4 4
      let base := pf r 8 8
      let target := pf r 24 8
      let sz := segBytes z
      must (p < 32) 0x34 2
      must (pf r 0 1 ≤ 1) 0x35 0
      must (z ≤ 2) 0x35 1
      must (!(tbit p 4 && (tbit p 1 || tbit p 2))) 0x35 2
      must (!(isIn && tbit p 3)) 0x35 2
      must (isIn || !tbit p 3 || (p == 8 && z == 0 && n == 1 && isAdvance target)) 0x35 2
      must (!tbit p 2 || !isSp (if isIn then base else target)) 0x35 2
      must (1 ≤ n && n ≤ 4096) 0x35 4
      must (base % sz == 0 && (isIn || base + n * sz ≤ 2 ^ 57)) 0x35 8
      must (!isIn || (List.range n).all (fun i => segReachable (base + i * sz) sz)) 0x35 8
      must (pf r 16 2 < 8192 && (!isIn || pf r 16 2 == 0)) 0x35 16
      must (!isIn || target == 0) 0x35 24
      must (isIn || target % sz == 0) 0x35 24
      must (isIn || tbit p 3 || !isAdvance target) 0x35 24
      must (isIn || tbit p 3 || (List.range n).all (fun i => segReachable (target + i * sz) sz)) 0x35 24
      let segs : List Nat := (List.range n).map (fun i => base + i * sz)
      let local_ : List Nat := if isIn then segs else if m.fab.module == some (pf r 16 2) && !tbit p 3 then (List.range n).map (fun i => target + i * sz) else []
      must (local_.all (windowPresent m)) 0x43 0
      must (!local_.any (fun a => meetsZeroing m a sz)) 0x10 0
      must (!segs.any (fun a => wayOverlaps m isIn c a sz)) 0x44 0
      let sets := m.cargo.filter (fun e => e.2.st != 0 && e.2.pages.any (fun g => local_.any (fun a => g < a + sz && a < g + 2048)))
      must (sets.all (fun e => e.2.keeper == c || has e.2.bound c)) 0x45 0
      must (sets.isEmpty || tbit p 4 || !(tbit p 1 || tbit p 2)) 0x44 0
      let mk := fun (i : Nat) =>
        ({ valid := true, isIn := isIn, size := z, read := tbit p 0, write := tbit p 1, atomic := tbit p 2, advance := tbit p 3, cargo := tbit p 4,
           module := pf r 16 2, owner := handleOf m c, peer := pf r 18 2, epoch := (getCtx m c).mem.epoch,
           target := if isIn then 0 else target + i * sz, base := base + i * sz } : WayEnt)
      match putWays m.fab.waymap ((List.range n).map mk) with
      | none => .error { status := 0x42, detail := 0 }
      | some t => .ok (okay { m with fab := { m.fab with waymap := t } } []))

/-- The place of the entry of a kind, size and owner that begins at a base. -/
def wayAt (m : Mach) (isIn : Bool) (z h base : Nat) : Option Nat :=
  (m.fab.waymap.find? (fun e => e.2.valid && e.2.isIn == isIn && e.2.size == z && e.2.owner == h && e.2.base == base)).map (·.1)

/-- WAYMAP_UNMAP (R277): a long command that ends once the requests translated by the removed entries are answered. -/
def waymapUnmap : Req → NonVol → Mach → Mach :=
  knaob 0x0804 aH .active (lenIs 16) (resvAt [(2, 2)])
    (fun m c r => do
      let isIn := pf r 0 1 == 1
      let z := pf r 1 1
      let n := pf r 4 4
      let base := pf r 8 8
      let sz := segBytes z
      must (pf r 0 1 ≤ 1) 0x35 0
      must (z ≤ 2) 0x35 1
      must (1 ≤ n && n ≤ 4096) 0x35 4
      must (base % sz == 0 && addrOk base) 0x35 8
      let ks := (List.range n).map (fun i => wayAt m isIn z (handleOf m c) (base + i * sz))
      must (ks.all Option.isSome) 0x43 0
      let t := ks.foldl (fun t k => match k with | some k => tset noWay t k noWay | none => t) m.fab.waymap
      let q := newOp { m with fab := { m.fab with waymap := t } } r.port 0x0804 c
      let waits := if isIn then [] else (m.fab.out.filter (fun o => o.ctx == c && base ≤ o.virt && o.virt < base + n * sz)).map (·.tag)
      let g := q.1.mgmt
      let ops := g.ops.map (fun o => if o.tag = q.2 then { o with waits := waits } else o)
      .ok (longOk { q.1 with mgmt := { g with ops := ops } } q.2))

/-- The 16 bytes of an entry (Table 10.1). -/
def wayBytes (e : WayEnt) : List Byte :=
  leBytes 8 (b2n e.valid <<< 63 ||| b2n e.isIn <<< 62 ||| e.size <<< 60 ||| b2n e.read <<< 59 ||| b2n e.write <<< 58 ||| b2n e.atomic <<< 57 |||
      b2n e.advance <<< 56 ||| b2n e.cargo <<< 55 ||| e.module <<< 42 ||| e.owner <<< 26 ||| e.peer <<< 10) ++
    leBytes 8 (e.epoch <<< 32 ||| fld e.target 21 22 <<< 10)

/-- WAYMAP_READ (R272): the entry of a kind and size that covers a base, or zeros and the base aligned down. From DEBUG, which names no
context, any context's entry answers. -/
def waymapRead : Req → NonVol → Mach → Mach :=
  knaob 0x0805 (aH + aD) .optLive (lenIs 12) (resvAt [(2, 2)])
    (fun m c r => do
      let isIn := pf r 0 1 == 1
      let z := pf r 1 1
      must (r.handle != 0 || r.port != .host) 0x41 0
      must (pf r 0 1 ≤ 1) 0x35 0
      must (z ≤ 2) 0x35 1
      must (addrOk (pf r 4 8)) 0x35 4
      let base := pf r 4 8 / segBytes z * segBytes z
      let mine := fun (e : WayEnt) => isIn || r.handle == 0 || e.owner / 4096 == c
      match m.fab.waymap.find? (fun e => e.2.valid && e.2.isIn == isIn && e.2.size == z && e.2.base == base && mine e.2) with
      | some e => .ok (okay m (wayBytes e.2 ++ leBytes 8 base))
      | none => .ok (okay m (List.replicate 16 0 ++ leBytes 8 base)))

/-- RESP_TIMEOUT_SET (R292). -/
def respTimeoutSet : Req → NonVol → Mach → Mach :=
  knaob 0x0806 aH .none (lenIs 4) noResv
    (fun m _ r => do
      must (1 ≤ pf r 0 4 && pf r 0 4 ≤ 1000) 0x35 0
      .ok (okay { m with fab := { m.fab with respTimeout := pf r 0 4 } } []))

/-- The customs registers after bits are cleared while `sets` arrive (R15, R296). -/
def clearCustoms (f : FabS) (clear sets : W32) : FabS :=
  let reason := fld f.customsFirst.toNat 59 4
  { f with customsFlags := w1c f.customsFlags (clear &&& 0x3FF) (sets &&& 0x3FF),
           customsFirst := if f.customsFirst.getLsbD 63 && clearedBit clear sets reason then 0 else f.customsFirst }

/-- CUSTOMS_CLEAR (R296). `sets` are the flags set in the same cycle; the events that set them are counted by their own rows. -/
def customsClear (sets : W32) : Req → NonVol → Mach → Mach :=
  knaob 0x080F (aH + aB) .none (lenIs 4) noResv
    (fun m _ r => do
      must (pf r 0 4 < 1024) 0x34 0
      let clear := BitVec.ofNat 32 (pf r 0 4)
      .ok (okay { m with fab := clearCustoms m.fab clear sets } (leBytes 4 (racedBits clear (sets &&& 0x3FF)).toNat)))

end Sys2Proof.Machine
end

