-- ==== Sys2Proof/Machine/ConvoyCmds.lean ====
section
/-! DEFINITION. The commands of convoys and channels (chapter 11). -/

namespace Sys2Proof.Machine

/-! ### Convoys -/

/-- Whether a convoy record keeps Table 11.1 and R298. -/
def convRecOk (m : Mach) (h : Nat) (bs : List Byte) : Bool :=
  let n := recNat bs 8 2
  let rank := recNat bs 10 2
  let nd := recNat bs 12 1
  let ids := (List.range n).map (fun k => recNat bs (32 + 4 * k) 2)
  1 ≤ n && n ≤ 8192 && bs.length == 32 + 4 * n && rank < n && 1 ≤ nd && nd ≤ 16 && n % nd == 0 && recNat bs 13 1 == 0 && recNat bs 14 2 ≤ 1000 &&
    recZero bs 16 16 && ids.all (fun i => decide (i < 8192)) && noDup ids && recNat bs 2 2 == h &&
    m.fab.module == some (recNat bs (32 + 4 * rank) 2) && recNat bs (34 + 4 * rank) 2 == h

/-- The record that bytes spell (Table 11.1): a timeout of 0 selects 20 ms. -/
def convRecOf (bs : List Byte) : ConvRec :=
  let t := recNat bs 14 2
  { id := recNat bs 0 2, ctx := recNat bs 2 2, epoch := recNat bs 4 4, rank := recNat bs 10 2, node := recNat bs 12 1,
    timeout := if t = 0 then 20 else t,
    members := (List.range (recNat bs 8 2)).map (fun k => (recNat bs (32 + 4 * k) 2, recNat bs (34 + 4 * k) 2)) }

/-- Installs a record into a slot: IDLE, no schedule, the operation number at 0 (R299). -/
def installConv (s : ConvSlot) (rc : ConvRec) : ConvSlot := { s with st := 1, rc := rc, sched := [], next := 0, coll := none }

/-- The registers of a slot set anew, with its held counters zeroed. -/
def freshConv (m : Mach) (n : Nat) : Mach :=
  let old := (getConv m n).occ
  let m := modConv m n (fun s => { convReset with occ := s.occ })
  (List.range 3).foldl (fun m i => heldZero m (convKey n i) (tget 0 old i).toNat) m

/-- Drops what is remembered of arrived packets of convoy `id` (R284): under a new record or schedule its operations count from 0 again, and their
packets are no duplicates. (DESIGN CHOICE, log entry 42) -/
def forgetConv (m : Mach) (id : Nat) : Mach :=
  { m with fab := { m.fab with seen := m.fab.seen.filter (fun k => !(nthN k 0 == 2 && nthN k 2 < 0x24 && fld (nthN k 3) 16 16 == id)) } }

/-- The same of channel entry `n`, whose units count from 0 when a half opens. (DESIGN CHOICE, log entry 42) -/
def forgetChan (m : Mach) (n : Nat) : Mach :=
  { m with fab := { m.fab with
      seen := m.fab.seen.filter (fun k => !(nthN k 0 == 2 && (nthN k 2 == 0x24 || nthN k 2 == 0x25) && fld (nthN k 3) 16 12 == n)) } }

/-- CONVOY_SET (R297 to R299, R317). `ext` is what a record that lies on another module reads as. -/
def convoySet (ext : List Byte) : Req → NonVol → Mach → Mach :=
  knaob 0x0807 aH .active (lenIs 12) noResv
    (fun m c r => do
      let a := pf r 0 8
      let n := pf r 8 4
      must (addrOk a) 0x35 0
      must (36 ≤ n && n ≤ 32 + 4 * 8192 && n % 4 == 0) 0x35 8
      match readRec m c a n ext with
      | none => .error { status := 0x42, detail := 0 }
      | some bs => do
        must (convRecOk m r.handle.toNat bs) 0x36 0
        let rc := convRecOf bs
        match findConv m rc.id rc.ctx with
        | some k => do
          must ((getConv m k).rc.epoch != rc.epoch) 0x36 4
          let m := if (getConv m k).st = 2 then originAbort m k 6 else m
          .ok (okay (forgetConv (modConv m k (fun s => installConv s rc)) rc.id) (leBytes 4 k))
        | none =>
          match (List.range 64).find? (fun k => (getConv m k).st == 0) with
          | none => .error { status := 0x40, detail := 0 }
          | some k => .ok (okay (forgetConv (modConv (freshConv m k) k (fun s => installConv s rc)) rc.id) (leBytes 4 k)))

/-- Whether a slot holds a convoy of a context. -/
def ownsConv (m : Mach) (n h : Nat) : Bool := n < 64 && (getConv m n).st != 0 && (getConv m n).rc.ctx == h

/-- CONVOY_REMOVE (R297). -/
def convoyRemove : Req → NonVol → Mach → Mach :=
  knaob 0x0808 aH .active (lenIs 4) noResv
    (fun m _ r => do
      let n := pf r 0 4
      must (n < 64) 0x35 0
      must (ownsConv m n r.handle.toNat) 0x41 0
      must ((getConv m n).st != 2) 0x10 0
      .ok (okay (modConv m n (fun s => { s with st := 0, rc := noConvRec, sched := [], next := 0, coll := none })) []))

/-- Reads one descriptor of 64 bytes (Table 11.5). -/
def collOf (bs : List Byte) : CollD :=
  let u := recNat bs
  { op := u 0 1, twoLevel := tbit (u 1 1) 7, accum := tbit (u 1 1) 6, isMax := fld (u 1 1) 4 2 == 1, fmt := u 1 1 % 16, whole := tbit (u 2 1) 5,
    chunk := u 2 1 % 32, root := u 4 2, trigger := u 6 2, target := u 8 4, stride := u 12 4, done := u 16 2, amount := u 18 2, count := u 24 8,
    send := u 32 8, recv := u 40 8, extra := u 48 4, raw := bs }

/-- Bytes of the send buffer of an operation at this member (Table 11.6). -/
def sendBytes (r : ConvRec) (d : CollD) : Nat :=
  let u := d.count * collE d
  match d.op with
  | 1 => r.members.length * u
  | 3 => r.members.length * u
  | 4 => if r.rank = d.root then u else 0
  | 7 => d.extra
  | _ => u

/-- Whether a descriptor is one R303 and Table 11.5 accept for a convoy of a context. -/
def collOk (r : ConvRec) (x : Ctx) (bs : List Byte) : Bool :=
  let d := collOf bs
  let n := r.members.length
  let sb := sendBytes r d
  let rb := recvBytes r d
  let meets := d.send < d.recv + rb && d.recv < d.send + sb
  1 ≤ d.op && d.op ≤ 7 && (!d.twoLevel || d.op ≤ 4) && (!d.accum || d.op == 1 || d.op == 3) && fld (recNat bs 1 1) 4 2 ≤ 1 && d.fmt ≤ 6 &&
    !((d.op == 1 || d.op == 3) && (d.fmt == 3 || d.fmt == 5)) && recNat bs 2 1 < 64 && 12 ≤ d.chunk && d.chunk ≤ 20 && recNat bs 3 1 == 0 &&
    d.root < 8192 && (d.op != 4 || d.root < n) && d.trigger < x.par.msCount && d.done < x.par.msCount && 1 ≤ d.amount && recZero bs 20 4 &&
    1 ≤ d.count && d.count ≤ 2 ^ 32 && addrOk d.send && addrOk d.recv && recZero bs 52 12 &&
    (d.op != 6 || (n - 1 ≤ d.stride && d.extra ≤ 8388608 && d.extra % n == 0)) && (d.op == 6 || d.op == 7 || d.extra == 0) &&
    !(r.node == 1 && (d.twoLevel || d.op == 5)) && (sb == 0 || !meets || (d.op == 3 && d.send == d.recv))

/-- SCHEDULE_POST (R303): the schedule is replaced and its occurrences start at 0 again. -/
def schedulePost (ext : List Byte) : Req → NonVol → Mach → Mach :=
  knaob 0x0809 aH .active (lenIs 16) noResv
    (fun m c r => do
      let n := pf r 0 4
      let k := pf r 12 4
      must (n < 64) 0x35 0
      must (addrOk (pf r 4 8)) 0x35 4
      must (1 ≤ k && k ≤ 256) 0x35 12
      must (ownsConv m n r.handle.toNat) 0x41 0
      must ((getConv m n).st != 2) 0x10 0
      match readRec m c (pf r 4 8) (64 * k) ext with
      | none => .error { status := 0x42, detail := 0 }
      | some bs => do
        let ds := (List.range k).map (fun i => (bs.drop (64 * i)).take 64)
        must (ds.all (collOk (getConv m n).rc (getCtx m c))) 0x36 0
        .ok (okay (forgetConv (modConv m n (fun s => { s with sched := ds.map collOf, next := 0 })) (getConv m n).rc.id) []))

/-! ### Channels -/

/-- CHANNEL_OPEN (R320, R321): half 1 send, 2 receive, 3 both. A receive half that opens grants its sender the credits its
minimum covers; on one entry that holds both halves they pass straight across. -/
def channelOpen : Req → NonVol → Mach → Mach :=
  knaob 0x080A aH .active (lenIs 20) (resvAt [(3, 1), (7, 1)])
    (fun m c r => do
      let n := pf r 0 2
      let half := pf r 2 1
      let a := pf r 4 2
      let unit := pf r 12 2
      let mn := pf r 14 2
      let quota := pf r 16 2
      let rx := half == 2 || half == 3
      let tx := half == 1 || half == 3
      must (n < 4096) 0x35 0
      must (1 ≤ half && half ≤ 3) 0x35 2
      must (a < 1024 && (shareOf (getCtx m c) a).isSome) 0x35 4
      must (pf r 6 1 < 16) 0x35 6
      must (pf r 8 2 < 8192) 0x35 8
      must (pf r 10 2 < 4096) 0x35 10
      must (1 ≤ unit && unit ≤ 32) 0x35 12
      must (!rx || unit ≤ mn) 0x35 14
      must (!rx || (mn ≤ quota && quota ≤ 16384)) 0x35 16
      must (1 ≤ pf r 18 2 && pf r 18 2 ≤ 1000) 0x35 18
      must (physOf m a).isSome 0x43 0
      let x := getChan m n
      let open_ := x.send.isSome || x.recv.isSome
      must (!open_ || (x.ctx == r.handle.toNat && !(tx && x.send.isSome) && !(rx && x.recv.isSome)))
        (if (List.range 4096).all (fun k => (getChan m k).send.isSome || (getChan m k).recv.isSome) then 0x40 else 0x44) 0
      must (!rx || csvMin m (a / 256) + mn ≤ 16384) 0x42 0
      let s : ChSend := { array := a, window := pf r 6 1, peerM := pf r 8 2, peerC := pf r 10 2, unit := 2048 * unit, timeout := pf r 18 2, credits := 0, sent := 0 }
      let h : ChRecv := { array := a, window := pf r 6 1, peerM := pf r 8 2, peerC := pf r 10 2, unit := 2048 * unit, min := mn, quota := quota,
                          timeout := pf r 18 2, out := 0, held := [], parts := [], next := 0, credited := 0 }
      let y : Chan := { ctx := r.handle.toNat, send := if tx then some s else x.send, recv := if rx then some h else x.recv,
                        units := if open_ then x.units else 0 }
      let m := modChan (forgetChan m n) n (fun _ => y)
      let k := mn / unit
      let m := if rx then giveCredit m n k
        else match y.recv with
          | some h => modSend m n (fun s => { s with credits := h.out })
          | none => m
      .ok (okay m []))

/-- CHANNEL_CLOSE (R323): a long command. -/
def channelClose : Req → NonVol → Mach → Mach :=
  knaob 0x080B aH .active (lenIs 4) (resvAt [(2, 2)])
    (fun m c r => do
      let n := pf r 0 2
      must (n < 4096) 0x35 0
      let x := getChan m n
      must ((x.send.isSome || x.recv.isSome) && x.ctx == r.handle.toNat) 0x41 0
      let q := newOp m r.port 0x080B c
      .ok (longOk (endOp (closeChannel q.1 n true) q.2 0 0) q.2))

end Sys2Proof.Machine
end

