-- ==== Sys2Proof/Machine/Alarm.lean ====
section
/-! DEFINITION. The security alarm, debug sessions' end, key erasure and authentication failures (R456 to R460). -/

namespace Sys2Proof.Machine

/-- What waited for the caravaneer (R33, R34). (DEDUCED, log entry 71) -/
def mpTask (m : Mach) : MpTask → Mach
  | .substitute p cs => substituteFor m p cs
  | .teardown c trigger => startTeardown m c trigger

/-- The caravaneer takes up what waited for it, in order, once nothing stops it. -/
def resumeMp (m : Mach) : Mach :=
  if mpStopped m then m else m.rst.waiting.foldl mpTask { m with rst := { m.rst with waiting := [] } }

/-- A debug session ends: the level returns to D0 and what it halted is released (R456). Requests that a halted caravaneer held are performed in its
next round (R419). -/
def endSession (m : Mach) : Mach :=
  if m.sec.session.isNone then m else
  let blks := (m.blocks.map (fun e => (e.1, { e.2 with halted := false }))).filter (fun e => e.2 != blkReset)
  resumeMp { m with sec := { m.sec with session := none, mpHalted := false }, blocks := blks }

/-- The populated bytes of every near and far window, and of the strides. -/
def allTiers : List (Nat × Nat) :=
  (List.range 4).map (fun r => (r * 0x4000000000, 0x37E11D6000)) ++ (List.range 4).map (fun r => (0x10000000000 + r * 0x8000000000, 0x7735940000))

/-- Key erasure (R460): the key unit is cleared, the latch set, the ERASED fuse blown, every context torn down and all tier memory
put into ZEROING. A ZEROISE or transition in progress ends with 0x63 (R459). -/
def eraseKeys (nv : NonVol) (m : Mach) : NonVol × Mach :=
  if nv.lifecycle = 3 then (nv, m) else
  let m := askTeardownAll { m with sec := { m.sec with keys := false } } 0x5006
  let m := match m.sec.zeroise with
    | some z => { endOp m z.tag 0x63 0 with sec := { m.sec with zeroise := none } }
    | none => m
  let m := { m with mgmt := { m.mgmt with ops := m.mgmt.ops.map (fun o => if o.opcode = 0x0607 then { o with outcome := some (0x63, 0) } else o) } }
  ({ nv with keyLatch := true, lifecycle := 3 }, startZeroing m allTiers)

/-- An alarm at level 2 answers a firmware verification in progress with 0x62 and leaves the slots as they stood before it (R459). -/
def stopVerify (nv : NonVol) (m : Mach) : NonVol × Mach :=
  if m.mgmt.ops.any (fun o => o.opcode == 0x0502) then
    let good := m.mgmt.ops.any (fun o => o.opcode == 0x0502 && (match o.outcome with | some q => q.1 == 0 | none => false))
    let slots := if good then modNth nv.slots (1 - m.pwr.fw) (fun s => if s.st = .verified then { s with st := .staged } else s) else nv.slots
    ({ nv with slots := slots },
     { m with mgmt := { m.mgmt with ops := m.mgmt.ops.map (fun o => if o.opcode = 0x0502 then { o with outcome := some (0x62, 0) } else o) } })
  else (nv, m)

/-- A condition of Table 17.7 is raised and acted on at the level of the policy in force (R457). -/
def raiseAlarm (nv : NonVol) (m : Mach) (cond : Nat) : NonVol × Mach :=
  let level := nthN nv.policy.levels cond
  let nv := { nv with alarms := modNth nv.alarms cond (fun x => satAdd x 1) }
  let m := { m with sec := { m.sec with alarmLevel := max m.sec.alarmLevel level, raised := m.sec.raised ||| 1 <<< cond } }
  let m := report m 0x5006 clsInfo (unitChip 5) none 0 0 (leBytes 1 level ++ leBytes 1 cond)
  let r := if level < 2 then (nv, m) else stopVerify nv (endSession { m with sec := { m.sec with locked := true } })
  if level < 3 then r else eraseKeys r.1 r.2

/-- Whether conditions 0 to 5 are armed: in P0 to P3 (Table 17.8). -/
def alarmArmed (m : Mach) : Bool := m.pwr.boot == .running && m.pwr.st < 4 && !m.rst.inReset

/-- The longest window a policy may name, in hours (Table 17.6). -/
def maxAuthH : Nat := 168

/-- The times of the authentication failures within the policy's window (R458). -/
def recentFails (nv : NonVol) (m : Mach) : List Nat := within m (nv.policy.authWindowH * hourNs) nv.fails

/-- Counts an authentication failure; condition 5 is raised each time the count within the window reaches the limit (R458). -/
def noteAuthFail (nv : NonVol) (m : Mach) : NonVol × Mach :=
  let old := recentFails nv m
  let nv := { nv with fails := within m (maxAuthH * hourNs) nv.fails ++ [now m], failTotal := satAdd nv.failTotal 1 }
  if old.length + 1 = nv.policy.authLimit then raiseAlarm nv m 5 else (nv, m)

end Sys2Proof.Machine
end

