-- ==== Sys2Proof/Machine/Boot.lean ====
section
/-! DEFINITION. Boot (Table 16.13, Table 18.3): what a cold boot and a chip warm reset clear and keep (Table 15.7), the choice of the
firmware slot (R440), the tiers, the block maps (R25) and the links. -/

namespace Sys2Proof.Machine

/-- The power limit of the variant in W (Table 0.1): variant 0 is the MRL3-A80L, 1 the MRL3-A80C. -/
def limitW (m : Mach) : Nat := if m.fuse.variant = 1 then 2200 else 3000
/-- The largest array clock of the variant in MHz. -/
def maxMhz (m : Mach) : Nat := if m.fuse.variant = 1 then 560 else 700

/-- Ends a span of unavailable time (R394). -/
def chargeDown (m : Mach) : Mach :=
  match m.health.downSince with
  | some t => { m with health := { m.health with downSince := none, unavail := satAdd m.health.unavail (now m - t) } }
  | none => m

/-! ### What a boot clears -/

/-- The security state at boot (R456, R457, Table 17.8): the alarm of an earlier boot ends at a cold boot only. -/
def bootSec (s : SecS) (cold : Bool) : SecS :=
  if cold then secReset else { secReset with alarmLevel := s.alarmLevel, raised := s.raised, locked := s.locked }

/-- The management island at boot: the counts since manufacture and the flash summaries are kept; the strongbox and its mirror are
kept through a chip warm reset and lost with power (Table 15.7); the long commands that asked for the reset still end. -/
def bootMgmt (g : MgmtS) (cold lost : Bool) : MgmtS :=
  { mgmtReset with log := if lost then [] else g.log, logHead := g.logHead, dumps := if lost then [] else g.dumps,
                   mirLog := if lost then [] else g.mirLog, flash := g.flash, summaries := g.summaries, flashLog := g.flashLog, dumpCount := g.dumpCount,
                   ops := if cold then [] else g.ops.filter (fun o => o.opcode == 0x0701 || o.opcode == 0x0703 || o.opcode == 0x0607),
                   nextTag := if cold then 1 else g.nextTag }

/-- The reset registers at boot: all but the work in progress is restored from the module records (R416); a chip warm reset that
failed leaves the module out of service with reason 3 (R412). -/
def bootRst (r : RstS) (cold : Bool) : RstS :=
  { r with jobs := [], engineHung := [], waiting := [], inReset := false, restarting := false, restartAt := if cold then none else r.restartAt,
           chipEvent := if cold then none else r.chipEvent,
           oos := r.oos || r.oosNext, reason := if r.oosNext then 3 else r.reason, oosNext := false }

/-- What a chip warm reset keeps of a slot: its per-slot fabric counters, which only a creation zeroes (R296, R415). -/
def keptCtx (x : Ctx) : Ctx := { ctxReset with xrTimeout := x.xrTimeout, xrRejected := x.xrRejected }

/-- What a boot keeps of a controller: the times of its corrections and detections, which are in the module records (R390). -/
def keptCtl (x : Ctl) : Ctl := { ctlReset with corr := x.corr, unc := x.unc }

/-- Everything volatile at its reset value (R407 rung 5, Table 15.7). `cold` is a boot from P4 or power; then the tiers' contents are
gone. The identifier is kept while always-on power is. (DEDUCED, log entry 31; DEDUCED, log entry 55) -/
def clearForBoot (m : Mach) (cold : Bool) : Mach :=
  { m with
    time := { m.time with boot := satAdd m.time.boot 1, round := 0 }
    mem := if cold then [] else m.mem.filter (fun e => e.1 < spBase)
    poison := if cold then [] else m.poison.filter (fun e => e.1 < spBase)
    zeroing := if cold then [] else m.zeroing
    rgns := [], blocks := []
    ctxs := if cold then [] else (m.ctxs.map (fun e => (e.1, keptCtx e.2))).filter (fun e => e.2 != ctxReset)
    ms := [], msQueue := [], msRefused := 0
    fab := { fabReset with module := m.fab.module }
    tier := { tierReset with ctls := (m.tier.ctls.map (fun e => (e.1, keptCtl e.2))).filter (fun e => e.2 != ctlReset) }, ass := assReset, mgmt := bootMgmt m.mgmt cold cold, conv := convSReset
    health := { m.health with published := if cold then m.health.saved else m.health.published,
                              saved := if cold then m.health.saved else m.health.published, longDown := [],
                              above := if cold then none else m.health.above }
    rst := bootRst m.rst cold, sec := bootSec m.sec cold, cargo := [], parked := [], twins := []
    pwr := { pwrReset with shutdown := m.pwr.hotLatch, inputLatched := m.pwr.inputLatched, droops := 0 }
    pcie := { m.pcie with linkUp := false, mse := false, ide := [], ideOn := false, ur := 0, ca := 0, aer := 0, reads := [] } }

/-! ### The block maps -/

/-- The good blocks of a region (R25). -/
def goodBlocks (m : Mach) (bist : List Nat) (r : Nat) : List Nat :=
  (List.range 272).filter (fun b => let p := 272 * r + b; !has m.fuse.bad p && !has m.health.retired p && !has bist p)

/-- The map of a region at boot (R25, R27). That building it leaves map_gen at 0, and only changes made in service count, is the model's
reading. (DEDUCED, log entry 70) -/
def bootRgn (m : Mach) (bist : List Nat) (r : Nat) : Rgn :=
  let g := goodBlocks m bist r
  let n := min g.length 256
  { map := (List.range n).map (fun i => (i, { valid := true, subst := false, phys := nthN g i })), gen := 0, spares := g.drop 256,
    absent := 256 - n, cordon := false }

/-- A controller as training leaves it (R241). -/
def bootCtl (m : Mach) (f : BootFacts) (k : Nat) : Ctl := { keptCtl (getCtl m k) with st := if has f.absent k then 3 else 1, slow := has f.slow k }

/-- The controllers there are: stack s is s, package p is 16 + p. -/
def allCtls : List Nat := List.range 12 ++ (List.range 16).map (16 + ·)

/-! ### The firmware slot -/

/-- Whether an image may boot at all (R442). -/
def mayBoot (nv : NonVol) (s : FwSlot) : Bool := nv.fusedMin ≤ s.secVer

/-- The first slot in a state. -/
def slotIn (nv : NonVol) (st : FwSt) : Option Nat := nv.slots.findIdx? (fun s => s.st == st)

/-- What slot choice answers (R440): the slot booted, a TRY that is still to fail its check or bound, or none that passes. -/
inductive Chosen where
  | run (slot : Nat)
  | tries
  | nothing
  deriving DecidableEq, Repr

/-- The choice of R440. -/
def chooseSlot (nv : NonVol) (f : BootFacts) : Chosen :=
  match slotIn nv .try_ with
  | some t => match nv.slots[t]? with
    | some s => if f.tryOk && mayBoot nv s then .run t else .tries
    | none => .nothing
  | none =>
    match slotIn nv .active with
    | some a => match nv.slots[a]? with
      | some s => if f.activeOk && mayBoot nv s then .run a else .nothing
      | none => .nothing
    | none => .nothing

/-- The slots once slot `i` has reached host-ready: a TRY becomes ACTIVE and the other slot VERIFIED. -/
def settleSlots (nv : NonVol) (i : Nat) : NonVol :=
  match nv.slots[i]? with
  | some s => if s.st = .try_ then
      { nv with slots := modNth (modNth nv.slots i (fun s => { s with st := .active })) (1 - i) (fun s => { s with st := .verified }) } else nv
  | none => nv

/-! ### Coming up -/

/-- Step 8 of Table 16.13: every present link trains, and the module is fabric-ready (R438). (DESIGN CHOICE, log entry 112) -/
def trainLinks (m : Mach) : Mach :=
  let links : Tbl LinkS := (List.range 18).filterMap (fun k =>
    let up := (List.range 4).filter (fun i => m.pwr.training.any (fun q => q.1 == k && has q.2 i))
    if up.isEmpty then none else some (k, trained (getLink m k) up))
  { m with fab := { m.fab with links := links }, pwr := { m.pwr with fabricReady := true, training := [] } }

/-- Steps 3 to 7 of Table 16.13 with a slot that boots. Out of service the regions stay gated and the links down (R411). In
MANUFACTURE debug opens at D2 (R455). A stack or package absent or slow is a loss of R393, and training at the fall-back rate is recorded (R388); an array a region has no good block for at boot
is absent but has not become so (DEDUCED, log entry 13). -/
def comeUp (nv : NonVol) (m : Mach) (f : BootFacts) (slot : Nat) : NonVol × Mach :=
  let nv := settleSlots nv slot
  let keys := nv.lifecycle != 3 && !nv.keyLatch
  let out := m.rst.oos
  let ctls : Tbl Ctl := allCtls.map (fun k => (k, let x := bootCtl m f k; if out && x.st = 1 then { x with st := 2 } else x))
  let ses : Option Session := if nv.lifecycle = 0 && !m.sec.locked then some { level := 2, ends := none, scope := 31 } else none
  let m := { m with
    rgns := (List.range 4).map (fun r => (r, bootRgn m f.bist r))
    tier := { m.tier with ctls := ctls }
    sec := { m.sec with keys := keys, session := ses }
    pwr := { m.pwr with st := 0, boot := .running, fw := slot, fabricReady := out, training := if out then [] else f.lanes, limitMhz := maxMhz m, loopMhz := maxMhz m, thermMhz := maxMhz m,
                        capW := limitW m, baseW := f.watts, hotLatch := false }
    pcie := { m.pcie with linkUp := !m.pcie.perst, faultLow := out }
    health := { m.health with reduced := false } }
  let m := if out then m else (allCtls.filter (fun k => has f.slow k && !has f.absent k)).foldl (fun m k => recoveryRec m (unitCtl k)) m
  let loss := !f.absent.isEmpty || !f.slow.isEmpty
  (nv, if out || !loss then m else compareFloor m true)

/-- One record for a firmware slot that does not pass (R376, Table 14.1). -/
def badSlot (m : Mach) : Mach := logRec m (Config.logCode 3) clsCorrected (unitChip 5) 0 0 none []

/-- Steps 2 to 8 of Table 16.13: the slot is chosen and the module comes up; with no slot that passes, only the board port opens (R440).
A TRY that does not pass leaves the module waiting for TRY_BOOT_TIMEOUT. (DESIGN CHOICE, log entry 27) -/
def bringUp (nv : NonVol) (m : Mach) (f : BootFacts) : NonVol × Mach :=
  match chooseSlot nv f with
  | .run i => comeUp nv m f i
  | .tries => (nv, badSlot { m with pwr := { m.pwr with boot := .trying } })
  | .nothing => (nv, badSlot { m with pwr := { m.pwr with boot := .boardOnly } })

/-- Takes up a policy that waits (R454). -/
def takePolicy (nv : NonVol) : NonVol :=
  match nv.nextPolicy with
  | some p => { nv with policy := p, nextPolicy := none }
  | none => nv

/-- A boot: steps 1 and 2 find the latches and the fuses, and the rest follows. The tamper latch raises condition 6 at a cold boot (R462);
a bad fuse array raises condition 4 (Table 17.7); a set erase latch makes the module ERASED (R460). (DESIGN CHOICE, log entry 27) -/
def boot (nv : NonVol) (m : Mach) (f : BootFacts) (cold : Bool) : NonVol × Mach :=
  let nv := takePolicy nv
  let nv := if nv.keyLatch then { nv with lifecycle := 3 } else nv
  let m := flashWrite (clearForBoot m cold) 0
  let m := if cold then { m with pcie := { m.pcie with slotId := f.slotId % 32 } } else m
  let r := if cold && nv.tamper then raiseAlarm { nv with tamper := false } m 6 else (nv, m)
  let r := if f.fuseBad then raiseAlarm r.1 r.2 4 else r
  bringUp r.1 r.2 f

end Sys2Proof.Machine
end

