-- ==== Sys2Proof/Machine/Resets.lean ====
section
/-! DEFINITION. Watchdogs, cordons, collection and the reset ladder (R399 to R412), the dumps and the error log a reader gets
(R406, R413, R414), and the commands of chapter 15. -/

namespace Sys2Proof.Machine

/-! ### Units and domains (Tables 15.2, 15.4) -/

/-- The kind of a unit identifier. -/
def unitKind (u : Nat) : Nat := u / 2 ^ 28
/-- Its index. -/
def unitIx (u : Nat) : Nat := fld u 16 12
/-- Its sub-unit. -/
def unitSub (u : Nat) : Nat := u % 65536

/-- Whether an identifier names a block, region or chip unit there is. -/
def unitExists (u : Nat) : Bool :=
  let i := unitIx u
  let s := unitSub u
  match unitKind u with
  | 0 => i < 1088 && s < 6
  | 1 => i < 4 && (s < 5 || (0x10 ≤ s && s < 0x1C && (s - 0x10) / 3 == i) || (0x20 ≤ s && s < 0x30 && (s - 0x20) / 4 == i))
  | 2 => i == 0 && (s < 6 || (0x10 ≤ s && s < 0x22))
  | _ => false

/-- Whether a unit is an engine with a reset of its own (Table 15.5 rung 2): one of a block, or the assayer. -/
def isEngine (u : Nat) : Bool := (unitKind u == 0 && unitIx u < 1088 && 1 ≤ unitSub u && unitSub u ≤ 4) || u == unitChip 3

/-- The root unit of the domain that a rung resets for a unit (Table 15.3), none where the rung has no such domain. -/
def domainRoot (rung u : Nat) : Option Nat :=
  match rung with
  | 2 => if isEngine u then some u else none
  | 3 => if unitKind u = 0 && unitIx u < 1088 then some (unitBlk (unitIx u) 0) else none
  | 4 => if unitKind u = 0 && unitIx u < 1088 then some (unitRgn (unitIx u / 272) 0)
         else if unitKind u = 1 && unitIx u < 4 then some (unitRgn (unitIx u) 0) else none
  | 5 => some (unitChip 0)
  | _ => none

/-- The units of a mapped block. -/
def blkUnits (p : Nat) : List Nat := (List.range 6).map (unitBlk p)

/-- The mapped physical blocks of a region. -/
def mappedBlocks (m : Mach) (r : Nat) : List Nat := ((getRgn m r).map.filter (·.2.valid)).map (fun e => 272 * r + e.2.phys)

/-- The units of a region (Table 15.2). -/
def rgnUnits (m : Mach) (r : Nat) : List Nat :=
  ((mappedBlocks m r).map blkUnits).flatten ++ (List.range 5).map (unitRgn r) ++ (List.range 3).map (fun i => unitCtl (3 * r + i)) ++
    (List.range 4).map (fun i => unitCtl (16 + 4 * r + i))

/-- The units collected for a domain (Table 15.2). -/
def domainUnits (m : Mach) (rung dom : Nat) : List Nat :=
  match rung with
  | 2 => [dom]
  | 3 => blkUnits (unitIx dom)
  | 4 => rgnUnits m (unitIx dom)
  | 5 => ((List.range 4).map (rgnUnits m)).flatten ++ (List.range 6).map unitChip ++ (List.range 18).map (fun k => unitChip (0x10 + k))
  | _ => []

/-- Whether domain `d` of rung `r` lies in domain `e` of rung `q`. -/
def inDomain (r d q e : Nat) : Bool := r ≤ q && domainRoot q d == some e

/-! ### Dumps (R405, R406, R413) -/

/-- Records the units of a job's domain that its dump does not hold yet: as SKIPPED, or as collected, cut at 992 bytes. (DEDUCED, log entry 64) -/
def collect (m : Mach) (j : RstJob) (skip : Bool) : RstJob :=
  let new := (domainUnits m j.rung j.domain).filter (fun u => !j.units.any (fun d => d.unit == u))
  let one := fun (u : Nat) => ({ unit := u, st := if skip then 2 else if 992 < (Config.unitState j.dump u).length then 3 else 0 } : DumpUnit)
  { j with units := j.units ++ new.map one }

/-- The state bytes of a unit record. -/
def unitBytes (dump : Nat) (d : DumpUnit) : List Byte :=
  if d.st = 0 || d.st = 3 then (Config.unitState dump d.unit).take 992 else []

/-- The 32-byte header of a unit record (Table 15.4). -/
def unitHeader (dump : Nat) (d : DumpUnit) : List Byte :=
  let data := unitBytes dump d
  let h := leBytes 4 d.unit ++ leBytes 1 d.st ++ leBytes 3 0 ++ leBytes 4 data.length ++ leBytes 4 (Config.scanNs dump d.unit) ++ leBytes 12 0
  h ++ leBytes 4 (crc32c (h ++ leBytes 4 0 ++ data))

/-- The 1 KiB record of a unit. -/
def unitRecord (dump : Nat) (d : DumpUnit) : List Byte := padTo 1024 (unitHeader dump d ++ unitBytes dump d)

/-- The 256-byte header of a dump (Table 15.3). -/
def dumpHeader (d : Dump) : List Byte :=
  let head := leBytes 4 0x4D334455 ++ leBytes 2 1 ++ leBytes 1 d.rung ++ leBytes 1 d.finalRung ++ leBytes 4 d.num ++ leBytes 4 d.domain ++
    leBytes 2 d.trigger ++ leBytes 2 0 ++ leBytes 4 d.units.length ++ leBytes 4 (d.units.filter (·.st == 1)).length
  let tail := padTo 224 (stampBytes d.stamp ++ leBytes 8 d.collectNs ++ leBytes 8 d.resetNs)
  head ++ leBytes 4 (crc32c (head ++ tail)) ++ tail

/-- The bytes of a dump from `off` on, `n` of them. -/
def dumpBytes (d : Dump) (off n : Nat) : List Byte :=
  let first := (off - 256) / 1024
  let recs := (d.units.drop first).take (n / 1024 + 2)
  let body := (recs.map (unitRecord d.num)).flatten
  if off < 256 then ((dumpHeader d ++ body).drop off).take n else (body.drop (off - 256 - 1024 * first)).take n

/-- Sorts units by identifier. -/
def insUnit (d : DumpUnit) : List DumpUnit → List DumpUnit
  | [] => [d]
  | e :: es => if d.unit ≤ e.unit then d :: e :: es else e :: insUnit d es

/-- The summary of a dump (R413). -/
def summaryBytes (d : Dump) : List Byte :=
  let bad := ((d.units.filter (·.st != 0)).foldl (fun l u => insUnit u l) []).take 120
  dumpHeader d ++ (bad.map (unitHeader d.num)).flatten

/-- Stores a dump: the twenty most recent are kept, and a summary of the last eight (R413). -/
def storeDump (m : Mach) (d : Dump) : Mach :=
  let g := m.mgmt
  let dumps := (g.dumps ++ [d])
  let sums := (g.summaries ++ [(d.num, summaryBytes d)])
  flashWrite { m with mgmt := { g with dumps := dumps.drop (dumps.length - 20), summaries := sums.drop (sums.length - 8) } } 1

/-- The blocks of a domain. -/
def domainBlocks (rung dom : Nat) : List Nat :=
  match rung with
  | 3 => [unitIx dom]
  | 4 => (List.range 272).map (272 * unitIx dom + ·)
  | 5 => List.range 1088
  | _ => []

/-- The controllers of a domain. -/
def domainCtls (rung dom : Nat) : List Nat :=
  match rung with
  | 4 => (List.range 3).map (3 * unitIx dom + ·) ++ (List.range 4).map (16 + 4 * unitIx dom + ·)
  | 5 => allCtls
  | _ => []

/-! ### What a reset does to its domain -/

/-- Halts the manifests of a block's holder with a waybill on its array (Table 15.5 rung 2). -/
def haltHolder (m : Mach) (p : Nat) : Mach :=
  match (getBlk m p).seq.holder, arrayOf m p with
  | some c, some a => haltOnArray m c a
  | _, _ => m

/-- Halts every manifest with a waybill on a block's array, and ends what runs there (Table 14.3 steps 1 and 2). -/
def haltBlock (m : Mach) (p : Nat) : Mach :=
  let m := dropAwaited (endAllOn (modBlk m p (fun b => { b with cordon := true })) p) p
  match arrayOf m p with
  | some a => (sharersOf m a).foldl (fun m c => haltOnArray m c a) m
  | none => m

/-- The slots with a block in a region. -/
def slotsIn (m : Mach) (r : Nat) : List Nat :=
  (List.range 16).filter (fun c => (getCtx m c).st == .active && (getCtx m c).par.blocks.any (fun s => s.array / 256 == r))

/-- What raising the cordon of a domain and starting its reset do at once. -/
def raiseCordon (m : Mach) (rung dom trigger : Nat) : Mach :=
  match rung with
  | 2 =>
    if unitKind dom = 0 then
      let p := unitIx dom
      let e := unitSub dom - 1
      let m := haltHolder (endItems (dropOut m p e) p e) p
      modBlk m p (fun b => dropEngine b e)
    else m
  | 3 => haltBlock m (unitIx dom)
  | 4 =>
    let r := unitIx dom
    let m := setRgn m r { getRgn m r with cordon := true }
    endSession ((slotsIn m r).foldl (fun m c => askTeardown m c trigger) m)
  | _ => endSession (teardownAll m trigger)

/-- The log code of a reset's record, and its class. -/
def resetCode (rung : Nat) : Nat × Nat := if rung = 5 then (0x4001, clsDevice) else if rung = 4 then (0x3001, clsRegion) else (Config.logCode 4, clsContained)

/-- One record of the reset's own, and for a region reset its events; those of a chip warm reset follow once the rings are up again. -/
def resetRecord (m : Mach) (rung dom dump flags : Nat) : Mach :=
  let q := resetCode rung
  let m := logRec m q.1 q.2 dom dump flags none (leBytes 4 dump)
  if rung != 4 then m else
  let e : Event :=
    { seq := 0, code := q.1, contexts := 0, subject := 0, unit := dom, detail := padTo 16 (leBytes 4 dump), stamp := stampNow m none none 0 0 }
  boardEvent (hostEvent m q.2 e) q.2 e

/-- The record of a reset of rung `low` of domain `dom` that a reset of a domain around it supersedes (R30, R408): its unit is the domain of the
lower, its detail names the higher: dump number, unit, rung. (DEDUCED, log entry 72) -/
def superseded (m : Mach) (low dom dump rung unit : Nat) : Mach :=
  let q := resetCode low
  logRec m q.1 q.2 dom dump 1 none (leBytes 4 dump ++ leBytes 4 unit ++ leBytes 1 rung)

/-- The reset under way that a reset of rung `rung` and domain `dom` lies in. -/
def outerJob (m : Mach) (rung dom : Nat) : Option RstJob := m.rst.jobs.find? (fun j => inDomain rung dom j.rung j.domain)

/-- A reset asked for inside a running one: its command ends with that one, and where its domain is smaller it is logged as superseded (R408). -/
def joinReset (m : Mach) (o : RstJob) (rung dom : Nat) (tags : List Nat) : Mach :=
  let m := { m with rst := { m.rst with jobs := m.rst.jobs.map (fun j => if j.domain = o.domain then { j with tags := j.tags ++ tags } else j) } }
  if dom = o.domain then m else superseded m rung dom o.dump o.rung o.domain

/-- Unavailable time begins with a chip warm reset that nobody asked for, unless the module is out of service (R394). -/
def goDown (m : Mach) : Mach :=
  if m.health.downSince.isNone && !m.rst.oos then { m with health := { m.health with downSince := some (now m) } } else m

/-- What a reset of rung `rung` stops below it (R30): the channel retirements of the domain's stacks, and at the chip rung the substitutions that wait for
the caravaneer. Each is logged as superseded. (DEDUCED, log entry 72) -/
def stopWork (m : Mach) (rung dom dump : Nat) : Mach :=
  let note := fun (m : Mach) (code cls unit : Nat) => logRec m code cls unit dump 1 none (leBytes 4 dump ++ leBytes 4 dom ++ leBytes 1 rung)
  let m := ((domainCtls rung dom).filter (fun k => (getCtl m k).retiring.isSome)).foldl (fun m k =>
    note (modCtl m k (fun x => { x with retiring := none, crossed := [] })) 0x1005 clsCorrected (unitCtl k)) m
  if rung < 5 then m else
  m.rst.waiting.foldl (fun m t => match t with
    | .substitute p _ => note m 0x200B clsContained (unitBlk p 0)
    | .teardown _ _ => m) { m with rst := { m.rst with waiting := [] } }

/-- Starts a reset (R403, R405, R407, R408). One already under way at this rung or above, over this domain, takes it in; those inside
are superseded and their dump goes on. `skip` says that nothing is collected (R405). (DEDUCED, log entry 64) -/
def startReset (m : Mach) (rung unit trigger : Nat) (requested skip : Bool) (tag : Option Nat) : Mach :=
  match domainRoot rung unit with
  | none => m
  | some dom =>
    match outerJob m rung dom with
    | some o => joinReset m o rung dom tag.toList
    | none =>
      let old := m.rst.jobs.filter (fun j => inDomain j.rung j.domain rung dom)
      let m := { m with rst := { m.rst with jobs := m.rst.jobs.filter (fun j => !inDomain j.rung j.domain rung dom) } }
      let m := old.foldl (fun m j => superseded m j.rung j.domain j.dump rung dom) m
      let m := if old.isEmpty then { m with mgmt := { m.mgmt with dumpCount := m.mgmt.dumpCount + 1 } } else m
      let fresh : RstJob :=
        { rung := rung, first := rung, domain := dom, origin := unit, trigger := trigger, requested := requested, tags := tag.toList,
          dump := m.mgmt.dumpCount, stamp := stampNow m none none 0 0, units := [] }
      let job : RstJob := match old with
        | [] => fresh
        | j :: _ => { fresh with first := j.first, dump := j.dump, stamp := j.stamp, units := (collect m j false).units,
                                 tags := (old.map (·.tags)).flatten ++ tag.toList }
      let job := if skip then collect m job true else job
      let m := stopWork (if 4 ≤ rung then resetRecord m rung dom job.dump 0 else m) rung dom job.dump
      let m := if rung = 5 && !requested then goDown m else m
      raiseCordon { m with rst := { m.rst with jobs := m.rst.jobs ++ [job] } } rung dom trigger

/-! ### The management island's restart (R409) -/

/-- Restarts the management island; the second within 3,600 s of another leads to a chip warm reset. -/
def startRestart (m : Mach) (cause : Nat) : Mach :=
  if m.rst.restarting || chipFenced m then m
  else
    let again : Bool := match m.rst.restartAt with | some t => now m - t < 3600 * 1000000000 | none => false
    if again then startReset m 5 (unitChip 5) 0x1006 false true none else
    let m := endSession { m with rst := { m.rst with restarting := true, restartAt := some (now m), restartCause := cause } }
    { m with mgmt := { m.mgmt with accepted := [], mbx := m.mgmt.mbx.map (fun b => { b with st := .restarting }) } }

/-- Counts the time for which a restart has left the mailboxes answering retry-later (R394). -/
def chargeRestart (m : Mach) : Mach :=
  let t0 := m.rst.restartAt.getD (now m)
  { m with health := { m.health with unavail := if m.rst.oos || m.pwr.st = 3 then m.health.unavail else satAdd m.health.unavail (now m - t0) } }

/-- MP_RESTART_DONE: the mailboxes open again; what was accepted and not finished is answered 0x53; tallies begin at 1 (R409, R421). -/
def mpRestartDone (m : Mach) : Mach :=
  if !m.rst.restarting then m else
  let m := chargeRestart { m with rst := { m.rst with restarting := false } }
  let hands := [Port.host, Port.board, Port.debug, Port.factory].filterMap (fun p => (getMbx m p).inHand)
  let fresh := fun (b : Mbx) => ({ b with st := .idle, accepted := false, tally := 0, kept := [], keptStatus := 0, inHand := none } : Mbx)
  let m := { m with mgmt := { m.mgmt with mbx := m.mgmt.mbx.map fresh } }
  let m := { m with mgmt := { m.mgmt with ops := m.mgmt.ops.map (fun (o : LongOp) => if o.outcome.isNone then { o with outcome := some (0x53, 0) } else o) } }
  let m := hands.foldl (fun m q => respond m (q.1 % heldBase) q.2 0x53 0 [] false) m
  resumeMp (report m 0x1006 clsCorrected (unitChip 5) none 0 0 (leBytes 1 (Config.mpCause m.rst.restartCause)))

/-- MANAGEMENT_ISLAND_RESTART_TIMEOUT: a restart that misses its 2 s leads to a chip warm reset (R409). -/
def mpRestartTimeout (m : Mach) : Mach :=
  if !m.rst.restarting then m else startReset (chargeRestart m) 5 (unitChip 5) 0x1006 false true none

/-! ### Watchdogs (R399, Table 15.1) -/

/-- Whether slot `c` holds an array of region `r`. -/
def ctxInRgn (m : Mach) (c r : Nat) : Bool := (getCtx m c).par.blocks.any (fun q => q.array / 256 == r)

/-- Whether unit `s` of region `r` holds work (Table 15.1): the network, a request that waits at a bank port of the region or for an answer to one
of its engines; the milestone homes, amounts not yet applied; the record unit, a record whose header is still to take its final state (R200); the
sequence unit, a run of a serving manifest to build or to read the results of; the caravanserai, a unit it holds; a tier controller, a read or
repair it has open or an access at its input. (DEDUCED, log entry 115) -/
def rgnWork (m : Mach) (r s : Nat) : Bool :=
  let mine := m.blocks.filter (fun e => e.1 / 272 == r)
  let ctxs := (List.range 16).filter (fun c => ctxInRgn m c r)
  match s with
  | 0 => mine.any (fun e => (e.2.sp.rdQueue ++ e.2.sp.wrQueue).any (fun q => !q.2.isEmpty) || !e.2.ve.late.isEmpty ||
      (match e.2.ve.running with | some v => !v.tags.isEmpty | none => false) ||
      e.2.pm.flight.any (fun f => !f.readTags.isEmpty || !f.writeTags.isEmpty))
  | 1 => m.msQueue.any (fun q => homeOf q.1 == r)
  | 2 => ctxs.any (fun c => (getCtx m c).cr.recs.any (fun e => e.2.final && e.2.st == .pending))
  | 3 => ctxs.any (fun c => match (getCtx m c).sv.conf with
      | some f => (match getMan m c f.man with | some x => x.nextRun < x.launched || x.runs.any (·.built) | none => false)
      | none => false)
  | 4 => (recvIn m r).any (fun h => !h.held.isEmpty)
  | _ =>
    let k := if s < 0x20 then s - 0x10 else 16 + (s - 0x20)
    m.tier.repairs.any (fun q => q.ctl == k) || !(getCtl m k).input.isEmpty || !(getCtl m k).narrow.isEmpty

/-- Whether the array of a block waits: a request of the stream whose operation it runs stands at a bank port (Table 15.1). -/
def arrayWaits (b : Blk) : Bool :=
  match b.arr.running with
  | some q => (b.sp.rdQueue ++ b.sp.wrQueue).any (fun e => e.2.any (fun r => r.ctx == q.1.ctx && r.stream == q.1.stream))
  | none => false

/-- Whether the check-value unit of block `p` has bytes to consume: a tapped frame, or a channel unit it is to judge before it leaves (Table 14.4). -/
def cvWork (m : Mach) (p : Nat) : Bool :=
  !(getBlk m p).cv.frameQ.isEmpty || m.conv.chans.any (fun e => match e.2.recv with
    | some h => physOf m h.array == some p && cvTapsChannel m p e.1 (e.2.ctx / 4096) && h.held.any (fun u => !u.judged)
    | none => false)

/-- Whether a unit holds work and waits on nothing that Table 15.1 pauses its watchdog for (R399). The PCIe endpoint and the bank controls have no
watchdog; the caravaneer always has its next round to do. (DEDUCED, log entry 115) -/
def watched (m : Mach) (u : Nat) : Bool :=
  let p := unitIx u
  let b := getBlk m p
  match unitKind u with
  | 0 => regionsOn m && p < 1088 && !b.halted && match unitSub u with
    | 0 => !(readyKeys m p).isEmpty
    | 1 => (b.arr.running.isSome || !b.arr.queue.isEmpty) && !arrayWaits b
    | 2 => match b.ve.running with | some r => !r.ringStall && r.tags.isEmpty | none => false
    | 3 => b.pm.stalled.isNone && b.pm.flight.any (fun f => f.readTags.isEmpty && f.writeTags.isEmpty && f.todo.isEmpty)
    | 4 => cvWork m p
    | _ => false
  | 1 => regionsOn m && unitExists u && rgnWork m p (unitSub u)
  | 2 => m.pwr.boot == .running && !chipFenced m && match unitSub u with
    | 0 => !m.fab.released.isEmpty
    | 1 => !m.fab.reorder.isEmpty || !m.fab.released.isEmpty
    | 2 => m.conv.slots.any (fun e => e.2.coll.isSome)
    | 3 => (List.range 16).any (fun c => (closing m c).isSome || proposalsOut m c) || !m.ass.stopped.isEmpty
    | 4 => false
    | s => s < 6
  | _ => false

/-- The rung a hang of a unit leads to; none for the caravaneer. The same engine hung again within 1 s of its reset goes to rung 3. -/
def hangRung (m : Mach) (u : Nat) : Nat :=
  match unitKind u with
  | 0 => if unitSub u = 0 then 3 else match m.rst.engineHung.find? (fun e => e.1 == u) with
    | some e => if now m - e.2 < 1000000000 then 3 else 2
    | none => 2
  | 1 => 4
  | _ => if unitSub u = 3 then 2 else 5

/-- The period of a unit's watchdog in ms (Table 15.1). -/
def watchMs (m : Mach) (u : Nat) : Nat :=
  match unitKind u with
  | 0 => m.rst.engineMs
  | 1 => 1
  | _ => if unitSub u = 3 then 10 else if unitSub u = 5 then Config.mpPeriodMs else 1

/-- A unit of the domain under reset is recorded in the dump as unresponsive, unless it is there already. -/
def noteUnresponsive (m : Mach) (dom u : Nat) : Mach :=
  { m with rst := { m.rst with jobs := m.rst.jobs.map (fun j =>
      if j.domain = dom && !j.units.any (fun d => d.unit == u) && has (domainUnits m j.rung j.domain) u then
        { j with units := j.units ++ [{ unit := u, st := 1 }] } else j) } }

/-- WATCHDOG_EXPIRY: a unit that held work made no progress for its whole period: a hang (R399). Inside a domain already behind a cordon
nothing further starts, and the dump records it as the unit's state (R408). -/
def watchdogExpiry (u : Nat) (m : Mach) : Mach :=
  if !watched m u then m
  else match m.rst.jobs.find? (fun j => domainRoot j.rung u == some j.domain) with
    | some j => noteUnresponsive m j.domain u
    | none =>
      let mp := u == unitChip 5
      let m := report m 0x5003 clsInfo u none 0 0 (leBytes 1 (if mp then 0 else hangRung m u) ++ leBytes 4 (watchMs m u))
      if mp then startRestart m 1 else startReset m (hangRung m u) u 0x5003 false false none

/-- The runs of a posted manifest that were launched and have not completed; none of a halted one. -/
def runsLeft (q : ManSt) : Nat :=
  if q.halted then 0 else (q.launched - q.nextRun) + (q.runs.filter (fun r => r.started && !r.ended)).length

/-- The runs left of the manifest in slot `k` of a context. -/
def leftAt (m : Mach) (c k : Nat) : Nat := match getMan m c k with | some q => runsLeft q | none => 0

/-- The manifest slots of a context that have runs left. -/
def slotsLeft (m : Mach) (c : Nat) : List Nat := (List.range 16).filter (fun k => leftAt m c k != 0)

/-- STALL: a context made no progress for the stall period: its runs launched and not completed halt with RUN_HALTED (R401). -/
def stall (c : Nat) (m : Mach) : Mach :=
  let ks := slotsLeft m c
  if c ≥ 16 || (getCtx m c).st != .active || ks.isEmpty then m else
  let n := ks.foldl (fun a k => a + leftAt m c k) 0
  let m := ks.foldl (fun m k => haltMan m c k cRunHalted 0xFFFFFFFF) m
  reportCtx m 0x2006 (unitCtx c (handleOf m c)) c 0 (leBytes 4 n)

/-- COLLECTION_UNIT_TIMEOUT: a unit of a domain being collected did not deliver its state within 1 ms (R405). -/
def collectionTimeout (dom u : Nat) (m : Mach) : Mach :=
  if mpStopped m then m else noteUnresponsive m dom u

/-- A request that waited at a controller is answered as expired (R403): a read with every granule poisoned. `tiles` are the tiles whose repair ends. -/
def expireHeld (tiles : List Nat) (m : Mach) (q : TierReq) : Mach :=
  match q.pk, q.pm with
  | some pk, _ => sendPk m (fencedResp pk)
  | none, some z => pmResume m z tiles
  | none, none =>
    if q.data.isSome then m
    else if q.host then { m with pcie := { m.pcie with reads := m.pcie.reads ++ [rdBytes m q.a q.n], aer := m.pcie.aer + 1 } }
    else endHeld m q

/-- Ends the repairs of controllers: what they held, and what waited behind a stalled input, is answered poisoned. -/
def dropRepairs (m : Mach) (ks : List Nat) : Mach :=
  let mine := m.tier.repairs.filter (fun r => has ks r.ctl)
  let m := { m with tier := { m.tier with repairs := m.tier.repairs.filter (fun r => !has ks r.ctl) } }
  let waits := ks.flatMap (fun k => (getCtl m k).input)
  let m := ks.foldl (fun m k => modCtl m k (fun x => { x with input := [] })) m
  (mine.flatMap (·.held) ++ waits).foldl (expireHeld (mine.map (fun r => nthN (getCargo m r.set).pages r.tile))) m

/-- The blocks of a domain whose bank ports hold requests. -/
def portsWaiting (m : Mach) (rung dom : Nat) : List Nat :=
  (domainBlocks rung dom).filter (fun p => !(getBlk m p).sp.rdQueue.isEmpty || !(getBlk m p).sp.wrQueue.isEmpty)

/-- CORDON_TIMEOUT: 1 ms after a cordon was raised the requests still outstanding inside it are answered as expired (R403). -/
def cordonTimeout (dom : Nat) (m : Mach) : Mach :=
  match m.rst.jobs.find? (fun j => j.domain == dom) with
  | none => m
  | some j => dropRepairs ((portsWaiting m j.rung dom).foldl answerBanks m) (domainCtls j.rung dom)

/-! ### The end of a reset -/

/-- A block is reset (Table 15.5 rung 3): its waybills end, everything in it is at its reset value but its holder, its banks are zeroed,
and the cordon goes, unless it is retired. -/
def resetBlk (m : Mach) (p : Nat) : Mach :=
  let b := getBlk m p
  let idle := fun (w : RunWb) => { w with items := w.items.map (fun _ => ItemSt.done), code := if w.code = 0 then cRunHalted else w.code }
  let m := setBlk m p { b with seq := { b.seq with running := b.seq.running.map idle } }
  let m := (b.seq.running.map (·.stream)).foldl (fun m s => waybillComplete p s m) m
  let m := zeroRange (dropOut (dropOut m p 1) p 2) (spAddr p 0) 0x100000
  let f := freshBlk (getBlk m p)
  zeroBlkHeld p (setBlk m p { f with seq := { f.seq with holder := b.seq.holder }, cordon := has m.health.retired p })

/-- The assayer is reset (R402): every open slot of every context loses its history and open statistics and takes REBUILD; the
interrupted closes complete: what had not been closed is, and the tensors of each of those contexts get the scale 1.0. -/
def resetAssayer (m : Mach) : Mach :=
  let fresh := fun (w : Watch) => if w.st = 0 then w else ({ w with st := 3, hist := [], valid := [], newest := 0, open_ := [] } : Watch)
  let cut : List (Nat × Option Nat) := (List.range 16).filterMap (fun c =>
    match m.ass.stopped.find? (fun q => q.1 == c) with
    | some q => some (c, some q.2)
    | none => if (closing m c).isSome || proposalsOut m c then some (c, closing m c) else none)
  let ours := fun (o : OutReq) => match o.holder with | .watch _ => true | _ => false
  let m := { m with ass := { m.ass with watches := m.ass.watches.map (fun (e : Nat × Watch) => (e.1, fresh e.2)), stopped := [] },
                    fab := { m.fab with out := m.fab.out.filter (fun o => !ours o) } }
  cut.foldl (fun m q =>
    let due := q.2.filter (unclosed (getCtx m q.1))
    match due with
    | some s => closeStep m q.1 s
    | none => (openWatches m q.1).foldl (fun m n => modWatch (writeCoarse m q.1 n (pow2Bits 0) (pow2Bits 0)) n (fun w => { w with coarse := pow2Bits 0 })) m) m

/-- A controller reinitialised with its tier in self-refresh, contents kept (Table 15.5 rung 4). -/
def resetCtl (x : Ctl) : Ctl := { x with narrow := [], wb := [] }

/-- A region is reset (Table 15.5 rung 4): its blocks, its controllers, and the advances held at its boundary are applied (R404). -/
def resetRgn (m : Mach) (r : Nat) : Mach :=
  let ps : List Nat := (m.blocks.filter (fun e => e.1 / 272 == r)).map (·.1)
  let m := ps.foldl resetBlk m
  let m := zeroRange m (spAddr (272 * r) 0) (272 * 0x100000)
  let ks := domainCtls 4 (unitRgn r 0)
  let m := dropRepairs (ks.foldl (fun m k => modCtl m k resetCtl) m) ks
  let m := setRgn m r { getRgn m r with cordon := false }
  (((m.msQueue.map (·.1)).filter (fun n => homeOf n == r)).foldl (fun l n => insNat n l) []).foldl (fun m n => milestoneAdvance n false m) m

/-- Resets of the module counted by R410 within a window of hours. -/
def countedIn (m : Mach) (hours : Nat) : List Nat := within m (hours * hourNs) m.rst.counted

/-- Whether R410 takes the module out of service. -/
def tooMany (m : Mach) : Bool := m.rst.threshold ≤ (countedIn m m.rst.windowH).length

/-- The time the collection of a dump took, within the time since it began; none where nothing was collected (Table 15.3). When within that time it ended
the commands do not say. (DEDUCED, log entry 64) -/
def collectTime (m : Mach) (j : RstJob) : Nat :=
  if j.units.all (·.st == 2) then 0 else Config.dumpNs j.dump % (now m - j.stamp.counter + 1)

/-- The books of a reset that has completed: counters, history, the dump, the outcomes of the commands that asked, R377 and R410. (DEDUCED, log entry 35) -/
def closeReset (m : Mach) (j : RstJob) : Mach :=
  let m := { m with rst := { m.rst with jobs := m.rst.jobs.filter (fun q => q.domain != j.domain), lastRung := j.rung,
                                        counts := modNth m.rst.counts (j.rung - 1) (fun x => satAdd x 1) } }
  let m := if j.rung < 4 then m else
    { m with health := { m.health with evRst := within m (24 * hourNs) m.health.evRst ++ [now m] } }
  let m := if j.rung < 4 || j.requested then m else
    { m with rst := { m.rst with counted := within m (168 * hourNs) m.rst.counted ++ [now m] } }
  let m := j.tags.foldl (fun m t => endOp m t 0 0) m
  let out := 4 ≤ j.rung && !j.requested && !m.rst.oos && tooMany m
  let m := if out then goOut m 1 else m
  storeDump m { num := j.dump, rung := j.first, finalRung := if out then 6 else j.rung, domain := j.domain, trigger := j.trigger, stamp := j.stamp,
                collectNs := collectTime m j, resetNs := now m - j.stamp.counter - collectTime m j, units := j.units }

/-- The quarantine of a block at its second reset of the block rung or above within 24 h (R377). (DEDUCED, log entry 35) -/
def noteBlkReset (m : Mach) (u : Nat) : Mach :=
  if unitKind u != 0 then m else
  let p := unitIx u
  let ts := within m (24 * hourNs) (getHist m p).resets ++ [now m]
  let m := modHist m p (fun h => { h with resets := ts })
  if 2 ≤ ts.length then quarantine m p else m

/-- What the module does once it is host-ready after a chip warm reset: unavailable time ends, and the events of the reset are written (R394, R434, R435). -/
def hostReady (m : Mach) : Mach :=
  if m.pwr.boot != .running then m else
  let m := chargeDown m
  match m.rst.chipEvent with
  | none => m
  | some d =>
    let e : Event :=
      { seq := 0, code := 0x4001, contexts := 0, subject := 0, unit := unitChip 0, detail := padTo 16 (leBytes 4 d), stamp := stampNow m none none 0 0 }
    boardEvent (hostEvent { m with rst := { m.rst with chipEvent := none } } clsDevice e) clsDevice e

/-- A chip warm reset has reached host-ready, or got as far as it will: its commands end, its events are written or wait for host-ready (R407). -/
def closeChip (nv : NonVol) (m : Mach) (j : RstJob) : NonVol × Mach :=
  (nv, noteBlkReset (closeReset (hostReady { m with rst := { m.rst with chipEvent := some j.dump } }) j) j.origin)

/-- Whether a reset below the chip still waits for its collection while the caravaneer, which collects, is stopped (R33, R34): its own time
has not begun (R407). (DEDUCED, log entry 71) -/
def uncollected (m : Mach) (j : RstJob) : Bool := mpStopped m && decide (j.rung < 5) && decide ((collect m j false).units.length ≠ j.units.length)

/-- RESET_COMPLETE: the reset of a domain completes (R407). A chip warm reset boots with what it meets. -/
def resetComplete (dom : Nat) (f : BootFacts) (nv : NonVol) (m : Mach) : NonVol × Mach :=
  match m.rst.jobs.find? (fun j => j.domain == dom) with
  | none => (nv, m)
  | some j =>
    if uncollected m j then (nv, m) else
    let j := collect m j false
    let span := now m - j.stamp.counter
    match j.rung with
    | 2 =>
      let m := if unitKind dom = 0 then { m with rst := { m.rst with engineHung := tset 0 m.rst.engineHung dom (now m) } } else resetAssayer m
      (nv, closeReset m j)
    | 3 => (nv, noteBlkReset (closeReset (resetBlk m (unitIx dom)) j) j.origin)
    | 4 =>
      let m := resetRgn m (unitIx dom)
      let m := if j.requested then m else { m with health := { m.health with unavail := satAdd m.health.unavail (span / 4) } }
      (nv, noteBlkReset (closeReset m j) j.origin)
    | _ =>
      let r := boot nv m f false
      closeChip r.1 r.2 j

/-- What a job says when its rung missed its bound: the next rung takes the domain up with the same dump (R407). -/
def escalate (m : Mach) (j : RstJob) (rung : Nat) : Mach :=
  match domainRoot rung j.domain with
  | none => m
  | some dom =>
    let j := collect m j false
    let m := { m with rst := { m.rst with jobs := m.rst.jobs.filter (fun q => q.domain != j.domain) } }
    match outerJob m rung dom with
    | some o => joinReset m o j.rung j.domain j.tags
    | none =>
      let old := m.rst.jobs.filter (fun q => inDomain q.rung q.domain rung dom)
      let m := { m with rst := { m.rst with jobs := m.rst.jobs.filter (fun q => !inDomain q.rung q.domain rung dom) } }
      let m := old.foldl (fun m q => superseded m q.rung q.domain q.dump rung dom) m
      let m := stopWork (resetRecord m rung dom j.dump (2 ||| j.rung <<< 2)) rung dom j.dump
      let job := { j with rung := rung, domain := dom, requested := false, tags := j.tags ++ (old.map (·.tags)).flatten }
      let m := if rung = 5 then goDown m else m
      raiseCordon { m with rst := { m.rst with jobs := m.rst.jobs ++ [job] } } rung dom j.trigger

/-- A TRY slot is given up: it is marked FAILED (R440). -/
def failTry (nv : NonVol) : NonVol :=
  { nv with slots := nv.slots.map (fun s => if s.st = .try_ then { s with st := .failed } else s) }

/-- The resets a missed teardown starts, by the units whose steps missed (Table 15.5 rung 1). -/
def teardownMissed (m : Mach) (u : Nat) : Mach :=
  let rung := match unitKind u with
    | 0 => 3
    | 1 => 4
    | _ => 5
  let m := logRec m (resetCode rung).1 (resetCode rung).2 u 0 (2 ||| 1 <<< 2) none []
  startReset m rung u 0x200D false false none

/-- RUNG_WATCHDOG_EXPIRY: a rung misses its bound (R407). `dom` is the root of its domain, or for a teardown the context; `missed` the
units a teardown waits for. A chip warm reset that misses it first gives a pending TRY slot up (R440), and is held in reset after that
(R412). -/
def rungExpiry (dom : Nat) (missed : List Nat) (nv : NonVol) (m : Mach) : NonVol × Mach :=
  if unitKind dom = 3 then
    let c := unitIx dom
    if c < 16 && (getCtx m c).st == .teardown then (nv, ((missed.filter unitExists).foldl (fun l u => insNat u l) []).foldl teardownMissed m) else (nv, m)
  else match m.rst.jobs.find? (fun j => j.domain == dom) with
    | none => (nv, m)
    | some j =>
      if uncollected m j then (nv, m) else
      match j.rung with
      | 2 => (nv, escalate m j (if unitKind dom = 0 then 3 else 5))
      | 3 => (nv, escalate m j 4)
      | 4 => (nv, escalate m j 5)
      | _ =>
        if (slotIn nv .try_).isSome then (failTry nv, m)
        else (nv, { m with rst := { m.rst with jobs := [], inReset := true, oosNext := true },
                           pwr := { m.pwr with boot := .standby, fabricReady := false },
                           pcie := { m.pcie with faultLow := true, linkUp := false } })

/-- TRY_BOOT_TIMEOUT: a TRY slot fails its check or misses host-ready: it is marked FAILED and the other slot is booted (R440). -/
def tryBootTimeout (f : BootFacts) (nv : NonVol) (m : Mach) : NonVol × Mach :=
  if m.pwr.boot != .trying then (nv, m) else
  let r := bringUp (failTry nv) { m with time := { m.time with round := 0 } } f
  (r.1, hostReady r.2)

/-! ### Commands -/

/-- RESET: a reset of the named rung and unit (Table 16.7). -/
def resetCmd : Req → NonVol → Mach → Mach :=
  knaob 0x0701 (aH + aB) .none (lenIs 8) (resvAt [(1, 1), (6, 2)]) (fun m _ r => do
    let rung := recNat r.payload 0 1
    let u := recNat r.payload 2 4
    must (rung == 5 || (r.port != .host && 3 ≤ rung && rung ≤ 5)) 0x35 0
    must (unitExists u && (domainRoot rung u).isSome) 0x35 2
    must (rung == 5 || !m.rst.oos) 0x54 0
    must (rung == 5 || m.pwr.st != 3) 0x10 0
    must (rung == 5 || regionsOn m) 0x45 0
    must (rung != 3 || (arrayOf m (unitIx u)).isSome || has (getRgn m (unitIx u / 272)).spares (unitIx u % 272)) 0x43 0
    let q := newOp m r.port 0x0701 u
    pure (longOk (startReset q.1 rung u 0 true false (some q.2)) q.2))

/-- OOS_SET: the threshold and window of R410; a new value applies to the resets already counted. -/
def oosSet : Req → NonVol → Mach → Mach :=
  knaob 0x0702 aB .none (lenIs 4) (resvAt [(1, 1)]) (fun m _ r => do
    let t := recNat r.payload 0 1
    let w := recNat r.payload 2 2
    must (2 ≤ t && t ≤ 16) 0x35 0
    must (1 ≤ w && w ≤ 168) 0x35 2
    let m := { m with rst := { m.rst with threshold := t, windowH := w } }
    pure (okay (if tooMany m then goOut (flashWrite m 0) 1 else flashWrite m 0) []))

/-- RETURN_TO_SERVICE: ends out of service, clears the reset count and performs a chip warm reset (R411). -/
def returnToService : Req → NonVol → Mach → Mach :=
  knaob 0x0703 aB .none (lenIs 0) noResv (fun m _ r => do
    must m.rst.oos 0x45 0
    let q := newOp m r.port 0x0703 0
    let m := { q.1 with rst := { q.1.rst with oos := false, reason := 0, counted := [] }, health := { q.1.health with replace := false } }
    pure (longOk (startReset m 5 (unitChip 0) 0 true false (some q.2)) q.2))

/-- WDT_SET: the engine and stall periods (R400). -/
def wdtSet : Req → NonVol → Mach → Mach :=
  knaob 0x0705 aB .none (lenIs 4) (resvAt [(1, 1)]) (fun m _ r => do
    let e := recNat r.payload 0 1
    let s := recNat r.payload 2 2
    must (1 ≤ e && e ≤ 100) 0x35 0
    must (1 ≤ s && s ≤ 36000) 0x35 2
    pure (okay (flashWrite { m with rst := { m.rst with engineMs := e, stallDs := s } } 0) []))

/-- The 64 bytes of an error-log record (Table 15.6). -/
def logBytes (r : LogRec) : List Byte :=
  stampBytes r.stamp ++ leBytes 2 r.code ++ leBytes 1 r.cls ++ leBytes 1 r.flags ++ leBytes 4 r.unit ++ leBytes 4 r.count ++ leBytes 4 r.dump ++
    padTo 16 r.detail

/-- Record `n` of the error log, while it is held. -/
def logAt (m : Mach) (n : Nat) : Option LogRec :=
  let h := m.mgmt.logHead.toNat
  let r := tget noLog m.mgmt.log (n % 65536)
  if n < h && h ≤ n + 65536 && r.count != 0 then some r else none

/-- Where the 256 MiB mirror of the strongbox begins: at the start of region 0's reserved area (R236). (DESIGN CHOICE, log entry 114) -/
def mirrorBase : Nat := 0x37A11D6000

/-- Record `n` as the near-tier copy of the log has it (R413): none where its granules are poisoned. -/
def logCopy (m : Mach) (n : Nat) : Option LogRec :=
  let r := tget noLog m.mgmt.mirLog (n % 65536)
  if (logAt m n).isSome && r.count != 0 && !rdPoison m (mirrorBase + 64 * (n % 65536)) 64 then some r else none

/-- One record for each error found in the strongbox's SRAM (R376, Table 14.1). -/
def noteStrongbox (m : Mach) : Mach := logRec m (Config.logCode 8) clsCorrected (unitChip 5) 0 0 none []

/-- LOG_READ: error-log records, oldest first (R414). A record whose copy in SRAM fails its code, one of `bad`, comes from the near-tier copy (R413). -/
def logRead (bad : List Nat) : Req → NonVol → Mach → Mach :=
  knaob 0x0302 (aH + aB + aD) .none (lenIs 12) noResv (fun m _ r => do
    let first := recNat r.payload 0 8
    let n := recNat r.payload 8 4
    must (1 ≤ n && n ≤ 63) 0x35 8
    let ns := (List.range n).map (first + ·)
    let out := ((ns.filterMap (fun i => if has bad i then logCopy m i else logAt m i)).map logBytes).flatten
    pure (okay ((ns.filter (fun i => has bad i && (logAt m i).isSome)).foldl (fun m _ => noteStrongbox m) m) out))

/-- Where dump `num` stands in the near-tier copy (R413): one of 20 slots of 12 MiB behind the log. (DESIGN CHOICE, log entry 114) -/
def dumpSlot (num : Nat) : Nat := mirrorBase + 0x400000 + num % 20 * 0xC00000

/-- DUMP_READ: bytes of a stored dump (R406, R413). The most recent one comes from SRAM, unless that copy fails its code, which `bad` says; every other from
the near-tier copy. Where no copy is good the command fails. (DESIGN CHOICE, log entry 114) -/
def dumpRead (bad : Bool) : Req → NonVol → Mach → Mach :=
  knaob 0x0303 (aH + aB + aD) .none (lenIs 12) noResv (fun m _ r => do
    let num := recNat r.payload 0 4
    let off := recNat r.payload 4 4
    let n := recNat r.payload 8 4
    match m.mgmt.dumps.find? (fun d => d.num == num) with
    | none => .error { status := 0x43, detail := 0 }
    | some d => do
      must (off ≤ 256 + 1024 * d.units.length) 0x35 4
      must (n ≤ 4064 && off + n ≤ 256 + 1024 * d.units.length) 0x35 8
      let newest := match m.mgmt.dumps.getLast? with | some e => e.num == num | none => false
      must ((newest && !bad) || !rdPoison m (dumpSlot num + off) n) 0x50 0
      pure (okay (if newest && bad then noteStrongbox m else m) (dumpBytes d off n)))

end Sys2Proof.Machine
end

