-- ==== Sys2Proof/Machine/Faults.lean ====
section
/-! DEFINITION. Fault detections of chapter 14: the check-value unit (R381 to R384), duplicated logic, supplies, clocks and lockstep
(R374, Table 14.1), and the health registers (R390 to R394). -/

namespace Sys2Proof.Machine

/-! ### The check-value unit -/

/-- The check a configuration asks for (Table 14.5). -/
def cvCheck (v : CvSt) : CvCfg :=
  let g := v.cfg.toNat
  { width := fld g 50 6 + 1, poly := v.poly.toNat, init := v.init.toNat, reflectIn := tbit g 59, reflectOut := tbit g 58, invert := tbit g 57 }

/-- The bytes of the tally field (Table 14.5). -/
def cvTallyBytes (v : CvSt) : Nat :=
  match fld v.cfg.toNat 48 2 with
  | 0 => 0
  | 1 => 1
  | 2 => 2
  | _ => 4

/-- The bytes of the trailer: none where the expected value is the register's. -/
def cvTrailer (v : CvSt) : Nat := if tbit v.cfg.toNat 56 then 0 else (fld v.cfg.toNat 50 6 + 1) / 8

/-- A mismatch, repeat or gap (kinds 0, 1 and 2) of frame `n` (R384): flag, counter and, if every flag was clear, BLK_CV_FIRST. -/
def cvNote (v : CvSt) (kind n : Nat) : CvSt :=
  let first := if v.cvFlags = 0 then BitVec.ofNat 64 (2 ^ 63 + kind * 2 ^ 61 + n % 2 ^ 40) else v.cvFirst
  let v := { v with cvFlags := setBit v.cvFlags kind, cvFirst := first }
  match kind with
  | 0 => { v with mismatch := satAdd v.mismatch 1 }
  | 1 => { v with rep := satAdd v.rep 1 }
  | _ => { v with gap := satAdd v.gap 1 }

/-- Judges one frame (R382, R383): the unit after it and the kinds found. (DEDUCED, log entry 39) -/
def cvJudge (v : CvSt) (frame : List Byte) : CvSt × List Nat :=
  let n := v.frames.toNat
  let nt := cvTallyBytes v
  let off := fld v.cfg.toNat 32 16
  let tr := cvTrailer v
  let v := { v with frames := satAdd v.frames 1 }
  if frame.length < tr || (nt != 0 && frame.length < off + nt + tr) then (cvNote v 0 n, [0])
  else
    let c := checkValue (cvCheck v) (frame.take (frame.length - tr))
    let want := if tbit v.cfg.toNat 56 then v.expect.toNat else leNat (frame.drop (frame.length - tr))
    let t := recNat frame off nt
    let old := v.tally.toNat
    let counted : Option Nat :=
      if nt = 0 || !v.started then none else if t = (old + 1) % 2 ^ (8 * nt) then none else if t = old then some 1 else some 2
    let keep := nt = 0 || (v.started && counted == some 1)
    let v := { v with last := BitVec.ofNat 64 c, started := v.started || nt != 0, tally := if keep then v.tally else BitVec.ofNat 32 t }
    let kinds := (if c = want then [] else [0]) ++ counted.toList
    (kinds.foldl (fun v k => cvNote v k n) v, kinds)

/-- Judges a frame on block `p` and tells the owner of what it finds (R384). -/
def cvTake (m : Mach) (p : Nat) (frame : List Byte) : Mach × List Nat :=
  let v := (getBlk m p).cv
  let n := v.frames.toNat
  let c := fld v.cfg.toNat 28 4
  let q := cvJudge v frame
  let m := modBlk m p (fun b => { b with cv := q.1 })
  (q.2.foldl (fun m k => reportCtx m 0x2005 (unitBlk p 4) c ((arrayOf m p).getD 0) (leBytes 1 k ++ leBytes 8 n)) m, q.2)

/-- CV_FRAME: the check-value unit of a block computes and judges one frame (R382 to R384): the next one tapped, or on the CHANNEL tap
the unit about to leave the caravanserai, which a mismatch poisons where the action says so. -/
def cvFrame (p : Nat) (m : Mach) : Mach :=
  let v := (getBlk m p).cv
  let g := v.cfg.toNat
  if !tbit g 63 || engineInReset m p 3 || !blkRuns m p then m
  else if fld g 61 2 = 0 then
    let n := fld g 16 12
    let ch := getChan m n
    match ch.recv with
    | none => m
    | some h =>
      if ch.ctx / 4096 != fld g 28 4 || physOf m h.array != some p then m else
      match h.held with
      | [] => m
      | u :: us =>
        if u.judged then m else
        let q := cvTake m p u.data
        let bad := has q.2 0 && tbit g 60
        let u := { u with judged := true, poison := if bad then List.range (ceilDiv u.data.length 32) else u.poison }
        modRecv q.1 n (fun h => { h with held := u :: us })
  else
    match v.frameQ with
    | [] => m
    | f :: fs => (cvTake (modBlk m p (fun b => { b with cv := { b.cv with frameQ := fs } })) p f).1

/-! ### Detections (Table 14.1) -/

/-- Whether the module runs outside any chip reset. -/
def chipRuns (m : Mach) : Bool := m.pwr.boot == .running && m.pwr.st < 4 && !chipFenced m

/-- DUPLICATE_MISMATCH: duplicated logic disagrees (Table 14.1): a block's sequencer or Premutar is quarantined with its block (R377), a
region's homes, record unit or sequence unit lead to a region reset, customs, convoy engine or waymap to a chip warm reset. -/
def duplicateMismatch (u : Nat) (m : Mach) : Mach :=
  let s := unitSub u
  match unitKind u with
  | 0 => if !regionsOn m || 1088 ≤ unitIx u || (s != 0 && s != 3) then m else quarantine (logRec (noteMismatch m) (Config.logCode 7) clsContained u 0 0 none []) (unitIx u)
  | 1 => if !regionsOn m || 4 ≤ unitIx u || 3 < s then m else startReset (if s = 0 then m else noteMismatch m) 4 u 0x3001 false false none
  | 2 => if !chipRuns m || 2 < s then m else startReset (noteMismatch m) 5 u 0x4001 false false none
  | _ => m

/-- SUPPLY_DROOP: a droop detector of region `r` fires; ACLK is stretched and the event counted (R374). -/
def supplyDroop (r : Nat) (m : Mach) : Mach :=
  if !regionsOn m || 4 ≤ r then m else
  logRec { m with pwr := { m.pwr with droops := satAdd m.pwr.droops 1 } } (Config.logCode 2) clsCorrected (unitRgn r 0) 0 0 none []

/-- RAIL_OUT_OF_RANGE: device-fatal; nothing is collected (R405). -/
def railOut (m : Mach) : Mach := if !chipRuns m then m else startReset m 5 (unitChip 5) 0x4001 false true none

/-- CLOCK_LOSS: a PLL output is lost (Table 14.1). -/
def clockLoss (k : ClockLost) (m : Mach) : Mach :=
  match k with
  | .controller k => if !regionsOn m || !has allCtls k then m else startReset m 4 (unitCtl k) 0x3001 false false none
  | .link k =>
    if 18 ≤ k || (getLink m k).st = .down then m
    else linkDown m k
  | _ => if !chipRuns m then m else startReset m 5 (unitChip 0) 0x4001 false false none

/-- LOCKSTEP_MISMATCH: the caravaneer's lockstep compare fails and the management island restarts (R409). -/
def lockstepMismatch (m : Mach) : Mach := if !chipRuns m || m.rst.restarting then m else startRestart (noteMismatch m) 0

/-! ### Health registers (Table 14.11) -/

/-- CHP_HEALTH. -/
def healthWord (m : Mach) : Nat :=
  let h := m.health
  h.published <<< 54 ||| h.raw <<< 44 ||| capability m <<< 37 ||| h.floor <<< 30 ||| b2n h.replace <<< 29 ||| b2n h.reduced <<< 28

/-- CHP_HEALTH_TERMS. -/
def termsWord (h : HealthS) : Nat :=
  nthN h.terms 0 <<< 55 ||| nthN h.terms 1 <<< 47 ||| nthN h.terms 2 <<< 40 ||| nthN h.terms 3 <<< 33 ||| nthN h.terms 4 <<< 25 |||
    nthN h.terms 5 <<< 18 ||| nthN h.terms 6 <<< 12

/-- HEALTH_SCORE_SAVE: the published score is saved to the module records (R391). -/
def healthSave (m : Mach) : Mach := if !chipRuns m then m else flashWrite { m with health := { m.health with saved := m.health.published } } 0

/-- RETAIN_FLOOR (R393). (DEDUCED, log entry 38) -/
def retainFloor : Req → NonVol → Mach → Mach :=
  knaob 0x0704 aB .none (lenIs 4) (resvAt [(1, 3)]) (fun m _ r => do
    let f := recNat r.payload 0 1
    must (f ≤ 100) 0x35 0
    let m := flashWrite { m with health := { m.health with floor := f } } 0
    let m := if m.rst.oos then m else compareFloor m false
    pure (okay m (leBytes 1 (capability m) ++ leBytes 3 0)))

/-- HEALTH_QUERY: the health registers and the counted unavailable time. -/
def healthQuery : Req → NonVol → Mach → Mach :=
  knaob 0x0708 (aH + aB + aD) .none (lenIs 0) noResv (fun m _ _ =>
    .ok (okay m (leBytes 8 (healthWord m) ++ leBytes 8 (termsWord m.health) ++ leBytes 8 m.health.unavail.toNat)))

end Sys2Proof.Machine
end

