-- ==== Sys2Proof/Machine/Regs.lean ====
section
/-! DEFINITION. The registers as they read: each unit's registers by offset, in the layout of its table, computed from the state that
has one home elsewhere. Offsets that are not listed read as zero. -/

namespace Sys2Proof.Machine

/-- Registers by offset, in the order of their table. -/
abbrev Regs := List (Nat × Nat)

/-- The bits of a word at the places of a list of numbers. -/
def maskOf (l : List Nat) : Nat := l.foldl (fun a i => a ||| 1 <<< i) 0

/-- A number as a two's complement field of `w` bits. -/
def twos (v : Int) (w : Nat) : Nat := unsign v w

/-! ### Block registers -/

/-- Groups of an array in a state. -/
def groupsIn (a : ArrSt) (st : GroupSt) : List Nat := (List.range 8).filter (fun g => (tget freeGroup a.groups g).st == st)

/-- BLK_ARR_STATUS (Table 3.9). -/
def arrStatus (m : Mach) (a : ArrSt) : Nat :=
  let waits := a.queue.any (fun j => match j with | .load _ _ _ => true | .drain _ => false)
  let sw := match a.running.filter (fun _ => !waits) with
    | some q => (q.1.stream, match getMan m q.1.ctx q.1.man with
      | some x => match (bodyOf x.img q.1.wb)[q.1.item]? with
        | some (.arrayOp o) => o.wide
        | _ => 0
      | none => 0)
    | none => (0, 0)
  maskOf (groupsIn a .opened) <<< 24 ||| maskOf (groupsIn a .closing) <<< 16 ||| maskOf (groupsIn a .faulted) <<< 8 ||| sw.1 <<< 6 |||
    sw.2 <<< 4 ||| a.queue.length

/-- The array's registers (Table 3.8). -/
def arrRegs (m : Mach) (p : Nat) : Regs :=
  let a := (getBlk m p).arr
  [(0x2000, arrStatus m a), (0x2008, a.busy.toNat), (0x2010, a.rowCycles.toNat), (0x2018, a.residue.toNat)] ++
    (List.range 16).map (fun c => (0x2100 + 4 * c, (tget 0 a.tileFlags c).toNat)) ++
    (List.range 16).map (fun c => (0x2200 + 8 * c, (tget 0 a.tileFirst c).toNat)) ++
    (List.range 16).map (fun c => (0x2300 + 4 * c, (tget 0 a.tileFirstWb c).toNat))

/-- BLK_SP_WIN_CFG_n (Table 4.8). -/
def winCfg (w : Win) : Nat := b2n w.enable <<< 31 ||| b2n w.ring <<< 30 ||| w.ctx <<< 26 ||| w.size <<< 9 ||| w.base
/-- BLK_SP_WIN_PTR_n (Table 4.9). -/
def winPtr (w : Win) : Nat := w.tail <<< 32 ||| w.head
/-- BLK_SP_OWNER (Table 4.4). -/
def ownerWord (s : SpSt) : Nat := (List.range 6).foldl (fun a i => a ||| nthN s.owner i <<< (4 * i)) 0
/-- BLK_SP_ALIAS (Table 4.5). -/
def aliasWord (s : SpSt) : Nat := s.aliasCtx <<< 4 ||| b2n s.aliasOn <<< 3 ||| s.aliasBank

/-- The scratchpad's registers (Table 4.3). -/
def spRegs (m : Mach) (p : Nat) : Regs :=
  let b := getBlk m p
  let s := b.sp
  [(0x1000, ownerWord s), (0x1008, aliasWord s), (0x1010, s.eccStatus.toNat), (0x1018, s.eccFirst.toNat), (0x1020, s.corrected.toNat),
   (0x1024, s.uncorrected.toNat), (0x1028, s.patrolPasses.toNat), (0x1030, s.patrolForced.toNat)] ++
    (List.range 6).map (fun n => (0x1040 + 8 * n, (tget 0 s.nonOwner n).toNat)) ++
    (List.range 6).map (fun n => (0x1080 + 8 * n, (tget 0 s.nonOwnerWait n).toNat)) ++
    (List.range 16).map (fun n => (0x1100 + 16 * n, winCfg (getWin b n))) ++
    (List.range 16).map (fun n => (0x1108 + 16 * n, winPtr (getWin b n)))

/-- BLK_VE_STATUS (Table 5.7). -/
def veStatus (b : Blk) : Nat :=
  let free := regsFree b <<< 12
  match b.ve.running with
  | some r => r.opcode <<< 24 ||| r.ref.ctx <<< 20 ||| r.ref.stream <<< 18 ||| free ||| b2n r.ringStall <<< 9 |||
      (r.tags.length + b.ve.late.length)
  | none => free ||| b.ve.late.length

/-- The vector engine's registers (Table 5.6). -/
def veRegs (m : Mach) (p : Nat) : Regs :=
  let b := getBlk m p
  let v := b.ve
  [(0x3000, veStatus b), (0x3008, v.busy.toNat), (0x3010, v.elements.toNat)] ++
    (List.range 16).map (fun c => (0x3100 + 4 * c, (tget 0 v.flags c).toNat)) ++
    (List.range 16).map (fun c => (0x3200 + 8 * c, (tget 0 v.first c).toNat)) ++
    (List.range 16).map (fun c => (0x3300 + 4 * c, (tget 0 v.firstWb c).toNat)) ++
    (List.range 16).map (fun c => (0x3400 + 8 * c, (tget 0 v.idxFirst c).toNat)) ++
    (List.range 16).map (fun c => (0x3500 + 8 * c, (tget 0 v.idxAdj c).toNat))

/-- BLK_PM_STATUS (Table 6.4). -/
def pmStatus (q : PmSt) : Nat :=
  let all := q.flight ++ q.stalled.toList
  let who := match all with
    | f :: _ => f.ref.ctx <<< 25 ||| f.ref.stream <<< 23
    | [] => 0
  all.length <<< 29 ||| who ||| b2n (!q.held.isEmpty) <<< 22 ||| b2n q.stalled.isSome <<< 21 |||
    pmOutstanding q <<< 12

/-- Premutar's registers (Table 6.3). -/
def pmRegs (m : Mach) (p : Nat) : Regs :=
  let q := (getBlk m p).pm
  [(0x4000, pmStatus q), (0x4008, q.busy.toNat), (0x4010, q.bytes.toNat)] ++
    (List.range 16).map (fun c => (0x4100 + 4 * c, (tget 0 q.flags c).toNat)) ++
    (List.range 16).map (fun c => (0x4200 + 8 * c, (tget 0 q.faultAddr c).toNat)) ++
    (List.range 16).map (fun c => (0x4300 + 8 * c, (tget 0 q.faultPos c).toNat)) ++
    (List.range 16).map (fun c => (0x4400 + 4 * c, (tget 0 q.faultWb c).toNat)) ++
    (List.range 16).map (fun c => (0x4500 + 8 * c, (tget 0 q.serialised c).toNat)) ++
    (List.range 16).map (fun c => (0x4600 + 8 * c, (tget 0 q.suppressed c).toNat))

/-- BLK_SEQ_STATUS (Table 7.16). -/
def seqStatus (m : Mach) (p : Nat) : Nat :=
  let s := (getBlk m p).seq
  let on := fun (k : Nat) => s.running.any (fun w => w.stream == k)
  let n := ((List.range 16).map (fun c => ([1, 2, 3].map (fun k => (readyWbs m p c k).length)).foldl (· + ·) 0)).foldl (· + ·) 0
  s.holder.getD 0 <<< 28 ||| b2n s.holder.isSome <<< 27 ||| b2n (on 3) <<< 26 ||| b2n (on 2) <<< 25 ||| b2n (on 1) <<< 24 ||| min n 2047 <<< 13

/-- The sequencer's registers (Table 7.15). -/
def seqRegs (m : Mach) (p : Nat) : Regs :=
  let s := (getBlk m p).seq
  [(0x5000, seqStatus m p), (0x5008, s.starts.toNat)] ++
    ((List.range 16).map (fun c => (List.range 10).map (fun k => (0x5400 + 0x80 * c + 8 * k, (tget 0 s.idle (16 * c + k)).toNat)))).flatten

/-- The check-value unit's registers (Tables 14.5, 14.6). -/
def cvRegs (m : Mach) (p : Nat) : Regs :=
  let v := (getBlk m p).cv
  [(0x6000, v.cfg.toNat), (0x6008, v.poly.toNat), (0x6010, v.init.toNat), (0x6018, v.expect.toNat), (0x6020, v.last.toNat),
   (0x6028, v.tally.toNat), (0x6030, v.cvFlags.toNat), (0x6038, v.cvFirst.toNat), (0x6040, v.frames.toNat), (0x6048, v.mismatch.toNat),
   (0x6050, v.rep.toNat), (0x6058, v.gap.toNat)]

/-- The registers of a block's window (R101). -/
def blkRegs (m : Mach) (p : Nat) : Regs := spRegs m p ++ arrRegs m p ++ veRegs m p ++ pmRegs m p ++ seqRegs m p ++ cvRegs m p

/-! ### Region, tier and fabric registers -/

/-- RGN_BLOCK_MAP_n (Table 1.3). -/
def mapWord (e : MapEnt) : Nat := b2n e.valid <<< 31 ||| b2n e.subst <<< 30 ||| e.phys
/-- RGN_MAP_STATUS (Table 1.4). -/
def mapStatus (x : Rgn) : Nat := x.gen.toNat <<< 16 ||| x.spares.length <<< 11 ||| x.absent
/-- RGN_CSV_STATUS (Table 11.11). -/
def csvStatus (m : Mach) (r : Nat) : Nat := csvMin m r <<< 30 ||| csvUsed m r <<< 15 ||| (recvIn m r).length
/-- A region's registers (R28, R326). -/
def rgnRegs (m : Mach) (r : Nat) : Regs :=
  [(0x0800, mapStatus (getRgn m r)), (0x0810, csvStatus m r)] ++
    (List.range 256).map (fun n => (0x1000 + 4 * n, mapWord (tget noMap (getRgn m r).map n)))

/-- NT_STATUS or FT_STATUS (Tables 9.10, 9.11). -/
def ctlStatus (k : Nat) (x : Ctl) : Nat :=
  if k < 16 then
    x.st <<< 30 ||| b2n x.slow <<< 29 ||| x.retired.length <<< 27 ||| b2n x.poolSpent <<< 26 ||| b2n x.retiring.isSome <<< 25 |||
      x.retiring.getD 0 <<< 20 ||| b2n x.refreshX2 <<< 19
  else x.st <<< 30 ||| b2n x.slow <<< 29 ||| b2n x.poolSpent <<< 28 ||| b2n x.refreshX2 <<< 27 ||| x.spareFree

/-- A stack's or package's registers (Table 9.9). -/
def ctlRegs (m : Mach) (k : Nat) : Regs :=
  let x := getCtl m k
  [(0x000, ctlStatus k x), (0x008, x.eccStatus.toNat), (0x010, x.eccFirst.toNat), (0x018, x.corrected.toNat), (0x020, x.uncorrected.toNat),
   (0x028, x.ondie.toNat), (0x030, x.passes.toNat), (0x038, x.addSat.toNat), (0x040, x.combined.toNat), (0x048, x.ordDirect.toNat),
   (0x050, x.refetchBad.toNat <<< 32 ||| x.refetchOk.toNat)] ++
    (if k < 16 then [(0x058, x.threshold.toNat), (0x060, maskOf x.retired)] else [(0x058, x.pagesRetired.toNat)])

/-- XR_LINK_STATUS_k (Table 10.10). -/
def linkStatus (x : LinkS) : Nat :=
  (match x.st with | .down => 0 | .training => 1 | .up => if x.retraining then 3 else 2) <<< 30 ||| maskOf x.lanes <<< 26 ||| maskOf x.failed <<< 22

/-- A link's registers (Table 10.9). -/
def linkRegs (m : Mach) (k : Nat) : Regs :=
  let x := getLink m k
  [(0x00, linkStatus x), (0x08, x.replay.toNat), (0x10, x.fec.toNat), (0x18, x.down.toNat)]

/-- XR_MODULE_ID (Table 10.13). -/
def moduleIdWord (m : Mach) : Nat := match m.fab.module with | some i => 1 <<< 31 ||| i | none => 0

/-- The fabric registers of the module (Table 10.9). -/
def fabRegs (m : Mach) : Regs :=
  (List.range 10).map (fun n => (0x2000 + 8 * n, (tget 0 m.fab.customs n).toNat)) ++
    [(0x2100, m.fab.customsFlags.toNat), (0x2108, m.fab.customsFirst.toNat), (0x2200, (m.fab.waymap.filter (·.2.valid)).length),
     (0x2208, m.fab.respTimeout), (0x2210, moduleIdWord m)]

/-- The membership registers of a slot (Tables 10.9, 10.14). -/
def memberRegs (m : Mach) (c : Nat) : Regs :=
  let x := getCtx m c
  [(0x00, x.mem.id <<< 48 ||| b2n x.mem.carriedValid <<< 47 ||| x.mem.members.length), (0x08, x.mem.epoch <<< 32 ||| x.mem.carried),
   (0x10, x.xrTimeout.toNat), (0x18, x.xrRejected.toNat)]

/-- CHP_MILESTONE_n (Table 7.18). -/
def msWord (x : Milestone) : Nat := b2n x.declared <<< 50 ||| b2n x.frozen <<< 49 ||| b2n x.remote <<< 48 ||| x.owner <<< 32 ||| x.value.toNat

/-! ### Context registers -/

/-- CHP_CTX_STATE_c (Table 8.7). -/
def ctxState (m : Mach) (c : Nat) : Nat :=
  let x := getCtx m c
  handleOf m c <<< 16 ||| ctxStCode x.st <<< 13 ||| (if x.st == .active || x.st == .teardown then x.par.blocks.length else 0)

/-- Intake slots that are POSTED (R216). -/
def postedCount (x : Ctx) : Nat := (x.sv.intake.filter (fun e => recNat e.2 5 1 == 1)).length

/-- A slot's registers (Table 8.6). -/
def ctxRegs (m : Mach) (c : Nat) : Regs :=
  let x := getCtx m c
  let s := x.sv
  [(0x00, ctxState m c), (0x08, s.entries.length <<< 43 ||| postedCount x <<< 32 ||| b2n s.held <<< 31), (0x10, s.steps.toNat),
   (0x18, s.rows.toNat), (0x20, s.tiles.toNat), (0x28, s.freeNear.length <<< 32 ||| s.freeFar.length), (0x30, s.preempt.toNat),
   (0x38, s.deferred.toNat)]

/-- A slot's outrider counters (Table 9.15). -/
def orRegs (m : Mach) (c : Nat) : Regs :=
  let x := getCtx m c
  [(0x00, x.orLate.toNat), (0x08, x.orDirect.toNat), (0x10, x.orSkipped.toNat)]

/-- A slot's elastic registers (Tables 13.6, 13.7). -/
def elRegs (m : Mach) (c : Nat) : Regs :=
  let x := getCtx m c
  let e := x.el
  [(0x00, e.twin <<< 61 ||| b2n e.lineage <<< 60 ||| b2n e.park.isSome <<< 59 ||| b2n e.reclaim.isSome <<< 58 ||| b2n e.reshard.isSome <<< 57 |||
      b2n (!x.sv.switches.isEmpty) <<< 56 ||| e.undoHeld <<< 54 ||| e.twinM <<< 40 ||| e.twinH <<< 24),
   (0x08, x.layout <<< 32 ||| (match e.reshard with | some r => r.epoch | none => 0)), (0x10, e.lastAck.toNat), (0x18, e.layoutRej.toNat),
   (0x20, e.abandon.toNat)]

/-- A slot's accounting registers (Table 14.10). -/
def acctRegs (m : Mach) (c : Nat) : Regs :=
  let x := getCtx m c
  (List.range 22).map (fun i => (8 * i, (tget 0 x.acct i).toNat)) ++ [(0xB0, x.stmt.toNat)]

/-- CHP_AS_CTX_c (Table 12.12). -/
def asCtx (m : Mach) (c : Nat) : Nat :=
  let ws := openWatches m c
  let reb := (ws.filter (fun n => (getWatch m n).st == 3)).length
  b2n (reb != 0) <<< 63 ||| b2n (isScaled m c) <<< 62 ||| ws.length <<< 47 ||| reb <<< 32 ||| (getCtx m c).closes.toNat

/-- A completion ring's registers (Table 7.13). -/
def crRegs (m : Mach) (c : Nat) : Regs :=
  let r := (getCtx m c).cr
  [(0x0, r.ack.toNat), (0x4, r.issued.toNat), (0x8, r.bad.toNat)]

/-! ### Assayer, convoy, channel and cargo registers -/

/-- A watch slot's registers (Tables 12.7 to 12.11). -/
def watchRegs (m : Mach) (n : Nat) : Regs :=
  let w := getWatch m n
  [(0x00, w.ctx <<< 48 ||| w.st <<< 45 ||| w.silentRun <<< 29 ||| w.underRun <<< 13), (0x08, w.stats.elements), (0x10, w.stats.zeros),
   (0x18, w.stats.saturated), (0x20, w.stats.nonfinite), (0x28, w.stats.underflow), (0x30, w.stats.amax <<< 32 ||| (if w.st = 1 then 0 else w.coarse)),
   (0x38, w.flags.toNat), (0x40, w.silent.toNat), (0x48, w.under.toNat)] ++ (List.range 16).map (fun i => (0x80 + 4 * i, tget 0 w.hist i))

/-- A convoy slot's registers (Tables 11.9, 11.10). -/
def convRegs (m : Mach) (n : Nat) : Regs :=
  let s := getConv m n
  let r := s.rc
  let op := convOp s
  [(0x00, s.st <<< 62 ||| (if s.st = 0 then 0 else r.ctx / 4096) <<< 58 ||| r.rank <<< 45 ||| r.members.length <<< 31 ||| r.node <<< 26 |||
      r.timeout <<< 16 ||| r.id),
   (0x08, r.epoch <<< 32 ||| op), (0x10, s.flags.toNat), (0x18, s.abort.toNat),
   (0x20, (s.disc.getD 0 0).toNat <<< 48 ||| (s.disc.getD 1 0).toNat <<< 32 ||| (s.disc.getD 2 0).toNat <<< 16 ||| (s.disc.getD 3 0).toNat),
   (0x28, s.bytes.toNat)]

/-- CHP_CH_STATUS_n (Table 11.11). -/
def chanWord (m : Mach) (n : Nat) : Nat :=
  let c := getChan m n
  (b2n c.send.isSome + 2 * b2n c.recv.isSome) <<< 62 ||| (c.ctx / 4096) <<< 58 ||| (match c.recv with | some h => heldUnits h | none => 0) <<< 43 |||
    c.units.toNat

/-- CHP_CG_STATE_k (Table 13.8). -/
def cargoWord (m : Mach) (k : Nat) : Nat :=
  let s := getCargo m k
  s.st <<< 61 ||| s.keeper <<< 57 ||| s.inFlight <<< 41 ||| s.bound.length <<< 36 ||| s.sources.length <<< 32 ||| min s.left.length 0xFFFFFFFF

/-! ### Chip registers -/

/-- CHP_PART_ID (Table 0.2). -/
def partId (m : Mach) : Nat := 0x4D <<< 24 ||| 0x03 <<< 16 ||| (m.fuse.variant + 1) <<< 8 ||| (m.fuse.stepping % 16) <<< 4

/-- CHP_WDT_CFG (Table 15.9). -/
def wdtWord (r : RstS) : Nat := r.engineMs <<< 25 ||| r.stallDs <<< 9

/-- CHP_RESET_STATUS (Table 15.10). -/
def resetStatus (m : Mach) : Nat :=
  let r := m.rst
  r.lastRung <<< 61 ||| b2n r.oos <<< 60 ||| r.reason <<< 58 ||| r.threshold <<< 53 ||| r.windowH <<< 45 |||
    min (countedIn m r.windowH).length 16 <<< 40 ||| m.mgmt.dumpCount

/-- The reset and log registers (Table 15.8). -/
def resetRegs (m : Mach) : Regs :=
  [(0x00, wdtWord m.rst), (0x08, resetStatus m)] ++ (List.range 5).map (fun k => (0x10 + 8 * k, (m.rst.counts.getD k 0).toNat)) ++
    [(0x40, m.mgmt.logHead.toNat)]

/-- The health registers (Table 14.11). -/
def healthRegs (m : Mach) : Regs := [(0x00, healthWord m), (0x08, termsWord m.health), (0x10, m.health.unavail.toNat)]

/-- The applied array clock (R474): the lowest of the three. -/
def appliedMhz (p : PwrS) : Nat := min p.limitMhz (min p.loopMhz p.thermMhz)

/-- The code of the power state: P0 at the variant maximum, P1 below it, else P2 to P4 (R475). -/
def powerCode (m : Mach) : Nat := if m.pwr.st < 2 then (if appliedMhz m.pwr = maxMhz m then 0 else 1) else m.pwr.st

/-- SEC_STATE (Table 17.10). -/
def secState (nv : NonVol) (m : Mach) : Nat :=
  nv.lifecycle <<< 30 ||| debugLevel m <<< 28 ||| m.sec.alarmLevel <<< 26 ||| powerCode m <<< 23 ||| nv.returnCount <<< 20 ||| b2n nv.owner.isSome <<< 19 |||
    b2n nv.keyLatch <<< 18 ||| b2n m.sec.locked <<< 17

/-- The security registers (Table 17.10). -/
def secRegs (nv : NonVol) (m : Mach) : Regs :=
  [(0x00, secState nv m), (0x08, m.sec.raised)] ++ (List.range 7).map (fun n => (0x10 + 8 * n, (nv.alarms.getD n 0).toNat)) ++
    [(0x48, nv.failTotal.toNat <<< 32 ||| (recentFails nv m).length), (0x50, nv.policy.seq.toNat)]

/-- The 1 ms average of the input power in W. -/
def avgW (p : PwrS) : Nat := if p.samples.isEmpty then 0 else (p.samples.foldl (· + ·) 0) / p.samples.length

/-- What sets the clock (Table 18.9): nothing at the variant maximum, else the first of clock limit, power loop and thermal loop that is
the lowest. -/
def limiter (m : Mach) : Nat :=
  let p := m.pwr
  let a := appliedMhz p
  if a = maxMhz m then 0 else if p.limitMhz = a then 1 else if p.loopMhz = a then 2 else 3

/-- The power and thermal registers (Table 18.9). -/
def pwrRegs (m : Mach) : Regs :=
  let p := m.pwr
  [(0x00, powerCode m <<< 61 ||| appliedMhz p <<< 51 ||| p.limitMhz <<< 41 ||| p.capW <<< 28 ||| min (avgW p) 8191 <<< 15 ||| b2n p.capUnmet <<< 14 |||
      limiter m <<< 12),
   (0x08, twos p.dieMax 8 <<< 56 ||| twos p.stackMax 8 <<< 48 ||| p.hotStack <<< 44 ||| b2n (p.thermMhz < min p.limitMhz p.loopMhz) <<< 43 |||
      b2n p.shutdown <<< 42)]

/-! ### The whole space -/

/-- Finds a register of an array of units at `base` with stride `step`. -/
def inUnits (a base step n : Nat) (f : Nat → Regs) : Option Nat :=
  if base ≤ a && a < base + step * n then
    some ((((f ((a - base) / step)).find? (fun e => e.1 == (a - base) % step)).map (·.2)).getD 0)
  else none

/-- The first answer of a list. -/
def firstSome : List (Option Nat) → Nat
  | [] => 0
  | some v :: _ => v
  | none :: t => firstSome t

/-- A register at a local physical address in the control and status space; what is not listed reads as zero. -/
def readReg (nv : NonVol) (m : Mach) (a : Nat) : Nat :=
  firstSome
    [inUnits a 0x7F000000000 0x100 1 (fun _ => [(0x10, partId m), (0x20, m.time.counter.toNat)]),
     inUnits a 0x7F001000000 0x100000 4 (rgnRegs m),
     inUnits a 0x7F002000000 8 65536 (fun n => [(0, msWord (getMs m n))]),
     inUnits a 0x7F002080000 8 1 (fun _ => [(0, m.msRefused.toNat)]),
     inUnits a 0x7F003000000 0x100 16 (ctxRegs m),
     inUnits a 0x7F004000000 0x10000 12 (ctlRegs m),
     inUnits a 0x7F005000000 0x10000 16 (fun p => ctlRegs m (16 + p)),
     inUnits a 0x7F006000000 0x20 16 (orRegs m),
     inUnits a 0x7F007000000 0x100 18 (linkRegs m),
     inUnits a 0x7F007000000 0x3000 1 (fun _ => fabRegs m),
     inUnits a 0x7F007003000 0x40 16 (memberRegs m),
     inUnits a 0x7F008000000 0x40 64 (convRegs m),
     inUnits a 0x7F008001000 8 1 (fun _ => [(0, m.conv.unmatched.toNat)]),
     inUnits a 0x7F008100000 8 4096 (fun n => [(0, chanWord m n)]),
     inUnits a 0x7F009000000 0x100 16384 (watchRegs m),
     inUnits a 0x7F009400000 8 16 (fun c => [(0, asCtx m c)]),
     inUnits a 0x7F00A000000 0x40 16 (elRegs m),
     inUnits a 0x7F00A100000 8 4096 (fun k => [(0, cargoWord m k)]),
     inUnits a 0x7F00B000000 0x100 16 (acctRegs m),
     inUnits a 0x7F00C000000 0x100 1 (fun _ => healthRegs m),
     inUnits a 0x7F00D000000 0x100 1 (fun _ => resetRegs m),
     inUnits a 0x7F00E000000 0x100 1 (fun _ => secRegs nv m),
     inUnits a 0x7F00F000000 0x100 1 (fun _ => pwrRegs m),
     inUnits a 0x7F010000000 0x10000 1088 (blkRegs m)]

end Sys2Proof.Machine
end

