-- ==== Sys2Proof/Machine/Management.lean ====
section
/-! DEFINITION. The management plane's own work (chapter 16): clearing and reading of flags and counters, events, interrupts, writes to
BAR0, the management round with its health score, energy and telemetry, and the firmware commands. -/

namespace Sys2Proof.Machine

/-! ### Flags and occurrence counters (R428 to R431) -/

/-- The bits a flag class of R430 has. -/
def classBits (cls : Nat) : Nat := if cls < 2 then 4 else 3

/-- Clears bits of a block's flags for slot `c`, while `sets` arrive in the same cycle: positions recorded with a flag that clears go
with it (R102, R147, R172, R385). -/
def clearBlkFlags (b : Blk) (cls c : Nat) (clear sets : W32) : Blk :=
  match cls with
  | 0 =>
    let a := b.arr
    let a := { a with tileFlags := tmod 0 a.tileFlags c (fun x => w1c x clear sets) }
    { b with arr := if clearedBit clear sets 0 then { a with tileFirst := tdel a.tileFirst c, tileFirstWb := tdel a.tileFirstWb c } else a }
  | 1 =>
    let v := b.ve
    let v := { v with flags := tmod 0 v.flags c (fun x => w1c x clear sets) }
    let v := if clearedBit clear sets 0 then { v with first := tdel v.first c, firstWb := tdel v.firstWb c } else v
    { b with ve := if clearedBit clear sets 2 then { v with idxFirst := tdel v.idxFirst c } else v }
  | 2 =>
    let p := b.pm
    let p := { p with flags := tmod 0 p.flags c (fun x => w1c x clear sets) }
    { b with pm := if clearedBit clear sets 0 then
        { p with faultAddr := tdel p.faultAddr c, faultPos := tdel p.faultPos c, faultWb := tdel p.faultWb c } else p }
  | _ =>
    let v := b.cv
    let kind := fld v.cvFirst.toNat 61 2
    let gone := v.cvFirst.getLsbD 63 && clearedBit clear sets kind
    { b with cv := { v with cvFlags := w1c v.cvFlags clear sets, cvFirst := if gone then 0 else v.cvFirst } }

/-- The blocks a FLAGS_CLEAR names: with their logical array. -/
def flagTargets (m : Mach) (c index : Nat) : List (Nat × Nat) :=
  ((getCtx m c).par.blocks.filter (fun s => index == 0xFFFF || s.array == index)).filterMap (fun s => (physOf m s.array).map (fun p => (s.array, p)))

/-- The bits set at a target in the cycle of the clear, from the row's list. -/
def setsAt (sets : List (Nat × W32)) (t : Nat) : W32 := ((sets.find? (fun q => q.1 == t)).map (·.2)).getD 0

/-- Whether a block's check-value unit is configured for a slot. -/
def cvOwned (m : Mach) (p c : Nat) : Bool := let g := (getBlk m p).cv.cfg.toNat; tbit g 63 && fld g 28 4 == c

/-- FLAGS_CLEAR (R430). `sets` are the flags set in the same cycle, by logical array, or by slot for classes 4 and 5; the events that
set them are counted by their own rows. (DESIGN CHOICE, log entry 36) -/
def flagsClear (sets : List (Nat × W32)) : Req → NonVol → Mach → Mach :=
  knaob 0x010C aH .active (lenIs 8) (resvAt [(1, 1)]) (fun m c r => do
    let cls := pf r 0 1
    let ix := pf r 2 2
    must (pf r 4 4 < 2 ^ classBits cls) 0x34 4
    must (cls ≤ 5) 0x35 0
    let clear := BitVec.ofNat 32 (pf r 4 4)
    let mask := BitVec.ofNat 32 (2 ^ classBits cls - 1)
    if cls < 4 then
      must (ix < 1024 || ix == 0xFFFF) 0x35 2
      let ts := flagTargets m c ix
      must (ix == 0xFFFF || !ts.isEmpty) 0x43 0
      let ts := if cls = 3 then ts.filter (fun t => ix != 0xFFFF || cvOwned m t.2 c) else ts
      must (cls != 3 || (!ts.isEmpty && ts.all (fun t => cvOwned m t.2 c))) 0x45 0
      let m := ts.foldl (fun m t => modBlk m t.2 (fun b => clearBlkFlags b cls c clear (setsAt sets t.1 &&& mask))) m
      let raced := ts.foldl (fun a t => a ||| racedBits clear (setsAt sets t.1 &&& mask)) 0
      pure (okay m (leBytes 4 ts.length ++ leBytes 4 raced.toNat))
    else
      let s := setsAt sets ix &&& mask
      if cls = 4 then
        must (ix < 16384) 0x35 2
        must ((getWatch m ix).st != 0 && (getWatch m ix).ctx == handleOf m c) 0x41 0
        pure (okay (modWatch m ix (fun w => { w with flags := w1c w.flags clear s })) (leBytes 4 1 ++ leBytes 4 (racedBits clear s).toNat))
      else
        must (ix < 64) 0x35 2
        must ((getConv m ix).st != 0 && (getConv m ix).rc.ctx == handleOf m c) 0x41 0
        pure (okay (modConv m ix (fun q => { q with flags := w1c q.flags clear s, abort := if clearedBit clear s 2 then 0 else q.abort }))
          (leBytes 4 1 ++ leBytes 4 (racedBits clear s).toNat)))

/-- The held count of a key. -/
def heldCount (m : Mach) (key : Nat) : Nat := (tget (0, 0) m.mgmt.held key).2

/-- The occurrence counters of a block's flag class for slot `c`, in bit order (R431): the named register, or the one held. -/
def blkCounters (m : Mach) (cls p c : Nat) : List Nat :=
  let b := getBlk m p
  let h := fun (i : Nat) => heldCount m (heldKey p (occKey cls c i))
  match cls with
  | 0 => (List.range 4).map h
  | 1 => [h 0, h 1, h 2, (tget 0 b.ve.idxAdj c).toNat]
  | 2 => [h 0, (tget 0 b.pm.serialised c).toNat, (tget 0 b.pm.suppressed c).toNat]
  | _ => [b.cv.mismatch.toNat, b.cv.rep.toNat, b.cv.gap.toNat]

/-- COUNTER_READ (R431). -/
def counterRead : Req → NonVol → Mach → Mach :=
  knaob 0x0304 (aH + aB + aD) .none (lenIs 8) (resvAt [(1, 1)]) (fun m _ r => do
    let cls := pf r 0 1
    let ix := pf r 2 2
    let slot := pf r 4 4
    must (cls ≤ 5) 0x35 0
    must (ix < (if cls < 4 then 1024 else if cls = 4 then 16384 else 64)) 0x35 2
    must (if cls < 4 then slot < 16 else slot == 0) 0x35 4
    let out := fun (l : List Nat) => okay m (l.map (leBytes 8)).flatten
    if cls < 4 then
      match physOf m ix with
      | none => .error { status := 0x43, detail := 0 }
      | some p => pure (out (blkCounters m cls p slot))
    else if cls = 4 then pure (out [(getWatch m ix).silent.toNat, (getWatch m ix).under.toNat, heldCount m (watchKey ix 2)])
    else pure (out ((List.range 3).map (fun i => heldCount m (convKey ix i)))))

/-! ### Events and interrupts (R432 to R434) -/

/-- The 64 bytes of an event record (Table 16.8). -/
def eventBytes (e : Event) : List Byte :=
  leBytes 8 (e.code <<< 32 ||| e.seq) ++ leBytes 2 e.contexts ++ leBytes 2 e.subject ++ leBytes 4 e.unit ++ padTo 16 e.detail ++ stampBytes e.stamp

/-- Acknowledges records of a ring under the rule of R201. -/
def ringAck (r : EvRing) (q : W32) (whole : Bool) : EvRing :=
  if whole && (q - r.ack).toNat ≤ (r.head - r.ack).toNat then { r with ack := q } else { r with ackBad := satAdd r.ackBad 1 }

/-- The OVERFLOW record that a ring gets once room returns (R434). -/
def overflowEvent (m : Mach) (r : EvRing) : Event :=
  { seq := 0, code := 2, contexts := 0, subject := 0, unit := 0, detail := padTo 16 (leBytes 8 r.lost), stamp := stampNow m none none 0 0 }

/-- Writes the OVERFLOW record where records were lost and room has returned. -/
def flushLost (m : Mach) (r : EvRing) : EvRing :=
  if r.lost != 0 && ringRoom r then { ringPut r (overflowEvent m r) with lost := 0 } else r

/-- MP_EVT_ACK: a driver write acknowledges host event records (R433): the value, and whether it was one aligned 4-byte write. -/
def mpEvtAck (value : Nat) (whole : Bool) (m : Mach) : Mach :=
  if !m.pcie.linkUp then m else
  let r := ringAck m.mgmt.hostRing (BitVec.ofNat 32 value) whole
  let s := flushLost m r
  let m := { m with mgmt := { m.mgmt with hostRing := s } }
  if s.head = r.head then m else signal m 1

/-- The records of a ring after its acknowledged one, at most `n`. -/
def ringRecs (r : EvRing) (n : Nat) : List Event :=
  (List.range (min n (r.head - r.ack).toNat)).map (fun i => tget noEvent r.recs ((r.ack.toNat + 1 + i) % 2 ^ 32 % r.cap))

/-- BOARD_EVENTS (R433). -/
def boardEvents : Req → NonVol → Mach → Mach :=
  knaob 0x0305 aB .none (lenIs 4) noResv (fun m _ r =>
    let s := flushLost m (ringAck m.mgmt.boardRing (BitVec.ofNat 32 (pf r 0 4)) true)
    .ok (okay (putBoard m s) ((ringRecs s 63).map eventBytes).flatten))

/-- Unmasks a vector: a pending one is sent (R432). -/
def unmask (m : Mach) (v : Nat) : Mach :=
  let g := m.mgmt
  let bit := BitVec.ofNat 64 (1 <<< v)
  if !g.msixMask.getLsbD v then m
  else if g.msixPend.getLsbD v then
    { m with mgmt := { g with msixMask := g.msixMask &&& ~~~bit, msixPend := g.msixPend &&& ~~~bit, msgs := g.msgs ++ [v] } }
  else { m with mgmt := { g with msixMask := g.msixMask &&& ~~~bit } }

/-- MSIX_UNMASK: the mask bit of a vector is cleared. -/
def msixUnmask (v : Nat) (m : Mach) : Mach := if !m.pcie.linkUp || 64 ≤ v then m else unmask m v

/-- One byte written into the MSI-X table: the mask bit of its entry, or what the entry holds beside it. -/
def msixByte (m : Mach) (off : Nat) (b : Byte) : Mach :=
  let v := off / 16
  let m := { m with mgmt := { m.mgmt with msixEntries := tset 0 m.mgmt.msixEntries off (if off % 16 = 12 then b &&& 0xFE else b) } }
  if off % 16 != 12 then m
  else if b.getLsbD 0 then { m with mgmt := { m.mgmt with msixMask := m.mgmt.msixMask ||| BitVec.ofNat 64 (1 <<< v) } }
  else unmask m v

/-- One byte of an intake slot (R217). -/
def intakeByte (m : Mach) (off : Nat) (b : Byte) : Mach :=
  let c := off / 0x20000
  let i := off % 0x20000 / 128
  if (getCtx m c).par.intakeSlots ≤ i || (getCtx m c).st != .active then m
  else modServ m c (fun s => { s with intake := tset [] s.intake i (spliceBytes (padTo 128 (tget [] s.intake i)) (off % 128) [b]) })

/-- One byte written in BAR0 (R15): the request area and the intake slots keep it, the MSI-X table takes it, and everything else that has
no row of its own is read-only. -/
def bar0Byte (m : Mach) (a : Nat) (b : Byte) : Mach :=
  if a < 0x1000 then { m with mgmt := { m.mgmt with reqArea := tset 0 m.mgmt.reqArea a b } }
  else if 0x4000 ≤ a && a < 0x4400 then msixByte m (a - 0x4000) b
  else if 0x2000000 ≤ a && a < 0x2200000 then intakeByte m (a - 0x2000000) b
  else m

/-- A window from its two registers (Tables 4.8, 4.9). -/
def winOf (cfg ptr : Nat) : Win :=
  { enable := tbit cfg 31, ring := tbit cfg 30, ctx := fld cfg 26 4, size := fld cfg 9 9, base := fld cfg 0 9, head := fld ptr 0 21, tail := fld ptr 32 21 }

/-- Clears bits of BLK_SP_ECC_STATUS while `sets` arrive in the same cycle: the position goes with the flag of its kind, unless that is set (R15, R123). -/
def clearSpEcc (s : SpSt) (clear sets : W32) : SpSt :=
  let kind := if s.eccFirst.getLsbD 22 then 2 else 1
  { s with eccStatus := w1c s.eccStatus (clear &&& 7) (sets &&& 7),
           eccFirst := if s.eccFirst.getLsbD 23 && clearedBit clear sets kind then 0 else s.eccFirst }

/-- A write through the caravaneer's maintenance path to a whole register of a block's scratchpad (R124): the window and alias registers take it, the
error flags are cleared by ones; the rest is read-only. (DEDUCED, log entry 88) -/
def maintWrite (a : Nat) (data : List Byte) (sets : W32) (m : Mach) : Mach :=
  let p := (a - 0x7F010000000) / 0x10000
  let o := (a - 0x7F010000000) % 0x10000
  let v := leNat data
  let n := (o - 0x1100) / 16
  let old := getWin (getBlk m p) n
  if a < 0x7F010000000 || 1088 ≤ p || mpStopped m || !regionsOn m then m
  else if o = 0x1010 && data.length = 4 then modSp m p (fun s => clearSpEcc s (BitVec.ofNat 32 v) sets)
  else if o = 0x1008 && data.length = 4 && fld v 0 3 < 6 then
    modSp m p (fun s => { s with aliasOn := tbit v 3, aliasBank := fld v 0 3, aliasCtx := fld v 4 4 })
  else if 0x1100 ≤ o && o < 0x1200 && o % 16 = 0 && data.length = 4 then modBlk m p (fun b => modWin b n (fun _ => winOf v (winPtr old)))
  else if 0x1100 ≤ o && o < 0x1200 && o % 16 = 8 && data.length = 8 then modBlk m p (fun b => modWin b n (fun _ => winOf (winCfg old) v))
  else m

/-- Whether a write of `n` bytes at `a` touches the 4 bytes of a register at `b`. -/
def touches (a n b : Nat) : Bool := a < b + 4 && b < a + n

/-- A host write that touches an acknowledgement register in BAR0: an acknowledgement only as one aligned 4-byte write, else counted and
alerted as ignored, with the bytes written as its value (R201, R433). -/
def ackWrite (a : Nat) (data : List Byte) (m : Mach) : Mach :=
  let v := leNat data % 2 ^ 32
  let m := (List.range 16).foldl (fun m c =>
    let b := 0x1400000 + 16 * c
    if touches a data.length b then chpCrAck c v (a == b && data.length == 4) m else m) m
  if touches a data.length 0x2028 then mpEvtAck v (a == 0x2028 && data.length == 4) m else m

/-- The request that stands in the request area (Table 16.4): its opcode, and the rest. -/
def areaReq (m : Mach) : Nat × Req :=
  let at_ := fun (off n : Nat) => (List.range n).map (fun i => tget 0 m.mgmt.reqArea (off + i))
  let len := recNat (at_ 4 2) 0 2
  let body := min len 4076
  (recNat (at_ 0 2) 0 2,
   { port := .host, tally := BitVec.ofNat 16 (recNat (at_ 2 2) 0 2), handle := BitVec.ofNat 16 (recNat (at_ 6 2) 0 2), len := len, resv := at_ 8 8,
     payload := at_ 16 body, crc := BitVec.ofNat 32 (recNat (at_ (16 + body) 4) 0 4) })

/-- A write of MP_MBX_SUBMIT (R417, R418): the host hands over the request in the request area. It is ignored and counted while the mailbox is BUSY; else it
is copied out and waits for the caravaneer's next round. The tally that counts is the request's own. (DEDUCED, log entry 113) -/
def submit (m : Mach) : Mach :=
  let q := areaReq m
  match (getMbx m .host).st with
  | .restarting => m
  | .busy => modMbx m .host (fun b => { b with ignored := satAdd b.ignored 1 })
  | _ => if m.pwr.boot = .running && !chipFenced m then acceptReq m q.1 q.2 else m

/-- REGISTER_WRITE: a write where no row of its own says what happens (R15): bytes of the host at an offset of BAR0, or a register's bytes of
the caravaneer's maintenance path at its local physical address; `sets` are the flags of that register set in the same cycle. -/
def registerWrite (a : Nat) (data : List Byte) (sets : W32) (m : Mach) : Mach :=
  if 0x7F000000000 ≤ a then maintWrite a data sets m
  else if !m.pcie.linkUp then m
  else if a = 0x2008 && data.length = 4 then submit m
  else (data.zipIdx).foldl (fun m q => bar0Byte m (a + q.2) q.1) (ackWrite a data m)

/-- The words of 64 bytes, by offset. -/
def wordsOf (bs : List Byte) : Regs := (List.range (bs.length / 8)).map (fun i => (8 * i, recNat bs (8 * i) 8))

/-- The mailbox and event registers of the host port (Table 16.14). -/
def hostRegs (m : Mach) : Regs :=
  let r := m.mgmt.hostRing
  let lost := fun (i : Nat) => (satAdd (r.dropped.getD i 0) (m.mgmt.boardRing.dropped.getD i 0).toNat).toNat
  let ignored := (m.mgmt.mbx.foldl (fun (a : W64) b => satAdd a b.ignored.toNat) 0).toNat
  [(0x00, statusWord (m.mgmt.mbx.getD 0 mbxReset)), (0x10, m.time.round.toNat), (0x18, ignored), (0x20, r.head.toNat),
   (0x28, r.ack.toNat), (0x30, r.ackBad.toNat),
   (0x38, lost 3 <<< 48 ||| lost 2 <<< 32 ||| lost 1 <<< 16 ||| lost 0)]

/-- A doubleword of a table of bytes. -/
def byteWord (t : Tbl Byte) (off : Nat) : Nat := leNat ((List.range 8).map (fun i => tget 0 t (off + i)))

/-- A doubleword of the MSI-X table: the mask bits of the vectors beside what else the entries hold (R432). -/
def msixWord (g : MgmtS) (off : Nat) : Nat :=
  byteWord g.msixEntries off ||| (if off % 16 = 8 then b2n (g.msixMask.getLsbD (off / 16)) <<< 32 else 0)

/-- A doubleword of the telemetry mirror: the generation word of a group, then its registers in order (R436). (DEDUCED, log entry 33) -/
def mirrorWord (g : MgmtS) (a : Nat) : Nat :=
  match g.mirror.find? (fun e => e.1 ≤ a && a < e.1 + 8 * (e.2.2.length + 1)) with
  | some e => nthN (e.2.1 :: e.2.2) ((a - e.1) / 8)
  | none => 0

/-- An aligned 8 bytes of BAR0 as the host reads them (R417, R432, R433, R436, R468): the mailbox areas, the host's registers, the MSI-X table and
pending bits, completion records and acknowledgement registers, intake slots, event records and the telemetry mirror. Until host-ready it
reads as zero but for MP_MBX_STATUS. -/
def bar0Word (m : Mach) (a : Nat) : Nat :=
  if m.pwr.boot != .running then (if a = 0x2000 then 3 <<< 30 else 0)
  else if a < 0x1000 then byteWord m.mgmt.reqArea a
  else if 0x4000 ≤ a && a < 0x4400 then msixWord m.mgmt (a - 0x4000)
  else if 0x3000000 ≤ a then mirrorWord m.mgmt a
  else firstSome
    [inUnits a 0x1000 0x1000 1 (fun _ => wordsOf (padTo 4096 (m.mgmt.mbx.getD 0 mbxReset).resp)),
     inUnits a 0x2000 0x40 1 (fun _ => hostRegs m),
     inUnits a 0x5000 8 1 (fun _ => [(0, m.mgmt.msixPend.toNat)]),
     inUnits a 0x1000000 64 0x10000 (fun i => wordsOf (recBytes (tget noRec (getCtx m (i / 4096)).cr.recs (i % 4096)))),
     inUnits a 0x1400000 16 16 (fun c => let x := (getCtx m c).cr; [(0, x.issued.toNat <<< 32 ||| x.ack.toNat), (8, x.bad.toNat)]),
     inUnits a 0x2000000 128 0x4000 (fun i => wordsOf (padTo 128 (tget [] (getCtx m (i / 1024)).sv.intake (i % 1024)))),
     inUnits a 0x2800000 64 4096 (fun q => wordsOf (eventBytes (tget noEvent m.mgmt.hostRing.recs q)))]

/-! ### Health score (R389 to R391) -/

/-- The days until the least-squares line of a margin's results reaches its warning level (R389): 0 when it is below already, 65,535 when
the line does not approach it. Times are taken back from now. -/
def marginDays (m : Mach) (rs : List (Nat × Int)) : Nat :=
  let below := match rs.getLast? with | some q => decide (q.2 < 0) | none => false
  let t := fun (q : Nat × Int) => ((q.1 : Int) - (now m : Int))
  let n : Int := rs.length
  let st := rs.foldl (fun a q => a + t q) 0
  let sd := rs.foldl (fun a q => a + q.2) 0
  let stt := rs.foldl (fun a q => a + t q * t q) 0
  let std := rs.foldl (fun a q => a + t q * q.2) 0
  let den := n * stt - st * st
  let slope := n * std - st * sd
  let atNow := sd * stt - st * std
  if below then 0
  else if den ≤ 0 || 0 ≤ slope then 65535
  else if atNow ≤ 0 then 0
  else min 65535 (atNow / ((-slope) * (86400 * 1000000000))).toNat

/-- The results of a margin within 24 h, as distances from its warning level. -/
def marginRecent (m : Mach) (e : Nat × List (Nat × Int)) : List (Nat × Int) :=
  (e.2.filter (fun q => now m - q.1 < 24 * hourNs)).map (fun q => (q.1, marginDist (e.1 / 2 ^ 32) q.2))

/-- The penalties of Table 14.9. (DEDUCED, log entry 37) -/
def penalties (m : Mach) : List Nat :=
  let day := fun (l : List Nat) => (within m (24 * hourNs) l).length
  let corr := (List.range 12).foldl (fun a s =>
    let x := getCtl m s
    max a (100 * (recent m hourNs x.corr).length / max 1 x.threshold.toNat)) 0
  let blk := (List.range 4).foldl (fun a r => max a (100 * (16 - min 16 (getRgn m r).spares.length) / 16)) 0
  let chans := (List.range 12).foldl (fun a s => max a (100 * (getCtl m s).retired.length / 2)) 0
  let pages := (List.range 16).foldl (fun a p => max a (100 * (0x40000 - min 0x40000 (getCtl m (16 + p)).spareFree) / 0x40000)) 0
  let links := (List.range 18).foldl (fun a k => a + (if (getLink m k).st == .down then 60 else 15 * (getLink m k).failed.length)) 0
  let ms := m.health.margins.map (marginRecent m)
  let bad := (ms.filter (fun rs => match rs.getLast? with | some q => decide (q.2 < 0) | none => false)).length
  let soon := (ms.filter (fun rs => let d := marginDays m rs; (match rs.getLast? with | some q => decide (0 ≤ q.2) | none => false) && d ≤ 30)).length
  [min 300 (100 * day m.health.evUnc), min 200 (100 * day m.health.evMis), min 100 corr, min 100 (max blk (max chans pages)), min 150 links,
   min 100 (25 * bad + 10 * soon), min 50 (50 * day m.health.evRst)]

/-- The publishing rule of R391, in ns. -/
def publish (h : HealthS) (raw t : Nat) : HealthS :=
  if raw < h.published then
    let h := { h with above := none }
    if 3600 * 1000000000 ≤ t - h.changed then { h with published := max raw (h.published - 100), changed := t } else h
  else if h.published < raw then
    let start := h.above.getD t
    let low := if h.above.isNone then raw else min h.low raw
    let h := { h with above := some start, low := low }
    if 24 * hourNs ≤ t - start && 3600 * 1000000000 ≤ t - h.changed then { h with published := min low (h.published + 100), changed := t } else h
  else { h with above := none }

/-- The score of a round (R390, R391). -/
def scoreRound (m : Mach) : Mach :=
  let ps := penalties m
  let raw := 1000 - ps.foldl (· + ·) 0
  { m with health := publish { m.health with raw := raw, terms := ps } raw (now m) }

/-! ### Energy (R397) -/

/-- The activity units of slot `c` in the round, in eighths. -/
def roundUnits (m : Mach) (c : Nat) : Nat := unitsOf (getCtx m c) - tget 0 m.mgmt.unitsAt c

/-- The energy of a round by slot, and what no slot is charged. Shares are rounded down. (DEDUCED, log entry 32) -/
def energyShares (m : Mach) (f : RoundFacts) : List Nat × Nat :=
  let base := m.pwr.baseW * 2 ^ 20 / 700
  let act := f.energy - base
  let us := (List.range 16).map (roundUnits m)
  let all := us.foldl (· + ·) 0 + m.mgmt.bgUnits
  let cycles := m.mgmt.roundTicks * arraysPresent m
  let one := fun (c : Nat) =>
    (if all = 0 then 0 else act * nthN us c / all) + (if cycles = 0 then 0 else base * tget 0 m.mgmt.roundHeld c / cycles)
  let shares := (List.range 16).map one
  (shares, f.energy - shares.foldl (· + ·) 0)

/-- Charges the energy of a round. (DEDUCED, log entry 32) -/
def energyRound (m : Mach) (f : RoundFacts) : Mach :=
  let q := energyShares m f
  let m := (List.range 16).foldl (fun m c =>
    let e := nthN q.1 c
    syncUnits (if e = 0 then m else modCtx m c (fun x => { x with acct := tmod 0 x.acct 11 (fun v => satAdd v e) })) c) m
  { m with pwr := { m.pwr with overhead := m.pwr.overhead + q.2, roundW := f.watts }, mgmt := { m.mgmt with bgUnits := 0, roundTicks := 0, roundHeld := [] } }

/-! ### Telemetry (R37 to R39, R429, R436) -/

/-- Takes a running count into its held counter. -/
def takeCount (t : Tbl (Nat × Nat)) (key run : Nat) : Tbl (Nat × Nat) :=
  tmod (0, 0) t key (fun q => (run, min (q.2 + (run + 2 ^ 32 - q.1 % 2 ^ 32) % 2 ^ 32) (2 ^ 64 - 1)))

/-- The capture of every running count (R429). -/
def captureHeld (m : Mach) : Mach :=
  let t := m.blocks.foldl (fun t e => e.2.occ.foldl (fun t o => takeCount t (heldKey e.1 o.1) o.2.toNat) t) m.mgmt.held
  let t := m.ass.watches.foldl (fun t e => takeCount t (watchKey e.1 2) e.2.occ.toNat) t
  let t := m.conv.slots.foldl (fun t e => (List.range 3).foldl (fun t i => takeCount t (convKey e.1 i) (tget 0 e.2.occ i).toNat) t) t
  { m with mgmt := { m.mgmt with held := t } }

/-- The values of registers, in order. -/
def vals (rs : Regs) : List Nat := rs.map (·.2)

/-- The held counters of a block, by class, slot and flag. -/
def blkHeld (m : Mach) (p : Nat) : List Nat :=
  (List.range 3).flatMap (fun cls => (List.range 16).flatMap (fun c => (List.range (classBits cls)).map (fun i => heldCount m (heldKey p (occKey cls c i)))))

/-- What the mirror shows of a margin (R389): quantity and unit, the last result, and the days until the warning level. (DEDUCED, log entry 33) -/
def marginWord (m : Mach) (e : Nat × List (Nat × Int)) : Nat :=
  let last := match e.2.getLast? with | some q => q.2 | none => 0
  (e.1 / 2 ^ 32 % 16) <<< 60 ||| (e.1 % 4096) <<< 48 ||| twos last 32 <<< 16 ||| marginDays m (marginRecent m e)

/-- The chip group of the mirror. -/
def chipGroup (m : Mach) : List Nat :=
  [partId m] ++ vals (healthRegs m) ++ [powerCode m, m.pwr.capW, appliedMhz m.pwr, m.pwr.roundW] ++ vals (pwrRegs m) ++
    m.pwr.temps.map (twos · 8) ++ m.pwr.stackTemps.map (twos · 8) ++
    [m.pwr.overhead] ++ (m.health.margins.map (marginWord m)).take 400

/-- What the place of a block shows (Table 16.11): the registers it names take more than the 2 KiB the table gives a block, and which of the bytes shows what
the spec does not say. (DESIGN CHOICE, log entry 121) -/
def blkGroup (m : Mach) (p : Nat) : List Nat :=
  let v := vals (blkRegs m p) ++ blkHeld m p
  (List.range 251).map (fun i => (Config.blkMirror v i).toNat)

/-- What the place of a link shows: its two 32-bit registers share a doubleword, so that the group fits in its 64 bytes. -/
def linkGroup (m : Mach) (k : Nat) : List Nat :=
  let v := vals (linkRegs m k)
  [nthN v 3 <<< 32 ||| nthN v 0, nthN v 1, nthN v 2]

/-- The groups of Table 16.11 with the registers each holds, by BAR0 offset. A block that carries no array has none. (DEDUCED, log entry 33) -/
def groups (m : Mach) : List (Nat × List Nat) :=
  [(0x03001000, chipGroup m)] ++
    (List.range 16).map (fun c => (0x03002000 + 0x1000 * c,
      vals (ctxRegs m c) ++ vals (orRegs m c) ++ vals (elRegs m c) ++ vals (acctRegs m c) ++ [asCtx m c] ++ vals (memberRegs m c))) ++
    ((List.range 1088).filter (fun p => (arrayOf m p).isSome)).map (fun p => (0x03012000 + 0x800 * p, blkGroup m p)) ++
    (List.range 16384).map (fun n => (0x03232000 + 0x100 * n, vals (watchRegs m n) ++ [heldCount m (watchKey n 2)])) ++
    (List.range 64).map (fun n => (0x03632000 + 0x80 * n, vals (convRegs m n) ++ (List.range 3).map (fun i => heldCount m (convKey n i)))) ++
    (List.range 12).map (fun s => (0x03634000 + 0x100 * s, vals (ctlRegs m s))) ++
    (List.range 16).map (fun p => (0x03634000 + 0x100 * (12 + p), vals (ctlRegs m (16 + p)))) ++
    (List.range 18).map (fun k => (0x03635C00 + 0x40 * k, linkGroup m k)) ++
    (List.range 4).map (fun r => (0x03636100 + 0x100 * r, [mapStatus (getRgn m r), csvStatus m r]))

/-- Publishes a group: its generation word moves on by two (R39). (DEDUCED, log entry 33) -/
def publishGroup (t : Tbl (Nat × List Nat)) (q : Nat × List Nat) : Tbl (Nat × List Nat) :=
  tset (0, []) t q.1 (((tget (0, []) t q.1).1 + 2) % 2 ^ 32, q.2)

/-- A stamp as the four doublewords of its bytes. -/
def stampWords (s : Stamp) : List Nat := (List.range 4).map (fun i => recNat (stampBytes s) (8 * i) 8)

/-- A captured group with the stamp of its capture after its registers (R43): that of a context slot's group names the slot. (DEDUCED, log entry 33) -/
def stampGroup (m : Mach) (q : Nat × List Nat) : Nat × List Nat :=
  let c := (q.1 - 0x03002000) / 0x1000
  let ctx := if 0x03002000 ≤ q.1 && c < 16 && (getCtx m c).st != .free then some c else none
  (q.1, q.2 ++ stampWords (stampNow m ctx (ctx.bind (stepOf m)) 0 0))

/-- Captures every status group and publishes it. -/
def capture (m : Mach) : Mach :=
  let m := captureHeld m
  let dir := [0x4D33544D, 1, m.time.round.toNat,
    0x03001000, 1, 0x1000, 0x03002000, 16, 0x1000, 0x03012000, 1088, 0x800, 0x03232000, 16384, 0x100, 0x03632000, 64, 0x80, 0x03634000, 28, 0x100,
    0x03635C00, 18, 0x40, 0x03636100, 4, 0x100]
  { m with mgmt := { m.mgmt with mirror := (stampGroup m (0x03000000, dir) :: (groups m).map (stampGroup m)).foldl publishGroup m.mgmt.mirror } }

/-! ### The round -/

/-- The largest of a list of temperatures. -/
def hottest (l : List Int) : Int := match l with | [] => 0 | x :: xs => xs.foldl max x

/-- The temperatures of a round (R477, Table 9.2): each stack's refresh is doubled while it reports more than 85 °C.
The thermal loop is hot from 95 °C on any sensor until all are below 93 °C (Table 18.6). -/
def takeTemps (m : Mach) (f : RoundFacts) : Mach :=
  let top := hottest f.stackT
  let warm := fun (t : Int) => decide ((95 : Int) ≤ t) || (m.pwr.hot && decide ((93 : Int) ≤ t))
  let hot := f.die.any warm || f.stackT.any warm
  let m := { m with pwr := { m.pwr with temps := f.die, hot := hot, stackTemps := f.stackT, dieMax := hottest f.die, stackMax := top,
                                        hotStack := (f.stackT.findIdx? (· == top)).getD 0 } }
  f.stackT.zipIdx.foldl (fun m q => if q.2 < 12 && (getCtl m q.2).st == 1 then modCtl m q.2 (fun x => { x with refreshX2 := decide ((85 : Int) < q.1) }) else m) m

/-- The housekeeping of a round: links that a boot left to train (Table 16.13 step 8), waymap entries rewritten from the shadow copy (R374), and the log's
near-tier copy brought up to date (R413). -/
def upkeep (m : Mach) : Mach :=
  let m := if m.pwr.fabricReady then m else trainLinks m
  { m with fab := { m.fab with wayBad := [] }, mgmt := { m.mgmt with mirLog := m.mgmt.log } }

/-- One management round (R32, R38): the round is counted; unless the management island restarts or is halted, a policy
that waits takes effect, the round's margins, temperatures and energy are taken, the score is computed and every group captured. -/
def managementRound (f : RoundFacts) (nv : NonVol) (m : Mach) : NonVol × Mach :=
  if !chipRuns m then (nv, m) else
  let m := { m with time := { m.time with round := satAdd m.time.round 1 } }
  if mpStopped m then (nv, m) else
  let m := takeTemps (upkeep m) f
  let m := f.margins.foldl (fun m q => noteMargin m q.1 q.2.1 q.2.2) m
  let m := scoreRound (energyRound m f)
  (takePolicy nv, capture m)

/-! ### Firmware (R439 to R442) -/

/-- The bytes of a slot's image. -/
def imageBytes (s : FwSlot) (off n : Nat) : List Byte := (List.range n).map (fun i => tget 0 s.image (off + i))

/-- The slot that is not running. -/
def otherSlot (m : Mach) : Nat := 1 - m.pwr.fw

/-- Whether a verification has not yet been answered. -/
def verifying (m : Mach) : Bool := m.mgmt.ops.any (fun o => o.opcode == 0x0502)

/-- FW_STAGE (R441): a chunk into the slot that is not running; at offset 0 the slot becomes STAGED and its old contents go. (DEDUCED, log entry 41) -/
def fwStage (r : Req) (nv : NonVol) (m : Mach) : NonVol × Mach :=
  knaobNv 0x0501 aB .none (fun p => 8 ≤ p.length && p.length == 8 + alignUp (recNat p 4 4) 4) noResv (fun nv m _ r => do
    let off := pf r 0 4
    let n := pf r 4 4
    must (off + n ≤ 0x4000000) 0x35 0
    must (n ≤ 4064) 0x35 4
    must (!verifying m) 0x10 0
    let k := otherSlot m
    let s := nv.slots.getD k fwEmpty
    must (off == 0 || s.st == .staged) 0x45 0
    let s := if off = 0 then { fwEmpty with st := .staged } else s
    let data := (r.payload.drop 8).take n
    let s := { s with image := data.zipIdx.foldl (fun t q => tset 0 t (off + q.2) q.1) s.image }
    pure ({ nv with slots := setNth nv.slots k s }, okay m [])) r nv m

/-- What FW_VERIFY finds in a staged slot: its final status (R424, R441). -/
def verifyStatus (nv : NonVol) (s : FwSlot) (sig : Bool) : Nat :=
  let body := recNat (imageBytes s 0 1024) 16 4
  if recNat (imageBytes s 0 1024) 0 4 != 0x4D334657 || 0x4000000 - 1024 < body then 0x36
  else if !sig || padTo 64 (Config.sha512 (imageBytes s 1024 body)) != imageBytes s 20 64 then 0x60
  else if recNat (imageBytes s 0 1024) 12 4 < nv.fusedMin.toNat then 0x61 else 0

/-- FW_VERIFY (R441); `sig` says whether the signature verifies. (DEDUCED, log entry 40) -/
def fwVerify (sig : Bool) (r : Req) (nv : NonVol) (m : Mach) : NonVol × Mach :=
  knaobNv 0x0502 aB .none (lenIs 0) noResv (fun nv m _ r => do
    let k := otherSlot m
    let s := nv.slots.getD k fwEmpty
    must (!verifying m) 0x10 0
    must (s.st == .staged) 0x45 0
    let st := verifyStatus nv s sig
    let q := newOp m r.port 0x0502 k
    let h := imageBytes s 0 1024
    let good : FwSlot := { s with st := .verified, version := BitVec.ofNat 64 (recNat h 4 8), secVer := BitVec.ofNat 32 (recNat h 12 4),
                                  digest := imageBytes s 20 64 }
    let nv := if st = 0 then { nv with slots := setNth nv.slots k good } else nv
    let z := if st = 0x60 then noteAuthFail nv q.1 else (nv, q.1)
    pure (z.1, { longOk (endOp z.2 q.2 st 0) q.2 with payload := leBytes 8 (recNat h 4 8) ++ leBytes 4 (recNat h 12 4) })) r nv m

/-- FW_ACTIVATE (R441). -/
def fwActivate (r : Req) (nv : NonVol) (m : Mach) : NonVol × Mach :=
  knaobNv 0x0503 aB .none (lenIs 4) (resvAt [(1, 3)]) (fun nv m _ r => do
    must (pf r 0 1 ≤ 1) 0x35 0
    let k := otherSlot m
    must ((nv.slots.getD k fwEmpty).st == .verified && !verifying m) 0x45 0
    let nv := { nv with slots := modNth nv.slots k (fun s => { s with st := .try_ }) }
    pure (nv, okay (if pf r 0 1 = 1 then startReset m 5 (unitChip 0) 0 true false none else m) [])) r nv m

/-- The code of a slot state, in the order R439 lists them. (DEDUCED, log entry 40) -/
def fwCode : FwSt → Nat
  | .empty => 0
  | .staged => 1
  | .verified => 2
  | .try_ => 3
  | .active => 4
  | .failed => 5

/-- FW_QUERY (R439). -/
def fwQuery (r : Req) (nv : NonVol) (m : Mach) : Mach :=
  knaob 0x0504 (aH + aB + aD) .none (lenIs 0) noResv (fun m _ _ =>
    let one := fun (s : FwSlot) => leBytes 1 (fwCode s.st) ++ leBytes 3 0 ++ leBytes 8 s.version.toNat ++ leBytes 4 s.secVer.toNat ++ padTo 64 s.digest
    .ok (okay m (one (nv.slots.getD 0 fwEmpty) ++ one (nv.slots.getD 1 fwEmpty) ++ leBytes 1 ((slotIn nv .active).getD 0) ++ leBytes 3 0 ++
      leBytes 4 nv.fusedMin.toNat))) r nv m

/-- FW_COMMIT (R442): the fused minimum rises to the security version of the ACTIVE slot. -/
def fwCommit (r : Req) (nv : NonVol) (m : Mach) : NonVol × Mach :=
  knaobNv 0x0505 aB .none (lenIs 0) noResv (fun nv m _ _ => do
    must (slotIn nv .try_).isNone 0x45 0
    match slotIn nv .active with
    | none => .error { status := 0x45, detail := 0 }
    | some a =>
      let v := (nv.slots.getD a fwEmpty).secVer
      let top := if nv.fusedMin < v then v else nv.fusedMin
      pure ({ nv with fusedMin := top }, okay m (leBytes 4 top.toNat))) r nv m

end Sys2Proof.Machine
end

