-- ==== Sys2Proof/Machine/Security.lean ====
section
/-! DEFINITION. Lifecycle, owner, debug sessions, zeroise, alarms and attestation (R444 to R465), the IDE keys (R468), and the end of a
long command (R423). -/

namespace Sys2Proof.Machine

/-! ### Tokens (R451, R452) -/

/-- A token's fields (Table 17.4), read from its 576 bytes. -/
structure Token where
  magic : Nat
  version : Nat
  kind : Nat
  signer : Nat
  serial : List Byte
  bootCount : Nat
  value : Nat
  rounds : Nat
  scope : Nat
  deriving DecidableEq, Repr

/-- Reads a token. -/
def tokenOf (bs : List Byte) : Token :=
  { magic := recNat bs 0 4, version := recNat bs 4 2, kind := recNat bs 6 1, signer := recNat bs 7 1, serial := (bs.drop 8).take 16,
    bootCount := recNat bs 24 4, value := recNat bs 28 1, rounds := recNat bs 32 4, scope := recNat bs 36 4 }

/-- Whether the signer is allowed for the kind and lifecycle (Table 17.5, Table 17.1, R461): 0 vendor, 1 owner. (DEDUCED, log entry 23) -/
def signerOk (nv : NonVol) (t : Token) : Bool :=
  match t.kind with
  | 1 => t.signer == 0 || (t.signer == 1 && nv.lifecycle == 1 && nv.owner.isSome && tbit nv.policy.flags 0)
  | 2 => t.signer == 0
  | _ => t.signer == 1 && nv.owner.isSome

/-- Whether the lifecycle grants the level an UNLOCK token asks for (Table 17.5). -/
def levelOk (nv : NonVol) (t : Token) : Bool := t.kind != 1 || t.value < 2 || nv.lifecycle == 0 || nv.lifecycle == 2

/-- The first field of a token at fault by its range: offset within the token. `value` is the value the command asks for. -/
def tokenRange (t : Token) (kind value : Nat) : Option Nat :=
  if kind = 1 then
    if t.value < 1 || 2 < t.value then some 28
    else if t.rounds = 0 then some 32
    else if t.value = 1 && t.scope / 4 != 0 then some 36 else none
  else if t.value != value then some 28 else none

/-- Whether the reserved fields of a token are zero: the first that is not, by offset. Rounds and scope are reserved but in UNLOCK. -/
def tokenResv (bs : List Byte) (kind : Nat) : Option Nat :=
  let t := tokenOf bs
  if !recZero bs 29 3 then some 29
  else if kind != 1 && t.rounds != 0 then some 32
  else if (if kind = 1 then 32 ≤ t.scope else t.scope != 0) then some 36
  else if !recZero bs 40 24 then some 40 else none

/-- The reserved fields of the token at offset `off` of a payload: check 6 of R421 for the request that carries it (R12, R452). -/
def resvToken (bs : List Byte) (kind off : Nat) : K Unit :=
  match tokenResv bs kind with
  | some o => must false 0x34 (off + o)
  | none => .ok ()

/-- Its ranges: check 7 of R421. -/
def rangeToken (bs : List Byte) (kind value off : Nat) : K Unit :=
  match tokenRange (tokenOf bs) kind value with
  | some o => must false 0x35 (off + o)
  | none => .ok ()

/-- The checks of R452 on a token at offset `off` of a payload; `sig` says whether its signature verifies. In MANUFACTURE neither the
signer nor the signature is checked (R445, R455). (DEDUCED, log entry 23) -/
def checkToken (nv : NonVol) (m : Mach) (bs : List Byte) (kind value off : Nat) (sig : Bool) : K Unit := do
  let t := tokenOf bs
  let free := nv.lifecycle == 0
  resvToken bs kind off
  rangeToken bs kind value off
  must (t.magic == 0x4D33544B) 0x36 off
  must (t.version == 1) 0x36 (off + 4)
  must (t.kind == kind) 0x36 (off + 6)
  must (t.serial == padTo 16 m.fuse.serial) 0x36 (off + 8)
  must (t.bootCount == m.time.boot.toNat) 0x36 (off + 24)
  must (free || signerOk nv t) 0x21 0
  must (free || levelOk nv t) 0x21 0
  must (free || sig) 0x60 0
  must (!m.sec.tokens.contains bs) 0x45 0

/-- Notes a token as accepted in this boot. -/
def useToken (m : Mach) (bs : List Byte) : Mach := { m with sec := { m.sec with tokens := m.sec.tokens ++ [bs] } }

/-- A refusal that counts as an authentication failure where its status is 0x60 (R458). -/
def authFailed (nv : NonVol) (m : Mach) (b : Bad) : K (NonVol × Done) :=
  if b.status = 0x60 then
    let z := noteAuthFail nv m
    .ok (z.1, { okay z.2 [] with status := 0x60 })
  else .error b

/-- Goes on after a check, or refuses and counts. -/
def checked (nv : NonVol) (m : Mach) (k : K Unit) (next : K (NonVol × Done)) : K (NonVol × Done) :=
  match k with
  | .ok _ => next
  | .error b => authFailed nv m b

/-! ### Queries -/

/-- The digest of the owner key, zeros without an owner (R465). -/
def ownerDigest (nv : NonVol) : List Byte := match nv.owner with | some k => padTo 64 (Config.sha512 k) | none => List.replicate 64 0

/-- LIFECYCLE_QUERY (R465). -/
def lifecycleQuery (r : Req) (nv : NonVol) (m : Mach) : Mach :=
  knaob 0x0601 (aH + aB + aD) .none (lenIs 0) noResv (fun m _ _ =>
    .ok (okay m (leBytes 4 (secState nv m) ++ leBytes 4 m.sec.raised ++ padTo 16 m.fuse.serial ++ leBytes 4 nv.policy.seq.toNat ++
      ownerDigest nv ++ padTo 64 (Config.sha512 nv.idKey)))) r nv m

/-- CERT_READ (R448): reads beyond the end return no bytes. -/
def certRead (r : Req) (nv : NonVol) (m : Mach) : Mach :=
  knaob 0x0608 (aH + aB + aD) .none (lenIs 8) noResv (fun m _ r => do
    must (pf r 4 4 ≤ 4064) 0x35 4
    pure (okay m ((nv.chain.drop (pf r 0 4)).take (pf r 4 4)))) r nv m

/-! ### Owner and policy (R453, R454) -/

/-- OWNER_ENROL (R453); `sig` says whether the current owner's signature verifies. (DESIGN CHOICE, log entry 18) -/
def ownerEnrol (sig : Bool) (r : Req) (nv : NonVol) (m : Mach) : NonVol × Mach :=
  knaobNv 0x0602 aB .none (fun p => (p.length == 520 && recNat p 0 1 != 1) || (p.length == 1032 && recNat p 0 1 == 1)) (resvAt [(1, 3)])
    (fun nv m _ r => do
      must (pf r 0 1 ≤ 1) 0x35 0
      must (128 ≤ pf r 4 1) 0x35 4
      must (pf r 516 4 == 65537) 0x35 516
      must (nv.lifecycle == 1) 0x21 0
      must (pf r 0 1 != 0 || nv.owner.isNone) 0x44 0
      must (pf r 0 1 != 1 || nv.owner.isSome) 0x45 0
      checked nv m (must (pf r 0 1 == 0 || sig) 0x60 0) (
        let key := (r.payload.drop 4).take 516
        let nv := { nv with owner := some key }
        let nv := if pf r 0 1 = 1 then { nv with policy := policyDefault, nextPolicy := none } else nv
        .ok (nv, okay m (ownerDigest nv)))) r nv m

/-- The lowest level a policy may give each condition (Table 17.7). -/
def levelFloors : List Nat := [1, 1, 1, 1, 2, 2, 1]

/-- The first condition whose level in a policy blob is none of 1 to 3 or below its floor. -/
def badLevel (p : List Byte) : Option Nat :=
  (List.range 7).find? (fun i => recNat p (32 + i) 1 < nthN levelFloors i || 3 < recNat p (32 + i) 1)

/-- POLICY_SET (R454, Table 17.6); `sig` says whether the owner's signature verifies. The blob takes effect in the next round. (DESIGN CHOICE, log entry 18) -/
def policySet (sig : Bool) (r : Req) (nv : NonVol) (m : Mach) : NonVol × Mach :=
  knaobNv 0x0603 aB .none (lenIs 576) (resvAt [(6, 2), (29, 3), (39, 1), (44, 20)]) (fun nv m _ r => do
    let p := r.payload
    must (pf r 28 1 < 4) 0x34 28
    match badLevel p with
    | some i => must false 0x35 (32 + i)
    | none => pure ()
    must (4 ≤ pf r 40 2 && pf r 40 2 ≤ 1024) 0x35 40
    must (1 ≤ pf r 42 2 && pf r 42 2 ≤ 168) 0x35 42
    must (pf r 0 4 == 0x4D33504C) 0x36 0
    must (pf r 4 2 == 1) 0x36 4
    must (recZero p 12 16 || (p.drop 12).take 16 == padTo 16 m.fuse.serial) 0x36 12
    must nv.owner.isSome 0x45 0
    must (nv.policy.seq.toNat < pf r 8 4) 0x61 0
    checked nv m (must sig 0x60 0) (
      let q : Policy :=
        { seq := BitVec.ofNat 32 (pf r 8 4), flags := pf r 28 1, levels := (List.range 7).map (fun i => pf r (32 + i) 1), authLimit := pf r 40 2,
          authWindowH := pf r 42 2, blob := p }
      .ok ({ nv with nextPolicy := some q }, okay m []))) r nv m

/-! ### Debug sessions (R455, R456) -/

/-- DEBUG_UNLOCK (R452, R456). -/
def debugUnlock (sig : Bool) (r : Req) (nv : NonVol) (m : Mach) : NonVol × Mach :=
  knaobNv 0x0604 aD .none (lenIs 576) noResv (fun nv m _ r => do
    resvToken r.payload 1 0
    rangeToken r.payload 1 0 0
    must (m.pwr.st < 2) 0x45 0
    checked nv m (checkToken nv m r.payload 1 0 0 sig) (
      let t := tokenOf r.payload
      let m := useToken (endSession m) r.payload
      let s : Session := { level := t.value, ends := some (m.time.round.toNat + t.rounds), scope := t.scope }
      .ok (nv, okay { m with sec := { m.sec with session := some s } } (leBytes 1 t.value)))) r nv m

/-- DEBUG_LOCK: the session ends (R456). -/
def debugLock : Req → NonVol → Mach → Mach :=
  knaob 0x0605 (aB + aD) .none (lenIs 0) noResv (fun m _ _ => .ok (okay (endSession m) []))

/-- DEBUG_SESSION_EXPIRY: the token's rounds, counted from acceptance, have run out (R456). A session without a token does not expire. -/
def debugExpiry (m : Mach) : Mach :=
  match m.sec.session.bind (·.ends) with
  | some n => if n ≤ m.time.round.toNat then endSession m else m
  | none => m

/-- Whether a D2 session grants a scope bit (R455). -/
def dbgGrants (m : Mach) (bit : Nat) : Bool := match m.sec.session with | some s => s.level == 2 && tbit s.scope bit | none => false

/-- Keeps what the debug port read out. (DEDUCED, log entry 52) -/
def debugOut (m : Mach) (bs : List Byte) : Mach := { m with sec := { m.sec with dbgOut := m.sec.dbgOut ++ [bs] } }

/-- HALT_AND_STEP (R455): what the debug port does under a D2 session within its scope. A step of a halted sequencer is one pick; what a step
of the caravaneer executes the manual does not give, and nothing it names changes. What the scan path shifts out is not given. (DEDUCED, log entry 52) -/
def haltAndStep (a : DebugAct) (m : Mach) : Mach :=
  if !chipRuns m || m.sec.locked then m else
  match a with
  | .haltMp => if dbgGrants m 2 then { m with sec := { m.sec with mpHalted := true } } else m
  | .stepMp => m
  | .haltBlk p => if dbgGrants m 2 && p < 1088 then modBlk m p (fun b => { b with halted := true }) else m
  | .stepBlk p =>
    if dbgGrants m 2 && (getBlk m p).halted then
      modBlk (waybillStart p (modBlk m p (fun b => { b with halted := false }))) p (fun b => { b with halted := true })
    else m
  | .scan u => if dbgGrants m 3 && unitExists u then freeStep (debugOut m (Config.unitState m.freeCtr u)) 1 else m
  | .memRead a n =>
    if dbgGrants m 4 && n ≤ 4064 && (List.range n).all (fun i => isPopulated (a + i)) then debugOut m (rdBytes m a n) else m
  | .memWrite a bs =>
    if dbgGrants m 4 && bs.length ≤ 4064 && (List.range bs.length).all (fun i => isPopulated (a + i)) then wrBytes m a bs else m

/-! ### Zeroise and the lifecycle (R445, R446, R461) -/

/-- ZEROISE (R461): every context is torn down at once; the memories follow, and OP_DONE says when all is done. (DEDUCED, log entry 51) -/
def zeroise (sig : Bool) (r : Req) (nv : NonVol) (m : Mach) : NonVol × Mach :=
  let long := fun (p : List Byte) => recNat p 0 1 == 2 && tbit nv.policy.flags 1
  knaobNv 0x0606 aB .none (fun p => p.length == if long p then 596 else 20) (resvAt [(1, 3)]) (fun nv m _ r => do
    let mode := pf r 0 1
    let p := r.payload
    if long p then resvToken (p.drop 20) 3 20 else .ok ()
    must (mode ≤ 2) 0x35 0
    if long p then rangeToken (p.drop 20) 3 0 20 else .ok ()
    must ((p.drop 4).take 16 == padTo 16 m.fuse.serial) 0x35 4
    must (mode == 2 || m.sec.zeroise.isNone) 0x10 0
    checked nv m (if long p then checkToken nv m (p.drop 20) 3 0 20 sig else .ok ()) (
      let m := if long p then useToken m (p.drop 20) else m
      let m := match m.sec.zeroise with
        | some z => endOp m z.tag 0x50 0
        | none => m
      let q := newOp m r.port 0x0606 mode
      let z : Zeroise := { mode := mode, tag := q.2 }
      .ok (nv, longOk (teardownAll { q.1 with sec := { q.1.sec with zeroise := some z } } 0) q.2))) r nv m

/-- The status of a lifecycle request by Table 17.1: allowed, or refused. `target` is the code asked for. (DEDUCED, log entry 50) -/
def lifecycleMove (nv : NonVol) (target : Nat) : K Unit :=
  match nv.lifecycle, target with
  | 0, 1 => must (nv.keyHeld && !nv.chain.isEmpty) 0x45 0
  | 1, 2 => .ok ()
  | 2, 1 => must (nv.returnCount < 3) 0x45 0
  | _, _ => must false 0x21 0

/-- Whether a lifecycle transition is in progress. -/
def moving (m : Mach) : Bool := m.mgmt.ops.any (fun o => o.opcode == 0x0607 && o.outcome.isNone)

/-- LIFECYCLE_SET (R445, R446): where a zeroise comes first every context is torn down at once; the fuses are written when it is done. (DEDUCED, log entry 50) -/
def lifecycleSet (sig : Bool) (r : Req) (nv : NonVol) (m : Mach) : NonVol × Mach :=
  knaobNv 0x0607 aB .none (fun p => p.length == 580 || (p.length == 4 && nv.lifecycle == 0)) (resvAt [(1, 3)]) (fun nv m _ r => do
    let t := pf r 0 1
    let tok := r.payload.drop 4
    if tok.isEmpty then .ok () else resvToken tok 2 4
    must (t ≤ 3) 0x35 0
    if tok.isEmpty then .ok () else rangeToken tok 2 t 4
    must (m.sec.zeroise.isNone && !moving m) 0x10 0
    lifecycleMove nv t
    must (nv.lifecycle == 0 || m.pwr.st != 3) 0x10 0
    checked nv m (if tok.isEmpty then .ok () else checkToken nv m tok 2 t 4 sig) (
      let m := if tok.isEmpty then m else useToken m tok
      let q := newOp m r.port 0x0607 t
      .ok (nv, longOk (if nv.lifecycle = 0 then q.1 else teardownAll q.1 0) q.2))) r nv m

/-- An event ring zeroed (R461): its records go, and what was not acknowledged with them. -/
def zeroRing (s : EvRing) : EvRing := { s with recs := [], ack := s.head, lost := 0 }

/-- What mode DATA zeroes besides the contexts (R461): both tiers, all scratchpads, the cargo table, twin registrations and both event
rings. (DEDUCED, log entry 51) -/
def zeroData (m : Mach) : Mach :=
  { m with mem := [], poison := [], zeroing := [], cargo := [], twins := []
           mgmt := { m.mgmt with hostRing := zeroRing m.mgmt.hostRing, boardRing := zeroRing m.mgmt.boardRing } }

/-- What mode OWNER adds: the owner key and its policy go (R461). -/
def dropOwner (nv : NonVol) : NonVol := { nv with owner := none, policy := policyDefault, nextPolicy := none }

/-- What a zeroise of a mode does once every context is gone (R461). -/
def zeroiseDone (nv : NonVol) (m : Mach) (mode : Nat) : NonVol × Mach :=
  let m := zeroData m
  let nv := if mode = 0 then nv else dropOwner nv
  if mode = 2 then eraseKeys nv m else (nv, m)

/-- A transition's fuses are written (R446): the zeroise it needs is done first, and entering RETURN is counted. -/
def moveDone (nv : NonVol) (m : Mach) (target : Nat) : NonVol × Mach :=
  let r := if nv.lifecycle = 0 then (nv, m) else zeroiseDone nv m (if target = 2 then 1 else 0)
  ({ r.1 with lifecycle := target, returnCount := if target = 2 then min 3 (r.1.returnCount + 1) else r.1.returnCount }, endSession r.2)

/-- Whether every teardown has ended. -/
def allDown (m : Mach) : Bool := (List.range 16).all (fun c => (getCtx m c).st != .teardown)

/-- OP_DONE: a long command finishes and its event carries its op_tag and final status (R423). A ZEROISE and a lifecycle transition do what is
left of them first; a transition then performs a chip warm reset (R446). -/
def opDoneRow (tag : Nat) (nv : NonVol) (m : Mach) : NonVol × Mach :=
  match m.mgmt.ops.find? (fun o => o.tag == tag) with
  | none => (nv, m)
  | some o =>
    if o.outcome.isSome || (o.opcode != 0x0606 && o.opcode != 0x0607) then (nv, opDone tag m)
    else if !allDown m then (nv, m)
    else if o.opcode = 0x0606 then
      let r := zeroiseDone nv { m with sec := { m.sec with zeroise := none } } o.subject
      (r.1, opDone tag (endOp r.2 tag 0 0))
    else if nv.lifecycle = 0 && !ringRoom m.mgmt.boardRing then (nv, m)
    else match lifecycleMove nv o.subject with
      | .error b => (nv, opDone tag (endOp m tag b.status 0))
      | .ok _ =>
        let r := moveDone nv m o.subject
        (r.1, startReset (opDone tag (endOp r.2 tag 0 0)) 5 (unitChip 0) 0 true false none)

/-! ### Alarms (R457, R462) -/

/-- ALARM_CONDITION: a sensor condition of Table 17.7 is raised, in P0 to P3. -/
def alarmCondition (cond : Nat) (nv : NonVol) (m : Mach) : NonVol × Mach :=
  if cond < 4 && alarmArmed m then raiseAlarm nv m cond else (nv, m)

/-- FUSE_INTEGRITY_CHECK: the fuse array is read; any mismatch raises condition 4 (Table 17.7). -/
def fuseCheck (bad : Bool) (nv : NonVol) (m : Mach) : NonVol × Mach :=
  if !alarmArmed m then (nv, m) else
  let m := { m with sec := { m.sec with fuseRound := m.time.round.toNat } }
  if bad then raiseAlarm nv m 4 else (nv, m)

/-- Whether the module is in P4: only the always-on domain is powered. -/
def inP4 (m : Mach) : Bool := m.pwr.boot == .standby && m.pwr.st == 4

/-- TAMPER_LATCH_SET: an excursion in P4 sets the latch, which the next cold boot finds (R462). -/
def tamperLatch (nv : NonVol) (m : Mach) : NonVol × Mach := if inP4 m then ({ nv with tamper := true }, m) else (nv, m)

/-! ### Attestation (R449, R450) -/

/-- A connection of the SPDM responder: at the host port or the board port. -/
def spdmOf (m : Mach) (board : Bool) : Spdm := if board then m.sec.spdmBoard else m.sec.spdmHost
/-- Changes a connection. -/
def setSpdm (m : Mach) (board : Bool) (s : Spdm) : Mach :=
  { m with sec := if board then { m.sec with spdmBoard := s } else { m.sec with spdmHost := s } }

/-- Whether the responder answers at a port: while the module runs, the caravaneer with it, and for the host port its link is up. -/
def spdmUp (m : Mach) (board : Bool) : Bool := chipRuns m && !m.rst.restarting && !m.sec.mpHalted && (board || m.pcie.linkUp)

/-- Sends an answer. -/
def spdmSend (m : Mach) (board : Bool) (bs : List Byte) : Mach := { m with sec := { m.sec with spdmOut := m.sec.spdmOut ++ [(b2n board, bs)] } }

/-- The four header bytes of a message of version 1.2. (PRESUMED, log entry 20) -/
def spdmHead (code p1 p2 : Nat) : List Byte := leBytes 1 0x12 ++ leBytes 1 code ++ leBytes 1 p1 ++ leBytes 1 p2

/-- An ERROR of a type: 1 InvalidRequest, 4 UnexpectedRequest, 5 Unspecified. (PRESUMED, log entry 20) -/
def spdmError (m : Mach) (board : Bool) (type : Nat) : Mach := spdmSend m board (spdmHead 0x7F type 0)

/-- GET_VERSION: the responder offers version 1.2, and negotiation begins anew. -/
def getVersion (board : Bool) (m : Mach) : Mach :=
  if !spdmUp m board then m else
  spdmSend (setSpdm m board { version := true, caps := false, algs := false }) board
    (leBytes 1 0x10 ++ leBytes 1 0x04 ++ leBytes 2 0 ++ leBytes 1 0 ++ leBytes 1 1 ++ leBytes 2 0x1200)

/-- GET_CAPABILITIES: CERT_CAP, CHAL_CAP, MEAS_CAP with signatures and MEAS_FRESH_CAP (Table 17.3). The timing exponent and the transfer
sizes are not given. -/
def getCapabilities (board : Bool) (m : Mach) : Mach :=
  if !spdmUp m board then m
  else if !(spdmOf m board).version then spdmError m board 4
  else
    let b := freeBytes m 9
    freeStep (spdmSend (setSpdm m board { version := true, caps := true, algs := false }) board
      (spdmHead 0x61 0 0 ++ leBytes 1 0 ++ b.take 1 ++ leBytes 2 0 ++ leBytes 4 0x36 ++ (b.drop 1).take 8)) 9

/-- NEGOTIATE_ALGORITHMS: one of each that Table 17.3 lists; a requester that offers none of them is answered with an ERROR. The operands
are the requester's measurement specification, asymmetric and hash masks. -/
def negotiateAlgorithms (board : Bool) (spec asym hash : Nat) (m : Mach) : Mach :=
  if !spdmUp m board then m
  else if !(spdmOf m board).caps then spdmError m board 4
  else if !tbit spec 0 || !tbit asym 6 || !tbit hash 2 then spdmError m board 1
  else
    spdmSend (setSpdm m board { version := true, caps := true, algs := true }) board
      (spdmHead 0x63 0 0 ++ leBytes 2 36 ++ leBytes 1 1 ++ leBytes 1 0 ++ leBytes 4 8 ++ leBytes 4 0x40 ++ leBytes 4 4 ++ List.replicate 16 0)

/-- The bytes of the root certificate at the head of the chain: one DER value. -/
def rootCert (chain : List Byte) : List Byte :=
  let n := recNat chain 1 1
  if n < 128 then chain.take (2 + n)
  else if n = 129 then chain.take (3 + recNat chain 2 1)
  else chain.take (4 + 256 * recNat chain 2 1 + recNat chain 3 1)

/-- The chain as slot 0 holds it: length, root digest, certificates. -/
def spdmChain (nv : NonVol) : List Byte :=
  leBytes 2 (68 + nv.chain.length) ++ leBytes 2 0 ++ padTo 64 (Config.sha512 (rootCert nv.chain)) ++ nv.chain

/-- The digest of the chain in slot 0. -/
def chainDigest (nv : NonVol) : List Byte := padTo 64 (Config.sha512 (spdmChain nv))

/-- GET_DIGESTS: the digest of slot 0's chain. -/
def getDigests (board : Bool) (nv : NonVol) (m : Mach) : Mach :=
  if !spdmUp m board then m
  else if !(spdmOf m board).algs then spdmError m board 4
  else spdmSend m board (spdmHead 0x01 0 1 ++ chainDigest nv)

/-- GET_CERTIFICATE: `n` bytes of slot 0's chain from `off` on. -/
def getCertificate (board : Bool) (slot off n : Nat) (nv : NonVol) (m : Mach) : Mach :=
  let chain := spdmChain nv
  if !spdmUp m board then m
  else if !(spdmOf m board).algs then spdmError m board 4
  else if slot != 0 || chain.length ≤ off then spdmError m board 1
  else
    let part := (chain.drop off).take n
    spdmSend m board (spdmHead 0x02 0 0 ++ leBytes 2 part.length ++ leBytes 2 (chain.length - off - part.length) ++ part)

/-- What a measurement covers (Table 17.3a); none for an index there is not. -/
def measured (nv : NonVol) (m : Mach) (i : Nat) : Option (List Byte) :=
  let s := nv.slots.getD m.pwr.fw fwEmpty
  match i with
  | 1 => some Config.romBytes
  | 2 => some (imageBytes s 1024 (recNat (imageBytes s 0 1024) 16 4))
  | 3 => some (imageBytes s 0 1024 ++ (nv.slots.map (fun x => leBytes 1 (fwCode x.st))).flatten ++ leBytes 4 nv.fusedMin.toNat)
  | 4 => some (leBytes 1 nv.lifecycle ++ leBytes 1 (debugLevel m) ++ leBytes 1 m.sec.alarmLevel ++ leBytes 1 (fld (secState nv m) 16 8))
  | 5 => some (if nv.policy.blob.isEmpty then List.replicate 64 0 else nv.policy.blob)
  | 6 => some (nv.owner.getD (List.replicate 64 0))
  | 7 => some (leBytes 8 (partId m) ++ Config.fuseBytes m.fuse.variant m.fuse.stepping m.fuse.bad)
  | _ => none

/-- The DMTF value type of a measurement: boot ROM, mutable firmware, hardware or firmware configuration. -/
def measType (i : Nat) : Nat := match i with | 1 => 0 | 2 => 1 | 7 => 2 | _ => 3

/-- A measurement block. -/
def measBlock (nv : NonVol) (m : Mach) (i : Nat) : List Byte :=
  match measured nv m i with
  | some bs => leBytes 1 i ++ leBytes 1 1 ++ leBytes 2 67 ++ leBytes 1 (measType i) ++ leBytes 2 64 ++ padTo 64 (Config.sha512 bs)
  | none => []

/-- All measurement blocks. -/
def allBlocks (nv : NonVol) (m : Mach) : List Byte := ((List.range 7).map (fun i => measBlock nv m (i + 1))).flatten

/-- Whether the identity key can sign (R447, R460). -/
def canSign (nv : NonVol) (m : Mach) : Bool := m.sec.keys && nv.lifecycle != 3

/-- CHALLENGE (R449, R450): signed, with a fresh nonce. `what` asks for no measurement summary (0), that of all blocks (0xFF), or that of
the trusted base, which the manual does not name. -/
def challenge (board : Bool) (slot what : Nat) (nv : NonVol) (m : Mach) : Mach :=
  if !spdmUp m board then m
  else if !(spdmOf m board).algs then spdmError m board 4
  else if slot != 0 || (what != 0 && what != 1 && what != 255) then spdmError m board 1
  else if !canSign nv m then spdmError m board 5
  else
    let b := freeBytes m 608
    let sum := if what = 0 then [] else if what = 255 then padTo 64 (Config.sha512 (allBlocks nv m)) else (b.drop 544).take 64
    freeStep (spdmSend m board (spdmHead 0x03 0 1 ++ chainDigest nv ++ b.take 32 ++ sum ++ leBytes 2 0 ++ (b.drop 32).take 512)) 608

/-- GET_MEASUREMENTS (R450): the number of blocks (operation 0), one block, or all of them (0xFF); signed where asked. -/
def getMeasurements (board signed : Bool) (slot op : Nat) (nv : NonVol) (m : Mach) : Mach :=
  if !spdmUp m board then m
  else if !(spdmOf m board).algs then spdmError m board 4
  else if (signed && slot != 0) || (7 < op && op != 255) then spdmError m board 1
  else if signed && !canSign nv m then spdmError m board 5
  else
    let recs := if op = 0 then [] else if op = 255 then allBlocks nv m else measBlock nv m op
    let b := freeBytes m 544
    freeStep (spdmSend m board
      (spdmHead 0x60 (if op = 0 then 7 else 0) 0 ++ leBytes 1 (if op = 0 then 0 else if op = 255 then 7 else 1) ++ leBytes 3 recs.length ++ recs ++
        b.take 32 ++ leBytes 2 0 ++ if signed then b.drop 32 else [])) 544

/-! ### IDE keys (R468) -/

/-- Whether an IDE_KM message is accepted: the link is up, and Memory Space Enable is clear. -/
def ideUp (m : Mach) (mse : Bool) : Bool := chipRuns m && m.pcie.linkUp && !mse

/-- KEY_PROG: programs an IDE key, while Memory Space Enable, which the message finds as `mse`, is clear (R468). (DEDUCED, log entry 53) -/
def keyProg (ix : Nat) (key : List Byte) (mse : Bool) (m : Mach) : Mach :=
  let m := { m with pcie := { m.pcie with mse := mse } }
  if !ideUp m mse then m
  else { m with pcie := { m.pcie with ide := (m.pcie.ide.filter (fun q => q.1 != ix)) ++ [(ix, key)] } }

/-- K_SET_GO: enables the stream once keys are set (R468). (DEDUCED, log entry 53) -/
def kSetGo (mse : Bool) (m : Mach) : Mach :=
  let m := { m with pcie := { m.pcie with mse := mse } }
  if !ideUp m mse || m.pcie.ide.isEmpty then m else { m with pcie := { m.pcie with ideOn := true } }

end Sys2Proof.Machine
end

