-- ==== Sys2Proof/Machine/Power.lean ====
section
/-! DEFINITION. Power input, power states, the clock's loops and heat (chapter 18). -/

namespace Sys2Proof.Machine

/-! ### Clock steps (R473) -/

/-- One step down from a clock: the next lower multiple of 25 MHz, at least 200 MHz. -/
def stepDown (f : Nat) : Nat := max 200 ((f - 1) / 25 * 25)
/-- One step up from a clock, to the variant maximum at most. -/
def stepUp (top f : Nat) : Nat := min top ((f / 25 + 1) * 25)
/-- `n` steps down. -/
def stepsDown : Nat → Nat → Nat
  | 0, f => f
  | n + 1, f => stepsDown n (stepDown f)
/-- The highest step not above a request (R474). -/
def stepAtMost (top f : Nat) : Nat := if top ≤ f then top else f / 25 * 25

/-- POWER_CAP (R474): above the limit the limit applies (R4). -/
def powerCap : Req → NonVol → Mach → Mach :=
  knaob 0x0401 aB .none (lenIs 4) noResv (fun m _ r => do
    must (1600 ≤ pf r 0 4) 0x35 0
    let w := min (pf r 0 4) (limitW m)
    pure (okay { m with pwr := { m.pwr with capW := w } } (leBytes 4 w)))

/-- CLOCK_LIMIT (R474). -/
def clockLimit : Req → NonVol → Mach → Mach :=
  knaob 0x0402 aB .none (lenIs 4) noResv (fun m _ r => do
    must (200 ≤ pf r 0 4 && pf r 0 4 % 25 == 0) 0x35 0
    let f := stepAtMost (maxMhz m) (pf r 0 4)
    pure (okay { m with pwr := { m.pwr with limitMhz := f } } (leBytes 4 f)))

/-- POWER_QUERY (Table 16.7). -/
def powerQuery : Req → NonVol → Mach → Mach :=
  knaob 0x0404 (aH + aB + aD) .none (lenIs 0) noResv (fun m _ _ =>
    .ok (okay m (leBytes 1 (powerCode m) ++ leBytes 3 0 ++ leBytes 4 m.pwr.capW ++ leBytes 4 (appliedMhz m.pwr) ++ leBytes 4 m.pwr.roundW)))

/-! ### Losing power -/

/-- Everything but the always-on domain goes dark (R415, R475): what is volatile is lost; the module records are in flash. -/
def darken (m : Mach) : Mach :=
  let n := clearForBoot (flashWrite (chargeDown { m with health := { m.health with saved := m.health.published } }) 0) true
  { n with time := m.time, pwr := { n.pwr with hotLatch := m.pwr.hotLatch, inputLow := m.pwr.inputLow, boot := .standby, st := 4 } }

/-- Entry to P4 (R475): only the always-on domain stays powered, and the host sees the device as removed. -/
def enterP4 (m : Mach) : Mach := darken (endSession m)

/-- Always-on power is lost (R415, R470): the counter restarts at zero, and the identifier goes. (DEDUCED, log entry 31) -/
def loseAlwaysOn (m : Mach) : Mach :=
  let n := darken (endSession m)
  { n with time := { n.time with counter := 0 }, fab := { n.fab with module := none },
           health := { n.health with saved := m.health.saved, published := m.health.saved, changed := 0 },
           pwr := { n.pwr with boot := .dark, st := 0, hotLatch := false, inputLow := true },
           pcie := { n.pcie with faultLow := false } }

/-! ### Power states (R475, R476) -/

/-- Whether no run is in flight in any context (Table 18.4). -/
def noRun (m : Mach) : Bool :=
  (List.range 16).all (fun c => (inFlight (getCtx m c)).all runOver) && m.blocks.all (fun e => e.2.seq.running.isEmpty)

/-- Whether every slot is in one of some states. -/
def slotsAll (m : Mach) (ok : CtxSt → Bool) : Bool := (List.range 16).all (fun c => ok (getCtx m c).st)

/-- The entry condition of a power state (Table 18.4). (DEDUCED, log entry 29) -/
def mayEnter (m : Mach) (s : Nat) : Bool :=
  match s with
  | 2 => noRun m
  | 3 => slotsAll m (fun t => t == .free || t == .closed || t == .parked) && m.zeroing.isEmpty
  | 4 => slotsAll m (fun t => t == .free || t == .closed)
  | _ => true

/-- Links on one lane each (Table 18.4 P3). -/
def narrowLinks (m : Mach) : Mach :=
  { m with fab := { m.fab with links := m.fab.links.map (fun (e : Nat × LinkS) => (e.1, { e.2 with lanes := e.2.lanes.take 1 })) } }

/-- Links on all the lanes that have not failed. -/
def widenLinks (m : Mach) : Mach :=
  let wide := fun (x : LinkS) => if x.st = .down then x else { x with lanes := (List.range 4).filter (fun i => !has x.failed i) }
  { m with fab := { m.fab with links := m.fab.links.map (fun (e : Nat × LinkS) => (e.1, wide e.2)) } }

/-- Leaves P3: the tiers leave self-refresh and the links widen. -/
def leaveP3 (m : Mach) : Mach :=
  let ctls := m.tier.ctls.map (fun (e : Nat × Ctl) => (e.1, if e.2.st = 2 then { e.2 with st := 1 } else e.2))
  widenLinks { m with tier := { m.tier with ctls := ctls } }

/-- Enters one of P0 or P1 (0), P2 or P3 from another of them. -/
def enterState (m : Mach) (s : Nat) : Mach :=
  let m := if m.pwr.st = 3 && !m.rst.oos then leaveP3 m else m
  let m := if 2 ≤ s then endSession m else m
  let m := if s = 3 then narrowLinks (gateRegions m) else m
  { m with pwr := { m.pwr with st := s } }

/-- POWER_STATE (R475, R476). States 0 and 1 both ask for the running state. Entry to P4 closes the mailboxes with it. (DEDUCED, log entry 29) -/
def powerState : Req → NonVol → Mach → Mach :=
  knaob 0x0403 aB .none (lenIs 4) (resvAt [(1, 3)]) (fun m _ r => do
    let s := if pf r 0 1 = 1 then 0 else pf r 0 1
    must (s ≤ 4) 0x35 0
    must (!m.rst.oos || 3 ≤ s) 0x54 0
    must (s == m.pwr.st || mayEnter m s) 0x45 0
    let q := newOp m r.port 0x0403 s
    let m := endOp q.1 q.2 0 0
    pure (longOk (if s = m.pwr.st then m else if s < 4 then enterState m s else enterP4 m) q.2))

/-! ### Input power (R470, R471) -/

/-- INPUT_POWER_RISE: the input becomes valid and power-up runs (R471): from no power, or from a P4 that waits for it. -/
def inputRise (f : BootFacts) (nv : NonVol) (m : Mach) : NonVol × Mach :=
  if m.pwr.boot == .dark || inP4 m then
    boot nv { m with pwr := { m.pwr with inputLow := false, inputLatched := false } } f true
  else (nv, m)

/-- INPUT_UNDERVOLTAGE: the module enters P4 as if commanded, without entry conditions; every context is lost, and a log record goes to
flash (R470). (DEDUCED, log entry 30) -/
def inputLow (m : Mach) : Mach :=
  if m.pwr.boot == .dark then m
  else if inP4 m || m.rst.inReset then { m with pwr := { m.pwr with inputLow := true } }
  else
    let n := m.mgmt.logHead.toNat % 65536
    let m := logRec m (Config.logCode 5) clsDevice (unitChip 5) 0 0 none []
    let r := tget noLog m.mgmt.log n
    enterP4 (flashWrite { m with mgmt := { m.mgmt with flashLog := m.mgmt.flashLog ++ [r] }, pwr := { m.pwr with inputLow := true } } 2)

/-- ALWAYS_ON_LOSS: below 40 V the always-on domain stops, and power counts as lost (R470). (DEDUCED, log entry 30) -/
def alwaysOnLoss (m : Mach) : Mach := loseAlwaysOn m

/-- INPUT_OVERVOLTAGE: the input stage disconnects and latches off, which counts as power lost (R470). -/
def inputOver (m : Mach) : Mach :=
  let n := loseAlwaysOn m
  { n with pwr := { n.pwr with inputLatched := true } }

/-- WAKE: WAKE# held low in P4 starts a cold boot (R467); after a thermal shutdown only once every die sensor reads below 70 °C (R478). -/
def wake (cool : Bool) (f : BootFacts) (nv : NonVol) (m : Mach) : NonVol × Mach :=
  if inP4 m && !m.pwr.inputLow && (cool || !m.pwr.hotLatch) then boot nv m f true else (nv, m)

/-- PERST: PERST# changes; the PCIe link trains once step 3 of Table 16.13 is complete, or goes down, and the IDE keys with it (R468). -/
def perst (asserted : Bool) (m : Mach) : Mach :=
  let up := !asserted && m.pwr.boot == .running && !chipFenced m
  { m with pcie := if up then { m.pcie with perst := asserted, linkUp := true }
                   else { m.pcie with perst := asserted, linkUp := false, mse := false, ide := [], ideOn := false }
           sec := if up then m.sec else { m.sec with spdmHost := spdmReset } }

/-! ### The loops (R474, R477) -/

/-- POWER_LOOP_SAMPLE: one sample of the input power, every 10 µs (R474). (DESIGN CHOICE, log entry 15; DEDUCED, log entry 28) -/
def powerSample (w : Nat) (m : Mach) : Mach :=
  if !chipRuns m then m else
  let p := m.pwr
  let s := (w :: p.samples).take 100
  let cap := p.capW
  let p := { p with samples := s, stepAt := min 100 (p.stepAt + 1), upAt := min 100 (p.upAt + 1) }
  if mpStopped m then { m with pwr := p } else
  let sum := s.foldl (· + ·) 0
  let under := s.length == 100 && s.all (fun x => x * 100 < 97 * cap) && sum * 100 < 97 * cap * 100
  let p : PwrS :=
    if cap < w then
      if 2 ≤ p.stepAt && 200 < appliedMhz p then { p with loopMhz := stepDown (appliedMhz p), stepAt := 0 } else p
    else if under && p.upAt = 100 && p.loopMhz < maxMhz m then { p with loopMhz := stepUp (maxMhz m) p.loopMhz, upAt := 0 }
    else p
  { m with pwr := { p with capUnmet := cap < w && appliedMhz p == 200 } }

/-- FAST_TRIP: an input above 1.2 times the limit drops eight steps (R474). (DESIGN CHOICE, log entry 15; DEDUCED, log entry 28) -/
def fastTrip (m : Mach) : Mach :=
  if !chipRuns m || mpStopped m then m else { m with pwr := { m.pwr with loopMhz := stepsDown 8 (appliedMhz m.pwr), stepAt := 0 } }

/-- THERMAL_STEP: one step down while hot, one step up while every die sensor is below 90 °C, up to the other limits (Table 18.6). -/
def thermalStep (m : Mach) : Mach :=
  if !chipRuns m || mpStopped m then m else
  let p := m.pwr
  if p.hot then { m with pwr := { p with thermMhz := stepDown (appliedMhz p) } }
  else if p.dieMax < 90 && p.thermMhz < min p.limitMhz p.loopMhz then { m with pwr := { p with thermMhz := stepUp (maxMhz m) p.thermMhz } }
  else m

/-- THERMAL_SHUTDOWN: a reading of 110 °C (R478): device-fatal with nothing collected; condition 3 is raised, every context torn down, P4
entered and FAULT# driven low. -/
def thermalShutdown (nv : NonVol) (m : Mach) : NonVol × Mach :=
  if m.pwr.boot == .dark || inP4 m || m.rst.inReset then (nv, m) else
  let r := if alarmArmed m then raiseAlarm nv m 3 else (nv, m)
  let m := r.2
  let m := if m.health.downSince.isNone then { m with health := { m.health with downSince := some (now m) } } else m
  let n := enterP4 (teardownAll m 0x4001)
  (r.1, { n with pwr := { n.pwr with hotLatch := true }, pcie := { n.pcie with faultLow := true } })

end Sys2Proof.Machine
end

