-- ==== Sys2Proof/Machine/Submit.lean ====
section
/-! DEFINITION. The requests that wait for the caravaneer, and their performing in a management round (R417 to R419). -/

namespace Sys2Proof.Machine

/-- Performs the request with an opcode as its own row does; what it meets outside the module comes from `f`. -/
def runCmd (opcode : Nat) (r : Req) (f : CmdFacts) (nv : NonVol) (m : Mach) : NonVol × Mach :=
  match opcode with
  | 0x0101 => (nv, ctxCreate r nv m)
  | 0x0102 => (nv, ctxClose r nv m)
  | 0x0103 => (nv, ctxExtend r nv m)
  | 0x0104 => (nv, ctxReclaim r nv m)
  | 0x0105 => (nv, ctxPark r nv m)
  | 0x0106 => (nv, ctxUnpark f.image f.good r nv m)
  | 0x0107 => (nv, ctxUnparkImage f.img r nv m)
  | 0x0108 => (nv, ctxReshard r nv m)
  | 0x0109 => (nv, manifestPost f.ext r nv m)
  | 0x010A => (nv, manifestLaunch r nv m)
  | 0x010B => (nv, manifestRetire r nv m)
  | 0x010C => (nv, flagsClear f.flagSets r nv m)
  | 0x010D => (nv, numericsSave r nv m)
  | 0x010E => (nv, numericsLoad f.ext r nv m)
  | 0x010F => (nv, watchOpen r nv m)
  | 0x0110 => (nv, watchClose r nv m)
  | 0x0111 => (nv, orderedOpen r nv m)
  | 0x0112 => (nv, cvConfigure r nv m)
  | 0x0113 => (nv, servingConfig r nv m)
  | 0x0201 => (nv, cargoLoad r nv m)
  | 0x0202 => (nv, cargoSeal r nv m)
  | 0x0203 => (nv, cargoBind r nv m)
  | 0x0204 => (nv, cargoUnbind r nv m)
  | 0x0205 => (nv, cargoSwap r nv m)
  | 0x0206 => (nv, cargoSwitch r nv m)
  | 0x0207 => (nv, seqRead r nv m)
  | 0x0301 => (nv, statementCmd r nv m)
  | 0x0302 => (nv, logRead f.badLog r nv m)
  | 0x0303 => (nv, dumpRead f.badDump r nv m)
  | 0x0304 => (nv, counterRead r nv m)
  | 0x0305 => (nv, boardEvents r nv m)
  | 0x0401 => (nv, powerCap r nv m)
  | 0x0402 => (nv, clockLimit r nv m)
  | 0x0403 => (nv, powerState r nv m)
  | 0x0404 => (nv, powerQuery r nv m)
  | 0x0501 => fwStage r nv m
  | 0x0502 => fwVerify f.sig r nv m
  | 0x0503 => fwActivate r nv m
  | 0x0504 => (nv, fwQuery r nv m)
  | 0x0505 => fwCommit r nv m
  | 0x0601 => (nv, lifecycleQuery r nv m)
  | 0x0602 => ownerEnrol f.sig r nv m
  | 0x0603 => policySet f.sig r nv m
  | 0x0604 => debugUnlock f.sig r nv m
  | 0x0605 => (nv, debugLock r nv m)
  | 0x0606 => zeroise f.sig r nv m
  | 0x0607 => lifecycleSet f.sig r nv m
  | 0x0608 => (nv, certRead r nv m)
  | 0x0701 => (nv, resetCmd r nv m)
  | 0x0702 => (nv, oosSet r nv m)
  | 0x0703 => (nv, returnToService r nv m)
  | 0x0704 => (nv, retainFloor r nv m)
  | 0x0705 => (nv, wdtSet r nv m)
  | 0x0706 => (nv, retireThreshold r nv m)
  | 0x0707 => (nv, eccClear f.sets r nv m)
  | 0x0708 => (nv, healthQuery r nv m)
  | 0x0801 => (nv, moduleIdSet r nv m)
  | 0x0802 => (nv, membershipSet r nv m)
  | 0x0803 => (nv, waymapMap r nv m)
  | 0x0804 => (nv, waymapUnmap r nv m)
  | 0x0805 => (nv, waymapRead r nv m)
  | 0x0806 => (nv, respTimeoutSet r nv m)
  | 0x0807 => (nv, convoySet f.ext r nv m)
  | 0x0808 => (nv, convoyRemove r nv m)
  | 0x0809 => (nv, schedulePost f.ext r nv m)
  | 0x080A => (nv, channelOpen r nv m)
  | 0x080B => (nv, channelClose r nv m)
  | 0x080C => (nv, twinAccept r nv m)
  | 0x080D => (nv, twinSet f.copy f.journal f.depth f.held r nv m)
  | 0x080E => (nv, restoreCmd r nv m)
  | 0x080F => (nv, customsClear f.sets r nv m)
  | _ => (nv, statusCmd opcode r nv m)

/-- Whether the caravaneer can take the oldest waiting request: none is in hand, nothing halts it, and host writes before it are in memory (R189, R419). -/
def mayTake (m : Mach) (p : Port) : Bool :=
  !mpStopped m && m.mgmt.mbx.all (fun b => match b.inHand with | some q => decide (heldBase ≤ q.1) | none => true) &&
    !(p == .host && (waiting m).any (fun q => q.host && q.data.isSome))

/-- Performs the waiting requests one at a time in order of acceptance (R419), as far as they can be; `fs` says what each meets. -/
def serveMailboxes (nv : NonVol) (m : Mach) : List Port → List CmdFacts → NonVol × Mach
  | [], _ => (nv, m)
  | p :: ps, fs =>
    if !mayTake m p then (nv, m) else
    match (getMbx m p).inHand with
    | none => (nv, m)
    | some q =>
      let m := modMbx { m with mgmt := { m.mgmt with accepted := [] } } p (fun b => { b with st := .idle, inHand := none })
      let r := runCmd (q.1 - heldBase) q.2 (fs.headD noFacts) nv m
      serveMailboxes r.1 { r.2 with mgmt := { r.2.mgmt with accepted := ps } } ps fs.tail

/-- MANAGEMENT_ROUND: the round itself, then the requests that wait for the caravaneer. (DEDUCED, log entry 113) -/
def fullRound (f : RoundFacts) (nv : NonVol) (m : Mach) : NonVol × Mach :=
  let r := managementRound f nv m
  serveMailboxes r.1 r.2 r.2.mgmt.accepted f.cmds

end Sys2Proof.Machine
end

