-- ==== Sys2Proof/Machine/Run.lean ====
section
/-! DEFINITION. How a command's effect on the module becomes the outcome of a step. -/

namespace Sys2Proof.Machine

/-- The outcome of a command. -/
abbrev Answer := Host.Outcome State Fault Refusal

/-- The effect of a command on the module alone. -/
def runM (f : Mach → Mach) (s : State) : Answer := .next { s with m := f s.m }

/-- The effect of a command on the module that depends on what fuses and flash hold. -/
def runK (f : NonVol → Mach → Mach) (s : State) : Answer := .next { s with m := f s.nv s.m }

/-- The effect of a command on the module and on what fuses and flash hold. -/
def runD (f : NonVol → Mach → NonVol × Mach) (s : State) : Answer :=
  let r := f s.nv s.m
  .next { s with nv := r.1, m := r.2 }

end Sys2Proof.Machine
end

