-- ==== Sys2Proof/Machine/Commands.lean ====
section
/-! DEFINITION. The Knaob commands: each is one request at a mailbox (R417 to R427). -/

namespace Sys2Proof.Machine

/-- STATUS (R417): returns the mailbox status word with no payload. -/
def execStatus (opcode : Nat) (r : Req) (s : State) : Answer :=
  runK (statusCmd opcode r) s

/-- CTX_CREATE (R207): creates a context in the lowest FREE or CLOSED slot with the parameters of Table 8.2, all or nothing. -/
def execCtxCreate (r : Req) (s : State) : Answer :=
  runK (ctxCreate r) s

/-- CTX_CLOSE (R213): starts teardown of the named context as a long command. -/
def execCtxClose (r : Req) (s : State) : Answer :=
  runK (ctxClose r) s

/-- CTX_EXTEND (R347): adds logical arrays with bank masks and weights to a context's block set, all or nothing. -/
def execCtxExtend (r : Req) (s : State) : Answer :=
  runK (ctxExtend r) s

/-- CTX_RECLAIM (R348): stops new waybill groups of the context on the named arrays and starts a reclaim deadline. -/
def execCtxReclaim (r : Req) (s : State) : Answer :=
  runK (ctxReclaim r) s

/-- CTX_PARK (R350): accepts a park: group starts and intake stop, and quiescence is awaited up to the deadline. -/
def execCtxPark (r : Req) (s : State) : Answer :=
  runK (ctxPark r) s

/-- CTX_UNPARK (R353): restores a parked context into its slot from its image. -/
def execCtxUnpark (image : Nat) (good : Bool) (r : Req) (s : State) : Answer :=
  runK (ctxUnpark image good r) s

/-- CTX_UNPARK_IMAGE (R354): creates a context in a new slot and loads a park image made on another module. -/
def execCtxUnparkImage (img : Option ParkImg) (r : Req) (s : State) : Answer :=
  runK (ctxUnparkImage img r) s

/-- CTX_RESHARD (R344): records a pending re-shard to epoch E' at step s_at and holds the runs of step s_at and later. -/
def execCtxReshard (r : Req) (s : State) : Answer :=
  runK (ctxReshard r) s

/-- MANIFEST_POST (R190): checks a manifest image in full and copies it into the context's store, all or nothing, returning a manifest handle. -/
def execManifestPost (ext : List Byte) (r : Req) (s : State) : Answer :=
  runK (manifestPost ext r) s

/-- MANIFEST_LAUNCH (R191): launches runs of a posted manifest and returns the first run number. -/
def execManifestLaunch (r : Req) (s : State) : Answer :=
  runK (manifestLaunch r) s

/-- MANIFEST_RETIRE (R193): stops launches, waits for the runs in flight and frees the manifest slot and its store space. -/
def execManifestRetire (r : Req) (s : State) : Answer :=
  runK (manifestRetire r) s

/-- FLAGS_CLEAR (R430): clears the named W1C flag bits of every target in one cycle and reports which bits raced with a set. -/
def execFlagsClear (sets : List (Nat × W32)) (r : Req) (s : State) : Answer :=
  runK (flagsClear sets r) s

/-- NUMERICS_SAVE (R336): closes the current step and writes a numerics record. -/
def execNumericsSave (r : Req) (s : State) : Answer :=
  runK (numericsSave r) s

/-- NUMERICS_LOAD (R336): loads and checks a numerics record and sets each watch slot's state. -/
def execNumericsLoad (ext : List Byte) (r : Req) (s : State) : Answer :=
  runK (numericsLoad ext r) s

/-- WATCH_OPEN (R327): opens an assayer watch slot for a context with the configuration of Table 12.1. -/
def execWatchOpen (r : Req) (s : State) : Answer :=
  runK (watchOpen r) s

/-- WATCH_CLOSE (R327): closes a watch slot and discards its statistics and history. -/
def execWatchClose (r : Req) (s : State) : Answer :=
  runK (watchClose r) s

/-- ORDERED_OPEN (R255): opens an ordered-accumulate window with its log area and its close and done milestones. -/
def execOrderedOpen (r : Req) (s : State) : Answer :=
  runK (orderedOpen r) s

/-- CV_CONFIGURE (R380): configures and enables, or disables, a block's check-value unit. -/
def execCvConfigure (r : Req) (s : State) : Answer :=
  runK (cvConfigure r) s

/-- SERVING_CONFIG (R222): sets the serving configuration: tile bindings, step buffer, pointer table and private declarations. -/
def execServingConfig (r : Req) (s : State) : Answer :=
  runK (servingConfig r) s

/-- CARGO_LOAD (R366): starts loading a cargo set from a source list or in SEED mode. -/
def execCargoLoad (r : Req) (s : State) : Answer :=
  runK (cargoLoad r) s

/-- CARGO_SEAL (R366): seals a SEED load once the driver has written the base through BAR2. -/
def execCargoSeal (r : Req) (s : State) : Answer :=
  runK (cargoSeal r) s

/-- CARGO_BIND (R367): binds a context to a READY cargo set. -/
def execCargoBind (r : Req) (s : State) : Answer :=
  runK (cargoBind r) s

/-- CARGO_UNBIND (R367): unbinds a context from a cargo set. -/
def execCargoUnbind (r : Req) (s : State) : Answer :=
  runK (cargoUnbind r) s

/-- CARGO_SWAP (R368): puts a cargo set into DRAINING ahead of an in-place reload with new weights. -/
def execCargoSwap (r : Req) (s : State) : Answer :=
  runK (cargoSwap r) s

/-- CARGO_SWITCH (R369): records a pending switch of one cargo pointer table entry. -/
def execCargoSwitch (r : Req) (s : State) : Answer :=
  runK (cargoSwitch r) s

/-- SEQ_READ (R216): returns entries of the active-sequence table. -/
def execSeqRead (r : Req) (s : State) : Answer :=
  runK (seqRead r) s

/-- STATEMENT (R398): issues a signed accounting statement for a context. -/
def execStatement (r : Req) (s : State) : Answer :=
  runK (statementCmd r) s

/-- LOG_READ (R414): returns error log records, oldest first. -/
def execLogRead (q : StrongboxReq) (s : State) : Answer :=
  runK (logRead q.bad q.req) s

/-- DUMP_READ (R406): returns bytes of a stored dump. -/
def execDumpRead (q : StrongboxReq) (s : State) : Answer :=
  runK (dumpRead (has q.bad (recNat q.req.payload 0 4)) q.req) s

/-- COUNTER_READ (R431): returns the occurrence counters of one flag target. -/
def execCounterRead (r : Req) (s : State) : Answer :=
  runK (counterRead r) s

/-- BOARD_EVENTS (R433): acknowledges and returns board event ring records. -/
def execBoardEvents (r : Req) (s : State) : Answer :=
  runK (boardEvents r) s

/-- POWER_CAP (R474): sets the power cap, clamped to the variant limit, and returns the applied value. -/
def execPowerCap (r : Req) (s : State) : Answer :=
  runK (powerCap r) s

/-- CLOCK_LIMIT (R474): sets the clock limit to the highest step not above the request. -/
def execClockLimit (r : Req) (s : State) : Answer :=
  runK (clockLimit r) s

/-- POWER_STATE (R475): requests power state P0 to P4, subject to the entry conditions of Table 18.4. -/
def execPowerState (r : Req) (s : State) : Answer :=
  runK (powerState r) s

/-- POWER_QUERY (R427): returns the power state, cap, clock and input power. -/
def execPowerQuery (r : Req) (s : State) : Answer :=
  runK (powerQuery r) s

/-- FW_STAGE (R441): writes a chunk of a firmware image into the slot that is not running. -/
def execFwStage (r : Req) (s : State) : Answer :=
  runD (fwStage r) s

/-- FW_VERIFY (R441): checks the staged image's signature, digest and security version. -/
def execFwVerify (sig : Bool) (r : Req) (s : State) : Answer :=
  runD (fwVerify sig r) s

/-- FW_ACTIVATE (R441): marks a VERIFIED slot TRY, optionally with an immediate chip warm reset. -/
def execFwActivate (r : Req) (s : State) : Answer :=
  runD (fwActivate r) s

/-- FW_QUERY (R439): returns the firmware slot states, versions and the fused minimum. -/
def execFwQuery (r : Req) (s : State) : Answer :=
  runK (fwQuery r) s

/-- FW_COMMIT (R442): raises the fused minimum security version to that of the ACTIVE slot. -/
def execFwCommit (r : Req) (s : State) : Answer :=
  runD (fwCommit r) s

/-- LIFECYCLE_QUERY (R465): returns the security state, alarm status, serial, policy sequence and key digests. -/
def execLifecycleQuery (r : Req) (s : State) : Answer :=
  runK (lifecycleQuery r) s

/-- OWNER_ENROL (R453): enrols or transfers the owner key. -/
def execOwnerEnrol (sig : Bool) (r : Req) (s : State) : Answer :=
  runD (ownerEnrol sig r) s

/-- POLICY_SET (R454): installs a signed owner policy blob with a higher sequence. -/
def execPolicySet (sig : Bool) (r : Req) (s : State) : Answer :=
  runD (policySet sig r) s

/-- DEBUG_UNLOCK (R452): checks an unlock token and opens a D1 or D2 debug session. -/
def execDebugUnlock (sig : Bool) (r : Req) (s : State) : Answer :=
  runD (debugUnlock sig r) s

/-- DEBUG_LOCK (R456): ends the debug session and returns the level to D0. -/
def execDebugLock (r : Req) (s : State) : Answer :=
  runK (debugLock r) s

/-- ZEROISE (R461): zeroes data in mode DATA, OWNER or ERASE, with key erasure for ERASE. -/
def execZeroise (sig : Bool) (r : Req) (s : State) : Answer :=
  runD (zeroise sig r) s

/-- LIFECYCLE_SET (R445): performs a lifecycle transition of Table 17.1 under a token, then a chip warm reset. -/
def execLifecycleSet (sig : Bool) (r : Req) (s : State) : Answer :=
  runD (lifecycleSet sig r) s

/-- CERT_READ (R448): returns bytes of the identity certificate chain. -/
def execCertRead (r : Req) (s : State) : Answer :=
  runK (certRead r) s

/-- RESET (R407): requests a reset at the named rung of the named unit. -/
def execReset (r : Req) (s : State) : Answer :=
  runK (resetCmd r) s

/-- OOS_SET (R410): sets the out-of-service reset threshold and window. -/
def execOosSet (r : Req) (s : State) : Answer :=
  runK (oosSet r) s

/-- RETURN_TO_SERVICE (R411): ends out of service, clears the reset count and performs a chip warm reset. -/
def execReturnToService (r : Req) (s : State) : Answer :=
  runK (returnToService r) s

/-- RETAIN_FLOOR (R393): sets the retain floor and compares capability against it. -/
def execRetainFloor (r : Req) (s : State) : Answer :=
  runK (retainFloor r) s

/-- WDT_SET (R400): sets the engine and stall watchdog periods. -/
def execWdtSet (r : Req) (s : State) : Answer :=
  runK (wdtSet r) s

/-- RETIRE_THRESHOLD (R247): sets the near-tier channel retirement threshold. -/
def execRetireThreshold (r : Req) (s : State) : Answer :=
  runK (retireThreshold r) s

/-- ECC_CLEAR (R267): clears tier ECC W1C flags, with ECC_FIRST, and reports races. -/
def execEccClear (sets : W32) (r : Req) (s : State) : Answer :=
  runK (eccClear sets r) s

/-- HEALTH_QUERY (R427): returns the health, penalty and unavailability registers. -/
def execHealthQuery (r : Req) (s : State) : Answer :=
  runK (healthQuery r) s

/-- MODULE_ID_SET (R270): assigns or replaces the module identifier. -/
def execModuleIdSet (r : Req) (s : State) : Answer :=
  runK (moduleIdSet r) s

/-- MEMBERSHIP_SET (R276): installs a context's membership identifier, epoch and member set, with or without keep. -/
def execMembershipSet (r : Req) (s : State) : Answer :=
  runK (membershipSet r) s

/-- WAYMAP_MAP (R273): writes OUT or IN waymap entries for consecutive segments. -/
def execWaymapMap (r : Req) (s : State) : Answer :=
  runK (waymapMap r) s

/-- WAYMAP_UNMAP (R277): removes waymap entries, all or nothing, under the invalidation protocol of Table 10.2. -/
def execWaymapUnmap (r : Req) (s : State) : Answer :=
  runK (waymapUnmap r) s

/-- WAYMAP_READ (R272): returns the waymap entry covering a base, or a zero entry. -/
def execWaymapRead (r : Req) (s : State) : Answer :=
  runK (waymapRead r) s

/-- RESP_TIMEOUT_SET (R292): sets the fabric response timeout. -/
def execRespTimeoutSet (r : Req) (s : State) : Answer :=
  runK (respTimeoutSet r) s

/-- CONVOY_SET (R297): installs or replaces a convoy record in a convoy slot, aborting a running collective on a new epoch. -/
def execConvoySet (ext : List Byte) (r : Req) (s : State) : Answer :=
  runK (convoySet ext r) s

/-- CONVOY_REMOVE (R297): frees a convoy slot. -/
def execConvoyRemove (r : Req) (s : State) : Answer :=
  runK (convoyRemove r) s

/-- SCHEDULE_POST (R303): replaces a convoy's collective schedule and restarts the occurrence count. -/
def execSchedulePost (ext : List Byte) (r : Req) (s : State) : Answer :=
  runK (schedulePost ext r) s

/-- CHANNEL_OPEN (R320): opens a send half, receive half or both of a channel. -/
def execChannelOpen (r : Req) (s : State) : Answer :=
  runK (channelOpen r) s

/-- CHANNEL_CLOSE (R323): closes a channel half and sends CH_CLOSE to its peer. -/
def execChannelClose (r : Req) (s : State) : Answer :=
  runK (channelClose r) s

/-- TWIN_ACCEPT (R355): registers the twin side of a partner with its copy, journal and undo areas. -/
def execTwinAccept (r : Req) (s : State) : Answer :=
  runK (twinAccept r) s

/-- TWIN_SET (R355): registers the source side's twin ranges and starts a resync. -/
def execTwinSet (copy : TwinCopy) (journal : Nat) (depth : Nat) (r : Req) (s : State) : Answer :=
  runK (twinSet copy.bytes journal depth copy.held r) s

/-- RESTORE (R362): requests a restore of the twin ranges to step R from the twin. -/
def execRestore (r : Req) (s : State) : Answer :=
  runK (restoreCmd r) s

/-- CUSTOMS_CLEAR (R296): clears customs W1C flags, with XR_CUSTOMS_FIRST, and reports races. -/
def execCustomsClear (sets : W32) (r : Req) (s : State) : Answer :=
  runK (customsClear sets r) s

end Sys2Proof.Machine
end

