-- ==== Sys2Proof/Machine/CtxRows.lean ====
section
/-! DEFINITION. The events of contexts, of parks and of twins (chapters 8 and 13). -/

namespace Sys2Proof.Machine

/-- TEARDOWN_END (R213): teardown ends: the accounting statement is issued and the slot becomes CLOSED. -/
def execTeardownEnd (c : Nat) (s : State) : Answer :=
  runK (teardownEnd c) s

/-- RECLAIM_BLOCK_LEAVE (R348): the last started group on a reclaimed block ends: the block leaves the set, its banks are zeroed and manifests with
waybills on it halt. -/
def execReclaimBlockLeave (c : Nat) (a : Nat) (s : State) : Answer :=
  runM (reclaimLeave c a) s

/-- RECLAIM_DEADLINE (R349): the reclaim deadline expires with a named block still in the set, which triggers teardown of the whole context. -/
def execReclaimDeadline (c : Nat) (s : State) : Answer :=
  runM (reclaimDeadline c) s

/-- PARK_QUIESCED (R350): the parking context reaches quiescence and the image write begins. -/
def execParkQuiesced (c : Nat) (s : State) : Answer :=
  runM (parkQuiesced c) s

/-- PARK_DEADLINE (R350): quiescence is not reached by the park deadline: the park fails with 0x5x and the context resumes. -/
def execParkDeadline (c : Nat) (s : State) : Answer :=
  runM (parkDeadline c) s

/-- PARK_COMPLETE (R351): the image header is written last, the banks are zeroed, the blocks are released and the slot becomes PARKED. -/
def execParkComplete (c : Nat) (s : State) : Answer :=
  runK (parkComplete c) s

/-- RESHARD_EFFECT (R345): once earlier runs, convoys and ordered windows are done, the layout epoch becomes E' and the pending runs may start. -/
def execReshardEffect (c : Nat) (s : State) : Answer :=
  runM (reshardEffect c) s

/-- CHP_CR_ACK (R201): A driver write acknowledges completion records, and is accepted or ignored and counted. -/
def execChpCrAck (c : Nat) (value : Nat) (whole : Bool) (s : State) : Answer :=
  runM (chpCrAck c value whole) s

/-- STEP_COMMIT (R357): after a step run completes, the numerics record is saved and dirty tiles are sent to the twin. -/
def execStepCommit (c : Nat) (s : State) : Answer :=
  runM (stepCommit c) s

/-- TWIN_TILE (R358): A commit or resync tile arrives at the twin journal. -/
def execTwinTile (s : State) : Answer :=
  runM twinTile s

/-- TWIN_SEAL (R358): the seal arrives; the twin applies the commit and acknowledges. -/
def execTwinSeal (s : State) : Answer :=
  runM twinSeal s

/-- TWIN_ACK (R359): the acknowledgement arrives and the commit ends. -/
def execTwinAck (s : State) : Answer :=
  runM twinAck s

/-- TWIN_NACK (R359): the twin refuses a commit. -/
def execTwinNack (s : State) : Answer :=
  runM twinNack s

/-- COMMIT_TIMEOUT (R359): A commit is not acknowledged in time and is abandoned, leaving the context UNPROTECTED. -/
def execCommitTimeout (c : Nat) (s : State) : Answer :=
  runM (commitTimeout c) s

/-- RESTORE_REQ (R360): the twin receives a restore request and serves tiles as of step R. -/
def execRestoreReq (s : State) : Answer :=
  runM restoreReq s

/-- RESTORE_DATA (R362): restore tiles arrive at the restoring module. -/
def execRestoreData (s : State) : Answer :=
  runM restoreData s

/-- RESTORE_END (R362): the restore ends, loads the numerics record and becomes PROTECTED. -/
def execRestoreEnd (s : State) : Answer :=
  runM restoreEnd s

/-- RESTORE_TIMEOUT (R364): the twin falls silent or is lost: the restore aborts with LINEAGE_BROKEN. -/
def execRestoreTimeout (c : Nat) (s : State) : Answer :=
  runM (restoreTimeout c) s

end Sys2Proof.Machine
end

