-- ==== Sys2Proof/Machine/DeviceRows.lean ====
section
/-! DEFINITION. The events of the module as a device: long commands, rings, rounds, power, clock, heat, security and attestation (chapters 16 to 18). -/

namespace Sys2Proof.Machine

/-- TRY_BOOT_TIMEOUT (R440): A TRY slot fails its check or misses host-ready: it is marked FAILED and the other slot is booted. -/
def execTryBootTimeout (f : BootFacts) (s : State) : Answer :=
  runD (tryBootTimeout f) s

/-- DEBUG_SESSION_EXPIRY (R456): the token's rounds run out and the debug session ends. -/
def execDebugSessionExpiry (s : State) : Answer :=
  runM debugExpiry s

/-- OP_DONE (R423): A long command finishes and an OP_DONE event carries its op_tag and final status. -/
def execOpDone (tag : Nat) (s : State) : Answer :=
  runD (opDoneRow tag) s

/-- MP_EVT_ACK (R433): A driver write acknowledges host event records, freeing ring slots. -/
def execMpEvtAck (value : Nat) (whole : Bool) (s : State) : Answer :=
  runM (mpEvtAck value whole) s

/-- MSIX_UNMASK (R432): unmasking a vector with its pending bit set sends the message. -/
def execMsixUnmask (v : Nat) (s : State) : Answer :=
  runM (msixUnmask v) s

/-- REGISTER_WRITE (R15): A write to a register or BAR0 area with no behaviour of its own. -/
def execRegisterWrite (a : Nat) (data : RegData) (s : State) : Answer :=
  runM (registerWrite a data.bytes data.sets) s

/-- INPUT_POWER_RISE (R471): the 54 V input becomes valid and power-up runs. -/
def execInputPowerRise (f : BootFacts) (s : State) : Answer :=
  runD (inputRise f) s

/-- INPUT_UNDERVOLTAGE (R470): the input stays below 46 V for 1 ms and the module enters P4. -/
def execInputUndervoltage (s : State) : Answer :=
  runM inputLow s

/-- ALWAYS_ON_LOSS (R470): the input falls below 40 V, the always-on domain stops and power counts as lost. -/
def execAlwaysOnLoss (s : State) : Answer :=
  runM alwaysOnLoss s

/-- INPUT_OVERVOLTAGE (R470): the input exceeds 60 V for 10 µs and the input stage latches off. -/
def execInputOvervoltage (s : State) : Answer :=
  runM inputOver s

/-- WAKE (R467): WAKE# held low in P4 starts a cold boot. -/
def execWake (cool : Bool) (f : BootFacts) (s : State) : Answer :=
  runD (wake cool f) s

/-- PERST (R468): A PERST# change makes the PCIe link train or go down. -/
def execPerst (asserted : Bool) (s : State) : Answer :=
  runM (perst asserted) s

/-- POWER_LOOP_SAMPLE (R474): every 10 µs the power loop samples input power and steps the clock against the cap. -/
def execPowerLoopSample (w : Nat) (s : State) : Answer :=
  runM (powerSample w) s

/-- FAST_TRIP (R474): an input above 1.2 times the limit drops the clock eight steps. -/
def execFastTrip (s : State) : Answer :=
  runM fastTrip s

/-- THERMAL_STEP (R477): the thermal loop steps the clock down every 1 ms while hot, or up every 10 ms while cool. -/
def execThermalStep (s : State) : Answer :=
  runM thermalStep s

/-- THERMAL_SHUTDOWN (R478): A reading of 110 °C tears down every context, enters P4 and drives FAULT# low. -/
def execThermalShutdown (s : State) : Answer :=
  runD thermalShutdown s

/-- ALARM_CONDITION (R457): A security sensor condition is raised and acted on at its policy level. -/
def execAlarmCondition (cond : Nat) (s : State) : Answer :=
  runD (alarmCondition cond) s

/-- FUSE_INTEGRITY_CHECK (R457): every 1,024 management rounds the fuse array is checked. -/
def execFuseIntegrityCheck (bad : Bool) (s : State) : Answer :=
  runD (fuseCheck bad) s

/-- GET_VERSION (R449): SPDM GET_VERSION request. -/
def execGetVersion (board : Bool) (s : State) : Answer :=
  runM (getVersion board) s

/-- GET_CAPABILITIES (R449): SPDM GET_CAPABILITIES request. -/
def execGetCapabilities (board : Bool) (s : State) : Answer :=
  runM (getCapabilities board) s

/-- NEGOTIATE_ALGORITHMS (R449): SPDM NEGOTIATE_ALGORITHMS request. -/
def execNegotiateAlgorithms (board : Bool) (spec : Nat) (asym : Nat) (hash : Nat) (s : State) : Answer :=
  runM (negotiateAlgorithms board spec asym hash) s

/-- GET_DIGESTS (R449): SPDM GET_DIGESTS request. -/
def execGetDigests (board : Bool) (s : State) : Answer :=
  runK (getDigests board) s

/-- GET_CERTIFICATE (R449): SPDM GET_CERTIFICATE request for slot 0. -/
def execGetCertificate (board : Bool) (slot : Nat) (off : Nat) (n : Nat) (s : State) : Answer :=
  runK (getCertificate board slot off n) s

/-- CHALLENGE (R449): SPDM CHALLENGE request, signed with the identity key. -/
def execChallenge (board : Bool) (slot : Nat) (what : Nat) (s : State) : Answer :=
  runK (challenge board slot what) s

/-- GET_MEASUREMENTS (R450): SPDM GET_MEASUREMENTS request for the blocks of Table 17.3a. -/
def execGetMeasurements (board : Bool) (signed : Bool) (slot : Nat) (op : Nat) (s : State) : Answer :=
  runK (getMeasurements board signed slot op) s

/-- KEY_PROG (R468): an IDE_KM KEY_PROG message programs an IDE key. -/
def execKeyProg (ix : Nat) (key : List Byte) (mse : Bool) (s : State) : Answer :=
  runM (keyProg ix key mse) s

/-- K_SET_GO (R468): an IDE_KM K_SET_GO message enables the IDE stream. -/
def execKSetGo (mse : Bool) (s : State) : Answer :=
  runM (kSetGo mse) s

/-- MANAGEMENT_ROUND (R38): each management round the caravaneer captures status groups and evaluates its per-round work. -/
def execManagementRound (f : RoundFacts) (s : State) : Answer :=
  runD (fullRound f) s

/-- TAMPER_LATCH_SET (R462): while the module is in P4, an always-on rail, clock or temperature excursion sets the tamper latch, which raises
condition 6 at the next boot. -/
def execTamperLatchSet (s : State) : Answer :=
  runD tamperLatch s

/-- HALT_AND_STEP (R455): under a D2 session the debug port halts or steps the caravaneer or a block sequencer, or drives the maintenance scan path. -/
def execHaltAndStep (a : DebugAct) (s : State) : Answer :=
  runM (haltAndStep a) s

end Sys2Proof.Machine
end

