-- ==== Sys2Proof/Machine/EngineRows.lean ====
section
/-! DEFINITION. The events of arrays, drains, the Premutar, scratchpads and the check-value unit (chapters 3, 4, 6 and 14). -/

namespace Sys2Proof.Machine

/-- ARRAY_OP (R90): an array operation opens its groups and runs its pass over K. -/
def execArrayOp (p : Nat) (stream : Nat) (mism : Option Nat) (s : State) : Answer :=
  runM (arrayOp p stream mism) s

/-- ARRAY_OP_COMPLETE (R188): the last K-step of an array operation is written back. -/
def execArrayOpComplete (p : Nat) (s : State) : Answer :=
  runM (arrayOpComplete p) s

/-- DRAIN (R93): A drain item is issued, its groups become CLOSING and it is queued in the drain unit. -/
def execDrain (p : Nat) (stream : Nat) (mism : Option (Nat × Nat)) (s : State) : Answer :=
  runM (drainIssue p stream mism) s

/-- DRAIN_COMPLETE (R95): the drain's last line is written and the tile flags are updated. -/
def execDrainComplete (p : Nat) (s : State) : Answer :=
  runM (drainComplete p) s

/-- DISCARD (R91): A DISCARD item frees the named groups of its own owner. -/
def execDiscard (p : Nat) (stream : Nat) (s : State) : Answer :=
  runM (discardGroups p stream) s

/-- PREMUTAR (R163): A Premutar descriptor is issued once a flight slot is free and no overlapping hold applies, recording its box history. -/
def execPremutar (p : Nat) (stream : Nat) (s : State) : Answer :=
  runM (premutar p stream) s

/-- PREMUTAR_COMPLETE (R163): every write of a descriptor has been performed or acknowledged. -/
def execPremutarComplete (p : Nat) (s : State) : Answer :=
  runM (premutarComplete p) s

/-- VECTOR_OP_COMPLETE (R141): A vector operation completes, remote responses and acceptances included. -/
def execVectorOpComplete (p : Nat) (s : State) : Answer :=
  runM (vectorOpComplete p) s

/-- RING_ACCESS_START (R116): A stalled RING produce or consume finds room or fill, starts, and moves its pointer once done. -/
def execRingAccessStart (p : PlaceFacts) (s : State) : Answer :=
  runM (ringStart p.num p.bad) s

/-- SP_ACCESS (R107): A bank serves a line read or write through SECDED checking. -/
def execSpAccess (p : Nat) (master : Nat) (c : Nat) (stream : Nat) (off : Nat) (n : Nat) (data : Option (List Byte)) (busy : Bool) (single : List Nat) (double : List Nat) (s : State) : Answer :=
  runM (spAccess p master c stream off n data busy single double) s

/-- ALIAS_WRITE (R119): an alias write performs an atomic bit-set or bit-clear read-modify-write on a line. -/
def execAliasWrite (p : Nat) (master : Nat) (c : Nat) (stream : Nat) (off : Nat) (data : List Byte) (busy : Bool) (bad : Bool) (found : CodeFacts) (s : State) : Answer :=
  runM (aliasWriteOp p master c stream off data busy bad found.single found.double) s

/-- NON_OWNER_SERVICE (R112): A queued non-owner request is served in an idle owner cycle. -/
def execNonOwnerService (p : Nat) (bank : Nat) (write : Bool) (waited : Nat) (single : List Nat) (double : List Nat) (s : State) : Answer :=
  runM (nonOwnerService p bank write waited single double) s

/-- SP_ECC_WRITEBACK (R121): A corrected or poisoned granule is written back in a free write-port cycle. -/
def execSpEccWriteback (p : Nat) (s : State) : Answer :=
  runM (spWriteback p) s

/-- SP_PATROL_READ (R122): the paced patrol reads a line, forcing a port cycle after 100 µs. -/
def execSpPatrolRead (p : Nat) (bank : Nat) (forced : Bool) (single : List Nat) (double : List Nat) (s : State) : Answer :=
  runM (spPatrol p bank forced single double) s

/-- CV_FRAME (R382): the check-value unit computes and judges one frame. -/
def execCvFrame (p : Nat) (s : State) : Answer :=
  runM (cvFrame p) s

end Sys2Proof.Machine
end

