-- ==== Sys2Proof/Machine/FabricRows.lean ====
section
/-! DEFINITION. The events of links, of the fabric, of convoys and of channels (chapters 10 and 11). -/

namespace Sys2Proof.Machine

/-- WAYMAP_PATROL (R386): the waymap patrol reads one set. -/
def execWaymapPatrol (single : List Nat) (double : List Nat) (s : State) : Answer :=
  runM (waymapPatrol single double) s

/-- PACKET_SEND (R285): A packet leaves on the link with the most tolls among reachable ones. -/
def execPacketSend (s : State) : Answer :=
  runM packetSend s

/-- FLIT (R281): A flit arrives, is CRC-checked and acknowledged or NAKed, and its packets enter the reorder buffer. -/
def execFlit (k : Nat) (raw : List Byte) (fec : Nat) (s : State) : Answer :=
  runM (flit k raw fec) s

/-- CONTROL_FLIT (R281): A control flit returns toll counts. -/
def execControlFlit (k : Nat) (ok : Bool) (tolls : List Nat) (s : State) : Answer :=
  runM (controlFlit k ok tolls) s

/-- REPLAY_TIMEOUT (R283): no acknowledgement within 4 µs makes the sender replay. -/
def execReplayTimeout (k : Nat) (s : State) : Answer :=
  runM (replayTimeout k) s

/-- LANE_FAILURE (R284): A lane loses lock or exceeds its error rate and the link retrains without it. -/
def execLaneFailure (k : Nat) (lane : Nat) (s : State) : Answer :=
  runM (laneFailure k lane) s

/-- LANE_RETRAIN_COMPLETE (R284): the link resumes on its remaining lanes and replays. -/
def execLaneRetrainComplete (k : Nat) (ns : Nat) (s : State) : Answer :=
  runM (laneRetrained k ns) s

/-- PORT_SILENT (R284): the switch plane port sends no flit for 10 µs. -/
def execPortSilent (k : Nat) (s : State) : Answer :=
  runM (portSilent k) s

/-- LINK_RETRAIN_ATTEMPT (R284): A down link is retrained every 1 s. -/
def execLinkRetrainAttempt (k : Nat) (lanes : List Nat) (s : State) : Answer :=
  runM (linkRetrain k lanes) s

/-- LINK_DOWN_PERSISTENT (R393): A link stays down for 24 h, which is a loss beyond the pools. -/
def execLinkDownPersistent (k : Nat) (s : State) : Answer :=
  runM (linkDownPersistent k) s

/-- UNREACH (R285): A plane returns UNREACH: the reach bit clears and the packet is resent. -/
def execUnreach (k : Nat) (dst : Nat) (opcode : Nat) (sequence : Nat) (tag : Nat) (s : State) : Answer :=
  runM (unreach k dst opcode sequence tag) s

/-- REACH_RESTORE (R285): A cleared reach bit is set again after 1 s. -/
def execReachRestore (k : Nat) (dst : Nat) (s : State) : Answer :=
  runM (reachRestore k dst) s

/-- REORDER_HOLE_EXPIRY (R280): A hole open for the response timeout is closed by discarding the held packets. -/
def execReorderHoleExpiry (src : Nat) (slot : Nat) (s : State) : Answer :=
  runM (holeExpiry src slot) s

/-- LOAD (R287): A LOAD request passes customs and reads 32 or 64 B. -/
def execLoad (s : State) : Answer :=
  runM (requestRow 0x01) s

/-- STORE (R287): A STORE request passes customs and writes 32 or 64 B. -/
def execStore (s : State) : Answer :=
  runM (requestRow 0x02) s

/-- MOVE (R287): A MOVE request passes customs and writes bulk lines. -/
def execMove (s : State) : Answer :=
  runM (requestRow 0x03) s

/-- MOVE_READ (R287): A MOVE_READ request passes customs and reads bulk lines. -/
def execMoveRead (s : State) : Answer :=
  runM (requestRow 0x04) s

/-- ACCUM (R253): A memory-side ADD or MAX accumulate-write reaches a controller. -/
def execAccum (s : State) : Answer :=
  runM (requestRow 0x05) s

/-- FETCH (R253): A FETCH_ADD, FETCH_MAX or CAS reaches a controller and returns the old value. -/
def execFetch (s : State) : Answer :=
  runM (requestRow 0x06) s

/-- ADVANCE (R181): A remote milestone advance passes customs and the test of R181. -/
def execAdvance (s : State) : Answer :=
  runM (requestRow 0x07) s

/-- DATA (R287): A read response reaches the engine holding its tag. -/
def execData (s : State) : Answer :=
  runM dataRow s

/-- ACK (R287): A write acknowledgement reaches the engine holding its tag. -/
def execAck (s : State) : Answer :=
  runM ackRow s

/-- NACK (R288): A refusal reaches the requester, whose waybill ends with the mapped code. -/
def execNack (s : State) : Answer :=
  runM nackRow s

/-- RESPONSE_TIMEOUT (R292): A request's response timeout expires and it completes poisoned or refused. -/
def execResponseTimeout (tag : Nat) (s : State) : Answer :=
  runM (responseTimeout tag) s

/-- COLLECTIVE_TRIGGER (R304): the trigger milestone meets its target and the next collective occurrence starts. -/
def execCollectiveTrigger (n : PlaceFacts) (s : State) : Answer :=
  runM (convTrigger n.num n.bad) s

/-- GRANT (R302): A GRANT arrives, is checked for layout and schedule, and lets chunks be sent. -/
def execGrant (s : State) : Answer :=
  runM grantRow s

/-- CDATA (R307): A chunk packet arrives and is reduced or copied in ring order. -/
def execCdata (s : State) : Answer :=
  runM cdataRow s

/-- PROGRESS_TIMER_EXPIRY (R314): A member's collective progress timer expires and it originates an abort. -/
def execProgressTimerExpiry (n : Nat) (s : State) : Answer :=
  runM (progressExpiry n) s

/-- ABORT (R316): A received ABORT is forwarded by the flood and the slot becomes ABORTED. -/
def execAbort (s : State) : Answer :=
  runM abortRow s

/-- CHANNEL_UNIT_SEND (R322): with a unit ready and a credit held, a unit is consumed from the source window and sent. -/
def execChannelUnitSend (n : Nat) (s : State) : Answer :=
  runM (channelSend n) s

/-- CH_DATA (R322): A channel unit arrives and is stored in the caravanserai. -/
def execChData (s : State) : Answer :=
  runM chDataRow s

/-- CHANNEL_UNIT_PRODUCE (R322): A stored unit is produced into the destination window and a credit is returned. -/
def execChannelUnitProduce (n : Nat) (s : State) : Answer :=
  runM (channelProduce n) s

/-- CH_CREDIT (R322): channel credits arrive at the send half. -/
def execChCredit (s : State) : Answer :=
  runM chCreditRow s

/-- CH_CLOSE (R323): the peer half's close arrives and this half closes. -/
def execChClose (s : State) : Answer :=
  runM chCloseRow s

/-- CHANNEL_CREDIT_TIMEOUT (R323): A send half waits longer than its timeout for a credit and the channel closes. -/
def execChannelCreditTimeout (n : Nat) (s : State) : Answer :=
  runM (channelTimeout n) s

end Sys2Proof.Machine
end

