-- ==== Sys2Proof/Machine/FaultRows.lean ====
section
/-! DEFINITION. The events of fault detection, of watchdogs and of resets (chapters 14 and 15). -/

namespace Sys2Proof.Machine

/-- SUPPLY_DROOP (R374): A droop detector fires and ACLK is stretched for 16 array cycles. -/
def execSupplyDroop (r : Nat) (s : State) : Answer :=
  runM (supplyDroop r) s

/-- RAIL_OUT_OF_RANGE (R374): A supply rail leaves its range, which is device-fatal. -/
def execRailOutOfRange (s : State) : Answer :=
  runM railOut s

/-- CLOCK_LOSS (R374): A PLL output is lost, leading to a region reset, a chip warm reset or a link going down. -/
def execClockLoss (k : ClockLost) (s : State) : Answer :=
  runM (clockLoss k) s

/-- LOCKSTEP_MISMATCH (R409): the caravaneer's lockstep compare fails. -/
def execLockstepMismatch (s : State) : Answer :=
  runM lockstepMismatch s

/-- MP_RESTART_DONE (R409): the restart completes and interrupted commands are answered 0x53. -/
def execMpRestartDone (s : State) : Answer :=
  runM mpRestartDone s

/-- DUPLICATE_MISMATCH (R377): duplicated logic disagrees, leading to quarantine, a region reset or a chip reset by unit. -/
def execDuplicateMismatch (u : Nat) (s : State) : Answer :=
  runM (duplicateMismatch u) s

/-- HEALTH_SCORE_SAVE (R391): the published score is saved to the module records hourly. -/
def execHealthScoreSave (s : State) : Answer :=
  runM healthSave s

/-- WATCHDOG_EXPIRY (R399): A unit's watchdog expires on a hang and its action of Table 15.1 starts. -/
def execWatchdogExpiry (u : Nat) (s : State) : Answer :=
  runM (watchdogExpiry u) s

/-- STALL (R401): A context makes no progress for the stall period and its runs halt. -/
def execStall (c : Nat) (s : State) : Answer :=
  runM (stall c) s

/-- CORDON_TIMEOUT (R403): 1 ms after a cordon, outstanding requests are answered as expired. -/
def execCordonTimeout (dom : Nat) (s : State) : Answer :=
  runM (cordonTimeout dom) s

/-- COLLECTION_UNIT_TIMEOUT (R405): A unit does not deliver its state within 1 ms and is recorded UNRESPONSIVE. -/
def execCollectionUnitTimeout (dom : Nat) (u : Nat) (s : State) : Answer :=
  runM (collectionTimeout dom u) s

/-- RESET_COMPLETE (R407): A rung's reset completes and held region advances are applied. -/
def execResetComplete (dom : Nat) (f : BootFacts) (s : State) : Answer :=
  runD (resetComplete dom f) s

/-- RUNG_WATCHDOG_EXPIRY (R407): A rung misses its bound and escalates; a failed chip warm reset holds the module in reset. -/
def execRungWatchdogExpiry (dom : Nat) (missed : List Nat) (s : State) : Answer :=
  runD (rungExpiry dom missed) s

/-- MANAGEMENT_ISLAND_RESTART_TIMEOUT (R409): A management-island restart that has not completed within its 2 s leads to a chip warm reset. -/
def execManagementIslandRestartTimeout (s : State) : Answer :=
  runM mpRestartTimeout s

end Sys2Proof.Machine
end

