-- ==== Sys2Proof/Machine/MemRows.lean ====
section
/-! DEFINITION. The events of the tiers, of cargo sets and of host accesses to module memory (chapters 8, 9 and 13). -/

namespace Sys2Proof.Machine

/-- CARGO_SET_READY (R366): every tile of a loading set holds good data and the set becomes READY; a tile no source delivers fails the load. -/
def execCargoSetReady (k : Nat) (s : State) : Answer :=
  runM (cargoSetReady k) s

/-- SWAP_DRAINED (R368): the in-flight step count of a DRAINING set reaches zero and the set becomes RELOADING. -/
def execSwapDrained (k : Nat) (s : State) : Answer :=
  runM (swapDrained k) s

/-- CARGO_SWITCH_APPLY (R369): with no run in flight, the sequence unit writes the pending pointer entry before the next Retire phase. -/
def execCargoSwitchApply (c : Nat) (s : State) : Answer :=
  runM (cargoSwitchApply c) s

/-- BAR2_READ (R233): A host BAR2 read reaches module memory, or is completed with Unsupported Request. -/
def execBar2Read (a : Nat) (n : Nat) (found : CodeFacts) (ondie : Nat) (s : State) : Answer :=
  runM (bar2Read a n found.single found.double ondie) s

/-- BAR2_WRITE (R233): A host BAR2 write reaches module memory, or is discarded and reported. -/
def execBar2Write (a : Nat) (data : List Byte) (found : CodeFacts) (ondie : Nat) (s : State) : Answer :=
  runM (bar2Write a data found.single found.double ondie) s

/-- TIER_ACCESS (R237): A tier controller performs a request to a granule through the controller code. -/
def execTierAccess (a : Nat) (n : Nat) (data : Option (List Byte)) (who : Option Nat) (ref : Option (Nat × ItemRef)) (single : List Nat) (double : List Nat) (ondie : Nat) (joins : Bool) (s : State) : Answer :=
  runM (tierAccess a n data who ref single double ondie joins) s

/-- TIER_ECC_WRITEBACK (R242): A corrected granule is written back in a free write slot. -/
def execTierEccWriteback (k : Nat) (s : State) : Answer :=
  runM (tierWriteback k) s

/-- TIER_PATROL_READ (R246): the tier patrol reads a granule within its toll. -/
def execTierPatrolRead (a : Nat) (found : GranuleFacts) (ends : Bool) (ondie : Nat) (s : State) : Answer :=
  runM (tierPatrol a found.single found.double ends ondie) s

/-- RETIREMENT_COPY_DONE (R248): the channel copy ends, the remap takes effect and the channel is powered down. -/
def execRetirementCopyDone (k : Nat) (ns : Nat) (s : State) : Answer :=
  runM (copyDone k ns) s

/-- REFRESH_EVALUATION (R250): the hourly evaluation doubles or restores a package's refresh rate. -/
def execRefreshEvaluation (k : Nat) (hot : Bool) (s : State) : Answer :=
  runM (refreshEval k hot) s

/-- CARGO_SOURCE_TIMEOUT (R251): A repair source does not answer within 200 µs and the next one is tried. -/
def execCargoSourceTimeout (tag : Nat) (s : State) : Answer :=
  runM (sourceTimeout tag) s

/-- CARGO_REFETCH_DEADLINE (R252): no good tile arrives by the re-fetch deadline: the held reads are answered poisoned. -/
def execCargoRefetchDeadline (set : Nat) (tile : Nat) (s : State) : Answer :=
  runM (refetchDeadline set tile) s

/-- ORDERED_CLOSE (R256): the close milestone meets its target and each controller sorts and applies its log share. -/
def execOrderedClose (n : Nat) (s : State) : Answer :=
  runM (orderedClose n) s

/-- ORDERED_SHARE_CLOSED (R256): every controller has finished and the done milestone advances. -/
def execOrderedShareClosed (n : Nat) (s : State) : Answer :=
  runM (orderedDone n) s

/-- ZEROING_COMPLETE (R215): A ZEROING range has been overwritten and may be mapped again. -/
def execZeroingComplete (a : Nat) (s : State) : Answer :=
  runM (zeroingComplete a) s

/-- PERIODIC_CALIBRATION (R386): A channel or subchannel is calibrated on its period. -/
def execPeriodicCalibration (k : Nat) (ch : Nat) (d : Int) (s : State) : Answer :=
  runM (calibrate k ch d) s

end Sys2Proof.Machine
end

