-- ==== Sys2Proof/Machine/SeqRows.lean ====
section
/-! DEFINITION. The events of sequencers, of milestones and of the assayer (chapters 4, 7 and 12). -/

namespace Sys2Proof.Machine

/-- WAYBILL_START (R194): the sequencer starts the first startable waybill in pick order and grants its tokens, registers and completion slot. -/
def execWaybillStart (p : Nat) (s : State) : Answer :=
  runM (waybillStart p) s

/-- WAYBILL_COMPLETE (R192): A waybill's body completes, its tokens are released and its outputs are issued, or it ends with an error code. -/
def execWaybillComplete (p : Nat) (stream : Nat) (s : State) : Answer :=
  runM (waybillComplete p stream) s

/-- SEQ_STEP_BUILD (R220): at the start of a serving run the sequence unit retires, admits and packs the step's work list. -/
def execSeqStepBuild (c : Nat) (bad : Bool) (s : State) : Answer :=
  runM (seqStepBuild c bad) s

/-- RUN_START (R191): A run starts once its conditions hold, takes a step number and writes a pending run record. -/
def execRunStart (c : Nat) (k : Nat) (s : State) : Answer :=
  runM (runStart c k) s

/-- RUN_COMPLETE (R191): every waybill of a run has completed. -/
def execRunComplete (c : Nat) (k : Nat) (run : Nat) (s : State) : Answer :=
  runM (runComplete c k run) s

/-- COMPLETION_RECORD (R200): the record unit writes a completion record body and then its final header. -/
def execCompletionRecord (c : Nat) (q : Nat) (s : State) : Answer :=
  runM (completionRecord c q) s

/-- BLOCK_HANDOVER (R211): on a shared block the holder's last started group ends and the block passes to the next sharer. -/
def execBlockHandover (p : Nat) (s : State) : Answer :=
  runM (blockHandover p) s

/-- WINDOW_SET (R118): A window-set writes a window's fields after earlier accesses through it are done. -/
def execWindowSet (p : Nat) (stream : Nat) (bad : Bool) (s : State) : Answer :=
  runM (windowSet p stream bad) s

/-- ALIAS_SET (R120): an alias-set selects the aliased bank for the waybill's slot. -/
def execAliasSet (p : Nat) (stream : Nat) (bad : Bool) (s : State) : Answer :=
  runM (aliasSet p stream bad) s

/-- BARRIER (R188): A BARRIER item waits for earlier items of the named engines. -/
def execBarrier (p : Nat) (stream : Nat) (s : State) : Answer :=
  runM (barrierItem p stream) s

/-- MILESTONE_ADVANCE (R182): A milestone home applies the advances of one network cycle as one sum. -/
def execMilestoneAdvance (n : Nat) (bad : Bool) (s : State) : Answer :=
  runM (milestoneAdvance n bad) s

/-- MILESTONE_MULTICAST (R183): A milestone change reaches a subscribed block and readiness is re-evaluated. -/
def execMilestoneMulticast (n : Nat) (p : Nat) (s : State) : Answer :=
  runM (milestoneMulticast n p) s

/-- ASSAYER_SUMMARY (R329): A tile summary of a watched drain reaches the assayer. -/
def execAssayerSummary (s : State) : Answer :=
  runM assayerSummary s

/-- END_OF_RUN_MARKER (R331): A block's end-of-run marker reaches the assayer. -/
def execEndOfRunMarker (s : State) : Answer :=
  runM endOfRunMarker s

/-- STEP_CLOSE (R331): the assayer closes a step: history, watches, coarse scales and proposals. -/
def execStepClose (c : Nat) (s : State) : Answer :=
  runM (stepCloseRow c) s

/-- CLOSE_TIMEOUT (R332): A close not finished within 10 ms stops and the runs stay unstarted. -/
def execCloseTimeout (c : Nat) (s : State) : Answer :=
  runM (closeTimeout c) s

/-- OUTRIDER_DEADLINE (R261): A consumer becomes late and the manifest's deadline policy decides what follows. -/
def execOutriderDeadline (c : Nat) (k : Nat) (run : Nat) (w : Nat) (s : State) : Answer :=
  runM (outriderDeadline c k run w) s

end Sys2Proof.Machine
end

