-- ==== Sys2Proof/Machine/VecRows.lean ====
section
/-! DEFINITION. The operations of the vector engine (chapter 5). -/

namespace Sys2Proof.Machine

/-- ADD (R130): vector element-wise addition. -/
def execVadd (p : Nat) (stream : Nat) (mism : Option Nat) (s : State) : Answer :=
  runM (vecOp (isOpcode 0x01) vElementWise p stream mism) s

/-- SUB (R130): vector element-wise subtraction. -/
def execVsub (p : Nat) (stream : Nat) (mism : Option Nat) (s : State) : Answer :=
  runM (vecOp (isOpcode 0x02) vElementWise p stream mism) s

/-- MUL (R130): vector element-wise multiplication. -/
def execVmul (p : Nat) (stream : Nat) (mism : Option Nat) (s : State) : Answer :=
  runM (vecOp (isOpcode 0x03) vElementWise p stream mism) s

/-- FMA (R130): vector fused multiply-add. -/
def execVfma (p : Nat) (stream : Nat) (mism : Option Nat) (s : State) : Answer :=
  runM (vecOp (isOpcode 0x04) vElementWise p stream mism) s

/-- DIV (R130): vector element-wise division. -/
def execVdiv (p : Nat) (stream : Nat) (mism : Option Nat) (s : State) : Answer :=
  runM (vecOp (isOpcode 0x05) vElementWise p stream mism) s

/-- SQRT (R130): vector square root. -/
def execVsqrt (p : Nat) (stream : Nat) (mism : Option Nat) (s : State) : Answer :=
  runM (vecOp (isOpcode 0x06) vElementWise p stream mism) s

/-- RECIP_RSQRT_EXP2_LOG2 (R130): vector correctly rounded reciprocal, reciprocal square root, exp2 or log2. -/
def execVfunc (p : Nat) (stream : Nat) (mism : Option Nat) (s : State) : Answer :=
  runM (vecOp (isOpcode 0x07) vElementWise p stream mism) s

/-- MAX_MIN (R62): vector element-wise maximum or minimum. -/
def execVmaxMin (p : Nat) (stream : Nat) (mism : Option Nat) (s : State) : Answer :=
  runM (vecOp (isOpcode 0x0B) vElementWise p stream mism) s

/-- ABS_NEG_COPYSIGN (R130): vector sign-bit operations. -/
def execVsign (p : Nat) (stream : Nat) (mism : Option Nat) (s : State) : Answer :=
  runM (vecOp (isOpcode 0x0D) vElementWise p stream mism) s

/-- CMP (R130): vector comparison writing a MASK stream. -/
def execVcmp (p : Nat) (stream : Nat) (mism : Option Nat) (s : State) : Answer :=
  runM (vecOp (isOpcode 0x10) vCompare p stream mism) s

/-- SELECT (R137): vector select by mask. -/
def execVselect (p : Nat) (stream : Nat) (mism : Option Nat) (s : State) : Answer :=
  runM (vecOp (isOpcode 0x11) vSelect p stream mism) s

/-- CVT (R131): vector format conversion. -/
def execVcvt (p : Nat) (stream : Nat) (mism : Option Nat) (s : State) : Answer :=
  runM (vecOp (isOpcode 0x18) vConvert p stream mism) s

/-- SH16_ENC (R132): encodes FP32 runs into SH16 elements and scale bytes. -/
def execSh16Enc (p : Nat) (stream : Nat) (mism : Option Nat) (s : State) : Answer :=
  runM (vecOp (isOpcode 0x19) vShEnc p stream mism) s

/-- SH16_DEC (R132): decodes SH16 elements and scale bytes into FP32. -/
def execSh16Dec (p : Nat) (stream : Nat) (mism : Option Nat) (s : State) : Answer :=
  runM (vecOp (isOpcode 0x1A) vShDec p stream mism) s

/-- REDUCE (R136): updates per-lane reduction partials in registers. -/
def execVreduce (p : Nat) (stream : Nat) (mism : Option Nat) (s : State) : Answer :=
  runM (vecOp (isOpcode 0x20) vReduce p stream mism) s

/-- FINALIZE (R136): combines the lane partials in a fixed tree and writes one record. -/
def execVfinalize (p : Nat) (stream : Nat) (mism : Option Nat) (s : State) : Answer :=
  runM (vecOp (isOpcode 0x21) vFinalize p stream mism) s

/-- REGLOAD (R135): copies stream bytes into a vector register. -/
def execRegLoad (p : Nat) (stream : Nat) (mism : Option Nat) (s : State) : Answer :=
  runM (vecOp (isOpcode 0x22) vRegLoad p stream mism) s

/-- REGSTORE (R135): writes a vector register to a stream. -/
def execRegStore (p : Nat) (stream : Nat) (mism : Option Nat) (s : State) : Answer :=
  runM (vecOp (isOpcode 0x23) vRegStore p stream mism) s

/-- COMPRESS (R137): packs masked elements densely and writes the count. -/
def execVcompress (p : Nat) (stream : Nat) (mism : Option Nat) (s : State) : Answer :=
  runM (vecOp (isOpcode 0x28) vCompress p stream mism) s

/-- EXPAND (R137): spreads dense elements to the masked positions. -/
def execVexpand (p : Nat) (stream : Nat) (mism : Option Nat) (s : State) : Answer :=
  runM (vecOp (isOpcode 0x29) vExpand p stream mism) s

/-- GATHER (R138): gathers table rows by index, locally or remotely. -/
def execGather (p : Nat) (stream : Nat) (mism : Option Nat) (s : State) : Answer :=
  runM (vecOp (isOpcode 0x30) vGather p stream mism) s

/-- SCATTER (R138): scatters rows to a table by index. -/
def execScatter (p : Nat) (stream : Nat) (mism : Option Nat) (s : State) : Answer :=
  runM (vecOp (isOpcode 0x31) vScatter p stream mism) s

/-- SCATTER_ADD (R140): adds rows into a table by index. -/
def execScatterAdd (p : Nat) (stream : Nat) (mism : Option Nat) (s : State) : Answer :=
  runM (vecOp (isOpcode 0x32) vScatterAdd p stream mism) s

/-- LH_SLICE (R142): slices FP64 vectors into INT16 planes and exponents. -/
def execLhSlice (p : Nat) (stream : Nat) (mism : Option Nat) (s : State) : Answer :=
  runM (vecOp (isOpcode 0x38) vLhSlice p stream mism) s

/-- LH_RECOMBINE (R143): recombines long-haul partial tiles into an FP64 tile. -/
def execLhRecombine (p : Nat) (stream : Nat) (mism : Option Nat) (s : State) : Answer :=
  runM (vecOp (isOpcode 0x39) vLhRecombine p stream mism) s

/-- TOPK (R144): top-k gradient compression with error feedback. -/
def execTopk (p : Nat) (stream : Nat) (mism : Option Nat) (s : State) : Answer :=
  runM (vecOp (isOpcode 0x40) vTopk p stream mism) s

/-- SIGNC (R144): sign gradient compression with error feedback. -/
def execSignc (p : Nat) (stream : Nat) (mism : Option Nat) (s : State) : Answer :=
  runM (vecOp (isOpcode 0x41) vSignc p stream mism) s

end Sys2Proof.Machine
end

