-- ==== Sys2Proof/Machine/Dispatch.lean ====
section
/-! DEFINITION. Which meaning each command has. -/

namespace Sys2Proof.Machine

def exec (i : Instr) (s : State) : Host.Outcome State Fault Refusal :=
  match i with
  | .status opcode r => Sys2Proof.Machine.execStatus opcode r s
  | .ctxCreate r => Sys2Proof.Machine.execCtxCreate r s
  | .ctxClose r => Sys2Proof.Machine.execCtxClose r s
  | .teardownEnd c => Sys2Proof.Machine.execTeardownEnd c s
  | .ctxExtend r => Sys2Proof.Machine.execCtxExtend r s
  | .ctxReclaim r => Sys2Proof.Machine.execCtxReclaim r s
  | .reclaimBlockLeave c a => Sys2Proof.Machine.execReclaimBlockLeave c a s
  | .reclaimDeadline c => Sys2Proof.Machine.execReclaimDeadline c s
  | .ctxPark r => Sys2Proof.Machine.execCtxPark r s
  | .parkQuiesced c => Sys2Proof.Machine.execParkQuiesced c s
  | .parkDeadline c => Sys2Proof.Machine.execParkDeadline c s
  | .parkComplete c => Sys2Proof.Machine.execParkComplete c s
  | .ctxUnpark image good r => Sys2Proof.Machine.execCtxUnpark image good r s
  | .ctxUnparkImage img r => Sys2Proof.Machine.execCtxUnparkImage img r s
  | .ctxReshard r => Sys2Proof.Machine.execCtxReshard r s
  | .reshardEffect c => Sys2Proof.Machine.execReshardEffect c s
  | .manifestPost ext r => Sys2Proof.Machine.execManifestPost ext r s
  | .manifestLaunch r => Sys2Proof.Machine.execManifestLaunch r s
  | .manifestRetire r => Sys2Proof.Machine.execManifestRetire r s
  | .flagsClear sets r => Sys2Proof.Machine.execFlagsClear sets r s
  | .numericsSave r => Sys2Proof.Machine.execNumericsSave r s
  | .numericsLoad ext r => Sys2Proof.Machine.execNumericsLoad ext r s
  | .watchOpen r => Sys2Proof.Machine.execWatchOpen r s
  | .watchClose r => Sys2Proof.Machine.execWatchClose r s
  | .orderedOpen r => Sys2Proof.Machine.execOrderedOpen r s
  | .cvConfigure r => Sys2Proof.Machine.execCvConfigure r s
  | .servingConfig r => Sys2Proof.Machine.execServingConfig r s
  | .cargoLoad r => Sys2Proof.Machine.execCargoLoad r s
  | .cargoSeal r => Sys2Proof.Machine.execCargoSeal r s
  | .cargoSetReady k => Sys2Proof.Machine.execCargoSetReady k s
  | .cargoBind r => Sys2Proof.Machine.execCargoBind r s
  | .cargoUnbind r => Sys2Proof.Machine.execCargoUnbind r s
  | .cargoSwap r => Sys2Proof.Machine.execCargoSwap r s
  | .swapDrained k => Sys2Proof.Machine.execSwapDrained k s
  | .cargoSwitch r => Sys2Proof.Machine.execCargoSwitch r s
  | .cargoSwitchApply c => Sys2Proof.Machine.execCargoSwitchApply c s
  | .seqRead r => Sys2Proof.Machine.execSeqRead r s
  | .statement r => Sys2Proof.Machine.execStatement r s
  | .logRead q => Sys2Proof.Machine.execLogRead q s
  | .dumpRead q => Sys2Proof.Machine.execDumpRead q s
  | .counterRead r => Sys2Proof.Machine.execCounterRead r s
  | .boardEvents r => Sys2Proof.Machine.execBoardEvents r s
  | .powerCap r => Sys2Proof.Machine.execPowerCap r s
  | .clockLimit r => Sys2Proof.Machine.execClockLimit r s
  | .powerState r => Sys2Proof.Machine.execPowerState r s
  | .powerQuery r => Sys2Proof.Machine.execPowerQuery r s
  | .fwStage r => Sys2Proof.Machine.execFwStage r s
  | .fwVerify sig r => Sys2Proof.Machine.execFwVerify sig r s
  | .fwActivate r => Sys2Proof.Machine.execFwActivate r s
  | .fwQuery r => Sys2Proof.Machine.execFwQuery r s
  | .fwCommit r => Sys2Proof.Machine.execFwCommit r s
  | .tryBootTimeout f => Sys2Proof.Machine.execTryBootTimeout f s
  | .lifecycleQuery r => Sys2Proof.Machine.execLifecycleQuery r s
  | .ownerEnrol sig r => Sys2Proof.Machine.execOwnerEnrol sig r s
  | .policySet sig r => Sys2Proof.Machine.execPolicySet sig r s
  | .debugUnlock sig r => Sys2Proof.Machine.execDebugUnlock sig r s
  | .debugLock r => Sys2Proof.Machine.execDebugLock r s
  | .debugSessionExpiry => Sys2Proof.Machine.execDebugSessionExpiry s
  | .zeroise sig r => Sys2Proof.Machine.execZeroise sig r s
  | .lifecycleSet sig r => Sys2Proof.Machine.execLifecycleSet sig r s
  | .certRead r => Sys2Proof.Machine.execCertRead r s
  | .reset r => Sys2Proof.Machine.execReset r s
  | .oosSet r => Sys2Proof.Machine.execOosSet r s
  | .returnToService r => Sys2Proof.Machine.execReturnToService r s
  | .retainFloor r => Sys2Proof.Machine.execRetainFloor r s
  | .wdtSet r => Sys2Proof.Machine.execWdtSet r s
  | .retireThreshold r => Sys2Proof.Machine.execRetireThreshold r s
  | .eccClear sets r => Sys2Proof.Machine.execEccClear sets r s
  | .healthQuery r => Sys2Proof.Machine.execHealthQuery r s
  | .moduleIdSet r => Sys2Proof.Machine.execModuleIdSet r s
  | .membershipSet r => Sys2Proof.Machine.execMembershipSet r s
  | .waymapMap r => Sys2Proof.Machine.execWaymapMap r s
  | .waymapUnmap r => Sys2Proof.Machine.execWaymapUnmap r s
  | .waymapRead r => Sys2Proof.Machine.execWaymapRead r s
  | .respTimeoutSet r => Sys2Proof.Machine.execRespTimeoutSet r s
  | .convoySet ext r => Sys2Proof.Machine.execConvoySet ext r s
  | .convoyRemove r => Sys2Proof.Machine.execConvoyRemove r s
  | .schedulePost ext r => Sys2Proof.Machine.execSchedulePost ext r s
  | .channelOpen r => Sys2Proof.Machine.execChannelOpen r s
  | .channelClose r => Sys2Proof.Machine.execChannelClose r s
  | .twinAccept r => Sys2Proof.Machine.execTwinAccept r s
  | .twinSet copy journal depth r => Sys2Proof.Machine.execTwinSet copy journal depth r s
  | .restore r => Sys2Proof.Machine.execRestore r s
  | .customsClear sets r => Sys2Proof.Machine.execCustomsClear sets r s
  | .opDone tag => Sys2Proof.Machine.execOpDone tag s
  | .chpCrAck c value whole => Sys2Proof.Machine.execChpCrAck c value whole s
  | .mpEvtAck value whole => Sys2Proof.Machine.execMpEvtAck value whole s
  | .msixUnmask v => Sys2Proof.Machine.execMsixUnmask v s
  | .registerWrite a data => Sys2Proof.Machine.execRegisterWrite a data s
  | .bar2Read a n found ondie => Sys2Proof.Machine.execBar2Read a n found ondie s
  | .bar2Write a data found ondie => Sys2Proof.Machine.execBar2Write a data found ondie s
  | .inputPowerRise f => Sys2Proof.Machine.execInputPowerRise f s
  | .inputUndervoltage => Sys2Proof.Machine.execInputUndervoltage s
  | .alwaysOnLoss => Sys2Proof.Machine.execAlwaysOnLoss s
  | .inputOvervoltage => Sys2Proof.Machine.execInputOvervoltage s
  | .wake cool f => Sys2Proof.Machine.execWake cool f s
  | .perst asserted => Sys2Proof.Machine.execPerst asserted s
  | .powerLoopSample w => Sys2Proof.Machine.execPowerLoopSample w s
  | .fastTrip => Sys2Proof.Machine.execFastTrip s
  | .thermalStep => Sys2Proof.Machine.execThermalStep s
  | .thermalShutdown => Sys2Proof.Machine.execThermalShutdown s
  | .supplyDroop r => Sys2Proof.Machine.execSupplyDroop r s
  | .railOutOfRange => Sys2Proof.Machine.execRailOutOfRange s
  | .clockLoss k => Sys2Proof.Machine.execClockLoss k s
  | .lockstepMismatch => Sys2Proof.Machine.execLockstepMismatch s
  | .mpRestartDone => Sys2Proof.Machine.execMpRestartDone s
  | .duplicateMismatch u => Sys2Proof.Machine.execDuplicateMismatch u s
  | .alarmCondition cond => Sys2Proof.Machine.execAlarmCondition cond s
  | .fuseIntegrityCheck bad => Sys2Proof.Machine.execFuseIntegrityCheck bad s
  | .getVersion board => Sys2Proof.Machine.execGetVersion board s
  | .getCapabilities board => Sys2Proof.Machine.execGetCapabilities board s
  | .negotiateAlgorithms board spec asym hash => Sys2Proof.Machine.execNegotiateAlgorithms board spec asym hash s
  | .getDigests board => Sys2Proof.Machine.execGetDigests board s
  | .getCertificate board slot off n => Sys2Proof.Machine.execGetCertificate board slot off n s
  | .challenge board slot what => Sys2Proof.Machine.execChallenge board slot what s
  | .getMeasurements board signed slot op => Sys2Proof.Machine.execGetMeasurements board signed slot op s
  | .keyProg ix key mse => Sys2Proof.Machine.execKeyProg ix key mse s
  | .kSetGo mse => Sys2Proof.Machine.execKSetGo mse s
  | .managementRound f => Sys2Proof.Machine.execManagementRound f s
  | .healthScoreSave => Sys2Proof.Machine.execHealthScoreSave s
  | .waybillStart p => Sys2Proof.Machine.execWaybillStart p s
  | .waybillComplete p stream => Sys2Proof.Machine.execWaybillComplete p stream s
  | .seqStepBuild c bad => Sys2Proof.Machine.execSeqStepBuild c bad s
  | .runStart c k => Sys2Proof.Machine.execRunStart c k s
  | .runComplete c k run => Sys2Proof.Machine.execRunComplete c k run s
  | .completionRecord c q => Sys2Proof.Machine.execCompletionRecord c q s
  | .blockHandover p => Sys2Proof.Machine.execBlockHandover p s
  | .arrayOp p stream mism => Sys2Proof.Machine.execArrayOp p stream mism s
  | .arrayOpComplete p => Sys2Proof.Machine.execArrayOpComplete p s
  | .drain p stream mism => Sys2Proof.Machine.execDrain p stream mism s
  | .drainComplete p => Sys2Proof.Machine.execDrainComplete p s
  | .discard p stream => Sys2Proof.Machine.execDiscard p stream s
  | .windowSet p stream bad => Sys2Proof.Machine.execWindowSet p stream bad s
  | .aliasSet p stream bad => Sys2Proof.Machine.execAliasSet p stream bad s
  | .barrier p stream => Sys2Proof.Machine.execBarrier p stream s
  | .premutar p stream => Sys2Proof.Machine.execPremutar p stream s
  | .premutarComplete p => Sys2Proof.Machine.execPremutarComplete p s
  | .vadd p stream mism => Sys2Proof.Machine.execVadd p stream mism s
  | .vsub p stream mism => Sys2Proof.Machine.execVsub p stream mism s
  | .vmul p stream mism => Sys2Proof.Machine.execVmul p stream mism s
  | .vfma p stream mism => Sys2Proof.Machine.execVfma p stream mism s
  | .vdiv p stream mism => Sys2Proof.Machine.execVdiv p stream mism s
  | .vsqrt p stream mism => Sys2Proof.Machine.execVsqrt p stream mism s
  | .vfunc p stream mism => Sys2Proof.Machine.execVfunc p stream mism s
  | .vmaxMin p stream mism => Sys2Proof.Machine.execVmaxMin p stream mism s
  | .vsign p stream mism => Sys2Proof.Machine.execVsign p stream mism s
  | .vcmp p stream mism => Sys2Proof.Machine.execVcmp p stream mism s
  | .vselect p stream mism => Sys2Proof.Machine.execVselect p stream mism s
  | .vcvt p stream mism => Sys2Proof.Machine.execVcvt p stream mism s
  | .sh16Enc p stream mism => Sys2Proof.Machine.execSh16Enc p stream mism s
  | .sh16Dec p stream mism => Sys2Proof.Machine.execSh16Dec p stream mism s
  | .vreduce p stream mism => Sys2Proof.Machine.execVreduce p stream mism s
  | .vfinalize p stream mism => Sys2Proof.Machine.execVfinalize p stream mism s
  | .regLoad p stream mism => Sys2Proof.Machine.execRegLoad p stream mism s
  | .regStore p stream mism => Sys2Proof.Machine.execRegStore p stream mism s
  | .vcompress p stream mism => Sys2Proof.Machine.execVcompress p stream mism s
  | .vexpand p stream mism => Sys2Proof.Machine.execVexpand p stream mism s
  | .gather p stream mism => Sys2Proof.Machine.execGather p stream mism s
  | .scatter p stream mism => Sys2Proof.Machine.execScatter p stream mism s
  | .scatterAdd p stream mism => Sys2Proof.Machine.execScatterAdd p stream mism s
  | .lhSlice p stream mism => Sys2Proof.Machine.execLhSlice p stream mism s
  | .lhRecombine p stream mism => Sys2Proof.Machine.execLhRecombine p stream mism s
  | .topk p stream mism => Sys2Proof.Machine.execTopk p stream mism s
  | .signc p stream mism => Sys2Proof.Machine.execSignc p stream mism s
  | .vectorOpComplete p => Sys2Proof.Machine.execVectorOpComplete p s
  | .ringAccessStart p => Sys2Proof.Machine.execRingAccessStart p s
  | .spAccess p master c stream off n data busy single double => Sys2Proof.Machine.execSpAccess p master c stream off n data busy single double s
  | .aliasWrite p master c stream off data busy bad found => Sys2Proof.Machine.execAliasWrite p master c stream off data busy bad found s
  | .nonOwnerService p bank write waited single double => Sys2Proof.Machine.execNonOwnerService p bank write waited single double s
  | .spEccWriteback p => Sys2Proof.Machine.execSpEccWriteback p s
  | .spPatrolRead p bank forced single double => Sys2Proof.Machine.execSpPatrolRead p bank forced single double s
  | .milestoneAdvance n bad => Sys2Proof.Machine.execMilestoneAdvance n bad s
  | .milestoneMulticast n p => Sys2Proof.Machine.execMilestoneMulticast n p s
  | .cvFrame p => Sys2Proof.Machine.execCvFrame p s
  | .assayerSummary => Sys2Proof.Machine.execAssayerSummary s
  | .endOfRunMarker => Sys2Proof.Machine.execEndOfRunMarker s
  | .stepClose c => Sys2Proof.Machine.execStepClose c s
  | .closeTimeout c => Sys2Proof.Machine.execCloseTimeout c s
  | .tierAccess a n data who ref single double ondie joins => Sys2Proof.Machine.execTierAccess a n data who ref single double ondie joins s
  | .tierEccWriteback k => Sys2Proof.Machine.execTierEccWriteback k s
  | .tierPatrolRead a found ends ondie => Sys2Proof.Machine.execTierPatrolRead a found ends ondie s
  | .retirementCopyDone k ns => Sys2Proof.Machine.execRetirementCopyDone k ns s
  | .refreshEvaluation k hot => Sys2Proof.Machine.execRefreshEvaluation k hot s
  | .cargoSourceTimeout tag => Sys2Proof.Machine.execCargoSourceTimeout tag s
  | .cargoRefetchDeadline set tile => Sys2Proof.Machine.execCargoRefetchDeadline set tile s
  | .orderedClose n => Sys2Proof.Machine.execOrderedClose n s
  | .orderedShareClosed n => Sys2Proof.Machine.execOrderedShareClosed n s
  | .outriderDeadline c k run w => Sys2Proof.Machine.execOutriderDeadline c k run w s
  | .zeroingComplete a => Sys2Proof.Machine.execZeroingComplete a s
  | .periodicCalibration k ch d => Sys2Proof.Machine.execPeriodicCalibration k ch d s
  | .waymapPatrol single double => Sys2Proof.Machine.execWaymapPatrol single double s
  | .packetSend => Sys2Proof.Machine.execPacketSend s
  | .flit k raw fec => Sys2Proof.Machine.execFlit k raw fec s
  | .controlFlit k ok tolls => Sys2Proof.Machine.execControlFlit k ok tolls s
  | .replayTimeout k => Sys2Proof.Machine.execReplayTimeout k s
  | .laneFailure k lane => Sys2Proof.Machine.execLaneFailure k lane s
  | .laneRetrainComplete k ns => Sys2Proof.Machine.execLaneRetrainComplete k ns s
  | .portSilent k => Sys2Proof.Machine.execPortSilent k s
  | .linkRetrainAttempt k lanes => Sys2Proof.Machine.execLinkRetrainAttempt k lanes s
  | .linkDownPersistent k => Sys2Proof.Machine.execLinkDownPersistent k s
  | .unreach k dst opcode sequence tag => Sys2Proof.Machine.execUnreach k dst opcode sequence tag s
  | .reachRestore k dst => Sys2Proof.Machine.execReachRestore k dst s
  | .reorderHoleExpiry src slot => Sys2Proof.Machine.execReorderHoleExpiry src slot s
  | .load => Sys2Proof.Machine.execLoad s
  | .store => Sys2Proof.Machine.execStore s
  | .move => Sys2Proof.Machine.execMove s
  | .moveRead => Sys2Proof.Machine.execMoveRead s
  | .accum => Sys2Proof.Machine.execAccum s
  | .fetch => Sys2Proof.Machine.execFetch s
  | .advance => Sys2Proof.Machine.execAdvance s
  | .data => Sys2Proof.Machine.execData s
  | .ack => Sys2Proof.Machine.execAck s
  | .nack => Sys2Proof.Machine.execNack s
  | .responseTimeout tag => Sys2Proof.Machine.execResponseTimeout tag s
  | .collectiveTrigger n => Sys2Proof.Machine.execCollectiveTrigger n s
  | .grant => Sys2Proof.Machine.execGrant s
  | .cdata => Sys2Proof.Machine.execCdata s
  | .progressTimerExpiry n => Sys2Proof.Machine.execProgressTimerExpiry n s
  | .abort => Sys2Proof.Machine.execAbort s
  | .channelUnitSend n => Sys2Proof.Machine.execChannelUnitSend n s
  | .chData => Sys2Proof.Machine.execChData s
  | .channelUnitProduce n => Sys2Proof.Machine.execChannelUnitProduce n s
  | .chCredit => Sys2Proof.Machine.execChCredit s
  | .chClose => Sys2Proof.Machine.execChClose s
  | .channelCreditTimeout n => Sys2Proof.Machine.execChannelCreditTimeout n s
  | .stepCommit c => Sys2Proof.Machine.execStepCommit c s
  | .twinTile => Sys2Proof.Machine.execTwinTile s
  | .twinSeal => Sys2Proof.Machine.execTwinSeal s
  | .twinAck => Sys2Proof.Machine.execTwinAck s
  | .twinNack => Sys2Proof.Machine.execTwinNack s
  | .commitTimeout c => Sys2Proof.Machine.execCommitTimeout c s
  | .restoreReq => Sys2Proof.Machine.execRestoreReq s
  | .restoreData => Sys2Proof.Machine.execRestoreData s
  | .restoreEnd => Sys2Proof.Machine.execRestoreEnd s
  | .restoreTimeout c => Sys2Proof.Machine.execRestoreTimeout c s
  | .watchdogExpiry u => Sys2Proof.Machine.execWatchdogExpiry u s
  | .stall c => Sys2Proof.Machine.execStall c s
  | .cordonTimeout dom => Sys2Proof.Machine.execCordonTimeout dom s
  | .collectionUnitTimeout dom u => Sys2Proof.Machine.execCollectionUnitTimeout dom u s
  | .resetComplete dom f => Sys2Proof.Machine.execResetComplete dom f s
  | .rungWatchdogExpiry dom missed => Sys2Proof.Machine.execRungWatchdogExpiry dom missed s
  | .managementIslandRestartTimeout => Sys2Proof.Machine.execManagementIslandRestartTimeout s
  | .tamperLatchSet => Sys2Proof.Machine.execTamperLatchSet s
  | .haltAndStep a => Sys2Proof.Machine.execHaltAndStep a s

end Sys2Proof.Machine
end

