-- ==== Sys2Proof/Machine/Step.lean ====
section
/-! DEFINITION. One step: the command at the front of the queue, or one tick of time while none waits. -/

namespace Sys2Proof.Machine

/-- The time of one idle step in ns from time `t` on (R41): in P0 to P3 the round timer resolves 1 ns; in P4 the counter moves to the next period of
25 MHz reference clock, 40 ns. -/
def tickNs (m : Mach) (t : Nat) : Nat := if m.pwr.st < 4 then 1 else 40 - t % 40

/-- The array cycles in one period of the reference clock, 40 ns, at the applied clock (R36, R473). -/
def cyclesPerTick (m : Mach) : Nat := appliedMhz m.pwr * 40 / 1000

/-- What time does while no command waits (R32, R41, log entry 4): the local counter moves on, page copies that the
background buckets now cover are made (R387), and at each period of the always-on reference the
blocks that run are charged its cycles (R202, R211). -/
def tick (m : Mach) : Mach :=
  if m.pwr.boot = .dark then m
  else
    let m := copyTick { m with time := { m.time with counter := satAdd m.time.counter (tickNs m (now m)) } }
    if regionsOn m && now m % 40 == 0 then chargeCycles m (cyclesPerTick m) else m

/-- One step: the command at the front of the queue takes effect on everything but the queue; on an empty queue the block idles for one tick. (DESIGN CHOICE, log entry 4; DESIGN CHOICE, log entry 65) -/
def step (s : State) : Host.Outcome State Fault Refusal :=
  match s.pending with
  | [] => .next { s with m := tick s.m }
  | c :: cs => exec c { s with pending := cs }

/-- The state with the command a word spells at the front of its queue. The table gives no bits, so no word spells one. -/
def State.withFetchWord (s : State) (nbits w : Nat) : State :=
  match decodeTableWord nbits w with
  | some i => { s with pending := i :: s.pending }
  | none => s

end Sys2Proof.Machine
end

