-- ==== Sys2Proof/Safety.lean ====
section
/-! DEFINITION. What the statements call safe: the legal values of what fuses and flash hold, and the canonical form of memory. -/

namespace Sys2Proof.Machine

/-- A policy as POLICY_SET lets it in: seven levels, none below its floor or above 3 (Tables 17.6 and 17.7). -/
abbrev PolicyOk (p : Policy) : Prop :=
  p.levels.length = 7 ∧ (∀ i, i < 7 → nthN levelFloors i ≤ nthN p.levels i ∧ nthN p.levels i ≤ 3) ∧ p.flags < 4 ∧
    4 ≤ p.authLimit ∧ p.authLimit ≤ 1024 ∧ 1 ≤ p.authWindowH ∧ p.authWindowH ≤ 168

/-- The legal values of what fuses and flash hold: a lifecycle code of R444, at most three returns (R446), two firmware slots (R439), and
policies within Table 17.7. -/
abbrev NvOk (nv : NonVol) : Prop :=
  nv.lifecycle ≤ 3 ∧ nv.returnCount ≤ 3 ∧ nv.slots.length = 2 ∧ PolicyOk nv.policy ∧ ∀ p, nv.nextPolicy = some p → PolicyOk p

/-- What fuses never undo (R442, R446, R460): the minimum security version, ERASED, the return count, and the erase latch. -/
abbrev NvGrows (a b : NonVol) : Prop :=
  a.fusedMin ≤ b.fusedMin ∧ (a.lifecycle = 3 → b.lifecycle = 3) ∧ a.returnCount ≤ b.returnCount ∧ (a.keyLatch = true → b.keyLatch = true)

/-- The canonical form of the module's memory. -/
abbrev MemOk (m : Mach) : Prop := memWf m.mem

/-- A request that passes every check its command shares with the others (R421): the mailbox takes it and its framing and tally are right,
its port, the module's state, its length and its reserved fields allow it, and its handle names what the command takes. -/
abbrev Passes (opcode mask : Nat) (u : HandleUse) (lenOk : List Byte → Bool) (resv : List Byte → List (Nat × Nat)) (r : Req) (s : State) : Prop :=
  frontGate s.nv s.m opcode r = none ∧ checkReq s.m opcode mask lenOk resv r = .ok () ∧
    checkObj s.nv s.m opcode mask u r = .ok ()

/-- The context slot a request's handle names. -/
abbrev slotOf (r : Req) : Nat := r.handle.toNat / 4096

/-- The state with module `m` once a request is answered OK with an op_tag and a payload (R418): nothing but the mailbox, and for the host
port vector 0, differs from `m`. -/
abbrev answered (s : State) (opcode : Nat) (r : Req) (m : Mach) (tag : Nat) (payload : List Byte) : State :=
  { s with m := respond m opcode r 0 tag payload true }

/-- The request an access of a tier makes of its controller (R259). -/
abbrev tierReq (a n : Nat) (data : Option (List Byte)) (who : Option Nat) (ref : Option (Nat × ItemRef)) (single double : List Nat) (ondie : Nat)
    (joins : Bool) : TierReq :=
  { a := a, n := n, data := data, who := who, ref := ref, single := single, double := double, ondie := ondie, joins := joins, host := false }

/-- The request a host read or write of a tier makes of its controller (R233). -/
abbrev hostTierReq (a n : Nat) (data : Option (List Byte)) (single double : List Nat) (ondie : Nat) : TierReq :=
  { a := a, n := n, data := data, who := none, ref := none, single := single, double := double, ondie := ondie, joins := false, host := true }

/-- A packet `pk` with an opcode arrives for a channel or a twin: the oldest released one of its kind, which customs let through (Table 10.6
checks 1 and 5). `m1` is the module without it. -/
abbrev Arrives (m : Mach) (opcode : Nat) (pk : Packet) (m1 : Mach) : Prop := takeReleased m opcode = some (pk, m1) ∧ customsColl m1 pk = none

/-- A packet arrives that passes the checks of Table 11.4 on the channel entry `n` it names. -/
abbrev ArrivesChan (m : Mach) (opcode : Nat) (pk : Packet) (m1 : Mach) (n : Nat) : Prop :=
  Arrives m opcode pk m1 ∧ n = fld pk.addr 16 12 ∧ (getChan m1 n).ctx = pk.peer ∧
    ((∃ s, (getChan m1 n).send = some s ∧ s.peerM = pk.src) ∨ (∃ h, (getChan m1 n).send = none ∧ (getChan m1 n).recv = some h ∧ h.peerM = pk.src))

/-- A packet arrives that passes the checks of Table 11.4 on the convoy in slot `n`. -/
abbrev ArrivesConv (m : Mach) (opcode : Nat) (pk : Packet) (m1 : Mach) (n : Nat) : Prop :=
  Arrives m opcode pk m1 ∧ findConv m1 (fld pk.addr 16 16) pk.peer = some n ∧ epochReason (getConv m1 n).rc.epoch (fld pk.addr 32 32) = none ∧
    ((getConv m1 n).rc.members[fld pk.addr 0 13]?).map (·.1) = some pk.src ∧
    (opcode = 0x22 ∨ ((getConv m1 n).st = 2 ∧ convOp (getConv m1 n) = pk.sequence))

/-- A Knaob command's opcode, the ports its authority names (R425) and its request; none for what is no Knaob command. -/
def gateOf : Instr → Option (Nat × Nat × Req)
  | .status 0 r => some (0, aH + aB + aD, r)
  | .ctxCreate r => some (0x0101, aH, r)
  | .ctxClose r => some (0x0102, aH + aB, r)
  | .ctxExtend r => some (0x0103, aH, r)
  | .ctxReclaim r => some (0x0104, aH + aB, r)
  | .ctxPark r => some (0x0105, aH, r)
  | .ctxUnpark _ _ r => some (0x0106, aH, r)
  | .ctxUnparkImage _ r => some (0x0107, aH, r)
  | .ctxReshard r => some (0x0108, aH, r)
  | .manifestPost _ r => some (0x0109, aH, r)
  | .manifestLaunch r => some (0x010A, aH, r)
  | .manifestRetire r => some (0x010B, aH, r)
  | .flagsClear _ r => some (0x010C, aH, r)
  | .numericsSave r => some (0x010D, aH, r)
  | .numericsLoad _ r => some (0x010E, aH, r)
  | .watchOpen r => some (0x010F, aH, r)
  | .watchClose r => some (0x0110, aH, r)
  | .orderedOpen r => some (0x0111, aH, r)
  | .cvConfigure r => some (0x0112, aH, r)
  | .servingConfig r => some (0x0113, aH, r)
  | .cargoLoad r => some (0x0201, aH, r)
  | .cargoSeal r => some (0x0202, aH, r)
  | .cargoBind r => some (0x0203, aH, r)
  | .cargoUnbind r => some (0x0204, aH, r)
  | .cargoSwap r => some (0x0205, aH, r)
  | .cargoSwitch r => some (0x0206, aH, r)
  | .seqRead r => some (0x0207, aH + aD, r)
  | .statement r => some (0x0301, aH + aB, r)
  | .logRead q => some (0x0302, aH + aB + aD, q.req)
  | .dumpRead q => some (0x0303, aH + aB + aD, q.req)
  | .counterRead r => some (0x0304, aH + aB + aD, r)
  | .boardEvents r => some (0x0305, aB, r)
  | .powerCap r => some (0x0401, aB, r)
  | .clockLimit r => some (0x0402, aB, r)
  | .powerState r => some (0x0403, aB, r)
  | .powerQuery r => some (0x0404, aH + aB + aD, r)
  | .fwStage r => some (0x0501, aB, r)
  | .fwVerify _ r => some (0x0502, aB, r)
  | .fwActivate r => some (0x0503, aB, r)
  | .fwQuery r => some (0x0504, aH + aB + aD, r)
  | .fwCommit r => some (0x0505, aB, r)
  | .lifecycleQuery r => some (0x0601, aH + aB + aD, r)
  | .ownerEnrol _ r => some (0x0602, aB, r)
  | .policySet _ r => some (0x0603, aB, r)
  | .debugUnlock _ r => some (0x0604, aD, r)
  | .debugLock r => some (0x0605, aB + aD, r)
  | .zeroise _ r => some (0x0606, aB, r)
  | .lifecycleSet _ r => some (0x0607, aB, r)
  | .certRead r => some (0x0608, aH + aB + aD, r)
  | .reset r => some (0x0701, aH + aB, r)
  | .oosSet r => some (0x0702, aB, r)
  | .returnToService r => some (0x0703, aB, r)
  | .retainFloor r => some (0x0704, aB, r)
  | .wdtSet r => some (0x0705, aB, r)
  | .retireThreshold r => some (0x0706, aB, r)
  | .eccClear _ r => some (0x0707, aB, r)
  | .healthQuery r => some (0x0708, aH + aB + aD, r)
  | .moduleIdSet r => some (0x0801, aH + aB, r)
  | .membershipSet r => some (0x0802, aH, r)
  | .waymapMap r => some (0x0803, aH, r)
  | .waymapUnmap r => some (0x0804, aH, r)
  | .waymapRead r => some (0x0805, aH + aD, r)
  | .respTimeoutSet r => some (0x0806, aH, r)
  | .convoySet _ r => some (0x0807, aH, r)
  | .convoyRemove r => some (0x0808, aH, r)
  | .schedulePost _ r => some (0x0809, aH, r)
  | .channelOpen r => some (0x080A, aH, r)
  | .channelClose r => some (0x080B, aH, r)
  | .twinAccept r => some (0x080C, aH, r)
  | .twinSet _ _ _ r => some (0x080D, aH, r)
  | .restore r => some (0x080E, aH, r)
  | .customsClear _ r => some (0x080F, aH + aB, r)
  | _ => none

/-- The commands that may change what fuses and flash hold. -/
def writesNv : Instr → Bool
  | .fwStage _ => true
  | .fwVerify _ _ => true
  | .fwActivate _ => true
  | .fwCommit _ => true
  | .tryBootTimeout _ => true
  | .ownerEnrol _ _ => true
  | .policySet _ _ => true
  | .debugUnlock _ _ => true
  | .zeroise _ _ => true
  | .lifecycleSet _ _ => true
  | .opDone _ => true
  | .inputPowerRise _ => true
  | .wake _ _ => true
  | .thermalShutdown => true
  | .alarmCondition _ => true
  | .fuseIntegrityCheck _ => true
  | .managementRound _ => true
  | .resetComplete _ _ => true
  | .rungWatchdogExpiry _ _ => true
  | .tamperLatchSet => true
  | _ => false

/-- Three commands after which a stopped caravaneer may run again, so that what waited for it starts (R34, log entry 71). -/
def resumesMp : Instr → Bool
  | .debugLock _ => true
  | .debugSessionExpiry => true
  | .mpRestartDone => true
  | _ => false

/-- Commands that neither store to memory nor mark or clear poison: the queries, the registers of power, service, fabric and watches, the pins, the
loops, the links' own events, and the counters. -/
def keepsMem : Instr → Bool
  | .status _ _ => true
  | .watchOpen _ => true
  | .watchClose _ => true
  | .cargoSeal _ => true
  | .cargoSwap _ => true
  | .seqRead _ => true
  | .logRead _ => true
  | .dumpRead _ => true
  | .counterRead _ => true
  | .boardEvents _ => true
  | .powerCap _ => true
  | .clockLimit _ => true
  | .powerQuery _ => true
  | .fwStage _ => true
  | .fwQuery _ => true
  | .fwCommit _ => true
  | .lifecycleQuery _ => true
  | .debugLock _ => true
  | .certRead _ => true
  | .wdtSet _ => true
  | .retireThreshold _ => true
  | .eccClear _ _ => true
  | .healthQuery _ => true
  | .moduleIdSet _ => true
  | .waymapMap _ => true
  | .waymapUnmap _ => true
  | .waymapRead _ => true
  | .respTimeoutSet _ => true
  | .convoyRemove _ => true
  | .customsClear _ _ => true
  | .orderedOpen _ => true
  | .mpEvtAck _ _ => true
  | .msixUnmask _ => true
  | .perst _ => true
  | .powerLoopSample _ => true
  | .fastTrip => true
  | .thermalStep => true
  | .supplyDroop _ => true
  | .getVersion _ => true
  | .getCapabilities _ => true
  | .negotiateAlgorithms _ _ _ _ => true
  | .getDigests _ => true
  | .getCertificate _ _ _ _ => true
  | .challenge _ _ _ => true
  | .getMeasurements _ _ _ _ => true
  | .keyProg _ _ _ => true
  | .kSetGo _ => true
  | .healthScoreSave => true
  | .tamperLatchSet => true
  | .debugSessionExpiry => true
  | .spEccWriteback _ => true
  | .assayerSummary => true
  | .endOfRunMarker => true
  | .closeTimeout _ => true
  | .tierEccWriteback _ => true
  | .retirementCopyDone _ _ => true
  | .refreshEvaluation _ _ => true
  | .orderedShareClosed _ => true
  | .periodicCalibration _ _ _ => true
  | .waymapPatrol _ _ => true
  | .controlFlit _ _ _ => true
  | .replayTimeout _ => true
  | .laneFailure _ _ => true
  | .laneRetrainComplete _ _ => true
  | .portSilent _ => true
  | .linkRetrainAttempt _ _ => true
  | .unreach _ _ _ _ _ => true
  | .reachRestore _ _ => true
  | .reorderHoleExpiry _ _ => true
  | .collectionUnitTimeout _ _ => true
  | .mpRestartDone => true
  | _ => false

end Sys2Proof.Machine
end

