-- ==== Sys2Proof/Certificates/Slice0/Obligations.lean ====
section
/-! DEFINITION. The statements: what the numbered rules of the spec say the module does, command by command, and what no command breaks. -/

open Sys2Proof Sys2Proof.Machine


/-- R247, R393, R400, R407, R410, R411, R474 to R476: the commands that set the power cap, the clock limit and the power state, and those of the reset ladder and of service. A cap
above the variant's limit is the limit; an accepted POWER_STATE is a long command whose OP_DONE follows. -/
def Obligations.PowerAndService : Prop :=
  (∀ (s : State) r, Passes 0x0401 aB .none (lenIs 4) noResv r s → 1600 ≤ pf r 0 4 →
    exec (.powerCap r) s = .next (answered s 0x0401 r { s.m with pwr := { s.m.pwr with capW := min (pf r 0 4) (limitW s.m) } } 0
      (leBytes 4 (min (pf r 0 4) (limitW s.m))))) ∧
  (∀ (s : State) r, Passes 0x0402 aB .none (lenIs 4) noResv r s → 200 ≤ pf r 0 4 → pf r 0 4 % 25 = 0 →
    exec (.clockLimit r) s = .next (answered s 0x0402 r { s.m with pwr := { s.m.pwr with limitMhz := stepAtMost (maxMhz s.m) (pf r 0 4) } } 0
      (leBytes 4 (stepAtMost (maxMhz s.m) (pf r 0 4))))) ∧
  (∀ (s : State) r, Passes 0x0403 aB .none (lenIs 4) (resvAt [(1, 3)]) r s → pf r 0 1 ≠ 1 → pf r 0 1 ≤ 3 → (s.m.rst.oos = true → 3 ≤ pf r 0 1) →
    pf r 0 1 ≠ s.m.pwr.st → mayEnter s.m (pf r 0 1) = true →
    exec (.powerState r) s = .next (answered s 0x0403 r
      (enterState (endOp (newOp s.m r.port 0x0403 (pf r 0 1)).1 (newOp s.m r.port 0x0403 (pf r 0 1)).2 0 0) (pf r 0 1))
      (newOp s.m r.port 0x0403 (pf r 0 1)).2 [])) ∧
  (∀ (s : State) r, Passes 0x0403 aB .none (lenIs 4) (resvAt [(1, 3)]) r s → pf r 0 1 = 4 → s.m.pwr.st ≠ 4 → mayEnter s.m 4 = true →
    exec (.powerState r) s = .next (answered s 0x0403 r
      (enterP4 (endOp (newOp s.m r.port 0x0403 4).1 (newOp s.m r.port 0x0403 4).2 0 0)) (newOp s.m r.port 0x0403 4).2 [])) ∧
  (∀ (s : State) r, Passes 0x0701 (aH + aB) .none (lenIs 8) (resvAt [(1, 1), (6, 2)]) r s → pf r 0 1 = 5 → unitExists (pf r 2 4) = true →
    exec (.reset r) s = .next (answered s 0x0701 r
      (startReset (newOp s.m r.port 0x0701 (pf r 2 4)).1 5 (pf r 2 4) 0 true false (some (newOp s.m r.port 0x0701 (pf r 2 4)).2))
      (newOp s.m r.port 0x0701 (pf r 2 4)).2 [])) ∧
  (∀ (s : State) r, Passes 0x0702 aB .none (lenIs 4) (resvAt [(1, 1)]) r s → 2 ≤ pf r 0 1 → pf r 0 1 ≤ 16 → 1 ≤ pf r 2 2 → pf r 2 2 ≤ 168 →
    ∃ m, m = ({ s.m with rst := { s.m.rst with threshold := pf r 0 1, windowH := pf r 2 2 } } : Mach) ∧
      exec (.oosSet r) s = .next (answered s 0x0702 r (if tooMany m then goOut (flashWrite m 0) 1 else flashWrite m 0) 0 [])) ∧
  (∀ (s : State) r, Passes 0x0703 aB .none (lenIs 0) noResv r s → s.m.rst.oos = true →
    ∃ m, m = ({ (newOp s.m r.port 0x0703 0).1 with rst := { s.m.rst with oos := false, reason := 0, counted := [] },
                                                   health := { s.m.health with replace := false } } : Mach) ∧
      exec (.returnToService r) s = .next (answered s 0x0703 r (startReset m 5 (unitChip 0) 0 true false (some s.m.mgmt.nextTag)) s.m.mgmt.nextTag [])) ∧
  (∀ (s : State) r, Passes 0x0704 aB .none (lenIs 4) (resvAt [(1, 3)]) r s → pf r 0 1 ≤ 100 → s.m.rst.oos = true →
    exec (.retainFloor r) s = .next (answered s 0x0704 r (flashWrite { s.m with health := { s.m.health with floor := pf r 0 1 } } 0) 0
      (leBytes 1 (capability s.m) ++ leBytes 3 0))) ∧
  (∀ (s : State) r, Passes 0x0704 aB .none (lenIs 4) (resvAt [(1, 3)]) r s → pf r 0 1 ≤ 100 → s.m.rst.oos = false →
    ∃ m, m = compareFloor (flashWrite { s.m with health := { s.m.health with floor := pf r 0 1 } } 0) false ∧
      exec (.retainFloor r) s = .next (answered s 0x0704 r m 0 (leBytes 1 (capability m) ++ leBytes 3 0))) ∧
  (∀ (s : State) r, Passes 0x0705 aB .none (lenIs 4) (resvAt [(1, 1)]) r s → 1 ≤ pf r 0 1 → pf r 0 1 ≤ 100 → 1 ≤ pf r 2 2 → pf r 2 2 ≤ 36000 →
    exec (.wdtSet r) s = .next (answered s 0x0705 r (flashWrite { s.m with rst := { s.m.rst with engineMs := pf r 0 1, stallDs := pf r 2 2 } } 0) 0 [])) ∧
  (∀ (s : State) r, Passes 0x0706 aB .none (lenIs 4) noResv r s → 1024 ≤ pf r 0 4 → pf r 0 4 ≤ 16777215 →
    ∃ m, exec (.retireThreshold r) s = .next (answered s 0x0706 r m 0 []) ∧ m = (List.range 12).foldl (fun m k => setThreshold m k (pf r 0 4)) s.m ∧
      (∀ k, k < 12 → (getCtl m k).threshold = BitVec.ofNat 32 (pf r 0 4)) ∧ (∀ k, 12 ≤ k → (getCtl m k).threshold = (getCtl s.m k).threshold))

/-- R216, R272, R398, R406, R414, R417, R427, R431, R439, R448, R465: the commands that read. Each answers what it names and, but for its
mailbox, changes nothing; a statement also takes its number and its free signature. -/
def Obligations.ReadCommands : Prop :=
  (∀ (s : State) r, Passes 0 (aH + aB + aD) .none (lenIs 0) noResv r s → exec (.status 0 r) s = .next (answered s 0 r s.m 0 [])) ∧
  (∀ (s : State) r, Passes 0x0404 (aH + aB + aD) .none (lenIs 0) noResv r s →
    exec (.powerQuery r) s = .next (answered s 0x0404 r s.m 0 (leBytes 1 (powerCode s.m) ++ leBytes 3 0 ++ leBytes 4 s.m.pwr.capW ++
      leBytes 4 (appliedMhz s.m.pwr) ++ leBytes 4 s.m.pwr.roundW))) ∧
  (∀ (s : State) r, Passes 0x0504 (aH + aB + aD) .none (lenIs 0) noResv r s → ∃ p, p.length = 168 ∧
    exec (.fwQuery r) s = .next (answered s 0x0504 r s.m 0 p) ∧ p.getLast? = (leBytes 4 s.nv.fusedMin.toNat).getLast? ∧
    p.take 1 = leBytes 1 (fwCode (s.nv.slots.getD 0 fwEmpty).st)) ∧
  (∀ (s : State) r, Passes 0x0601 (aH + aB + aD) .none (lenIs 0) noResv r s →
    exec (.lifecycleQuery r) s = .next (answered s 0x0601 r s.m 0 (leBytes 4 (secState s.nv s.m) ++ leBytes 4 s.m.sec.raised ++
      padTo 16 s.m.fuse.serial ++ leBytes 4 s.nv.policy.seq.toNat ++ ownerDigest s.nv ++ padTo 64 (Config.sha512 s.nv.idKey)))) ∧
  (∀ (s : State) r, Passes 0x0608 (aH + aB + aD) .none (lenIs 8) noResv r s → pf r 4 4 ≤ 4064 →
    exec (.certRead r) s = .next (answered s 0x0608 r s.m 0 ((s.nv.chain.drop (pf r 0 4)).take (pf r 4 4)))) ∧
  (∀ (s : State) r, Passes 0x0708 (aH + aB + aD) .none (lenIs 0) noResv r s →
    exec (.healthQuery r) s = .next (answered s 0x0708 r s.m 0
      (leBytes 8 (healthWord s.m) ++ leBytes 8 (termsWord s.m.health) ++ leBytes 8 s.m.health.unavail.toNat))) ∧
  (∀ (s : State) r, Passes 0x0302 (aH + aB + aD) .none (lenIs 12) noResv r s → 1 ≤ pf r 8 4 → pf r 8 4 ≤ 63 →
    exec (.logRead ⟨r, []⟩) s = .next (answered s 0x0302 r s.m 0
      (((List.range (pf r 8 4)).filterMap (fun i => logAt s.m (pf r 0 8 + i))).map logBytes).flatten)) ∧
  (∀ (s : State) r n, Passes 0x0302 (aH + aB + aD) .none (lenIs 12) noResv r s → pf r 8 4 = 1 → n = pf r 0 8 → (logAt s.m n).isSome = true →
    exec (.logRead ⟨r, [n]⟩) s = .next (answered s 0x0302 r (noteStrongbox s.m) 0 (((logCopy s.m n).map logBytes).getD []))) ∧
  (∀ (s : State) r d, Passes 0x0303 (aH + aB + aD) .none (lenIs 12) noResv r s → s.m.mgmt.dumps.find? (fun d => d.num == pf r 0 4) = some d →
    pf r 8 4 ≤ 4064 → pf r 4 4 + pf r 8 4 ≤ 256 + 1024 * d.units.length →
    (s.m.mgmt.dumps.getLast?.map (·.num) = some (pf r 0 4) ∨ rdPoison s.m (dumpSlot (pf r 0 4) + pf r 4 4) (pf r 8 4) = false) →
    exec (.dumpRead ⟨r, []⟩) s = .next (answered s 0x0303 r s.m 0 (dumpBytes d (pf r 4 4) (pf r 8 4)))) ∧
  (∀ (s : State) r d, Passes 0x0303 (aH + aB + aD) .none (lenIs 12) noResv r s → s.m.mgmt.dumps.find? (fun d => d.num == pf r 0 4) = some d →
    pf r 8 4 ≤ 4064 → pf r 4 4 + pf r 8 4 ≤ 256 + 1024 * d.units.length → s.m.mgmt.dumps.getLast?.map (·.num) = some (pf r 0 4) →
    rdPoison s.m (dumpSlot (pf r 0 4) + pf r 4 4) (pf r 8 4) = false →
    exec (.dumpRead ⟨r, [pf r 0 4]⟩) s = .next (answered s 0x0303 r (noteStrongbox s.m) 0 (dumpBytes d (pf r 4 4) (pf r 8 4)))) ∧
  (∀ (s : State) r p, Passes 0x0304 (aH + aB + aD) .none (lenIs 8) (resvAt [(1, 1)]) r s → pf r 0 1 ≤ 3 → pf r 2 2 < 1024 → pf r 4 4 < 16 →
    physOf s.m (pf r 2 2) = some p →
    exec (.counterRead r) s = .next (answered s 0x0304 r s.m 0 ((blkCounters s.m (pf r 0 1) p (pf r 4 4)).map (leBytes 8)).flatten)) ∧
  (∀ (s : State) r, Passes 0x0301 (aH + aB) .standing (lenIs 0) noResv r s →
    exec (.statement r) s = .next (answered s 0x0301 r (statementOf s.nv s.m (slotOf r) 0).1 0 (statementOf s.nv s.m (slotOf r) 0).2)) ∧
  (∀ (s : State) r, Passes 0x0207 (aH + aD) .standing (lenIs 8) noResv r s → pf r 0 4 < (getCtx s.m (slotOf r)).par.seqEntries → 1 ≤ pf r 4 4 → pf r 4 4 ≤ 63 →
    pf r 0 4 + pf r 4 4 ≤ (getCtx s.m (slotOf r)).par.seqEntries →
    exec (.seqRead r) s = .next (answered s 0x0207 r s.m 0 (((List.range (pf r 4 4)).map (fun i =>
      padTo 64 (entryBytes (handleOf s.m (slotOf r)) (getEnt s.m (slotOf r) (pf r 0 4 + i))))).flatten))) ∧
  (∀ (s : State) r k e, Passes 0x0805 (aH + aD) .optLive (lenIs 12) (resvAt [(2, 2)]) r s → r.handle ≠ 0 → pf r 0 1 ≤ 1 → pf r 1 1 ≤ 2 → addrOk (pf r 4 8) = true →
    s.m.fab.waymap.find? (fun e => e.2.valid && e.2.isIn == (pf r 0 1 == 1) && e.2.size == pf r 1 1 &&
      e.2.base == pf r 4 8 / segBytes (pf r 1 1) * segBytes (pf r 1 1) && ((pf r 0 1 == 1) || e.2.owner / 4096 == slotOf r)) = some (k, e) →
    exec (.waymapRead r) s = .next (answered s 0x0805 r s.m 0
      (wayBytes e ++ leBytes 8 (pf r 4 8 / segBytes (pf r 1 1) * segBytes (pf r 1 1)))))

/-- R15, R418, R432, R433: what host and board do at the module's registers beside Knaob. An acknowledgement within a ring frees the records up to it, any other is
ignored and counted, also where it comes as a write of registers; unmasking a vector sends its pending message; the request area keeps what is written, a write of
MP_MBX_SUBMIT submits the request that stands there for the next round (log entry 113), and what has no row of its own is read-only. A write at a block's window of local addresses is the caravaneer's
maintenance path (log entry 88): it clears BLK_SP_ECC_STATUS and sets windows. -/
def Obligations.HostPlane : Prop :=
  (∀ (s : State) v, s.m.pcie.linkUp = true → s.m.mgmt.hostRing.lost = 0 →
    (BitVec.ofNat 32 v - s.m.mgmt.hostRing.ack).toNat ≤ (s.m.mgmt.hostRing.head - s.m.mgmt.hostRing.ack).toNat →
    exec (.mpEvtAck v true) s = .next { s with m := { s.m with mgmt := { s.m.mgmt with hostRing := { s.m.mgmt.hostRing with ack := BitVec.ofNat 32 v } } } }) ∧
  (∀ (s : State) v whole, s.m.pcie.linkUp = true → s.m.mgmt.hostRing.lost = 0 →
    (whole = false ∨ (s.m.mgmt.hostRing.head - s.m.mgmt.hostRing.ack).toNat < (BitVec.ofNat 32 v - s.m.mgmt.hostRing.ack).toNat) →
    exec (.mpEvtAck v whole) s = .next { s with m := { s.m with mgmt := { s.m.mgmt with hostRing :=
      { s.m.mgmt.hostRing with ackBad := satAdd s.m.mgmt.hostRing.ackBad 1 } } } }) ∧
  (∀ (s : State) v r, s.m.pcie.linkUp = true → s.m.mgmt.hostRing.lost ≠ 0 →
    (BitVec.ofNat 32 v - s.m.mgmt.hostRing.ack).toNat ≤ (s.m.mgmt.hostRing.head - s.m.mgmt.hostRing.ack).toNat →
    r = { s.m.mgmt.hostRing with ack := BitVec.ofNat 32 v } → ringRoom r = true →
    exec (.mpEvtAck v true) s = .next { s with m := signal { s.m with mgmt := { s.m.mgmt with hostRing :=
      { ringPut r (overflowEvent s.m r) with lost := 0 } } } 1 }) ∧
  (∀ (s : State) v, s.m.pcie.linkUp = true → v < 64 → s.m.mgmt.msixMask.getLsbD v = true → s.m.mgmt.msixPend.getLsbD v = true →
    exec (.msixUnmask v) s = .next { s with m := { s.m with mgmt := { s.m.mgmt with
      msixMask := s.m.mgmt.msixMask &&& ~~~BitVec.ofNat 64 (1 <<< v), msixPend := s.m.mgmt.msixPend &&& ~~~BitVec.ofNat 64 (1 <<< v),
      msgs := s.m.mgmt.msgs ++ [v] } } }) ∧
  (∀ (s : State) v, s.m.pcie.linkUp = true → v < 64 → s.m.mgmt.msixMask.getLsbD v = true → s.m.mgmt.msixPend.getLsbD v = false →
    exec (.msixUnmask v) s = .next { s with m := { s.m with mgmt := { s.m.mgmt with
      msixMask := s.m.mgmt.msixMask &&& ~~~BitVec.ofNat 64 (1 <<< v) } } }) ∧
  (∀ (s : State) a data sets, s.m.pcie.linkUp = true → a + data.length ≤ 0x1000 → ∃ t, exec (.registerWrite a ⟨data, sets⟩) s = .next t ∧
    t = { s with m := { s.m with mgmt := { s.m.mgmt with reqArea := t.m.mgmt.reqArea } } } ∧
    ∀ i, tget 0 t.m.mgmt.reqArea i = if a ≤ i ∧ i < a + data.length then data.getD (i - a) 0 else tget 0 s.m.mgmt.reqArea i) ∧
  (∀ (s : State) v b sets, s.m.pcie.linkUp = true → v < 64 → b.getLsbD 0 = true → ∃ t, exec (.registerWrite (0x4000 + 16 * v + 12) ⟨[b], sets⟩) s = .next t ∧
    t = { s with m := { s.m with mgmt := { s.m.mgmt with msixEntries := t.m.mgmt.msixEntries, msixMask := t.m.mgmt.msixMask } } } ∧
    ∀ k, k < 64 → t.m.mgmt.msixMask.getLsbD k = (decide (k = v) || s.m.mgmt.msixMask.getLsbD k)) ∧
  (∀ (s : State) a data sets, s.m.pcie.linkUp = true → ((0x1000 ≤ a ∧ a + data.length ≤ 0x2008) ∨ (0x200C ≤ a ∧ a + data.length ≤ 0x2028) ∨ (0x202C ≤ a ∧ a + data.length ≤ 0x4000) ∨
      (0x4400 ≤ a ∧ a + data.length ≤ 0x1400000) ∨ (0x1400100 ≤ a ∧ a + data.length ≤ 0x2000000) ∨ (0x2200000 ≤ a ∧ a < 0x7F000000000)) →
    exec (.registerWrite a ⟨data, sets⟩) s = .next s) ∧
  (∀ (s : State) data sets q, s.m.pcie.linkUp = true → data.length = 4 → q = areaReq s.m → ((getMbx s.m .host).st = .idle ∨ (getMbx s.m .host).st = .done) →
    s.m.pwr.boot = .running → chipFenced s.m = false →
    ∃ x, x = modMbx s.m .host (fun b => { b with st := .busy, resp := [], inHand := some (heldBase + q.1, q.2) }) ∧
      exec (.registerWrite 0x2008 ⟨data, sets⟩) s = .next { s with m := { x with mgmt := { x.mgmt with accepted := s.m.mgmt.accepted ++ [.host] } } }) ∧
  (∀ (s : State) data sets, s.m.pcie.linkUp = true → data.length = 4 → (getMbx s.m .host).st = .busy →
    exec (.registerWrite 0x2008 ⟨data, sets⟩) s = .next { s with m := modMbx s.m .host (fun b => { b with ignored := satAdd b.ignored 1 }) }) ∧
  (∀ (s : State) c data sets, s.m.pcie.linkUp = true → c < 16 → data.length = 4 →
    exec (.registerWrite (0x1400000 + 16 * c) ⟨data, sets⟩) s = .next { s with m := chpCrAck c (leNat data % 2 ^ 32) true s.m }) ∧
  (∀ (s : State) data sets, s.m.pcie.linkUp = true → data.length = 4 →
    exec (.registerWrite 0x2028 ⟨data, sets⟩) s = .next { s with m := mpEvtAck (leNat data % 2 ^ 32) true s.m }) ∧
  (∀ (s : State) p data sets, p < 1088 → mpStopped s.m = false → regionsOn s.m = true → data.length = 4 →
    exec (.registerWrite (0x7F010000000 + 0x10000 * p + 0x1010) ⟨data, sets⟩) s = .next { s with m := (
      modBlk s.m p (fun b => { b with sp := clearSpEcc b.sp (BitVec.ofNat 32 (leNat data)) sets })) }) ∧
  (∀ (s : State) p n data sets, p < 1088 → n < 16 → mpStopped s.m = false → regionsOn s.m = true → data.length = 4 →
    exec (.registerWrite (0x7F010000000 + 0x10000 * p + 0x1100 + 16 * n) ⟨data, sets⟩) s = .next { s with m := (
      modBlk s.m p (fun b => modWin b n (fun _ => winOf (leNat data) (winPtr (getWin (getBlk s.m p) n))))) }) ∧
  (∀ (s : State) r, Passes 0x0305 aB .none (lenIs 4) noResv r s →
    exec (.boardEvents r) s = .next (answered s 0x0305 r
      (putBoard s.m (flushLost s.m (ringAck s.m.mgmt.boardRing (BitVec.ofNat 32 (pf r 0 4)) true))) 0
      ((ringRecs (flushLost s.m (ringAck s.m.mgmt.boardRing (BitVec.ofNat 32 (pf r 0 4)) true)) 63).map eventBytes).flatten))

/-- R15, R267, R296, R430: the commands that clear flags. A set of the same cycle wins over the clear, and the answer names the bits at which
the two met. -/
def Obligations.ClearCommands : Prop :=
  (∀ (s : State) r sets, Passes 0x0707 aB .none (lenIs 8) (resvAt [(2, 2)]) r s → pf r 4 4 < 8 → pf r 0 1 ≤ 1 →
    pf r 1 1 < (if pf r 0 1 = 0 then 12 else 16) →
    exec (.eccClear sets r) s = .next (answered s 0x0707 r
      (modCtl s.m (if pf r 0 1 = 0 then pf r 1 1 else 16 + pf r 1 1) (fun x => clearEcc x (BitVec.ofNat 32 (pf r 4 4)) sets)) 0
      (leBytes 4 (racedBits (BitVec.ofNat 32 (pf r 4 4)) (sets &&& 7)).toNat))) ∧
  (∀ (s : State) r sets, Passes 0x080F (aH + aB) .none (lenIs 4) noResv r s → pf r 0 4 < 1024 →
    exec (.customsClear sets r) s = .next (answered s 0x080F r { s.m with fab := clearCustoms s.m.fab (BitVec.ofNat 32 (pf r 0 4)) sets } 0
      (leBytes 4 (racedBits (BitVec.ofNat 32 (pf r 0 4)) (sets &&& 0x3FF)).toNat))) ∧
  (∀ (s : State) r sets, Passes 0x010C aH .active (lenIs 8) (resvAt [(1, 1)]) r s → pf r 0 1 = 4 → pf r 4 4 < 8 → pf r 2 2 < 16384 →
    (getWatch s.m (pf r 2 2)).st ≠ 0 → (getWatch s.m (pf r 2 2)).ctx = handleOf s.m (slotOf r) →
    exec (.flagsClear sets r) s = .next (answered s 0x010C r
      (modWatch s.m (pf r 2 2) (fun w => { w with flags := w1c w.flags (BitVec.ofNat 32 (pf r 4 4)) (setsAt sets (pf r 2 2) &&& 7) })) 0
      (leBytes 4 1 ++ leBytes 4 (racedBits (BitVec.ofNat 32 (pf r 4 4)) (setsAt sets (pf r 2 2) &&& 7)).toNat))) ∧
  (∀ (s : State) r sets p, Passes 0x010C aH .active (lenIs 8) (resvAt [(1, 1)]) r s → pf r 0 1 < 3 → pf r 2 2 < 1024 → pf r 4 4 < 2 ^ classBits (pf r 0 1) →
    flagTargets s.m (slotOf r) (pf r 2 2) = [(pf r 2 2, p)] →
    exec (.flagsClear sets r) s = .next (answered s 0x010C r
      (modBlk s.m p (fun b => clearBlkFlags b (pf r 0 1) (slotOf r) (BitVec.ofNat 32 (pf r 4 4))
        (setsAt sets (pf r 2 2) &&& BitVec.ofNat 32 (2 ^ classBits (pf r 0 1) - 1)))) 0
      (leBytes 4 1 ++ leBytes 4 (racedBits (BitVec.ofNat 32 (pf r 4 4))
        (setsAt sets (pf r 2 2) &&& BitVec.ofNat 32 (2 ^ classBits (pf r 0 1) - 1))).toNat)))

/-- R439 to R442: the firmware commands. A chunk at offset 0 makes the slot that does not run STAGED and its old contents go; a good image
becomes VERIFIED, an activated one TRY; FW_COMMIT raises the fused minimum to the ACTIVE slot's security version. -/
def Obligations.FirmwareCommands : Prop :=
  (∀ (s : State) r, Passes 0x0501 aB .none (fun p => 8 ≤ p.length && p.length == 8 + alignUp (recNat p 4 4) 4) noResv r s → pf r 0 4 = 0 → pf r 4 4 ≤ 4064 →
    verifying s.m = false →
    exec (.fwStage r) s = .next { answered s 0x0501 r s.m 0 [] with nv := { s.nv with slots := (setNth s.nv.slots (otherSlot s.m)
      { fwEmpty with st := .staged, image := (((r.payload.drop 8).take (pf r 4 4)).zipIdx).foldl (fun t q => tset 0 t (0 + q.2) q.1) [] }) } }) ∧
  (∀ (s : State) r f, Passes 0x0501 aB .none (fun p => 8 ≤ p.length && p.length == 8 + alignUp (recNat p 4 4) 4) noResv r s → pf r 0 4 ≠ 0 →
    f = s.nv.slots.getD (otherSlot s.m) fwEmpty → f.st = .staged → pf r 4 4 ≤ 4064 → pf r 0 4 + pf r 4 4 ≤ 0x4000000 → verifying s.m = false →
    exec (.fwStage r) s = .next { answered s 0x0501 r s.m 0 [] with nv := { s.nv with slots := (setNth s.nv.slots (otherSlot s.m)
      { f with image := (((r.payload.drop 8).take (pf r 4 4)).zipIdx).foldl (fun t q => tset 0 t (pf r 0 4 + q.2) q.1) f.image }) } }) ∧
  (∀ (s : State) r sig f h, Passes 0x0502 aB .none (lenIs 0) noResv r s → f = s.nv.slots.getD (otherSlot s.m) fwEmpty → f.st = .staged →
    verifying s.m = false → verifyStatus s.nv f sig = 0 → h = imageBytes f 0 1024 →
    exec (.fwVerify sig r) s = .next { answered s 0x0502 r
      (endOp (newOp s.m r.port 0x0502 (otherSlot s.m)).1 s.m.mgmt.nextTag 0 0) s.m.mgmt.nextTag (leBytes 8 (recNat h 4 8) ++ leBytes 4 (recNat h 12 4)) with
      nv := { s.nv with slots := setNth s.nv.slots (otherSlot s.m) { f with
        st := .verified, version := BitVec.ofNat 64 (recNat h 4 8), secVer := BitVec.ofNat 32 (recNat h 12 4), digest := imageBytes f 20 64 } } }) ∧
  (∀ (s : State) r, Passes 0x0503 aB .none (lenIs 4) (resvAt [(1, 3)]) r s → pf r 0 1 ≤ 1 → (s.nv.slots.getD (otherSlot s.m) fwEmpty).st = .verified →
    verifying s.m = false →
    exec (.fwActivate r) s = .next { answered s 0x0503 r
      (if pf r 0 1 = 1 then startReset s.m 5 (unitChip 0) 0 true false none else s.m) 0 [] with
      nv := { s.nv with slots := modNth s.nv.slots (otherSlot s.m) (fun f => { f with st := .try_ }) } }) ∧
  (∀ (s : State) r a, Passes 0x0505 aB .none (lenIs 0) noResv r s → slotIn s.nv .try_ = none → slotIn s.nv .active = some a →
    ∃ v, v = (s.nv.slots.getD a fwEmpty).secVer ∧
      exec (.fwCommit r) s = .next { answered s 0x0505 r s.m 0 (leBytes 4 (if s.nv.fusedMin < v then v else s.nv.fusedMin).toNat) with
        nv := { s.nv with fusedMin := if s.nv.fusedMin < v then v else s.nv.fusedMin } }) ∧
  (∀ (s : State) f g, s.m.pwr.boot = .trying → g = bringUp (failTry s.nv) { s.m with time := { s.m.time with round := 0 } } f →
    exec (.tryBootTimeout f) s = .next { s with nv := g.1, m := hostReady g.2 })

/-- R445, R446, R453, R454, R461: the owner is enrolled once, without a signature, in PRODUCTION, and a transfer resets the policy; an accepted policy waits for
the next round. A ZEROISE tears every context down at once and starts a long command, one of mode ERASE in place of one in progress; a lifecycle transition does the same, but out of MANUFACTURE, and
its fuses are written when it ends. -/
def Obligations.OwnerAndLifecycle : Prop :=
  (∀ (s : State) r sig, Passes 0x0602 aB .none (fun p => (p.length == 520 && recNat p 0 1 != 1) || (p.length == 1032 && recNat p 0 1 == 1)) (resvAt [(1, 3)]) r s →
    pf r 0 1 = 0 → s.nv.lifecycle = 1 → s.nv.owner = none → 128 ≤ pf r 4 1 → pf r 516 4 = 65537 →
    exec (.ownerEnrol sig r) s = .next { answered s 0x0602 r s.m 0 (padTo 64 (Config.sha512 ((r.payload.drop 4).take 516))) with
      nv := { s.nv with owner := some ((r.payload.drop 4).take 516) } }) ∧
  (∀ (s : State) r, Passes 0x0602 aB .none (fun p => (p.length == 520 && recNat p 0 1 != 1) || (p.length == 1032 && recNat p 0 1 == 1)) (resvAt [(1, 3)]) r s →
    pf r 0 1 = 1 → s.nv.lifecycle = 1 → s.nv.owner ≠ none → 128 ≤ pf r 4 1 → pf r 516 4 = 65537 →
    exec (.ownerEnrol true r) s = .next { answered s 0x0602 r s.m 0 (padTo 64 (Config.sha512 ((r.payload.drop 4).take 516))) with
      nv := { s.nv with owner := some ((r.payload.drop 4).take 516), policy := policyDefault, nextPolicy := none } }) ∧
  (∀ (s : State) r, Passes 0x0603 aB .none (lenIs 576) (resvAt [(6, 2), (29, 3), (39, 1), (44, 20)]) r s → pf r 28 1 < 4 → badLevel r.payload = none →
    4 ≤ pf r 40 2 → pf r 40 2 ≤ 1024 → 1 ≤ pf r 42 2 → pf r 42 2 ≤ 168 → pf r 0 4 = 0x4D33504C → pf r 4 2 = 1 →
    (recZero r.payload 12 16 = true ∨ (r.payload.drop 12).take 16 = padTo 16 s.m.fuse.serial) → s.nv.owner ≠ none →
    s.nv.policy.seq.toNat < pf r 8 4 →
    exec (.policySet true r) s = .next { answered s 0x0603 r s.m 0 [] with nv := { s.nv with nextPolicy := (some
      { seq := BitVec.ofNat 32 (pf r 8 4), flags := pf r 28 1, levels := (List.range 7).map (fun i => pf r (32 + i) 1), authLimit := pf r 40 2,
        authWindowH := pf r 42 2, blob := r.payload }) } }) ∧
  (∀ (s : State) r sig signed m0 m1 q, signed = (recNat r.payload 0 1 == 2 && tbit s.nv.policy.flags 1) →
    Passes 0x0606 aB .none (fun p => p.length == if recNat p 0 1 == 2 && tbit s.nv.policy.flags 1 then 596 else 20) (resvAt [(1, 3)]) r s →
    pf r 0 1 ≤ 2 → (r.payload.drop 4).take 16 = padTo 16 s.m.fuse.serial → (pf r 0 1 = 2 ∨ s.m.sec.zeroise = none) →
    (signed = true → checkToken s.nv s.m (r.payload.drop 20) 3 0 20 sig = .ok ()) →
    m0 = (if signed then useToken s.m (r.payload.drop 20) else s.m) →
    m1 = (match m0.sec.zeroise with
      | some z => endOp m0 z.tag 0x50 0
      | none => m0) → q = newOp m1 r.port 0x0606 (pf r 0 1) →
    exec (.zeroise sig r) s = .next (answered s 0x0606 r
      (teardownAll { q.1 with sec := { q.1.sec with zeroise := some { mode := pf r 0 1, tag := q.2 } } } 0) q.2 [])) ∧
  (∀ (s : State) r sig tok m0 q, Passes 0x0607 aB .none (fun p => p.length == 580 || (p.length == 4 && s.nv.lifecycle == 0)) (resvAt [(1, 3)]) r s → pf r 0 1 ≤ 3 →
    s.m.sec.zeroise = none → moving s.m = false → lifecycleMove s.nv (pf r 0 1) = .ok () → (s.nv.lifecycle = 0 ∨ s.m.pwr.st ≠ 3) → tok = r.payload.drop 4 →
    (tok ≠ [] → checkToken s.nv s.m tok 2 (pf r 0 1) 4 sig = .ok ()) → m0 = (if tok = [] then s.m else useToken s.m tok) →
    q = newOp m0 r.port 0x0607 (pf r 0 1) →
    exec (.lifecycleSet sig r) s = .next (answered s 0x0607 r (if s.nv.lifecycle = 0 then q.1 else teardownAll q.1 0) q.2 [])) ∧
  (∀ nv, (nv.lifecycle = 0 → nv.keyHeld = true → nv.chain ≠ [] → lifecycleMove nv 1 = .ok ()) ∧ (nv.lifecycle = 1 → lifecycleMove nv 2 = .ok ()) ∧
    (nv.lifecycle = 2 → nv.returnCount < 3 → lifecycleMove nv 1 = .ok ()) ∧
    (nv.lifecycle = 2 → 3 ≤ nv.returnCount → lifecycleMove nv 1 = .error { status := 0x45, detail := 0 }))

/-- R452, R456: a token opens a debug session in place of the one before; DEBUG_LOCK ends it, and so does the end of the token's rounds,
which a session without a token does not have. -/
def Obligations.DebugCommands : Prop :=
  (∀ (s : State) r sig, Passes 0x0604 aD .none (lenIs 576) noResv r s → s.m.pwr.st < 2 → checkToken s.nv s.m r.payload 1 0 0 sig = .ok () →
    ∃ m, m = useToken (endSession s.m) r.payload ∧
      exec (.debugUnlock sig r) s = .next (answered s 0x0604 r { m with sec := { m.sec with session := (some
        { level := (tokenOf r.payload).value, ends := some (m.time.round.toNat + (tokenOf r.payload).rounds), scope := (tokenOf r.payload).scope }) } } 0
        (leBytes 1 (tokenOf r.payload).value))) ∧
  (∀ (s : State) r, Passes 0x0605 (aB + aD) .none (lenIs 0) noResv r s →
    exec (.debugLock r) s = .next (answered s 0x0605 r (endSession s.m) 0 []) ∧ (endSession s.m).sec.session = none) ∧
  (∀ (s : State) q n, s.m.sec.session = some q → q.ends = some n → n ≤ s.m.time.round.toNat →
    exec .debugSessionExpiry s = .next { s with m := endSession s.m }) ∧
  (∀ (s : State), (∀ q, s.m.sec.session = some q → ∀ n, q.ends = some n → s.m.time.round.toNat < n) → exec .debugSessionExpiry s = .next s) ∧
  (∀ (s : State), s.m.sec.session ≠ none → s.m.rst.waiting = [] → (endSession s.m).sec = { s.m.sec with session := none, mpHalted := false } ∧
    ∀ p, (getBlk (endSession s.m) p).halted = false)

/-- R423, R446, R461: OP_DONE. A long command that has its outcome leaves its event on the ring of its port and is over; a ZEROISE and a
transition do what is left of them once every context is gone. -/
def Obligations.LongCommandEnds : Prop :=
  (∀ (s : State) tag o q, s.m.mgmt.ops.find? (fun o => o.tag == tag) = some o → o.outcome = some q → o.port = .host → ringRoom s.m.mgmt.hostRing = true →
    exec (.opDone tag) s = .next { s with m := (
      hostEvent { s.m with mgmt := { s.m.mgmt with ops := s.m.mgmt.ops.filter (fun o => o.tag != tag) } } clsInfo
        { seq := 0, code := 1, contexts := (opCtx o).foldl (fun _ c => 2 ^ c) 0, subject := 0, unit := o.tag,
          detail := leBytes 2 o.opcode ++ leBytes 1 q.1 ++ leBytes 1 0 ++ leBytes 8 q.2 ++ leBytes 4 0, stamp := stampNow s.m (opCtx o).head? none 0 0 }) }) ∧
  (∀ (s : State) tag o, s.m.mgmt.ops.find? (fun o => o.tag == tag) = some o → o.outcome = none → o.opcode = 0x0606 → allDown s.m = true →
    ∃ z, z = zeroiseDone s.nv { s.m with sec := { s.m.sec with zeroise := none } } o.subject ∧
      exec (.opDone tag) s = .next { s with nv := z.1, m := opDone tag (endOp z.2 tag 0 0) }) ∧
  (∀ (s : State) tag o, s.m.mgmt.ops.find? (fun o => o.tag == tag) = some o → o.outcome = none → o.opcode = 0x0607 → allDown s.m = true →
    s.nv.lifecycle = 1 → o.subject = 2 →
    ∃ t, exec (.opDone tag) s = .next t ∧ t.pending = s.pending ∧ t.nv.lifecycle = 2 ∧ t.nv.returnCount = min 3 (s.nv.returnCount + 1) ∧
      t.nv.owner = none ∧ t.nv.policy = policyDefault) ∧
  (∀ (s : State) tag, s.m.mgmt.ops.find? (fun o => o.tag == tag) = none → exec (.opDone tag) s = .next s)

/-- R177, R203, R204, R207, R213, R347, R348: creation takes the lowest free slot and grants all or nothing, and leaves the slot ACTIVE with the next generation, its
parameters, its counters at their start and its milestones its own and zero; a close starts the teardown, whose end makes the slot CLOSED; an extension adds arrays,
a reclaim waits for the last started groups on those it names. -/
def Obligations.ContextCommands : Prop :=
  (∀ (s : State) r c g, Passes 0x0101 aH .none (fun p => 60 ≤ p.length && p.length == 60 + 8 * recNat p 52 2)
      (fun p => (54, 6) :: (List.range (recNat p 52 2)).map (fun i => (60 + 8 * i + 6, 2))) r s →
    checkPar r (readPar r) = .ok () → freeSlot s.m = some c → grantAll s.m c (readPar r) = .ok g →
    exec (.ctxCreate r) s = .next (answered s 0x0101 r (makeCtx s.m c g.1 g.2.1 (readPar r) g.2.2) 0
      (leBytes 2 (handleOf (makeCtx s.m c g.1 g.2.1 (readPar r) g.2.2) c) ++ leBytes 2 0 ++ leBytes 4 g.1))) ∧
  (∀ (s : State) r, Passes 0x0102 (aH + aB) .any (lenIs 0) noResv r s → (getCtx s.m (slotOf r)).st = .active →
    exec (.ctxClose r) s = .next (answered s 0x0102 r (startTeardown (newOp s.m r.port 0x0102 (slotOf r)).1 (slotOf r) 0) s.m.mgmt.nextTag [])) ∧
  (∀ (s : State) c, (getCtx s.m c).st = .teardown → mpStopped s.m = false → ∃ t, exec (.teardownEnd c) s = .next t ∧ t.nv = s.nv ∧ t.pending = s.pending ∧
    (getCtx t.m c).st = .closed ∧ (getCtx t.m c).gen = (getCtx s.m c).gen ∧ (getCtx t.m c).stmt = (getCtx s.m c).stmt + 1 ∧
    (∀ d, d ≠ c → getCtx t.m d = getCtx s.m d) ∧ t.m.mem = s.m.mem ∧ t.m.blocks = s.m.blocks ∧
    t.m.rst = { s.m.rst with counts := modNth s.m.rst.counts 0 (fun v => satAdd v 1), lastRung := 1 }) ∧
  (∀ (s : State) r rs, Passes 0x0103 aH .active (fun p => 4 ≤ p.length && p.length == 4 + 8 * recNat p 0 4)
      (fun p => (List.range (recNat p 0 4)).map (fun i => (4 + 8 * i + 6, 2))) r s →
    1 ≤ pf r 0 4 → pf r 0 4 ≤ 500 → rs = readRuns r 4 (pf r 0 4) → checkRuns 4 rs = .ok () →
    (∀ x ∈ runArrays rs, (physOf s.m x.array).isSome = true ∧ shareOf (getCtx s.m (slotOf r)) x.array = none ∧ maskClash s.m (slotOf r) x = false) →
    exec (.ctxExtend r) s = .next (answered s 0x0103 r (enterBlocks (modCtx s.m (slotOf r) (fun x =>
      { x with par := { x.par with blocks := x.par.blocks ++ runArrays rs } })) (slotOf r) (runArrays rs)) 0 [])) ∧
  (∀ (s : State) r as, Passes 0x0104 (aH + aB) .active (fun p => 8 ≤ p.length && p.length == 8 + 4 * recNat p 4 4) noResv r s → pf r 0 4 ≤ 10000 →
    1 ≤ pf r 4 4 →
    as = ((List.range (pf r 4 4)).map (fun i => (pf r (8 + 4 * i) 2, pf r (10 + 4 * i) 2))).flatMap (fun q => (List.range q.2).map (q.1 + ·)) →
    (((List.range (pf r 4 4)).map (fun i => (pf r (8 + 4 * i) 2, pf r (10 + 4 * i) 2))).all (fun q => 1 ≤ q.2 && q.1 + q.2 ≤ 1024) &&
      noDup as) = true →
    (getCtx s.m (slotOf r)).el.park = none → (getCtx s.m (slotOf r)).el.reclaim = none →
    as.all (fun a => (shareOf (getCtx s.m (slotOf r)) a).isSome) = true →
    exec (.ctxReclaim r) s = .next (answered s 0x0104 r (reevalCtx (modCtx (newOp s.m r.port 0x0104 (slotOf r)).1 (slotOf r)
      (fun x => { x with el := { x.el with reclaim := some { arrays := as, tag := s.m.mgmt.nextTag } } })) (slotOf r)) s.m.mgmt.nextTag [])) ∧
  (∀ (s : State) c a q, (getCtx s.m c).el.reclaim = some q → has q.arrays a = true → atBoundary s.m c a = true →
    ∃ t, exec (.reclaimBlockLeave c a) s = .next t ∧ t.nv = s.nv ∧ t.pending = s.pending ∧ t.m = reclaimLeave c a s.m ∧
      (getCtx t.m c).par.blocks.all (fun x => x.array != a) = true) ∧
  (∀ (s : State) c q, (getCtx s.m c).el.reclaim = some q →
    exec (.reclaimDeadline c) s = .next { s with m := askTeardown (endOp s.m q.tag 0x51 0) c 0x5003 }) ∧
  (∀ (m : Mach) c base seqBase (p : CtxPar) mem,
    (getCtx (makeCtx m c base seqBase p mem) c).st = .active ∧
    (getCtx (makeCtx m c base seqBase p mem) c).gen = nextGen (getCtx m c).gen ∧
    (getCtx (makeCtx m c base seqBase p mem) c).par = p ∧
    (getCtx (makeCtx m c base seqBase p mem) c).stepCtr = BitVec.ofNat 64 p.step0 ∧
    (getCtx (makeCtx m c base seqBase p mem) c).acct = [] ∧
    (getCtx (makeCtx m c base seqBase p mem) c).memory = mem.1 :: (mem.2.1 ++ mem.2.2) ∧
    (∀ d, d ≠ c → getCtx (makeCtx m c base seqBase p mem) d = getCtx m d) ∧
    (∀ n, base ≤ n → n < base + p.msCount → getMs (makeCtx m c base seqBase p mem) n = { noMs with owner := c * 4096 + nextGen (getCtx m c).gen }) ∧
    (∀ n, n < base ∨ base + p.msCount ≤ n → getMs (makeCtx m c base seqBase p mem) n = getMs m n) ∧
    (makeCtx m c base seqBase p mem).mem = m.mem)

/-- R344, R345, R350, R353, R354: re-sharding and parking. -/
def Obligations.ElasticCommands : Prop :=
  (∀ (s : State) r, Passes 0x0108 aH .active (lenIs 16) (resvAt [(4, 4)]) r s → pf r 0 4 ≠ (getCtx s.m (slotOf r)).layout →
    (getCtx s.m (slotOf r)).el.reshard = none → (inFlight (getCtx s.m (slotOf r))).all (fun e => e.step < pf r 8 8) = true →
    ((getCtx s.m (slotOf r)).ran = true → (getCtx s.m (slotOf r)).lastStep.toNat < pf r 8 8) →
    exec (.ctxReshard r) s = .next (answered s 0x0108 r (modEl (newOp s.m r.port 0x0108 (slotOf r)).1 (slotOf r)
      (fun y => { y with reshard := some { epoch := pf r 0 4, sAt := pf r 8 8, tag := s.m.mgmt.nextTag } })) s.m.mgmt.nextTag [])) ∧
  (∀ (s : State) c e, (getCtx s.m c).el.reshard = some e →
    (inFlight (getCtx s.m c)).all (fun r => e.sAt ≤ r.step || r.halted || r.ended) = true → startsBelow (getCtx s.m c) e.sAt = false → convsIdle s.m c = true →
    s.m.tier.wins.all (fun w => match w.2 with | some w => w.ctx != c | none => true) = true →
    exec (.reshardEffect c) s = .next { s with m := (
      endOp (modCtx s.m c (fun x => { x with layout := e.epoch, el := { x.el with reshard := none } })) e.tag 0 0) }) ∧
  (∀ (s : State) r, Passes 0x0105 aH .active (lenIs 12) noResv r s → pf r 0 4 ≤ 10000 → addrOk (pf r 4 8) = true → pf r 4 8 % 2048 = 0 →
    (getCtx s.m (slotOf r)).el.park = none → (getCtx s.m (slotOf r)).el.reclaim = none → (getCtx s.m (slotOf r)).el.restore = none →
    exec (.ctxPark r) s = .next (answered s 0x0105 r (reevalCtx (modEl (newOp s.m r.port 0x0105 (slotOf r)).1 (slotOf r)
      (fun y => { y with park := some { image := pf r 4 8, tag := s.m.mgmt.nextTag, quiesced := false } })) (slotOf r)) s.m.mgmt.nextTag [])) ∧
  (∀ (s : State) c k, (getCtx s.m c).el.park = some k → quiesced s.m c = true →
    exec (.parkQuiesced c) s = .next { s with m := modEl s.m c (fun y => { y with park := some { k with quiesced := true } }) }) ∧
  (∀ (s : State) c k, (getCtx s.m c).el.park = some k → k.quiesced = false →
    exec (.parkDeadline c) s = .next { s with m := reevalCtx (endOp (modEl s.m c (fun y => { y with park := none })) k.tag 0x51 0) c }) ∧
  (∀ (s : State) c k m0 m1 a d b, (getCtx s.m c).el.park = some k → k.quiesced = true → quiesced s.m c = true → m0 = settle s.m c →
    fabWrite (freeStep m0 (imageSize (imageOf m0 c) - 64)) (unitRef c) (.sequence c) (k.image + 64)
      (freeBytes m0 (imageSize (imageOf m0 c) - 64)) [] = .ok m1 a d b →
    ∃ t, exec (.parkComplete c) s = .next t ∧ t.nv = s.nv ∧ t.pending = s.pending ∧ (getCtx t.m c).st = .parked ∧
      (getCtx t.m c).el.park = none ∧ tget none t.m.parked c = some (imageOf m0 c)) ∧
  (∀ (s : State) r image i, Passes 0x0106 aH .parked (lenIs 0) noResv r s → tget none s.m.parked (slotOf r) = some i →
    setFree s.m (slotOf r) i.ctx.par.blocks = true →
    (match readRec s.m (slotOf r) image 64 [] with | some h => headerGood h | none => true) = true →
    ∃ m, m = resumeRecord (reopenChans (countSets (abortConvs (loadSet (modCtx (newOp s.m r.port 0x0106 (slotOf r)).1 (slotOf r)
        (fun x => { x with st := .active })) i (slotOf r)) (slotOf r)) (slotOf r) true) i (handleOf s.m (slotOf r))) (slotOf r) i.record ∧
      exec (.ctxUnpark image true r) s = .next (answered s 0x0106 r
        (reevalCtx (endOp { m with parked := tset none m.parked (slotOf r) none } s.m.mgmt.nextTag 0 0) (slotOf r)) s.m.mgmt.nextTag [])) ∧
  (∀ (s : State) r i d g, Passes 0x0107 aH .active (lenIs 8) noResv r s → addrOk (pf r 0 8) = true → pf r 0 8 % 2048 = 0 →
    (getCtx s.m (slotOf r)).par.blocks = [] → freeSlot s.m = some d → setFree s.m d i.ctx.par.blocks = true →
    grantAll s.m d i.ctx.par = .ok g →
    exec (.ctxUnparkImage (some i) r) s = .next (answered s 0x0107 r
      (loadImage (makeCtx (newOp s.m r.port 0x0107 d).1 d g.1 g.2.1 i.ctx.par g.2.2) i d s.m.mgmt.nextTag) s.m.mgmt.nextTag []))

/-- R190, R191, R193: MANIFEST_POST takes a well-formed image whose resources the context has into the lowest free slot, MANIFEST_LAUNCH adds
launches and answers how many there were, MANIFEST_RETIRE is a long command. -/
def Obligations.ManifestCommands : Prop :=
  (∀ (s : State) r ext bs i k, Passes 0x0109 aH .active (lenIs 16) (resvAt [(12, 4)]) r s → addrOk (pf r 0 8) = true → 64 ≤ pf r 8 4 →
    pf r 8 4 ≤ 268435456 → readRec s.m (slotOf r) (pf r 0 8) (pf r 8 4) ext = some bs → readImage bs = .ok i → checkPost s.m (slotOf r) i = .ok k →
    exec (.manifestPost ext r) s = .next (answered s 0x0109 r (postImage s.m (slotOf r) k i bs) 0
      (leBytes 2 (slotOf r * 4096 + k * 256 + tget 0 (getCtx (postImage s.m (slotOf r) k i bs) (slotOf r)).manGen k) ++ leBytes 2 0))) ∧
  (∀ (s : State) r q, Passes 0x010A aH .active (lenIs 8) (resvAt [(2, 2)]) r s → 1 ≤ pf r 4 4 → manOf s.m (slotOf r) (pf r 0 2) = some q →
    q.2.halted = false → q.2.retiring = none →
    exec (.manifestLaunch r) s = .next (answered s 0x010A r
      (modMan s.m (slotOf r) q.1 (fun y => { y with launched := y.launched + pf r 4 4 })) 0 (leBytes 4 q.2.launched))) ∧
  (∀ (s : State) r q, Passes 0x010B aH .active (lenIs 4) (resvAt [(2, 2)]) r s → manOf s.m (slotOf r) (pf r 0 2) = some q → q.2.retiring = none →
    exec (.manifestRetire r) s = .next (answered s 0x010B r
      (finishRetire (modMan (newOp s.m r.port 0x010B (slotOf r)).1 (slotOf r) q.1 (fun y => { y with retiring := some s.m.mgmt.nextTag })) (slotOf r) q.1)
      s.m.mgmt.nextTag [])) ∧
  (∀ (m : Mach) c k i bs, getMan m c k = none →
    ∃ q, getMan (postImage m c k i bs) c k = some q ∧ q.img = i ∧ q.launched = 0 ∧ q.nextRun = 0 ∧ q.runs = [] ∧ q.halted = false ∧
      q.gen = (tget 0 (getCtx m c).manGen k + 1) % 256 ∧ q.place = (storePlace (getCtx m c) i.bytes).getD 0) ∧
  (∀ (m : Mach) c k i bs st, storeBase (getCtx m c) = some st →
    (postImage m c k i bs).mem = (wrBytes m (st + (storePlace (getCtx m c) i.bytes).getD 0) bs).mem) ∧
  (∀ (m : Mach) c k q tag, getMan m c k = some q → q.retiring = some tag → (∀ r ∈ q.runs, r.started = false) →
    getMan (finishRetire m c k) c k = none)

/-- R191, R192, R199, R220: the start and the end of runs, the steps of serving, and the starts and ends of waybills. -/
def Obligations.RunEvents : Prop :=
  (∀ (s : State) c k q, getMan s.m c k = some q → canStart s.m c k = true →
    (serves (getCtx s.m c) k = true → (q.runs.find? (fun r => r.run == q.nextRun && r.built)).isSome = true) →
    exec (.runStart c k) s = .next { s with m := (reevalCtx (wakeWatches (startRun s.m c k q
      ((q.runs.find? (fun r => r.run == q.nextRun && r.built)).getD (newRun q.nextRun (nextStep (getCtx s.m c) q) []))) c
      (nextStep (getCtx s.m c) q)) c) }) ∧
  (∀ (s : State) c k run q r, getMan s.m c k = some q → getRun q run = some r → r.started = true → r.ended = false → anyRunning s.m c k run = false →
    ((List.range q.img.waybills.length).all (has r.doneWbs) = true ∨ r.halted = true) → remoteOut s.m c k run none = false →
    ∃ m, m = modRun { s.m with ass := { s.m.ass with markers := (s.m.ass.markers ++
          (runBlocks s.m q).map (fun p => ({ ctx := c, step := r.step, man := k, run := r.run, p := p } : Marker))) } } c k run
        (fun e => { e with ended := true, flags := e.flags ||| (if (List.range q.img.waybills.length).any (fun w => drainsRebuild s.m q.img w) then 0x100 else 0) }) ∧
      exec (.runComplete c k run) s = .next { s with m := (
        if ((List.range q.img.waybills.length).all (has r.doneWbs) && !r.halted && q.img.step && (getCtx m c).el.src.isSome) = true then m
        else finishRun m c k run) }) ∧
  (∀ (s : State) p c e, blkRuns s.m p = true → (getBlk (reeval s.m p) p).seq.holder = some c → (getCtx (reeval s.m p) c).st = .active →
    pick (reeval s.m p) p c = some e →
    exec (.waybillStart p) s = .next { s with m := reeval (startWb (reeval s.m p) p c e.1 e.2.1 e.2.2.1 e.2.2.2) p }) ∧
  (∀ (s : State) p c e m, blkRuns s.m p = true → (getBlk (reeval s.m p) p).seq.holder = none → nextHolder (reeval s.m p) p none = some c →
    m = modBlk (reeval s.m p) p (fun b => { b with seq := { b.seq with holder := some c, heldCycles := 0 } }) → (getCtx m c).st = .active →
    pick m p c = some e →
    exec (.waybillStart p) s = .next { s with m := reeval (startWb m p c e.1 e.2.1 e.2.2.1 e.2.2.2) p }) ∧
  (∀ (s : State) p st w q z, runningOn (getBlk s.m p) st = some w → bodyOver w = true → getMan s.m w.ctx w.man = some q →
    awaitsWrites (getBlk s.m p) w q.img = false → z = releaseWb s.m p w q →
    (z.2 ≠ 0 → exec (.waybillComplete p st) s = .next { s with m := reeval (endWaybill z.1 p w q.img z.2) p }) ∧
    (z.2 = 0 → exec (.waybillComplete p st) s = .next { s with m := (
      reeval (endWaybill (outputsFault z.1 w q.img).1 p w q.img (outputsFault z.1 w q.img).2) p) })) ∧
  (∀ (s : State) c f q, (getCtx s.m c).sv.conf = some f → getMan s.m c f.man = some q → canStart s.m c f.man = true →
    q.runs.any (fun r => r.run == q.nextRun) = false →
    exec (.seqStepBuild c false) s = .next { s with m := buildStep s.m c f q.nextRun (nextStep (getCtx s.m c) q) } ∧
    exec (.seqStepBuild c true) s = .next { s with m := stateLost s.m c (unitCtx c (handleOf s.m c)) })

/-- R111, R134, R191, R192, R199: what a started run leaves: its record is PENDING under the next completion sequence number, and a step run moves the step counter. What a started
waybill leaves on its block: it runs with its registers and tokens, its start is counted, and one that reports has the next completion sequence number. -/
def Obligations.StartedWork : Prop :=
  (∀ (m : Mach) c k q r0, getMan m c k = some q →
    (getCtx (startRun m c k q r0) c).lastStep = BitVec.ofNat 64 (nextStep (getCtx m c) q) ∧
    (getCtx (startRun m c k q r0) c).ran = true ∧
    (getCtx (startRun m c k q r0) c).stepCtr = (if q.img.step then (getCtx m c).stepCtr + 1 else (getCtx m c).stepCtr) ∧
    (getCtx (startRun m c k q r0) c).cr.issued = (getCtx m c).cr.issued + 1 ∧
    (tget noRec (getCtx (startRun m c k q r0) c).cr.recs (((getCtx m c).cr.issued + 1).toNat % 4096)).st = .pending ∧
    (tget noRec (getCtx (startRun m c k q r0) c).cr.recs (((getCtx m c).cr.issued + 1).toNat % 4096)).kind = 2 ∧
    (tget noRec (getCtx (startRun m c k q r0) c).cr.recs (((getCtx m c).cr.issued + 1).toNat % 4096)).run = q.nextRun) ∧
  (∀ (m : Mach) p c k run w q, getMan m c k = some q → p < 1088 →
    ∃ r, (getBlk (startWb m p c k run w .body) p).seq.running = (getBlk m p).seq.running ++ [r] ∧ r.ctx = c ∧ r.man = k ∧ r.run = run ∧ r.wb = w ∧
      r.stream = (wbOf q.img w).stream ∧ r.vregs = (wbOf q.img w).vregs ∧ r.code = 0 ∧ r.regs = [] ∧
      r.items = (bodyOf q.img w).map (fun _ => ItemSt.waiting) ∧
      (r.seq.isSome = (wbOf q.img w).report) ∧
      ((wbOf q.img w).report = true → r.seq = some ((getCtx m c).cr.issued + 1).toNat) ∧
      (getBlk (startWb m p c k run w .body) p).seq.starts = satAdd (getBlk m p).seq.starts 1 ∧
      (getBlk (startWb m p c k run w .body) p).sp.owner =
        (List.range 6).map (fun i => if nthN (wbOf q.img w).banks i = 0 then nthN (getBlk m p).sp.owner i else nthN (wbOf q.img w).banks i))

/-- R200, R201: a completion record takes its final header once its slot's advances are home, and the host frees records it acknowledges;
an acknowledgement past what is final, or not one whole aligned write, is ignored and counted. -/
def Obligations.CompletionRecords : Prop :=
  (∀ (s : State) c q r, tget noRec (getCtx s.m c).cr.recs (q % 4096) = r → r.seq = q → r.st = .pending → r.final = true → advancing s.m c = false →
    completionRecord.waits c s.m r = false →
    ∃ m, m = modCtx s.m c (fun x => { x with cr := { x.cr with recs := (tset noRec x.cr.recs (q % 4096)
          { r with st := if r.code = 0 then .done else .error }) } }) ∧
      exec (.completionRecord c q) s = .next { s with m := if r.notify = true then signal m (2 + c) else m }) ∧
  (∀ (s : State) c v, (BitVec.ofNat 32 v - (getCtx s.m c).cr.ack).toNat ≤ ((getCtx s.m c).cr.issued - (getCtx s.m c).cr.ack).toNat →
    recsFinal (getCtx s.m c) (getCtx s.m c).cr.ack.toNat (BitVec.ofNat 32 v - (getCtx s.m c).cr.ack).toNat = true →
    exec (.chpCrAck c v true) s = .next { s with m := modCtx s.m c (fun x => { x with cr := { x.cr with ack := BitVec.ofNat 32 v } }) }) ∧
  (∀ (s : State) c v whole, (whole = false ∨ ((getCtx s.m c).cr.issued - (getCtx s.m c).cr.ack).toNat < (BitVec.ofNat 32 v - (getCtx s.m c).cr.ack).toNat ∨
      recsFinal (getCtx s.m c) (getCtx s.m c).cr.ack.toNat (BitVec.ofNat 32 v - (getCtx s.m c).cr.ack).toNat = false) →
    exec (.chpCrAck c v whole) s = .next { s with m := (reportCtx (modCtx s.m c (fun x => { x with cr := { x.cr with bad := satAdd x.cr.bad 1 } }))
      0x200C (unitCtx c (handleOf s.m c)) c 0 (leBytes 4 v)) })

/-- R118, R120, R182, R183, R188, R210, R211, R261: the sequencer's own items, the passing of a shared block, and milestones: the home applies the advances that reached it as one sum,
refuses and counts them on a frozen milestone; a multicast takes the value to a block; a consumer that becomes late is counted once. -/
def Obligations.SequencerItems : Prop :=
  (∀ (s : State) p st w i n cfg ptr, seqItem s.m p st isWindowSet = some (w, i, .windowSet n cfg ptr) →
    windowBusy s.m p w.ctx n = false → ((getWin (getBlk s.m p) n).enable = false ∨ (getWin (getBlk s.m p) n).ctx = w.ctx) →
    exec (.windowSet p st false) s = .next { s with m := (markItem (modBlk s.m p (fun b => modWin b n (fun _ =>
      if tbit cfg 31 then { enable := true, ring := tbit cfg 30, ctx := w.ctx, size := fld cfg 9 9, base := fld cfg 0 9, head := fld ptr 0 21, tail := fld ptr 32 21 }
      else { noWin with ctx := w.ctx }))) p st i .done) }) ∧
  (∀ (s : State) p st w i n cfg ptr, seqItem s.m p st isWindowSet = some (w, i, .windowSet n cfg ptr) →
    windowBusy s.m p w.ctx n = false → (getWin (getBlk s.m p) n).enable = true → (getWin (getBlk s.m p) n).ctx ≠ w.ctx →
    exec (.windowSet p st false) s = .next { s with m := failItem s.m p w i cSpWindow }) ∧
  (∀ (s : State) p st w i en bank, seqItem s.m p st isAliasSet = some (w, i, .aliasSet en bank) →
    aliasBusy s.m p w.ctx = false → ((getBlk s.m p).sp.aliasOn = false ∨ (getBlk s.m p).sp.aliasCtx = w.ctx) →
    exec (.aliasSet p st false) s = .next { s with m := (markItem (modSp s.m p
      (fun x => { x with aliasOn := en, aliasBank := bank, aliasCtx := w.ctx })) p st i .done) }) ∧
  (∀ (s : State) p st w i it, seqItem s.m p st isBarrier = some (w, i, it) →
    exec (.barrier p st) s = .next { s with m := markItem s.m p st i .done }) ∧
  (∀ (s : State) p a h d, arrayOf (reeval s.m p) p = some a → (getBlk (reeval s.m p) p).seq.holder = some h →
    mustLeave (reeval s.m p) p a h = true → atBoundary (reeval s.m p) h a = true → nextHolder (reeval s.m p) p (some h) = some d →
    exec (.blockHandover p) s = .next { s with m := reeval (handOver (reeval s.m p) p h d a) p }) ∧
  (∀ (s : State) n, homeRuns s.m n = true → (s.m.msQueue.filter (fun q => q.1 == n)).isEmpty = false → (getMs s.m n).frozen = false →
    exec (.milestoneAdvance n false) s = .next { s with m := (
      modMs { s.m with msQueue := s.m.msQueue.filter (fun q => q.1 != n) } n (fun x =>
        { x with value := wrapAdd x.value ((s.m.msQueue.filter (fun q => q.1 == n)).foldl (fun a q => a + q.2) 0) })) }) ∧
  (∀ (s : State) n, homeRuns s.m n = true → (s.m.msQueue.filter (fun q => q.1 == n)).isEmpty = false → (getMs s.m n).frozen = true →
    exec (.milestoneAdvance n false) s = .next { s with m := (
      { s.m with msQueue := s.m.msQueue.filter (fun q => q.1 != n), msRefused := satAdd s.m.msRefused (s.m.msQueue.filter (fun q => q.1 == n)).length }) }) ∧
  (∀ (s : State) n, homeRuns s.m n = true → (getMs s.m n).owner ≠ 0 →
    exec (.milestoneAdvance n true) s = .next { s with m := stateLost s.m ((getMs s.m n).owner / 4096) (unitRgn (homeOf n) 1) }) ∧
  (∀ (s : State) n p, exec (.milestoneMulticast n p) s = .next { s with m := (reeval (modBlk s.m p (fun b =>
    { b with seq := { b.seq with view := tset 0 b.seq.view n (getMs s.m n).value } })) p) }) ∧
  (∀ (s : State) c k run w q r p, getMan s.m c k = some q → getRun q run = some r → physOf s.m (wbOf q.img w).array = some p → r.started = true →
    r.halted = false → eligible q r w = true → (unmet (getBlk s.m p) (getCtx s.m c) q.img run w).isEmpty = false →
    (unmet (getBlk s.m p) (getCtx s.m c) q.img run w).all (isOutrider q.img) = true → q.late.any (· == (run, w)) = false →
    exec (.outriderDeadline c k run w) s = .next { s with m := (reeval (modCtx (modMan s.m c k (fun q => { q with late := q.late ++ [(run, w)] })) c
      (fun x => { x with orLate := satAdd x.orLate 1 })) p) })

/-- R327, R336: saving and loading the numerics record, opening and closing watches. A save closes the step first and waits for the runs of
it; a load answers how many entries it took and rejected. -/
def Obligations.NumericsCommands : Prop :=
  (∀ (s : State) r m q, Passes 0x010D aH .active (lenIs 8) noResv r s → addrOk (pf r 0 8) = true →
    m = (if (inFlight (getCtx s.m (slotOf r))).all (·.ended) = true then settle s.m (slotOf r) else s.m) → settled m (slotOf r) = true →
    writeRecord m (slotOf r) (pf r 0 8) = some q → exec (.numericsSave r) s = .next (answered s 0x010D r q.1 0 (leBytes 4 q.2))) ∧
  (∀ (s : State) r m, Passes 0x010D aH .active (lenIs 8) noResv r s → addrOk (pf r 0 8) = true →
    m = (if (inFlight (getCtx s.m (slotOf r))).all (·.ended) = true then settle s.m (slotOf r) else s.m) → settled m (slotOf r) = false →
    exec (.numericsSave r) s = .next { s with m := (modMbx m r.port
      (fun b => { b with st := .busy, tally := r.tally, accepted := true, inHand := some (0x010D, r) })) }) ∧
  (∀ (s : State) r ext hd bs, Passes 0x010E aH .active (lenIs 8) noResv r s → addrOk (pf r 0 8) = true →
    (∀ n ∈ openWatches s.m (slotOf r), (getWatch s.m n).st = 1) → readRec s.m (slotOf r) (pf r 0 8) 32 ext = some hd → recNat hd 8 4 ≤ 16384 →
    readRec s.m (slotOf r) (pf r 0 8) (32 + 96 * recNat hd 8 4) ext = some bs →
    exec (.numericsLoad ext r) s = .next (answered s 0x010E r (loadRecord s.m (slotOf r) bs).1 0
      (leBytes 4 (loadRecord s.m (slotOf r) bs).2.1 ++ leBytes 4 (loadRecord s.m (slotOf r) bs).2.2))) ∧
  (∀ (s : State) r, Passes 0x010F aH .opt (lenIs 32) (resvAt [(10, 6), (24, 8)]) r s → pf r 0 2 < 16384 → (r.handle = 0 ∨ pf r 2 2 = r.handle.toNat) →
    addrOk (pf r 16 8) = true → pf r 16 8 % 8 = 0 → checkHandle s.m .active (pf r 2 2) = .ok () → (getWatch s.m (pf r 0 2)).st = 0 →
    exec (.watchOpen r) s = .next (answered s 0x010F r (openWatch s.m (pf r 0 2) r.payload) 0 [])) ∧
  (∀ (s : State) r, Passes 0x0110 aH .active (lenIs 4) (resvAt [(2, 2)]) r s → pf r 0 2 < 16384 → has (openWatches s.m (slotOf r)) (pf r 0 2) = true →
    exec (.watchClose r) s = .next (answered s 0x0110 r (closeWatch s.m (pf r 0 2)) 0 [])) ∧
  (∀ (m : Mach) n cfg, (getWatch (openWatch m n cfg) n).st = 1 ∧ (getWatch (openWatch m n cfg) n).ctx = recNat cfg 2 2 ∧
    (getWatch (openWatch m n cfg) n).threshold = recNat cfg 4 2 ∧ (getWatch (openWatch m n cfg) n).k = recNat cfg 6 2 ∧
    (getWatch (openWatch m n cfg) n).limit = recNat cfg 8 2 ∧ (getWatch (openWatch m n cfg) n).addr = recNat cfg 16 8 ∧
    (getWatch (closeWatch m n) n).st = 0 ∧ ∀ k, k ≠ n → getWatch (openWatch m n cfg) k = getWatch m k ∧ getWatch (closeWatch m n) k = getWatch m k)

/-- R329 to R332: summaries reach the assayer before their block's marker, a step closes once its runs are over and its markers are in, and a close
that does not finish in time stops. -/
def Obligations.AssayerEvents : Prop :=
  (∀ (s : State) q qs, s.m.ass.sums = q :: qs →
    exec .assayerSummary s = .next { s with m := applySum { s.m with ass := { s.m.ass with sums := qs } } q }) ∧
  (∀ (s : State) k ks, s.m.ass.markers = k :: ks →
    exec .endOfRunMarker s = .next { s with m := ((s.m.ass.sums.filter (fun q => q.ctx == k.ctx && q.step == k.step)).foldl applySum
      { s.m with ass := { s.m.ass with sums := s.m.ass.sums.filter (fun q => !(q.ctx == k.ctx && q.step == k.step)), markers := ks,
                                       arrived := s.m.ass.arrived ++ [k] } }) }) ∧
  (∀ (s : State) c q, (getMbx s.m .host).inHand = none → closable s.m c = some q →
    (higherAssigned (getCtx s.m c) q = true ∨ (getCtx s.m c).el.park.isSome = true ∨ (getCtx s.m c).st = .teardown) →
    s.m.ass.stopped.any (fun z => z.1 == c) = false → exec (.stepClose c) s = .next { s with m := closeStep s.m c q }) ∧
  (∀ (s : State) c q r, (getMbx s.m .host).inHand = some (0x010D, r) → slotOf r = c → (getMbx s.m .host).st = .busy → closable s.m c = some q →
    exec (.stepClose c) s = .next { s with m := resumeSave (closeStep s.m c q) c }) ∧
  (∀ (s : State) c q, closable s.m c = some q → s.m.ass.stopped.any (fun z => z.1 == c) = false →
    exec (.closeTimeout c) s = .next { s with m := { s.m with ass := { s.m.ass with stopped := s.m.ass.stopped ++ [(c, q)] } } }) ∧
  (∀ (m : Mach) q, (getWatch m q.watch).st ≠ 0 → (getWatch m q.watch).ctx = handleOf m q.ctx →
    ∃ x, x = tget noStats (getWatch (applySum m q) q.watch).open_ q.step ∧ ∃ y, y = tget noStats (getWatch m q.watch).open_ q.step ∧
      x.elements = y.elements + q.elements ∧ x.zeros = y.zeros + q.zeros ∧ x.saturated = y.saturated + q.saturated ∧
      x.nonfinite = y.nonfinite + q.nonfinite ∧ x.underflow = y.underflow + q.underflow ∧ x.amax = max y.amax q.amax) ∧
  (∀ (m : Mach) c q, (getCtx (closeStep m c q) c).closed = some q)

/-- R255, R256, R222: ordered windows, from their opening to the freeing of their slot, and the serving configuration. -/
def Obligations.OrderedAndServing : Prop :=
  (∀ (s : State) r t l k w, Passes 0x0111 aH .active (lenIs 40) (resvAt [(17, 1), (26, 2)]) r s → addrOk (pf r 0 8) = true → pf r 0 8 % 2048 = 0 →
    1 ≤ pf r 8 8 → pf r 8 8 ≤ 0x100000000 → pf r 16 1 < 4 → addrOk (pf r 28 8) = true → pf r 18 2 < (getCtx s.m (slotOf r)).par.msCount →
    pf r 24 2 < (getCtx s.m (slotOf r)).par.msCount → ownRange s.m (slotOf r) 0x02 (pf r 0 8) (pf r 8 8) = some t →
    ownRange s.m (slotOf r) 0x02 (pf r 28 8) (max 1 (32 * pf r 36 4)) = some l → (tierOf t).isSome = true → tierOf t = tierOf l →
    s.m.tier.wins.all (fun e => match e.2 with
      | some w => w.target + w.bytes ≤ t || t + pf r 8 8 ≤ w.target
      | none => true) = true →
    (List.range 64).find? (fun k => (tget none s.m.tier.wins k).isNone) = some k →
    w = ({ ctx := slotOf r, target := t, bytes := pf r 8 8, fmt := pf r 16 1, closeMs := (getCtx s.m (slotOf r)).msBase + pf r 18 2,
           closeTarget := pf r 20 4, doneMs := (getCtx s.m (slotOf r)).msBase + pf r 24 2, logAddr := l, nMax := pf r 36 4, closing := false,
           shares := [], log := [] } : OrdWin) →
    exec (.orderedOpen r) s = .next (answered s 0x0111 r { s.m with tier := { s.m.tier with wins := tset none s.m.tier.wins k (some w) } } 0 (leBytes 4 k))) ∧
  (∀ (s : State) n w, tget none s.m.tier.wins n = some w → w.closing = false → msMet (getMs s.m w.closeMs).value.toNat w.closeTarget = true →
    exec (.orderedClose n) s = .next { s with m := { applyLog s.m w with
      tier := { (applyLog s.m w).tier with wins := tset none (applyLog s.m w).tier.wins n (some { w with closing := true, log := [] }) } } }) ∧
  (∀ (s : State) n w, tget none s.m.tier.wins n = some w → w.closing = true →
    exec (.orderedShareClosed n) s = .next { s with m := advanceMs { s.m with tier := { s.m.tier with wins := tdel s.m.tier.wins n } } w.doneMs 1 }) ∧
  (∀ (s : State) r q binds privs, Passes 0x0113 aH .active (fun p => 32 ≤ p.length && p.length == alignUp (32 + 8 * recNat p 24 4 + 2 * recNat p 28 4) 4)
      (fun p => [(2, 2)] ++ (List.range (recNat p 24 4)).map (fun i => (32 + 8 * i + 6, 2)) ++
        (if recNat p 28 4 % 2 = 1 then [(32 + 8 * recNat p 24 4 + 2 * recNat p 28 4, 2)] else [])) r s →
    1 ≤ pf r 4 4 → pf r 4 4 ≤ 65536 → addrOk (pf r 8 8) = true → addrOk (pf r 16 8) = true → manOf s.m (slotOf r) (pf r 0 2) = some q →
    q.2.img.step = true → binds = (List.range (pf r 24 4)).map (fun i => (pf r (32 + 8 * i) 4, pf r (36 + 8 * i) 2)) →
    privs = (List.range (pf r 28 4)).map (fun i => pf r (32 + 8 * pf r 24 4 + 2 * i) 2) →
    binds.all (fun b => b.1 < q.2.img.waybills.length && b.2 < (getCtx s.m (slotOf r)).par.maxTiles) = true →
    privs.all (fun d => d < q.2.img.decls.length && (q.2.img.decls.getD d noDecl).cls == 1) = true →
    exec (.servingConfig r) s = .next (answered s 0x0113 r (modServ s.m (slotOf r) (fun v => { v with conf := (some
      { man := q.1, perPage := pf r 4 4, stepBuf := pf r 8 8, ptrTable := pf r 16 8, binds := binds, privates := privs }) })) 0 []))

/-- R380, R382 to R385: the check-value unit is configured for its context's block, judges the next frame it tapped, and turned off by zeros. -/
def Obligations.CheckValues : Prop :=
  (∀ (s : State) r p, Passes 0x0112 aH .active (lenIs 36) (resvAt [(2, 2), (4, 2)]) r s → fld (pf r 4 8) 28 4 = 0 → pf r 0 2 < 1024 →
    tbit (pf r 4 8) 63 = true → 8 ≤ fld (pf r 4 8) 50 6 + 1 → (tbit (pf r 4 8) 56 = true ∨ (fld (pf r 4 8) 50 6 + 1) % 8 = 0) →
    (tbit (pf r 4 8) 60 = false ∨ fld (pf r 4 8) 61 2 = 0) → pf r 12 8 < 2 ^ (fld (pf r 4 8) 50 6 + 1) → physOf s.m (pf r 0 2) = some p →
    (shareOf (getCtx s.m (slotOf r)) (pf r 0 2)).isSome = true →
    (tbit (getBlk s.m p).cv.cfg.toNat 63 = false ∨ fld (getBlk s.m p).cv.cfg.toNat 28 4 = slotOf r) →
    exec (.cvConfigure r) s = .next (answered s 0x0112 r (modBlk s.m p (fun b => { b with cv := (
      { cvReset with cfg := BitVec.ofNat 64 (pf r 4 8 ||| slotOf r <<< 28), poly := BitVec.ofNat 64 (pf r 12 8), init := BitVec.ofNat 64 (pf r 20 8),
                     expect := BitVec.ofNat 64 (pf r 28 8) }) })) 0 [])) ∧
  (∀ (s : State) r p, Passes 0x0112 aH .active (lenIs 36) (resvAt [(2, 2), (4, 2)]) r s → pf r 0 2 < 1024 → pf r 4 8 = 0 → pf r 12 8 = 0 → pf r 20 8 = 0 →
    pf r 28 8 = 0 → physOf s.m (pf r 0 2) = some p → (shareOf (getCtx s.m (slotOf r)) (pf r 0 2)).isSome = true →
    (tbit (getBlk s.m p).cv.cfg.toNat 63 = false ∨ fld (getBlk s.m p).cv.cfg.toNat 28 4 = slotOf r) →
    exec (.cvConfigure r) s = .next (answered s 0x0112 r (modBlk s.m p (fun b =>
      { b with cv := { (getBlk s.m p).cv with cfg := 0, frameQ := [] } })) 0 [])) ∧
  (∀ (s : State) p f fs, tbit (getBlk s.m p).cv.cfg.toNat 63 = true → engineInReset s.m p 3 = false → blkRuns s.m p = true →
    fld (getBlk s.m p).cv.cfg.toNat 61 2 ≠ 0 → (getBlk s.m p).cv.frameQ = f :: fs →
    exec (.cvFrame p) s = .next { s with m := (cvTake (modBlk s.m p (fun b => { b with cv := { b.cv with frameQ := fs } })) p f).1 }) ∧
  (∀ v frame, (cvJudge v frame).1.frames = satAdd v.frames 1 ∧ (cvJudge v frame).1.cfg = v.cfg ∧ (cvJudge v frame).1.frameQ = v.frameQ) ∧
  (∀ v frame, fld v.cfg.toNat 48 2 = 0 → cvTrailer v ≤ frame.length →
    (cvJudge v frame).2 = (if checkValue (cvCheck v) (frame.take (frame.length - cvTrailer v)) =
      (if tbit v.cfg.toNat 56 = true then v.expect.toNat else leNat (frame.drop (frame.length - cvTrailer v))) then [] else [0]))

/-- R251, R252, R366 to R369: cargo sets. A load or a swap is a long command that ends when the set is READY; a set no context is bound to any longer is EMPTY and
its pages enter ZEROING; a pointer switch replaces one that waits for the same entry, and is written with no run in flight; sources that do not answer are given up. -/
def Obligations.CargoSets : Prop :=
  (∀ (s : State) r ps c, Passes 0x0201 aH .opt (lenIs 92) (resvAt [(26, 2)]) r s → pf r 0 2 < 4096 → addrOk (pf r 4 8) = true → pf r 4 8 % 2048 = 0 →
    pf r 12 8 ≠ 0 → pf r 12 8 % 2048 = 0 → 200 ≤ pf r 20 4 → pf r 20 4 ≤ 50000 → pf r 24 1 ≤ 1 → pf r 25 1 ≤ 8 → (pf r 24 1 = 1 ∨ 1 ≤ pf r 25 1) →
    (∀ i, i < 8 → addrOk (pf r (28 + 8 * i) 8) = true) → checkHandle s.m .active (pf r 2 2) = .ok () → (getCargo s.m (pf r 0 2)).st = 0 →
    c = pf r 2 2 / 4096 → cargoPages s.m c (pf r 4 8) (pf r 12 8) = some ps →
    exec (.cargoLoad r) s = .next (answered s 0x0201 r (startLoad (modCargo (newOp s.m r.port 0x0201 c).1 (pf r 0 2) (fun _ =>
      { cargoReset with st := 1, keeper := c, base := pf r 4 8, bytes := pf r 12 8, pages := ps, seed := pf r 24 1 == 1,
                        sources := (List.range (pf r 25 1)).map (fun i => pf r (28 + 8 * i) 8), refetchUs := pf r 20 4,
                        left := List.range ps.length, tag := some s.m.mgmt.nextTag })) (pf r 0 2)) s.m.mgmt.nextTag [])) ∧
  (∀ (s : State) r, Passes 0x0202 aH .opt (lenIs 4) (resvAt [(2, 2)]) r s → pf r 0 2 < 4096 →
    ((getCargo s.m (pf r 0 2)).st = 1 ∨ (getCargo s.m (pf r 0 2)).st = 4) → (getCargo s.m (pf r 0 2)).seed = true → (getCargo s.m (pf r 0 2)).sealed = false →
    exec (.cargoSeal r) s = .next (answered s 0x0202 r (modCargo s.m (pf r 0 2) (fun g => { g with sealed := true, left := [] })) 0 [])) ∧
  (∀ (s : State) r, Passes 0x0203 aH .active (lenIs 4) (resvAt [(2, 2)]) r s → pf r 0 2 < 4096 → (getCargo s.m (pf r 0 2)).st = 2 →
    exec (.cargoBind r) s = .next (answered s 0x0203 r
      (modServ (modCargo s.m (pf r 0 2) (fun g => { g with bound := insNat (slotOf r) g.bound })) (slotOf r)
        (fun v => { v with bindings := insNat (pf r 0 2) v.bindings })) 0 [])) ∧
  (∀ (s : State) r g, Passes 0x0204 aH .active (lenIs 4) (resvAt [(2, 2)]) r s → pf r 0 2 < 4096 → g = getCargo s.m (pf r 0 2) →
    has g.bound (slotOf r) = true →
    ∃ m, m = modServ s.m (slotOf r) (fun v => { v with bindings := delNat (pf r 0 2) v.bindings }) ∧
      (delNat (slotOf r) g.bound ≠ [] → exec (.cargoUnbind r) s = .next (answered s 0x0204 r
        (modCargo m (pf r 0 2) (fun x => { x with bound := delNat (slotOf r) g.bound })) 0 [])) ∧
      (delNat (slotOf r) g.bound = [] → ∃ m2, m2 = (match g.tag with | some t => endOp m t 0x50 0 | none => m) ∧
        exec (.cargoUnbind r) s = .next (answered s 0x0204 r
          (startZeroing { m2 with cargo := tdel m2.cargo (pf r 0 2) } (g.pages.map (fun a => (a, 2048)))) 0 []))) ∧
  (∀ (s : State) r, Passes 0x0205 aH .opt (lenIs 68) noResv r s → pf r 0 2 < 4096 → pf r 2 1 ≤ 1 → pf r 3 1 ≤ 8 → (pf r 2 1 = 1 ∨ 1 ≤ pf r 3 1) →
    (∀ i, i < 8 → addrOk (pf r (4 + 8 * i) 8) = true) → (getCargo s.m (pf r 0 2)).st = 2 →
    exec (.cargoSwap r) s = .next (answered s 0x0205 r (modCargo (newOp s.m r.port 0x0205 (getCargo s.m (pf r 0 2)).keeper).1 (pf r 0 2)
      (fun g => { g with st := 3, next := some (pf r 2 1 == 1, (List.range (pf r 3 1)).map (fun i => pf r (4 + 8 * i) 8)),
                         tag := some s.m.mgmt.nextTag })) s.m.mgmt.nextTag [])) ∧
  (∀ (s : State) r, Passes 0x0206 aH .active (lenIs 36) (resvAt [(2, 2), (24, 12)]) r s → fld (pf r 4 8) 57 7 = 0 → fld (pf r 12 8) 57 7 = 0 → pf r 20 4 < 4096 →
    pf r 0 2 < 4096 → (getCtx s.m (slotOf r)).sv.conf.isSome = true → (getCargo s.m (pf r 20 4)).st = 2 →
    has (getCargo s.m (pf r 20 4)).bound (slotOf r) = true →
    exec (.cargoSwitch r) s = .next (answered s 0x0206 r (modServ
      (((getCtx s.m (slotOf r)).sv.switches.filter (fun e => e.1 == pf r 0 2)).foldl (fun m e => endOp m e.2.2 0x50 0) (newOp s.m r.port 0x0206 (slotOf r)).1)
      (slotOf r) (fun v => { v with switches := (((getCtx s.m (slotOf r)).sv.switches.filter (fun e => e.1 != pf r 0 2)) ++
        [(pf r 0 2, (r.payload.drop 4).take 32, s.m.mgmt.nextTag)]) })) s.m.mgmt.nextTag [])) ∧
  (∀ (s : State) k g, getCargo s.m k = g → (g.st = 1 ∨ g.st = 4) → g.fetches.any (fun e => e.2.1 == noSource) = false → g.left = [] →
    (g.seed = false ∨ g.sealed = true) → g.pages.any (fun a => rdPoison s.m a 2048) = false →
    exec (.cargoSetReady k) s = .next { s with m := (modCargo (match g.tag with | some t => endOp s.m t 0 0 | none => s.m) k
      (fun g => { g with st := 2, tag := none, sealed := false })) }) ∧
  (∀ (s : State) k g, getCargo s.m k = g → (g.st = 1 ∨ g.st = 4) → g.fetches.any (fun e => e.2.1 == noSource) = true →
    exec (.cargoSetReady k) s = .next { s with m := failLoad s.m k }) ∧
  (∀ (s : State) k g q, getCargo s.m k = g → g.next = some q → g.st = 3 → g.inFlight = 0 → (∀ c ∈ g.bound, builtWith s.m c k = false) →
    s.m.tier.repairs.any (·.set == k) = false →
    exec (.swapDrained k) s = .next { s with m := (startLoad (modCargo s.m k (fun g =>
      { g with st := 4, seed := q.1, sources := q.2, next := none, sealed := false, fetches := [], left := List.range g.pages.length })) k) }) ∧
  (∀ (s : State) c f q qs, (getCtx s.m c).sv.conf = some f → (getCtx s.m c).sv.switches = q :: qs → inFlight (getCtx s.m c) = [] → (getCtx s.m c).st = .active →
    (getCtx s.m c).el.park = none → (∀ e ∈ mansOf (getCtx s.m c), ∀ r ∈ e.2.runs, r.built = false) →
    exec (.cargoSwitchApply c) s = .next { s with m := endOp (seqWrite (modServ s.m c (fun v => { v with switches := qs })) c (f.ptrTable + 32 * q.1) q.2.1) q.2.2 0 0 }) ∧
  (∀ (s : State) tag o k, s.m.fab.out.find? (fun o => o.tag == tag) = some o → o.holder = .cargo k →
    exec (.cargoSourceTimeout tag) s = .next { s with m := cargoSourceTimeout s.m k }) ∧
  (∀ (s : State) tag o k, s.m.fab.out.find? (fun o => o.tag == tag) = some o → o.holder = .repair k →
    exec (.cargoSourceTimeout tag) s = .next { s with m := (repairResponse
      { s.m with fab := { s.m.fab with out := s.m.fab.out.filter (fun o => o.tag != tag) } } tag [] false) }) ∧
  (∀ (s : State) k t r, repairOf s.m k t = some r →
    exec (.cargoRefetchDeadline k t) s = .next { s with m := (afterRepair (repairFail
      { s.m with fab := { s.m.fab with out := s.m.fab.out.filter (fun o => o.tag != r.tag || r.source == noSource) } } r) r.ctl) }) ∧
  (∀ (m : Mach) k, (getCargo (failLoad m k) k) = cargoReset)

/-- R270 to R277, R292: the identifier, a context's membership, the waymap's entries, the response timeout. -/
def Obligations.FabricCommands : Prop :=
  (∀ (s : State) r, Passes 0x0801 (aH + aB) .none (lenIs 4) (resvAt [(2, 2)]) r s → pf r 0 2 < 8192 →
    (s.m.fab.module = none ∨ ∀ c, c < 16 → (getCtx s.m c).st = .free ∨ (getCtx s.m c).st = .closed) →
    exec (.moduleIdSet r) s = .next (answered s 0x0801 r { s.m with fab := { s.m.fab with module := some (pf r 0 2) } } 0 [])) ∧
  (∀ (s : State) r x, Passes 0x0802 aH .active (lenIs 1032) (resvAt [(3, 1)]) r s → x = (getCtx s.m (slotOf r)).mem → pf r 2 1 ≤ 1 → pf r 4 4 ≠ x.epoch →
    (x.carriedValid = false ∨ pf r 4 4 ≠ x.carried) →
    exec (.membershipSet r) s = .next (answered s 0x0802 r (modCtx s.m (slotOf r) (fun y => { y with mem := (
      { id := pf r 0 2, epoch := pf r 4 4, carried := if pf r 2 1 = 1 then x.epoch else x.carried, carriedValid := pf r 2 1 == 1,
        members := memberList (r.payload.drop 8) }) })) 0 [])) ∧
  (∀ (s : State) r t isIn sz p segs own sets, Passes 0x0803 aH .active (lenIs 32) (resvAt [(3, 1), (20, 4)]) r s → pf r 0 1 ≤ 1 → isIn = (pf r 0 1 == 1) →
    pf r 1 1 ≤ 2 → sz = segBytes (pf r 1 1) → p = pf r 2 1 → p < 32 → (tbit p 4 = true → tbit p 1 = false ∧ tbit p 2 = false) →
    1 ≤ pf r 4 4 → pf r 4 4 ≤ 4096 → pf r 8 8 % sz = 0 → segs = (List.range (pf r 4 4)).map (fun i => pf r 8 8 + i * sz) → pf r 16 2 < 8192 →
    (isIn = true → tbit p 3 = false ∧ pf r 16 2 = 0 ∧ pf r 24 8 = 0 ∧ segs.all (fun a => segReachable a sz) = true) →
    (isIn = false → pf r 8 8 + pf r 4 4 * sz ≤ 2 ^ 57 ∧ pf r 24 8 % sz = 0 ∧ tbit p 3 = isAdvance (pf r 24 8)) →
    (isIn = false → tbit p 3 = true → p = 8 ∧ pf r 1 1 = 0 ∧ pf r 4 4 = 1) →
    (isIn = false → tbit p 3 = false → (List.range (pf r 4 4)).all (fun i => segReachable (pf r 24 8 + i * sz) sz) = true) →
    (tbit p 2 = true → isSp (if isIn then pf r 8 8 else pf r 24 8) = false) →
    own = (if isIn then segs else if s.m.fab.module == some (pf r 16 2) && !tbit p 3 then (List.range (pf r 4 4)).map (fun i => pf r 24 8 + i * sz) else []) →
    own.all (windowPresent s.m) = true → own.any (fun a => meetsZeroing s.m a sz) = false →
    segs.any (fun a => wayOverlaps s.m isIn (slotOf r) a sz) = false →
    sets = s.m.cargo.filter (fun e => e.2.st != 0 && e.2.pages.any (fun g => own.any (fun a => g < a + sz && a < g + 2048))) →
    (∀ e ∈ sets, e.2.keeper = slotOf r ∨ has e.2.bound (slotOf r) = true) → (sets = [] ∨ tbit p 4 = true ∨ (tbit p 1 = false ∧ tbit p 2 = false)) →
    putWays s.m.fab.waymap ((List.range (pf r 4 4)).map (fun i =>
      ({ valid := true, isIn := isIn, size := pf r 1 1, read := tbit p 0, write := tbit p 1, atomic := tbit p 2, advance := tbit p 3, cargo := tbit p 4,
         module := pf r 16 2, owner := handleOf s.m (slotOf r), peer := pf r 18 2, epoch := (getCtx s.m (slotOf r)).mem.epoch,
         target := if isIn then 0 else pf r 24 8 + i * sz, base := pf r 8 8 + i * sz } : WayEnt))) = some t →
    exec (.waymapMap r) s = .next (answered s 0x0803 r { s.m with fab := { s.m.fab with waymap := t } } 0 [])) ∧
  (∀ (s : State) r ks m, Passes 0x0804 aH .active (lenIs 16) (resvAt [(2, 2)]) r s → pf r 0 1 ≤ 1 → pf r 1 1 ≤ 2 → 1 ≤ pf r 4 4 → pf r 4 4 ≤ 4096 →
    pf r 8 8 % segBytes (pf r 1 1) = 0 → addrOk (pf r 8 8) = true →
    ks = (List.range (pf r 4 4)).map (fun i => wayAt s.m (pf r 0 1 == 1) (pf r 1 1) (handleOf s.m (slotOf r)) (pf r 8 8 + i * segBytes (pf r 1 1))) →
    ks.all Option.isSome = true →
    m = (newOp { s.m with fab := { s.m.fab with waymap := ks.foldl (fun t k => match k with | some k => tset noWay t k noWay | none => t) s.m.fab.waymap } }
      r.port 0x0804 (slotOf r)).1 →
    exec (.waymapUnmap r) s = .next (answered s 0x0804 r { m with mgmt := { m.mgmt with ops := (m.mgmt.ops.map (fun o =>
      if o.tag = s.m.mgmt.nextTag then { o with waits := (if pf r 0 1 == 1 then [] else
        (s.m.fab.out.filter (fun o => o.ctx == slotOf r && pf r 8 8 ≤ o.virt && o.virt < pf r 8 8 + pf r 4 4 * segBytes (pf r 1 1))).map (·.tag)) } else o)) } }
      s.m.mgmt.nextTag [])) ∧
  (∀ (s : State) r, Passes 0x0806 aH .none (lenIs 4) noResv r s → 1 ≤ pf r 0 4 → pf r 0 4 ≤ 1000 →
    exec (.respTimeoutSet r) s = .next (answered s 0x0806 r { s.m with fab := { s.m.fab with respTimeout := pf r 0 4 } } 0 []))

/-- R297 to R304, R312, R314, R316: convoys. A record of another epoch replaces the one of its identifier, a schedule starts its occurrences anew; the
next occurrence starts where its trigger is met; an abort leaves the slot ABORTED with its word, its collective gone and its flag set, whoever began it. -/
def Obligations.ConvoyCommands : Prop :=
  (∀ (s : State) r ext bs k, Passes 0x0807 aH .active (lenIs 12) noResv r s → addrOk (pf r 0 8) = true → 36 ≤ pf r 8 4 → pf r 8 4 ≤ 32 + 4 * 8192 →
    pf r 8 4 % 4 = 0 → readRec s.m (slotOf r) (pf r 0 8) (pf r 8 4) ext = some bs → convRecOk s.m r.handle.toNat bs = true →
    findConv s.m (convRecOf bs).id (convRecOf bs).ctx = none → (List.range 64).find? (fun k => (getConv s.m k).st == 0) = some k →
    exec (.convoySet ext r) s = .next (answered s 0x0807 r (forgetConv (modConv (freshConv s.m k) k (fun q => installConv q (convRecOf bs))) (convRecOf bs).id) 0
      (leBytes 4 k))) ∧
  (∀ (s : State) r ext bs k, Passes 0x0807 aH .active (lenIs 12) noResv r s → addrOk (pf r 0 8) = true → 36 ≤ pf r 8 4 → pf r 8 4 ≤ 32 + 4 * 8192 →
    pf r 8 4 % 4 = 0 → readRec s.m (slotOf r) (pf r 0 8) (pf r 8 4) ext = some bs → convRecOk s.m r.handle.toNat bs = true →
    findConv s.m (convRecOf bs).id (convRecOf bs).ctx = some k → (getConv s.m k).rc.epoch ≠ (convRecOf bs).epoch →
    exec (.convoySet ext r) s = .next (answered s 0x0807 r
      (forgetConv (modConv (if (getConv s.m k).st = 2 then originAbort s.m k 6 else s.m) k (fun q => installConv q (convRecOf bs))) (convRecOf bs).id) 0
      (leBytes 4 k))) ∧
  (∀ (s : State) r, Passes 0x0808 aH .active (lenIs 4) noResv r s → pf r 0 4 < 64 → ownsConv s.m (pf r 0 4) r.handle.toNat = true →
    (getConv s.m (pf r 0 4)).st ≠ 2 →
    exec (.convoyRemove r) s = .next (answered s 0x0808 r
      (modConv s.m (pf r 0 4) (fun q => { q with st := 0, rc := noConvRec, sched := [], next := 0, coll := none })) 0 [])) ∧
  (∀ (s : State) r ext bs, Passes 0x0809 aH .active (lenIs 16) noResv r s → pf r 0 4 < 64 → addrOk (pf r 4 8) = true → 1 ≤ pf r 12 4 → pf r 12 4 ≤ 256 →
    ownsConv s.m (pf r 0 4) r.handle.toNat = true → (getConv s.m (pf r 0 4)).st ≠ 2 →
    readRec s.m (slotOf r) (pf r 4 8) (64 * pf r 12 4) ext = some bs →
    ((List.range (pf r 12 4)).map (fun i => (bs.drop (64 * i)).take 64)).all (collOk (getConv s.m (pf r 0 4)).rc (getCtx s.m (slotOf r))) = true →
    exec (.schedulePost ext r) s = .next (answered s 0x0809 r (forgetConv (modConv s.m (pf r 0 4) (fun q =>
      { q with sched := ((List.range (pf r 12 4)).map (fun i => (bs.drop (64 * i)).take 64)).map collOf, next := 0 })) (getConv s.m (pf r 0 4)).rc.id) 0 [])) ∧
  (∀ (s : State) n d, convLive s.m (getConv s.m n) = true → (getConv s.m n).coll = none → (getConv s.m n).st = 1 →
    (getConv s.m n).sched[(getConv s.m n).next % (getConv s.m n).sched.length]? = some d →
    trigMet s.m (getConv s.m n) d (d.target + (getConv s.m n).next / (getConv s.m n).sched.length * d.stride) = true →
    exec (.collectiveTrigger ⟨n, false⟩) s = .next { s with m := (startColl s.m n ((getConv s.m n).next % (getConv s.m n).sched.length)
      ((getConv s.m n).next / (getConv s.m n).sched.length) d) }) ∧
  (∀ (s : State) n q d, convLive s.m (getConv s.m n) = true → (getConv s.m n).coll = some q → (getConv s.m n).sched[q.d]? = some d → d.op = 6 →
    0 < q.opened → q.opened < (collSteps (getConv s.m n).rc d).length → q.opened ≤ q.stepsDone →
    trigMet s.m (getConv s.m n) d (d.target + q.occ * d.stride + q.opened) = true →
    ∃ z, z = loadShare (modColl s.m n (fun q => { q with opened := q.opened + 1 })) n
        (((((collSteps (getConv s.m n).rc d)[q.opened]?).map (·.send)).getD []).headD 0, d.recv + q.opened % 2 * d.count * collE d, d.count * collE d) ∧
      exec (.collectiveTrigger ⟨n, false⟩) s = .next { s with m := if z.2 = true then pumpConv z.1 n else originAbort z.1 n 4 }) ∧
  (∀ (s : State) pk m1 n c d, ArrivesConv s.m 0x20 pk m1 n → (getConv m1 n).coll = some c → (getConv m1 n).sched[c.d]? = some d →
    recNat pk.data 0 4 = c.layout → recNat pk.data 12 4 = schedCheck d →
    ∃ m2, m2 = acctAdd m1 ((getConv m1 n).rc.ctx / 4096) 10 pk.data.length ∧ exec .grant s = .next { s with m := takeGrant m2 n pk d }) ∧
  (∀ (s : State) pk m1 n c d i j st, ArrivesConv s.m 0x21 pk m1 n → (getConv m1 n).coll = some c → (getConv m1 n).sched[c.d]? = some d →
    findChunk d (collSteps (getConv m1 n).rc d) (pk.tag / 256) = some (i, j) → (collSteps (getConv m1 n).rc d)[i]? = some st → cdataFits c st pk = true →
    exec .cdata s = .next { s with m := placeCdata (acctAdd m1 ((getConv m1 n).rc.ctx / 4096) 10 pk.data.length) n c d i j st pk }) ∧
  (∀ (s : State) pk m1 n, ArrivesConv s.m 0x22 pk m1 n → (getConv m1 n).st ≠ 3 →
    exec .abort s = .next { s with m := (abortConv (acctAdd m1 ((getConv m1 n).rc.ctx / 4096) 10 pk.data.length) n false (recNat pk.data 6 1)
      (recNat pk.data 4 2) (recNat pk.data 0 4) (floodRanks (getConv m1 n).rc)) }) ∧
  (∀ (s : State) n, (getConv s.m n).st = 2 → exec (.progressTimerExpiry n) s = .next { s with m := originAbort s.m n 1 }) ∧
  (∀ (m : Mach) n self reason origin op ranks,
    ∃ q, q = getConv (abortConv m n self reason origin op ranks) n ∧ q.st = 3 ∧ q.coll = none ∧ q.rc = (getConv m n).rc ∧
      q.abort = BitVec.ofNat 64 (1 <<< 63 ||| b2n self <<< 62 ||| reason <<< 58 ||| origin <<< 45 ||| op % 2 ^ 24) ∧
      q.flags.getLsbD 2 = true)

/-- R320 to R323: channels. A unit leaves with a credit and is stored in order; it goes to the destination window where there is room; a close
disables the windows and frees the entry. -/
def Obligations.ChannelCommands : Prop :=
  (∀ (s : State) r x y rx tx m, Passes 0x080A aH .active (lenIs 20) (resvAt [(3, 1), (7, 1)]) r s → pf r 0 2 < 4096 → 1 ≤ pf r 2 1 → pf r 2 1 ≤ 3 →
    rx = (pf r 2 1 == 2 || pf r 2 1 == 3) → tx = (pf r 2 1 == 1 || pf r 2 1 == 3) → pf r 4 2 < 1024 →
    (shareOf (getCtx s.m (slotOf r)) (pf r 4 2)).isSome = true → pf r 6 1 < 16 → pf r 8 2 < 8192 → pf r 10 2 < 4096 → 1 ≤ pf r 12 2 → pf r 12 2 ≤ 32 →
    (rx = true → pf r 12 2 ≤ pf r 14 2 ∧ pf r 14 2 ≤ pf r 16 2 ∧ pf r 16 2 ≤ 16384 ∧ csvMin s.m (pf r 4 2 / 256) + pf r 14 2 ≤ 16384) →
    1 ≤ pf r 18 2 → pf r 18 2 ≤ 1000 → (physOf s.m (pf r 4 2)).isSome = true → x = getChan s.m (pf r 0 2) →
    ((x.send = none ∧ x.recv = none) ∨ (x.ctx = r.handle.toNat ∧ (tx = true → x.send = none) ∧ (rx = true → x.recv = none))) →
    y = ({ ctx := r.handle.toNat, units := if x.send.isSome || x.recv.isSome then x.units else 0,
           send := if tx then some { array := pf r 4 2, window := pf r 6 1, peerM := pf r 8 2, peerC := pf r 10 2, unit := 2048 * pf r 12 2,
                                     timeout := pf r 18 2, credits := 0, sent := 0 } else x.send,
           recv := if rx then some { array := pf r 4 2, window := pf r 6 1, peerM := pf r 8 2, peerC := pf r 10 2, unit := 2048 * pf r 12 2,
                                     min := pf r 14 2, quota := pf r 16 2, timeout := pf r 18 2, out := 0, held := [], parts := [], next := 0, credited := 0 } else x.recv } : Chan) →
    m = modChan (forgetChan s.m (pf r 0 2)) (pf r 0 2) (fun _ => y) →
    exec (.channelOpen r) s = .next (answered s 0x080A r (if rx = true then giveCredit m (pf r 0 2) (pf r 14 2 / pf r 12 2)
      else match y.recv with
        | some h => modSend m (pf r 0 2) (fun q => { q with credits := h.out })
        | none => m) 0 [])) ∧
  (∀ (s : State) r, Passes 0x080B aH .active (lenIs 4) (resvAt [(2, 2)]) r s → pf r 0 2 < 4096 →
    ((getChan s.m (pf r 0 2)).send.isSome = true ∨ (getChan s.m (pf r 0 2)).recv.isSome = true) → (getChan s.m (pf r 0 2)).ctx = r.handle.toNat →
    exec (.channelClose r) s = .next (answered s 0x080B r (endOp (closeChannel (newOp s.m r.port 0x080B (slotOf r)).1 (pf r 0 2) true) s.m.mgmt.nextTag 0 0)
      s.m.mgmt.nextTag [])) ∧
  (∀ (s : State) n q p, (getChan s.m n).send = some q → physOf s.m q.array = some p → sendReadyChan s.m (getChan s.m n) q p = true →
    exec (.channelUnitSend n) s = .next { s with m := sendUnit s.m n (getChan s.m n) q p }) ∧
  (∀ (s : State) n q h, (getChan s.m n).send = some q → (getChan s.m n).recv = none → q.credits = 0 → h = s →
    exec (.channelUnitSend n) s = .next h) ∧
  (∀ (s : State) pk m1 n h, ArrivesChan s.m 0x24 pk m1 n → (getChan m1 n).recv = some h →
    exec .chData s = .next { s with m := takePart m1 n h pk }) ∧
  (∀ (s : State) n h u rest p, (getChan s.m n).recv = some h → h.held = u :: rest → physOf s.m h.array = some p →
    mayProduce s.m n (getChan s.m n) h u p = true → exec (.channelUnitProduce n) s = .next { s with m := produceUnit s.m n h u rest p }) ∧
  (∀ (s : State) pk m1 n, ArrivesChan s.m 0x25 pk m1 n →
    exec .chCredit s = .next { s with m := (
      modSend (acctAdd m1 ((getChan m1 n).ctx / 4096) 10 pk.data.length) n (fun q => { q with credits := q.credits + recNat pk.data 0 4 })) }) ∧
  (∀ (s : State) pk m1 n, ArrivesChan s.m 0x26 pk m1 n → exec .chClose s = .next { s with m := closeChannel (acctAdd m1 ((getChan m1 n).ctx / 4096) 10 pk.data.length) n false }) ∧
  (∀ (s : State) n q p, (getChan s.m n).send = some q → physOf s.m q.array = some p → q.credits = 0 → q.unit ≤ winFill (getWin (getBlk s.m p) q.window) →
    exec (.channelCreditTimeout n) s = .next { s with m := closeChannel s.m n true }) ∧
  (∀ (m : Mach) n tell, ((getChan m n).send.isSome = true ∨ (getChan m n).recv.isSome = true) → 
    getChan (closeChannel m n tell) n = { getChan m n with send := none, recv := none })

/-- TWIN_ACCEPT is well-formed, its areas are the owner's and none of its partner is registered yet (R355); `g` is the registration. -/
def AcceptsTwin (r : Req) (s : State) (g : TwinReg) : Prop :=
  Passes 0x080C aH .active (lenIs 48) (resvAt [(5, 3)]) r s ∧ pf r 0 2 < 8192 ∧ pf r 4 1 ≤ 2 ∧ addrOk (pf r 8 8) = true ∧
  pf r 8 8 % 2048 = 0 ∧ pf r 16 8 ≠ 0 ∧ addrOk (pf r 24 8) = true ∧ pf r 24 8 % 2048 = 0 ∧ 2048 ≤ pf r 32 8 ∧
  pf r 32 8 ≤ pf r 16 8 ∧ pf r 32 8 % 32 = 0 ∧ addrOk (pf r 40 8) = true ∧ pf r 40 8 % 2048 = 0 ∧
  (ownRange s.m (slotOf r) 0x03 (pf r 8 8) (pf r 16 8)).isSome = true ∧ (ownRange s.m (slotOf r) 0x03 (pf r 24 8) (pf r 32 8)).isSome = true ∧
  (ownRange s.m (slotOf r) 0x03 (pf r 40 8) (max 1 (pf r 4 1 * pf r 32 8))).isSome = true ∧
  s.m.twins.all (fun e => match e.2 with
    | some o => o.ctx != r.handle.toNat || o.peerM != pf r 0 2 || o.peerH != pf r 2 2
    | none => true) = true ∧
  g = { ctx := r.handle.toNat, peerM := pf r 0 2, peerH := pf r 2 2, depth := pf r 4 1, copy := pf r 8 8, bytes := pf r 16 8, journal := pf r 24 8,
        jbytes := pf r 32 8, undo := pf r 40 8, last := none, inHand := [], undos := [] }

/-- R355 to R364: twins, their registrations, commits and restores, on both sides. -/
def Obligations.TwinCommands : Prop :=
  (∀ (s : State) r copy journal depth held rs tiles, Passes 0x080D aH .active (fun p => 24 ≤ p.length && p.length == 24 + 16 * recNat p 16 4) (resvAt [(20, 4)]) r s →
    rs = (List.range (pf r 16 4)).map (fun i => (pf r (24 + 16 * i) 8, pf r (32 + 16 * i) 8)) → pf r 0 2 < 8192 → pf r 4 4 ≤ 1000 →
    addrOk (pf r 8 8) = true → pf r 8 8 % 2048 = 0 → 1 ≤ pf r 16 4 → pf r 16 4 ≤ 64 →
    rs.all (fun q => addrOk q.1 && q.1 % 2048 == 0 && q.2 % 2048 == 0 && q.2 != 0) = true → rs.foldl (fun a q => a + q.2) 0 + areaBytes = copy →
    s.m.ctxs.foldl (fun a e => a + (if e.1 = slotOf r then 0 else match e.2.el.src with | some s => 2048 * s.ranges | none => 0)) 0 +
      rs.foldl (fun a q => a + q.2) 0 ≤ 0x8000000000 →
    (rs ++ [(pf r 8 8, areaBytes)]).foldl (fun (l : Option (List Nat)) q =>
      match l, tileAddrs s.m (slotOf r) 0x03 q.1 q.2 with
      | some l, some k => some (l ++ k)
      | _, _ => none) (some []) = some tiles →
    ∃ src q, src = ({ peerM := pf r 0 2, peerH := pf r 2 2, timeout := if pf r 4 4 = 0 then 200 else pf r 4 4, journal := journal, depth := depth,
                      ranges := rs.foldl (fun a q => a + q.2) 0 / 2048, tiles := tiles, dirty := [], commit := none, tag := some s.m.mgmt.nextTag, owed := held } : TwinSrc) ∧
      q = newOp s.m r.port 0x080D (slotOf r) ∧
      ((∀ old, (getCtx s.m (slotOf r)).el.src = some old → old.commit = none) → exec (.twinSet ⟨copy, held⟩ journal depth r) s = .next (answered s 0x080D r
        (enterSrc q.1 (slotOf r) (getCtx s.m (slotOf r)).lastStep.toNat src) q.2 [])) ∧
      (∀ old, (getCtx s.m (slotOf r)).el.src = some old → old.commit.isSome = true → ∃ m, m = (match (getCtx s.m (slotOf r)).el.nextSrc with
            | some z => (match z.tag with | some t => endOp q.1 t 0x50 0 | none => q.1)
            | none => q.1) ∧
        exec (.twinSet ⟨copy, held⟩ journal depth r) s = .next (answered s 0x080D r (modEl m (slotOf r) (fun y => { y with nextSrc := some src })) q.2 []))) ∧
  (∀ (s : State) r g n, AcceptsTwin r s g → (∀ k o, (k, some o) ∈ s.m.twins → sameAreas o g = false) →
    n = ((List.range (s.m.twins.length + 1)).find? (fun k => (tget none s.m.twins k).isNone)).getD 0 →
    ∃ t, exec (.twinAccept r) s = .next t ∧ t.nv = s.nv ∧ t.pending = s.pending ∧ t.m.twins = tset none s.m.twins n (some g) ∧
      (getMbx t.m r.port).st = .done ∧ (getMbx t.m r.port).status = 0) ∧
  (∀ (s : State) r g n o, AcceptsTwin r s g →
    s.m.twins.findSome? (fun e => e.2.bind (fun o => if sameAreas o g then some (e.1, o) else none)) = some (n, o) →
    exec (.twinAccept r) s = .next (answered s 0x080C r
      { s.m with twins := tset none s.m.twins n (some { g with last := o.last, undos := o.undos }) } 0 (leBytes 4 n))) ∧
  (∀ (s : State) r src q, Passes 0x080E aH .active (lenIs 24) (resvAt [(2, 2)]) r s → pf r 0 2 < 8192 → pf r 16 8 = (pf r 8 8 + 1) % 2 ^ 64 →
    inFlight (getCtx s.m (slotOf r)) = [] → (getCtx s.m (slotOf r)).el.restore = none → (getCtx s.m (slotOf r)).el.park = none →
    (getCtx s.m (slotOf r)).el.src = some src → src.peerM = pf r 0 2 → q = newOp s.m r.port 0x080E (slotOf r) →
    ∃ m, m = modEl (cancelResync q.1 (slotOf r) src) (slotOf r) (fun y => { y with restore := (some
          { peerM := src.peerM, step := pf r 8 8, counter := pf r 16 8, tag := q.2, got := [] }) }) ∧
      exec (.restore r) s = .next (answered s 0x080E r (acctAdd (sendTagged m (twinPk m (slotOf r) 0x3C src.peerM src.peerH (pf r 4 4) (pf r 8 8)
        (padTo 32 (leBytes 8 (pf r 8 8))) [])) (slotOf r) 9 32) q.2 [])) ∧
  (∀ (s : State) c src st src', (getCtx s.m c).el.src = some src → commitStep (getCtx s.m c) = some st → src.commit = none →
    (getCtx s.m c).el.restore = none → (getCtx s.m c).st = .active → (getCtx (saveForCommit s.m c st src) c).el.src = some src' →
    exec (.stepCommit c) s = .next { s with m := sendCommit (saveForCommit s.m c st src) c st src' }) ∧
  (∀ (s : State) pk m1 n g, Arrives s.m 0x38 pk m1 → regOf m1 pk = some (n, g) → tileFits g pk = true →
    exec .twinTile s = .next { s with m := takeTiles m1 n g pk }) ∧
  (∀ (s : State) pk m1 n g, Arrives s.m 0x39 pk m1 → regOf m1 pk = some (n, g) → g.inHand.length = recNat pk.data 8 4 →
    (recNat pk.data 12 1 ≠ 0 ∨ ∀ e ∈ g.inHand, e.2 = noTile) →
    exec .twinSeal s = .next { s with m := (
      applyCommit (modTwin m1 n (fun g => { g with inHand := [], direct := false })) n g (recNat pk.data 0 8) (recNat pk.data 12 1 != 0)) }) ∧
  (∀ (s : State) pk m1 n g, Arrives s.m 0x39 pk m1 → regOf m1 pk = some (n, g) → g.inHand.length = recNat pk.data 8 4 → recNat pk.data 12 1 = 0 →
    (∃ e ∈ g.inHand, e.2 ≠ noTile) →
    exec .twinSeal s = .next { s with m := refuseCommit (modTwin m1 n (fun g => { g with inHand := [], direct := false })) g (recNat pk.data 0 8) 3 }) ∧
  (∀ (s : State) pk m1 src k, Arrives s.m 0x3A pk m1 → srcOf m1 pk = some src → src.commit = some k → recNat pk.data 0 8 = k.step →
    exec .twinAck s = .next { s with m := ackCommit m1 (pk.peer / 4096) src k }) ∧
  (∀ (s : State) pk m1 src k, Arrives s.m 0x3B pk m1 → srcOf m1 pk = some src → src.commit = some k → recNat pk.data 0 8 = k.step →
    exec .twinNack s = .next { s with m := abandonCommit m1 (pk.peer / 4096) k }) ∧
  (∀ (s : State) c k, (getCtx s.m c).el.src.bind (·.commit) = some k → exec (.commitTimeout c) s = .next { s with m := abandonCommit s.m c k }) ∧
  (∀ (s : State) pk m1 n g, Arrives s.m 0x3C pk m1 → regNamed m1 pk = some (n, g) → holdsStep g (recNat pk.data 0 8) = true →
    exec .restoreReq s = .next { s with m := serveRestore m1 n g (recNat pk.data 0 8) }) ∧
  (∀ (s : State) pk m1 src e, Arrives s.m 0x3D pk m1 → srcOf m1 pk = some src → (getCtx m1 (pk.peer / 4096)).el.restore = some e →
    exec .restoreData s = .next { s with m := landTiles m1 (pk.peer / 4096) src e pk }) ∧
  (∀ (s : State) pk m1 src e, Arrives s.m 0x3E pk m1 → srcOf m1 pk = some src → (getCtx m1 (pk.peer / 4096)).el.restore = some e →
    recNat pk.data 12 1 = 0 → e.got.length = recNat pk.data 8 4 →
    exec .restoreEnd s = .next { s with m := finishRestore m1 (pk.peer / 4096) src e }) ∧
  (∀ (s : State) c e, (getCtx s.m c).el.restore = some e → exec (.restoreTimeout c) s = .next { s with m := abortRestore s.m c e })

/-- R107, R121, R233, R251, R405, R475: host reads and writes of module memory. One of a scratchpad reads its banks through their code and behind what waits at their ports; one of a tier
reaches its controller as every access does. A request that does not reach memory is an Unsupported Request, one while memory is off a Completer Abort; neither changes memory, and no more
does a read or write behind a cordon. -/
def Obligations.HostMemory : Prop :=
  (∀ (s : State) a n single double ondie m, bar2Stop s.m a n = none → fenced s.m a = false → isSp a = true → m = bar2Bank s.m a n single double false →
    exec (.bar2Read a n ⟨single, double⟩ ondie) s = .next { s with m := { m with pcie := { m.pcie with
      reads := m.pcie.reads ++ [rdBytes m a n], aer := m.pcie.aer + b2n (rdPoison m a n) } } }) ∧
  (∀ (s : State) a n single double ondie k m, bar2Stop s.m a n = none → fenced s.m a = false → isSp a = false → ctlOf a = some k → (getCtl s.m k).input = [] →
    repairMet s.m (hostTierReq a n none single double ondie) = none →
    m = throughCode (modCtl s.m k (fun x => { x with ondie := satAdd x.ondie ondie })) (tierTouched a n false) single double none →
    repairMet m (hostTierReq a n none [] [] 0) = none →
    exec (.bar2Read a n ⟨single, double⟩ ondie) s = .next { s with m := { m with pcie := { m.pcie with
      reads := m.pcie.reads ++ [rdBytes m a n], aer := m.pcie.aer + b2n (rdPoison m a n) } } }) ∧
  (∀ (s : State) a data single double ondie, bar2Stop s.m a data.length = none → fenced s.m a = false → isSp a = true → ∃ t m1,
    exec (.bar2Write a data ⟨single, double⟩ ondie) s = .next t ∧ t.nv = s.nv ∧ t.pending = s.pending ∧ t.m = wrBytes m1 a data ∧
    m1 = { bar2Bank s.m a data.length single double true with tier := { (bar2Bank s.m a data.length single double true).tier with ctls := m1.tier.ctls } }) ∧
  (∀ (s : State) a data single double ondie k m, bar2Stop s.m a data.length = none → fenced s.m a = false → isSp a = false → ctlOf a = some k →
    (getCtl s.m k).input = [] → repairMet s.m (hostTierReq a data.length (some data) single double ondie) = none →
    m = throughCode (modCtl s.m k (fun x => { x with ondie := satAdd x.ondie ondie })) (tierTouched a data.length true) single double none →
    repairMet m (hostTierReq a data.length (some data) [] [] 0) = none → ∃ t m1,
    exec (.bar2Write a data ⟨single, double⟩ ondie) s = .next t ∧ t.nv = s.nv ∧ t.pending = s.pending ∧ t.m = wrBytes m1 a data ∧
    m1 = { m with tier := { m.tier with ctls := m1.tier.ctls } }) ∧
  (∀ (s : State) a n data single double ondie k len q r, len = (match data with | some d => d.length | none => n) → bar2Stop s.m a len = none → fenced s.m a = false →
    isSp a = false → ctlOf a = some k → (getCtl s.m k).input = [] → q = hostTierReq a len data single double ondie → repairMet s.m q = some r → heldAt s.m k < 64 →
    exec (match data with | some d => .bar2Write a d ⟨single, double⟩ ondie | none => .bar2Read a n ⟨single, double⟩ ondie) s = .next { s with m := (
      modRepair s.m r.set r.tile (fun x => { x with held := x.held ++ [q] })) }) ∧
  (∀ (s : State) a n single double ondie, bar2Stop s.m a n = none → fenced s.m a = true →
    exec (.bar2Read a n ⟨single, double⟩ ondie) s = .next { s with m := { s.m with pcie := { s.m.pcie with
      reads := s.m.pcie.reads ++ [List.replicate n 0], aer := s.m.pcie.aer + 1 } } }) ∧
  (∀ (s : State) a data single double ondie, bar2Stop s.m a data.length = none → fenced s.m a = true →
    exec (.bar2Write a data ⟨single, double⟩ ondie) s = .next s) ∧
  (∀ (s : State) a n single double ondie, (s.m.pwr.boot ≠ .running ∨ s.m.pcie.linkUp = false) →
    exec (.bar2Read a n ⟨single, double⟩ ondie) s = .next { s with m := { s.m with pcie := { s.m.pcie with ur := s.m.pcie.ur + 1 } } }) ∧
  (∀ (s : State) a n single double ondie, s.m.pwr.boot = .running → s.m.pcie.linkUp = true → s.m.pwr.st ≠ 3 → s.m.rst.oos = false → bar2Reaches a n = false →
    exec (.bar2Read a n ⟨single, double⟩ ondie) s = .next { s with m := { s.m with pcie := { s.m.pcie with ur := s.m.pcie.ur + 1 } } }) ∧
  (∀ (s : State) a data single double ondie, s.m.pwr.boot = .running → s.m.pcie.linkUp = true → s.m.pwr.st ≠ 3 → s.m.rst.oos = false →
    bar2Reaches a data.length = false →
    exec (.bar2Write a data ⟨single, double⟩ ondie) s = .next { s with m := { s.m with pcie := { s.m.pcie with ur := s.m.pcie.ur + 1 } } }) ∧
  (∀ (s : State) a n single double ondie, s.m.pwr.boot = .running → s.m.pcie.linkUp = true → (s.m.pwr.st = 3 ∨ s.m.rst.oos = true) →
    exec (.bar2Read a n ⟨single, double⟩ ondie) s = .next { s with m := { s.m with pcie := { s.m.pcie with ca := s.m.pcie.ca + 1 } } }) ∧
  (∀ (s : State) a data single double ondie, s.m.pwr.boot = .running → s.m.pcie.linkUp = true → (s.m.pwr.st = 3 ∨ s.m.rst.oos = true) →
    exec (.bar2Write a data ⟨single, double⟩ ondie) s = .next { s with m := { s.m with pcie := { s.m.pcie with ca := s.m.pcie.ca + 1 } } })

/-- R467, R468, R470, R471, R478: what the input, WAKE# and PERST# do. Only the always-on domain outlives P4, and only a boot counts one more. -/
def Obligations.InputPower : Prop :=
  (∀ (s : State) f, (s.m.pwr.boot = .dark ∨ inP4 s.m = true) → ∃ t, exec (.inputPowerRise f) s = .next t ∧ t.pending = s.pending ∧
    (t.nv, t.m) = boot s.nv { s.m with pwr := { s.m.pwr with inputLow := false, inputLatched := false } } f true) ∧
  (∀ (s : State) f, inP4 s.m = true → s.m.pwr.inputLow = false → s.m.pwr.hotLatch = false → ∃ t, exec (.wake false f) s = .next t ∧ t.pending = s.pending ∧
    (t.nv, t.m) = boot s.nv s.m f true) ∧
  (∀ (s : State) f, inP4 s.m = true → s.m.pwr.inputLow = false → ∃ t, exec (.wake true f) s = .next t ∧ t.pending = s.pending ∧
    (t.nv, t.m) = boot s.nv s.m f true) ∧
  (∀ (s : State) f, inP4 s.m = true → s.m.pwr.hotLatch = true → exec (.wake false f) s = .next s) ∧
  (∀ (s : State), s.m.pwr.boot = .running → s.m.pwr.st < 4 → s.m.rst.inReset = false → ∃ t r, exec .inputUndervoltage s = .next t ∧ t.nv = s.nv ∧ t.pending = s.pending ∧
    t.m.pwr.boot = .standby ∧ t.m.pwr.st = 4 ∧ t.m.pwr.inputLow = true ∧ t.m.time.counter = s.m.time.counter ∧ t.m.ctxs = [] ∧ t.m.mem = [] ∧
    t.m.mgmt.flashLog = s.m.mgmt.flashLog ++ [r] ∧ r.cls = clsDevice) ∧
  (∀ (s : State), ∃ t, exec .alwaysOnLoss s = .next t ∧ t.nv = s.nv ∧ t.pending = s.pending ∧ t.m.pwr.boot = .dark ∧ t.m.time.counter = 0 ∧
    t.m.fab.module = none ∧ t.m.ctxs = [] ∧ t.m.mem = [] ∧ t.m.health.published = s.m.health.saved) ∧
  (∀ (s : State), ∃ t u, exec .inputOvervoltage s = .next t ∧ exec .alwaysOnLoss s = .next u ∧
    t = { u with m := { u.m with pwr := { u.m.pwr with inputLatched := true } } }) ∧
  (∀ (s : State), s.m.pwr.boot = .running → chipFenced s.m = false →
    exec (.perst false) s = .next { s with m := { s.m with pcie := { s.m.pcie with perst := false, linkUp := true } } }) ∧
  (∀ (s : State), exec (.perst true) s = .next { s with m := { s.m with
    pcie := { s.m.pcie with perst := true, linkUp := false, mse := false, ide := [], ideOn := false }, sec := { s.m.sec with spdmHost := spdmReset } } })

/-- R473, R474, R477, R478: the loops that move the array clock, and thermal shutdown. Every sample of a chip that runs is kept, and the power loop answers it: above the cap it steps down once two
samples have passed since the last step; below 97 % of the cap through a hundred samples it steps up once a hundred have passed; else it holds. At 200 MHz above the cap it
reports that the cap is unmet. While the management island stands, samples are kept and no step changes. A fast trip drops eight steps, or to 200 MHz if that is higher. A step of the thermal loop goes one down while a die or stack is hot, one up while all dies are below
90 °C and the other limits allow more, and else holds. A shutdown raises alarm condition 3 where alarms are armed, tears every context down, enters P4 and drives FAULT# low. That two and
a hundred samples stand for 20 µs and 1 ms is the model's (log entry 15). -/
def Obligations.ClockLoops : Prop :=
  (∀ (s : State) w p, chipRuns s.m = true → mpStopped s.m = false →
    p = { s.m.pwr with samples := (w :: s.m.pwr.samples).take 100, stepAt := min 100 (s.m.pwr.stepAt + 1), upAt := min 100 (s.m.pwr.upAt + 1) } →
    (s.m.pwr.capW < w → 2 ≤ p.stepAt → 200 < appliedMhz s.m.pwr → exec (.powerLoopSample w) s = .next { s with m := { s.m with pwr := (
      { p with loopMhz := stepDown (appliedMhz s.m.pwr), stepAt := 0,
               capUnmet := decide (appliedMhz { p with loopMhz := stepDown (appliedMhz s.m.pwr) } = 200) }) } }) ∧
    (s.m.pwr.capW < w → (p.stepAt < 2 ∨ appliedMhz s.m.pwr ≤ 200) → exec (.powerLoopSample w) s = .next { s with m := { s.m with pwr := (
      { p with capUnmet := decide (appliedMhz s.m.pwr = 200) }) } }) ∧
    (w ≤ s.m.pwr.capW → p.upAt = 100 → s.m.pwr.loopMhz < maxMhz s.m → p.samples.length = 100 → (∀ x ∈ p.samples, x * 100 < 97 * s.m.pwr.capW) →
      exec (.powerLoopSample w) s = .next { s with m := { s.m with pwr := (
        { p with loopMhz := stepUp (maxMhz s.m) s.m.pwr.loopMhz, upAt := 0, capUnmet := false }) } }) ∧
    (w ≤ s.m.pwr.capW → (p.upAt < 100 ∨ maxMhz s.m ≤ s.m.pwr.loopMhz ∨ p.samples.length < 100 ∨ ∃ x ∈ p.samples, 97 * s.m.pwr.capW ≤ x * 100) →
      exec (.powerLoopSample w) s = .next { s with m := { s.m with pwr := { p with capUnmet := false } } })) ∧
  (∀ (s : State), chipRuns s.m = true → mpStopped s.m = false →
    exec .fastTrip s = .next { s with m := { s.m with pwr := { s.m.pwr with loopMhz := stepsDown 8 (appliedMhz s.m.pwr), stepAt := 0 } } }) ∧
  (∀ (s : State) w, chipRuns s.m = false → exec (.powerLoopSample w) s = .next s) ∧
  (∀ (s : State) w, chipRuns s.m = true → mpStopped s.m = true → exec (.powerLoopSample w) s = .next { s with m := { s.m with pwr :=
    { s.m.pwr with samples := (w :: s.m.pwr.samples).take 100, stepAt := min 100 (s.m.pwr.stepAt + 1), upAt := min 100 (s.m.pwr.upAt + 1) } } }) ∧
  (∀ n f, 200 ≤ stepsDown (n + 1) f ∧ stepsDown n (200 + 25 * n) = 200) ∧
  (∀ n f, f % 25 = 0 → 200 + 25 * n ≤ f → stepsDown n f = f - 25 * n) ∧
  (∀ (s : State), chipRuns s.m = true → mpStopped s.m = false →
    (s.m.pwr.hot = true → exec .thermalStep s = .next { s with m := { s.m with pwr := { s.m.pwr with thermMhz := stepDown (appliedMhz s.m.pwr) } } }) ∧
    (s.m.pwr.hot = false → s.m.pwr.dieMax < 90 → s.m.pwr.thermMhz < min s.m.pwr.limitMhz s.m.pwr.loopMhz →
      exec .thermalStep s = .next { s with m := { s.m with pwr := { s.m.pwr with thermMhz := stepUp (maxMhz s.m) s.m.pwr.thermMhz } } }) ∧
    (s.m.pwr.hot = false → (90 ≤ s.m.pwr.dieMax ∨ min s.m.pwr.limitMhz s.m.pwr.loopMhz ≤ s.m.pwr.thermMhz) → exec .thermalStep s = .next s)) ∧
  (∀ (s : State), (chipRuns s.m = false ∨ mpStopped s.m = true) → exec .thermalStep s = .next s ∧ exec .fastTrip s = .next s) ∧
  (∀ (s : State) q m n, s.m.pwr.boot ≠ .dark → inP4 s.m = false → s.m.rst.inReset = false → q = (if alarmArmed s.m = true then raiseAlarm s.nv s.m 3 else (s.nv, s.m)) →
    m = (if q.2.health.downSince = none then { q.2 with health := { q.2.health with downSince := some (now q.2) } } else q.2) →
    n = enterP4 (teardownAll m 0x4001) →
    exec .thermalShutdown s = .next { s with nv := q.1, m := { n with pwr := { n.pwr with hotLatch := true }, pcie := { n.pcie with faultLow := true } } }) ∧
  (∀ (s : State), (s.m.pwr.boot = .dark ∨ inP4 s.m = true ∨ s.m.rst.inReset = true) → exec .thermalShutdown s = .next s) ∧
  (∀ (m : Mach), (enterP4 m).pwr.st = 4 ∧ (enterP4 m).pwr.boot = .standby ∧ (enterP4 m).ctxs = [] ∧ (enterP4 m).mem = []) ∧
  (∀ (s : State), s.m.pwr.boot = .running → s.m.pwr.st < 4 → s.m.rst.inReset = false → ∃ t, exec .thermalShutdown s = .next t ∧ t.pending = s.pending ∧
    t.nv.alarms = modNth s.nv.alarms 3 (fun x => satAdd x 1) ∧ t.m.pwr.boot = .standby ∧ t.m.pwr.st = 4 ∧ t.m.pwr.hotLatch = true ∧
    t.m.pcie.faultLow = true ∧ t.m.ctxs = []) ∧
  (∀ f, stepDown f % 25 = 0 ∧ 200 ≤ stepDown f ∧ (200 < f → stepDown f < f ∧ f ≤ stepDown f + 25)) ∧
  (∀ top f, f < top → f < stepUp top f ∧ stepUp top f ≤ top ∧ stepUp top f ≤ f + 25)

/-- R374, R377, R409, R410: what detections lead to: a droop is counted, a lost rail or core clock resets the chip, a lost controller clock its region, a
lost link clock takes the link down, disagreeing duplicates reset what Table 14.1 names, and the management island restarts on a lockstep
mismatch, unless that is its second within the hour. What waits for a stopped caravaneer (a teardown, the substitution of a spare) starts when it runs again. -/
def Obligations.Detections : Prop :=
  (∀ (s : State) r, regionsOn s.m = true → r < 4 → exec (.supplyDroop r) s = .next { s with m := (
    logRec { s.m with pwr := { s.m.pwr with droops := satAdd s.m.pwr.droops 1 } } (Config.logCode 2) clsCorrected (unitRgn r 0) 0 0 none []) }) ∧
  (∀ (s : State), chipRuns s.m = true → exec .railOutOfRange s = .next { s with m := startReset s.m 5 (unitChip 5) 0x4001 false true none }) ∧
  (∀ (s : State) k, regionsOn s.m = true → has allCtls k = true →
    exec (.clockLoss (.controller k)) s = .next { s with m := startReset s.m 4 (unitCtl k) 0x3001 false false none }) ∧
  (∀ (s : State) k, chipRuns s.m = true → (k = .aclk ∨ k = .nclk ∨ k = .mclk ∨ k = .roundTimer) →
    exec (.clockLoss k) s = .next { s with m := startReset s.m 5 (unitChip 0) 0x4001 false false none }) ∧
  (∀ (s : State) k, k < 18 → (getLink s.m k).st ≠ .down →
    exec (.clockLoss (.link k)) s = .next { s with m := linkDown s.m k }) ∧
  (∀ (s : State) u, regionsOn s.m = true → unitKind u = 0 → unitIx u < 1088 → (unitSub u = 0 ∨ unitSub u = 3) →
    exec (.duplicateMismatch u) s = .next { s with m := (
      quarantine (logRec (noteMismatch s.m) (Config.logCode 7) clsContained u 0 0 none []) (unitIx u)) }) ∧
  (∀ (s : State) u, regionsOn s.m = true → unitKind u = 1 → unitIx u < 4 → 1 ≤ unitSub u → unitSub u ≤ 3 →
    exec (.duplicateMismatch u) s = .next { s with m := startReset (noteMismatch s.m) 4 u 0x3001 false false none }) ∧
  (∀ (s : State) u, chipRuns s.m = true → unitKind u = 2 → unitSub u ≤ 2 →
    exec (.duplicateMismatch u) s = .next { s with m := startReset (noteMismatch s.m) 5 u 0x4001 false false none }) ∧
  (∀ (s : State), chipRuns s.m = true → s.m.rst.restarting = false → (∀ t, s.m.rst.restartAt = some t → 3600 * 1000000000 ≤ now s.m - t) →
    ∃ t, exec .lockstepMismatch s = .next t ∧ t.nv = s.nv ∧ t.m.rst.restarting = true ∧ t.m.rst.restartAt = some (now s.m) ∧
      t.m.sec.session = none ∧ t.m.rst.jobs = s.m.rst.jobs ∧ ∀ b ∈ t.m.mgmt.mbx, b.st = .restarting) ∧
  (∀ (s : State) t, chipRuns s.m = true → s.m.rst.restarting = false → s.m.rst.restartAt = some t → now s.m - t < 3600 * 1000000000 →
    exec .lockstepMismatch s = .next { s with m := startReset (noteMismatch s.m) 5 (unitChip 5) 0x1006 false true none }) ∧
  (∀ (s : State), s.m.rst.restarting = true →
    exec .managementIslandRestartTimeout s = .next { s with m := startReset (chargeRestart s.m) 5 (unitChip 5) 0x1006 false true none }) ∧
  (∀ (m : Mach) c trigger, (mpStopped m = true → chipFenced m = false → askTeardown m c trigger = waitForMp m (.teardown c trigger)) ∧
    (mpStopped m = false → askTeardown m c trigger = startTeardown m c trigger ∧
      resumeMp m = m.rst.waiting.foldl mpTask { m with rst := { m.rst with waiting := [] } })) ∧
  (∀ (s : State), s.m.rst.restarting = true → s.m.rst.waiting = [] → ∃ t, exec .mpRestartDone s = .next t ∧ t.nv = s.nv ∧ t.m.rst.restarting = false ∧
    (∀ o ∈ t.m.mgmt.ops, o.outcome ≠ none) ∧ ((∀ p, (getMbx s.m p).inHand = none) → ∀ p, (getMbx t.m p).st = .idle ∧ (getMbx t.m p).accepted = false))

/-- R455, R457, R459, R460, R462: alarms and the debug port. A condition is counted, raised and acted on at the level the policy in force gives it: 1 is recorded; 2 also ends the
debug session and locks; 3 also erases the keys for good. The fuse check raises condition 4; the tamper latch is set in P4 only; what a D2 session may do is within its scope. -/
def Obligations.SecurityEvents : Prop :=
  (∀ (s : State) c, c < 4 → alarmArmed s.m = true → ∃ t, exec (.alarmCondition c) s = .next t ∧ t.pending = s.pending ∧ (t.nv, t.m) = raiseAlarm s.nv s.m c) ∧
  (∀ (s : State) m, alarmArmed s.m = true → m = { s.m with sec := { s.m.sec with fuseRound := s.m.time.round.toNat } } →
    exec (.fuseIntegrityCheck false) s = .next { s with m := m } ∧
    ∃ t, exec (.fuseIntegrityCheck true) s = .next t ∧ t.pending = s.pending ∧ (t.nv, t.m) = raiseAlarm s.nv m 4) ∧
  (∀ (s : State), inP4 s.m = true → exec .tamperLatchSet s = .next { s with nv := { s.nv with tamper := true } }) ∧
  (∀ (s : State), inP4 s.m = false → exec .tamperLatchSet s = .next s) ∧
  (∀ (s : State), chipRuns s.m = true → s.m.sec.locked = false → dbgGrants s.m 2 = true →
    exec (.haltAndStep .haltMp) s = .next { s with m := { s.m with sec := { s.m.sec with mpHalted := true } } } ∧
    ∀ p, p < 1088 → exec (.haltAndStep (.haltBlk p)) s = .next { s with m := modBlk s.m p (fun b => { b with halted := true }) }) ∧
  (∀ (s : State) p, chipRuns s.m = true → s.m.sec.locked = false → dbgGrants s.m 2 = true → (getBlk s.m p).halted = true →
    exec (.haltAndStep (.stepBlk p)) s = .next { s with m := (
      modBlk (waybillStart p (modBlk s.m p (fun b => { b with halted := false }))) p (fun b => { b with halted := true })) }) ∧
  (∀ (s : State) u, chipRuns s.m = true → s.m.sec.locked = false → dbgGrants s.m 3 = true → unitExists u = true →
    exec (.haltAndStep (.scan u)) s = .next { s with m := freeStep (debugOut s.m (Config.unitState s.m.freeCtr u)) 1 }) ∧
  (∀ (s : State) a n, chipRuns s.m = true → s.m.sec.locked = false → dbgGrants s.m 4 = true → n ≤ 4064 → (∀ i, i < n → isPopulated (a + i) = true) →
    exec (.haltAndStep (.memRead a n)) s = .next { s with m := debugOut s.m (rdBytes s.m a n) }) ∧
  (∀ (s : State) a bs, chipRuns s.m = true → s.m.sec.locked = false → dbgGrants s.m 4 = true → bs.length ≤ 4064 →
    (∀ i, i < bs.length → isPopulated (a + i) = true) → exec (.haltAndStep (.memWrite a bs)) s = .next { s with m := wrBytes s.m a bs }) ∧
  (∀ (s : State) a, (∀ i, dbgGrants s.m i = false) → exec (.haltAndStep a) s = .next s) ∧
  (∀ (nv : NonVol) (m : Mach) cond level, level = nthN nv.policy.levels cond →
    (raiseAlarm nv m cond).1.alarms = modNth nv.alarms cond (fun x => satAdd x 1) ∧
    (raiseAlarm nv m cond).1.policy = nv.policy ∧ (raiseAlarm nv m cond).1.owner = nv.owner ∧
    (level < 2 → (raiseAlarm nv m cond).1 = { nv with alarms := modNth nv.alarms cond (fun x => satAdd x 1) } ∧
      (raiseAlarm nv m cond).2.sec = { m.sec with alarmLevel := max m.sec.alarmLevel level, raised := m.sec.raised ||| 1 <<< cond } ∧
      (raiseAlarm nv m cond).2.ctxs = m.ctxs) ∧
    (level = 2 → (raiseAlarm nv m cond).1.lifecycle = nv.lifecycle ∧ (raiseAlarm nv m cond).2.sec.locked = true ∧
      (raiseAlarm nv m cond).2.sec.session = none ∧ (raiseAlarm nv m cond).2.ctxs = m.ctxs) ∧
    (3 ≤ level → (raiseAlarm nv m cond).1.lifecycle = 3 ∧ (nv.lifecycle ≠ 3 → (raiseAlarm nv m cond).1.keyLatch = true ∧
      ∀ a, a ∈ allTiers → a ∈ (raiseAlarm nv m cond).2.zeroing)))

/-- R449, R450: the SPDM responder. Each request is answered on the port it came on once those before it were; a signature and a nonce are free bytes
(log entry 18), and the layout of messages is the model's (log entry 20). -/
def Obligations.Attestation : Prop :=
  (∀ (s : State) b, spdmUp s.m b = true → exec (.getVersion b) s = .next { s with m := (
    spdmSend (setSpdm s.m b { version := true, caps := false, algs := false }) b
      (leBytes 1 0x10 ++ leBytes 1 0x04 ++ leBytes 2 0 ++ leBytes 1 0 ++ leBytes 1 1 ++ leBytes 2 0x1200)) }) ∧
  (∀ (s : State) b, spdmUp s.m b = true → (spdmOf s.m b).version = true → ∃ t x y, exec (.getCapabilities b) s = .next t ∧ t.nv = s.nv ∧
    t.pending = s.pending ∧ (spdmOf t.m b).caps = true ∧
    t.m.sec.spdmOut = s.m.sec.spdmOut ++ [(b2n b, spdmHead 0x61 0 0 ++ leBytes 1 0 ++ x ++ leBytes 2 0 ++ leBytes 4 0x36 ++ y)] ∧ x.length = 1 ∧ y.length = 8) ∧
  (∀ (s : State) b spec asym hash, spdmUp s.m b = true → (spdmOf s.m b).caps = true → tbit spec 0 = true → tbit asym 6 = true → tbit hash 2 = true →
    exec (.negotiateAlgorithms b spec asym hash) s = .next { s with m := (
      spdmSend (setSpdm s.m b { version := true, caps := true, algs := true }) b
        (spdmHead 0x63 0 0 ++ leBytes 2 36 ++ leBytes 1 1 ++ leBytes 1 0 ++ leBytes 4 8 ++ leBytes 4 0x40 ++ leBytes 4 4 ++ List.replicate 16 0)) }) ∧
  (∀ (s : State) b, spdmUp s.m b = true → (spdmOf s.m b).algs = true →
    exec (.getDigests b) s = .next { s with m := spdmSend s.m b (spdmHead 0x01 0 1 ++ chainDigest s.nv) }) ∧
  (∀ (s : State) b off n, spdmUp s.m b = true → (spdmOf s.m b).algs = true → off < (spdmChain s.nv).length →
    exec (.getCertificate b 0 off n) s = .next { s with m := spdmSend s.m b (spdmHead 0x02 0 0 ++ leBytes 2 (((spdmChain s.nv).drop off).take n).length ++
      leBytes 2 ((spdmChain s.nv).length - off - (((spdmChain s.nv).drop off).take n).length) ++ ((spdmChain s.nv).drop off).take n) }) ∧
  (∀ (s : State) b what, spdmUp s.m b = true → (spdmOf s.m b).algs = true → (what = 0 ∨ what = 1 ∨ what = 255) → canSign s.nv s.m = true → ∃ t nonce sum sig,
    exec (.challenge b 0 what) s = .next t ∧ t.nv = s.nv ∧ t.pending = s.pending ∧ nonce.length = 32 ∧ sig.length = 512 ∧ (what = 0 → sum = []) ∧
    (what = 1 → sum.length = 64) ∧ (what = 255 → sum = padTo 64 (Config.sha512 (allBlocks s.nv s.m))) ∧
    t.m.sec.spdmOut = s.m.sec.spdmOut ++ [(b2n b, spdmHead 0x03 0 1 ++ chainDigest s.nv ++ nonce ++ sum ++ leBytes 2 0 ++ sig)]) ∧
  (∀ (s : State) b signed slot i k n recs, spdmUp s.m b = true → (spdmOf s.m b).algs = true → (signed = true → slot = 0 ∧ canSign s.nv s.m = true) →
    ((i = 0 ∧ k = 7 ∧ n = 0 ∧ recs = []) ∨ (1 ≤ i ∧ i ≤ 7 ∧ k = 0 ∧ n = 1 ∧ recs = measBlock s.nv s.m i) ∨
      (i = 255 ∧ k = 0 ∧ n = 7 ∧ recs = allBlocks s.nv s.m)) → ∃ t nonce sig,
    exec (.getMeasurements b signed slot i) s = .next t ∧ t.nv = s.nv ∧ t.pending = s.pending ∧ nonce.length = 32 ∧ sig.length = (if signed then 512 else 0) ∧
    t.m.sec.spdmOut = s.m.sec.spdmOut ++ [(b2n b, spdmHead 0x60 k 0 ++ leBytes 1 n ++ leBytes 3 recs.length ++ recs ++ nonce ++ leBytes 2 0 ++ sig)]) ∧
  (∀ (s : State) ix key, chipRuns s.m = true → s.m.pcie.linkUp = true → exec (.keyProg ix key false) s = .next { s with m := { s.m with
    pcie := { s.m.pcie with mse := false, ide := (s.m.pcie.ide.filter (fun q => q.1 != ix)) ++ [(ix, key)] } } }) ∧
  (∀ (s : State) ix key, exec (.keyProg ix key true) s = .next { s with m := { s.m with pcie := { s.m.pcie with mse := true } } }) ∧
  (∀ (s : State), chipRuns s.m = true → s.m.pcie.linkUp = true → s.m.pcie.ide ≠ [] →
    exec (.kSetGo false) s = .next { s with m := { s.m with pcie := { s.m.pcie with mse := false, ideOn := true } } }) ∧
  (∀ (s : State), exec (.kSetGo true) s = .next { s with m := { s.m with pcie := { s.m.pcie with mse := true } } })

/-- R32, R38, R391, R454: a management round counts itself, takes up a policy that waits, takes its temperatures, margins, energy and score, and captures
every group; an island that restarts or is halted does no more than count. The saved score is the published one. -/
def Obligations.ManagementRounds : Prop :=
  (∀ (s : State) f m, chipRuns s.m = true → s.m.rst.restarting = false → s.m.sec.mpHalted = false →
    s.m.mgmt.accepted = [] →
    m = f.margins.foldl (fun m q => noteMargin m q.1 q.2.1 q.2.2)
      (takeTemps (upkeep { s.m with time := { s.m.time with round := satAdd s.m.time.round 1 } }) f) →
    exec (.managementRound f) s = .next { s with nv := takePolicy s.nv, m := capture (scoreRound (energyRound m f)) }) ∧
  (∀ (s : State) f, chipRuns s.m = true → (s.m.rst.restarting = true ∨ s.m.sec.mpHalted = true) →
    exec (.managementRound f) s = .next { s with m := { s.m with time := { s.m.time with round := satAdd s.m.time.round 1 } } }) ∧
  (∀ (s : State), chipRuns s.m = true →
    exec .healthScoreSave s = .next { s with m := flashWrite { s.m with health := { s.m.health with saved := s.m.health.published } } 0 })

/-- R390, R391: the raw score and the seven penalties add up to 1,000, and the published score follows it by at most 100 a time, never within an
hour of its last change, never past the raw score, and upward only after 24 h above. The premise, kept by every round and every boot, is that the lowest raw score
noted while above is not below the published one. -/
def Obligations.HealthScore : Prop :=
  (∀ (m : Mach), (scoreRound m).health.raw + ((penalties m).foldl (· + ·) 0) = 1000 ∧ (penalties m).length = 7 ∧ (scoreRound m).health.terms = penalties m) ∧
  (∀ h raw t, (h.above ≠ none → h.published ≤ h.low) → (publish h raw t).published ≤ h.published + 100 ∧ h.published ≤ (publish h raw t).published + 100 ∧
    ((publish h raw t).published ≠ h.published → 3600 * 1000000000 ≤ t - h.changed ∧ (publish h raw t).changed = t) ∧
    (raw ≤ h.published → raw ≤ (publish h raw t).published ∧ (publish h raw t).published ≤ h.published) ∧
    (h.published ≤ raw → h.published ≤ (publish h raw t).published ∧ (publish h raw t).published ≤ raw) ∧
    (h.published < (publish h raw t).published → ∃ start, h.above = some start ∧ 24 * hourNs ≤ t - start) ∧
    ((publish h raw t).above ≠ none → (publish h raw t).published ≤ (publish h raw t).low)) ∧
  (∀ (m : Mach) cold, (m.health.above ≠ none → m.health.published ≤ m.health.low) → (clearForBoot m cold).health.above ≠ none →
    (clearForBoot m cold).health.published ≤ (clearForBoot m cold).health.low)

/-- R399, R401, R403 to R405, R407, R412: a hang leads to the reset of its unit's rung, or to a restart of the management
island; a stalled context's runs halt; 1 ms after a cordon what waits behind it is answered; a unit that is silent is recorded; the end of each rung's reset, and what a rung that misses
its bound leads to. Below the chip's rung, no reset ends before a stopped caravaneer has collected its units (R34, log entry 71). -/
def Obligations.HangsAndResets : Prop :=
  (∀ (s : State) u, watched s.m u = true → s.m.rst.jobs.find? (fun j => domainRoot j.rung u == some j.domain) = none → u ≠ unitChip 5 → exec (.watchdogExpiry u) s = .next { s with m := (
    startReset (report s.m 0x5003 clsInfo u none 0 0 (leBytes 1 (hangRung s.m u) ++ leBytes 4 (watchMs s.m u)))
      (hangRung (report s.m 0x5003 clsInfo u none 0 0 (leBytes 1 (hangRung s.m u) ++ leBytes 4 (watchMs s.m u))) u) u 0x5003 false false none) }) ∧
  (∀ (s : State), watched s.m (unitChip 5) = true → s.m.rst.jobs.find? (fun j => domainRoot j.rung (unitChip 5) == some j.domain) = none → exec (.watchdogExpiry (unitChip 5)) s = .next { s with m := (
    startRestart (report s.m 0x5003 clsInfo (unitChip 5) none 0 0 (leBytes 1 0 ++ leBytes 4 (watchMs s.m (unitChip 5)))) 1) }) ∧
  (∀ (s : State) u j, watched s.m u = true → s.m.rst.jobs.find? (fun j => domainRoot j.rung u == some j.domain) = some j →
    exec (.watchdogExpiry u) s = .next { s with m := noteUnresponsive s.m j.domain u }) ∧
  (∀ (s : State) u, watched s.m u = false → exec (.watchdogExpiry u) s = .next s) ∧
  (∀ (s : State) c m, c < 16 → (getCtx s.m c).st = .active → slotsLeft s.m c ≠ [] →
    m = (slotsLeft s.m c).foldl (fun m k => haltMan m c k cRunHalted 0xFFFFFFFF) s.m →
    exec (.stall c) s = .next { s with m := (reportCtx m 0x2006 (unitCtx c (handleOf m c)) c 0
      (leBytes 4 ((slotsLeft s.m c).foldl (fun a k => a + leftAt s.m c k) 0))) }) ∧
  (∀ (s : State) dom j, s.m.rst.jobs.find? (fun j => j.domain == dom) = some j → exec (.cordonTimeout dom) s = .next { s with m := (
    dropRepairs ((portsWaiting s.m j.rung dom).foldl answerBanks s.m) (domainCtls j.rung dom)) }) ∧
  (∀ (s : State) dom u, mpStopped s.m = false → ∃ t, exec (.collectionUnitTimeout dom u) s = .next t ∧ t = { s with m := { s.m with rst := { s.m.rst with jobs := t.m.rst.jobs } } } ∧
    ∀ j ∈ s.m.rst.jobs, (if j.domain = dom ∧ has (domainUnits s.m j.rung j.domain) u = true ∧ (∀ d ∈ j.units, d.unit ≠ u)
      then { j with units := j.units ++ [({ unit := u, st := 1 } : DumpUnit)] } else j) ∈ t.m.rst.jobs) ∧
  (∀ (s : State) dom u, mpStopped s.m = true → exec (.collectionUnitTimeout dom u) s = .next s) ∧
  (∀ (s : State) dom f missed j, unitKind dom ≠ 3 → s.m.rst.jobs.find? (fun j => j.domain == dom) = some j → uncollected s.m j = true →
    exec (.resetComplete dom f) s = .next s ∧ exec (.rungWatchdogExpiry dom missed) s = .next s) ∧
  (∀ (m : Mach) c k q, getMan m c k = some q → q.halted = false → ∃ x, getMan (haltMan m c k cRunHalted 0xFFFFFFFF) c k = some x ∧ x.halted = true ∧
    x.img = q.img ∧ x.launched = q.launched ∧ ∀ r ∈ x.runs, r.ended = false → r.halted = true ∧ (r.started = true → r.code = cRunHalted)) ∧
  (∀ (s : State) dom f j, s.m.rst.jobs.find? (fun j => j.domain == dom) = some j → uncollected s.m j = false → j.rung = 2 → unitKind dom = 0 → exec (.resetComplete dom f) s = .next { s with m := (
    closeReset { s.m with rst := { s.m.rst with engineHung := tset 0 s.m.rst.engineHung dom (now s.m) } } (collect s.m j false)) }) ∧
  (∀ (s : State) dom f j, s.m.rst.jobs.find? (fun j => j.domain == dom) = some j → uncollected s.m j = false → j.rung = 2 → unitKind dom ≠ 0 →
    exec (.resetComplete dom f) s = .next { s with m := closeReset (resetAssayer s.m) (collect s.m j false) }) ∧
  (∀ (s : State) dom f j, s.m.rst.jobs.find? (fun j => j.domain == dom) = some j → uncollected s.m j = false → j.rung = 3 → exec (.resetComplete dom f) s = .next { s with m := (
    noteBlkReset (closeReset (resetBlk s.m (unitIx dom)) (collect s.m j false)) j.origin) }) ∧
  (∀ (s : State) dom f j, s.m.rst.jobs.find? (fun j => j.domain == dom) = some j → uncollected s.m j = false → j.rung = 4 → j.requested = true →
    exec (.resetComplete dom f) s = .next { s with m := noteBlkReset (closeReset (resetRgn s.m (unitIx dom)) (collect s.m j false)) j.origin }) ∧
  (∀ (s : State) dom f j r, s.m.rst.jobs.find? (fun j => j.domain == dom) = some j → uncollected s.m j = false → j.rung = 4 → j.requested = false → r = resetRgn s.m (unitIx dom) →
    exec (.resetComplete dom f) s = .next { s with m := (noteBlkReset (closeReset
      { r with health := { r.health with unavail := satAdd r.health.unavail ((now s.m - j.stamp.counter) / 4) } } (collect s.m j false)) j.origin) }) ∧
  (∀ (s : State) dom f j, s.m.rst.jobs.find? (fun j => j.domain == dom) = some j → j.rung = 5 → ∃ t, exec (.resetComplete dom f) s = .next t ∧
    t.pending = s.pending ∧ (t.nv, t.m) = closeChip (boot s.nv s.m f false).1 (boot s.nv s.m f false).2 (collect s.m j false)) ∧
  (∀ (s : State) dom missed j, unitKind dom ≠ 3 → s.m.rst.jobs.find? (fun j => j.domain == dom) = some j → uncollected s.m j = false → (j.rung = 3 ∨ j.rung = 4) →
    exec (.rungWatchdogExpiry dom missed) s = .next { s with m := escalate s.m j (j.rung + 1) }) ∧
  (∀ (s : State) dom missed j, unitKind dom ≠ 3 → s.m.rst.jobs.find? (fun j => j.domain == dom) = some j → uncollected s.m j = false → j.rung = 2 →
    exec (.rungWatchdogExpiry dom missed) s = .next { s with m := escalate s.m j (if unitKind dom = 0 then 3 else 5) }) ∧
  (∀ (s : State) dom missed j, unitKind dom ≠ 3 → s.m.rst.jobs.find? (fun j => j.domain == dom) = some j → j.rung = 5 → slotIn s.nv .try_ = none →
    exec (.rungWatchdogExpiry dom missed) s = .next { s with m := { s.m with
      rst := { s.m.rst with jobs := [], inReset := true, oosNext := true }, pwr := { s.m.pwr with boot := .standby, fabricReady := false },
      pcie := { s.m.pcie with faultLow := true, linkUp := false } } }) ∧
  (∀ (s : State) dom missed j, unitKind dom ≠ 3 → s.m.rst.jobs.find? (fun j => j.domain == dom) = some j → j.rung = 5 → slotIn s.nv .try_ ≠ none →
    exec (.rungWatchdogExpiry dom missed) s = .next { s with nv := failTry s.nv }) ∧
  (∀ (s : State) dom missed, unitKind dom = 3 → unitIx dom < 16 → (getCtx s.m (unitIx dom)).st = .teardown →
    exec (.rungWatchdogExpiry dom missed) s = .next { s with m := ((missed.filter unitExists).foldl (fun l u => insNat u l) []).foldl teardownMissed s.m })

/-- R80 to R96, R103, R188: the array. An operation whose groups all open runs its pass and is in the array until its last K-step is written back; a group that
may not be opened ends its waybill with GROUP_STATE; a drain makes its OPEN groups CLOSING and queues; a load behind queued drains
queues behind them and reads its tile when they have written; the oldest drain of the queue writes its groups, and ends its waybill where a residue check failed; of a group that is FAULTED nothing is written and it is free again; DISCARD frees the groups of its own owner. A pass leaves each of its groups, and only those, OPEN under its owner with its K-steps counted, each valid entry its cell's pass. -/
def Obligations.ArrayEvents : Prop :=
  (∀ (s : State) p st mism w ix o, runningOn (getBlk s.m p) st = some w → nextItem s.m w isArrayOp = some (ix, .arrayOp o) →
    (getBlk s.m p).arr.running = none → (∀ x ∈ opOpens s.m (getBlk s.m p) w o, x = .ok) →
    (has o.opens 1 = true → (getBlk s.m p).arr.queue = []) →
    exec (.arrayOp p st mism) s = .next { s with m := startArray s.m p w ix o mism }) ∧
  (∀ (s : State) p st mism w ix o, runningOn (getBlk s.m p) st = some w → nextItem s.m w isArrayOp = some (ix, .arrayOp o) →
    (getBlk s.m p).arr.running = none → (∀ x ∈ opOpens s.m (getBlk s.m p) w o, x = .ok) → has o.opens 1 = true →
    (getBlk s.m p).arr.queue ≠ [] → (getBlk s.m p).arr.queue.length < 8 →
    exec (.arrayOp p st mism) s = .next { s with m := queueLoad s.m p w ix o mism }) ∧
  (∀ (m : Mach) p r o mism rest m1 w, (getBlk m p).arr.queue = .load r o mism :: rest →
    m1 = modBlk m p (fun b => modArr b (fun a => { a with queue := rest })) → runningOn (getBlk m1 p) r.stream = some w →
    runLoad m p = modBlk (startArray m1 p w r.item o mism) p (fun b => modArr b (keepStates (getBlk m1 p).arr o))) ∧
  (∀ (s : State) p st mism w ix o, runningOn (getBlk s.m p) st = some w → nextItem s.m w isArrayOp = some (ix, .arrayOp o) →
    (getBlk s.m p).arr.running = none → OpenRes.bad ∈ opOpens s.m (getBlk s.m p) w o →
    exec (.arrayOp p st mism) s = .next { s with m := endWb s.m p st cGroupState }) ∧
  (∀ (s : State) p q, (getBlk s.m p).arr.running = some q → loadWaits (getBlk s.m p).arr = false → exec (.arrayOpComplete p) s = .next { s with m := (
    markItem (modBlk s.m p (fun b => modArr b (fun a => { a with running := none }))) p q.1.stream q.1.item .done) }) ∧
  (∀ (s : State) p st mism w ix o, runningOn (getBlk s.m p) st = some w → nextItem s.m w isDrain = some (ix, .drain o) →
    drainBad s.m (getBlk s.m p) w o = false → (getBlk s.m p).arr.queue.length < 8 →
    exec (.drain p st mism) s = .next { s with m := queueDrain s.m p w ix o mism }) ∧
  (∀ (s : State) p st mism w ix o, runningOn (getBlk s.m p) st = some w → nextItem s.m w isDrain = some (ix, .drain o) →
    drainBad s.m (getBlk s.m p) w o = true → exec (.drain p st mism) s = .next { s with m := endWb s.m p st cGroupState }) ∧
  (∀ (s : State) p j js step m, (getBlk s.m p).arr.queue = .drain j :: js → step = ((runningOn (getBlk s.m p) j.ref.stream).map (·.step)).getD 0 →
    drainFaults (getBlk s.m p).arr j = false →
    m = (j.op.groups.zip (List.range j.op.groups.length)).foldl (fun m q => drainGroup p j step m q.2 q.1) s.m →
    exec (.drainComplete p) s = .next { s with m := (runLoad
      (markItem (modBlk m p (fun b => modArr b (fun a => { a with queue := js }))) p j.ref.stream j.ref.item .done) p) }) ∧
  (∀ (s : State) p j js step m, (getBlk s.m p).arr.queue = .drain j :: js → step = ((runningOn (getBlk s.m p) j.ref.stream).map (·.step)).getD 0 →
    drainFaults (getBlk s.m p).arr j = true →
    m = (j.op.groups.zip (List.range j.op.groups.length)).foldl (fun m q => drainGroup p j step m q.2 q.1) s.m →
    exec (.drainComplete p) s = .next { s with m := (runLoad (markItem
      (endWb (modBlk (modBlk m p (fun b => modArr b (fun a => { a with queue := js }))) p (fun b => recFlag b j.ref.stream 3)) p j.ref.stream cArithResidue)
      p j.ref.stream j.ref.item .done) p) }) ∧
  (∀ (m : Mach) p j step n g, drains (getBlk m p).arr j g = false → (drainGroup p j step m n g).mem = m.mem ∧ (drainGroup p j step m n g).poison = m.poison ∧
    ((getGroup (getBlk m p).arr g).st = .faulted → getGroup (getBlk (drainGroup p j step m n g) p).arr g = freeGroup)) ∧
  (∀ (s : State) p st w ix mask, runningOn (getBlk s.m p) st = some w → nextItem s.m w isDiscard = some (ix, .discard mask) →
    discardBad s.m (getBlk s.m p) w mask = false →
    exec (.discard p st) s = .next { s with m := markItem (modBlk s.m p (fun b => modArr b (freeGroups mask))) p st ix .done }) ∧
  (∀ a mask g, g < 8 → getGroup (freeGroups mask a) g =
    if tbit mask g = true ∧ ((getGroup a g).st = .opened ∨ (getGroup a g).st = .faulted) then freeGroup else getGroup a g) ∧
  (∀ (m : Mach) p w o a0 i, i < (shapeOf o.shape).1 * (shapeOf o.shape).2 →
    getGroup ((opGroups o).foldl (passGroup m p w o) a0) (o.base + i) = getGroup (passGroup m p w o a0 i) (o.base + i)) ∧
  (∀ (m : Mach) p w o a0 g, (g < o.base ∨ o.base + (shapeOf o.shape).1 * (shapeOf o.shape).2 ≤ g) →
    getGroup ((opGroups o).foldl (passGroup m p w o) a0) g = getGroup a0 g) ∧
  (∀ (m : Mach) p w o a0 i, nthN o.opens i ≠ 2 → ∃ x, x = getGroup (passGroup m p w o a0 i) (o.base + i) ∧ x.st = .opened ∧ x.ctx = w.ctx ∧
    x.stream = w.stream ∧ x.grp = wbGroup m w ∧ x.isInt = isIntPairing o.pairing ∧ x.t = kSteps o) ∧
  (∀ (m : Mach) p w o a0 i, nthN o.opens i = 2 →
    (getGroup (passGroup m p w o a0 i) (o.base + i)).t = (getGroup a0 (o.base + i)).t + kSteps o) ∧
  (∀ (m : Mach) p o r c valid g i j, j < 32 → valid ≤ 32 →
    tget freshEntry (runGroup m p o r c valid g).cells (32 * i + j) =
      if i < valid then runCell m p o r c i j (tget freshEntry g.cells (32 * i + j)) else tget freshEntry g.cells (32 * i + j))

/-- R126 to R130, R133, R135 to R144: the vector engine's operations. One that is first in the sequencer's order, and whose streams are ready and well formed, runs the body of its
opcode and takes what that answers. -/
def Obligations.VectorOperations : Prop :=
  ∀ (s : State) p st mism w ix op a, (getBlk s.m p).ve.running = none →
    turnOf (getBlk s.m p) (hasVector s.m (getBlk s.m p)) = some st → runningOn (getBlk s.m p) st = some w →
    nextItem s.m w isVector = some (ix, .vector op) → veStart p s.m w ix op mism = .go a →
    (op.opcode = 0x01 → exec (.vadd p st mism) s = .next { s with m := veApply a (vElementWise a) }) ∧
    (op.opcode = 0x02 → exec (.vsub p st mism) s = .next { s with m := veApply a (vElementWise a) }) ∧
    (op.opcode = 0x03 → exec (.vmul p st mism) s = .next { s with m := veApply a (vElementWise a) }) ∧
    (op.opcode = 0x04 → exec (.vfma p st mism) s = .next { s with m := veApply a (vElementWise a) }) ∧
    (op.opcode = 0x05 → exec (.vdiv p st mism) s = .next { s with m := veApply a (vElementWise a) }) ∧
    (op.opcode = 0x06 → exec (.vsqrt p st mism) s = .next { s with m := veApply a (vElementWise a) }) ∧
    (op.opcode = 0x07 → exec (.vfunc p st mism) s = .next { s with m := veApply a (vElementWise a) }) ∧
    (op.opcode = 0x0B → exec (.vmaxMin p st mism) s = .next { s with m := veApply a (vElementWise a) }) ∧
    (op.opcode = 0x0D → exec (.vsign p st mism) s = .next { s with m := veApply a (vElementWise a) }) ∧
    (op.opcode = 0x10 → exec (.vcmp p st mism) s = .next { s with m := veApply a (vCompare a) }) ∧
    (op.opcode = 0x11 → exec (.vselect p st mism) s = .next { s with m := veApply a (vSelect a) }) ∧
    (op.opcode = 0x18 → exec (.vcvt p st mism) s = .next { s with m := veApply a (vConvert a) }) ∧
    (op.opcode = 0x19 → exec (.sh16Enc p st mism) s = .next { s with m := veApply a (vShEnc a) }) ∧
    (op.opcode = 0x1A → exec (.sh16Dec p st mism) s = .next { s with m := veApply a (vShDec a) }) ∧
    (op.opcode = 0x20 → exec (.vreduce p st mism) s = .next { s with m := veApply a (vReduce a) }) ∧
    (op.opcode = 0x21 → exec (.vfinalize p st mism) s = .next { s with m := veApply a (vFinalize a) }) ∧
    (op.opcode = 0x22 → exec (.regLoad p st mism) s = .next { s with m := veApply a (vRegLoad a) }) ∧
    (op.opcode = 0x23 → exec (.regStore p st mism) s = .next { s with m := veApply a (vRegStore a) }) ∧
    (op.opcode = 0x28 → exec (.vcompress p st mism) s = .next { s with m := veApply a (vCompress a) }) ∧
    (op.opcode = 0x29 → exec (.vexpand p st mism) s = .next { s with m := veApply a (vExpand a) }) ∧
    (op.opcode = 0x30 → exec (.gather p st mism) s = .next { s with m := veApply a (vGather a) }) ∧
    (op.opcode = 0x31 → exec (.scatter p st mism) s = .next { s with m := veApply a (vScatter a) }) ∧
    (op.opcode = 0x32 → exec (.scatterAdd p st mism) s = .next { s with m := veApply a (vScatterAdd a) }) ∧
    (op.opcode = 0x38 → exec (.lhSlice p st mism) s = .next { s with m := veApply a (vLhSlice a) }) ∧
    (op.opcode = 0x39 → exec (.lhRecombine p st mism) s = .next { s with m := veApply a (vLhRecombine a) }) ∧
    (op.opcode = 0x40 → exec (.topk p st mism) s = .next { s with m := veApply a (vTopk a) }) ∧
    (op.opcode = 0x41 → exec (.signc p st mism) s = .next { s with m := veApply a (vSignc a) })

/-- R130, R131, R133, R484: what the bodies write. With round to nearest, element e of an element-wise operation is its operands' result, whatever the generators
hold; a comparison writes 0 or 1; nothing from the first element that must not be processed on is written, and an operation that meets
one answers its code. -/
def Obligations.VectorResults : Prop :=
  (∀ a : VArgs, opMode a.op = .rne → (vElementWise a).m =
    putElems a.m a.p (outS a 0) ((List.range (upTo a (outS a 0).n)).map (fun e => (elemWise a (outS a 0).fmt e 0).1)) ∧
    (vElementWise a).w = a.w) ∧
  (∀ a : VArgs, (vCompare a).m = putElems a.m a.p (outS a 0) ((List.range (upTo a (outS a 0).n)).map (fun e =>
    b2n (cmpResult a.op.subop (if isIntFmt (vWork a) = true
      then some (if signed (vOperand a 0 e).2 (elemBits (vOperand a 0 e).1) < signed (vOperand a 1 e).2 (elemBits (vOperand a 1 e).1) then (-1 : Int)
        else if signed (vOperand a 0 e).2 (elemBits (vOperand a 0 e).1) = signed (vOperand a 1 e).2 (elemBits (vOperand a 1 e).1) then 0 else 1)
      else vcmp (valOf (vOperand a 0 e).1 (vOperand a 0 e).2) (valOf (vOperand a 1 e).1 (vOperand a 1 e).2)))))) ∧
  (∀ (a : VArgs) e code, a.cut = some (e, code) → e < (outS a 0).n → (vElementWise a).code = code ∧ (vCompare a).code = code ∧ upTo a (outS a 0).n = e)

/-- R116, R141, R161, R163, R164: the ends of vector operations, Premutar descriptors, and accesses that wait for a RING window. -/
def Obligations.EngineEvents : Prop :=
  (∀ (s : State) p r m1, (getBlk s.m p).ve.running = some r → veOver s.m r = true → r.code = 0 → r.poisoned = false →
    m1 = modBlk s.m p (fun b =>
      let b := endStreams (noteFlags b r.ref r.nf.length r.nf.length (r.nf.map (fun e => (0, e))) []) r true
      { b with ve := { b.ve with running := none, late := b.ve.late ++ r.tags.map (fun t => (t, r.ref)) } }) →
    exec (.vectorOpComplete p) s = .next { s with m := markItem (if r.frame = [] then m1 else
      cvTap m1 p 2 r.ref.ctx ((r.frame.map (fun q => rdBytes m1 q.1 q.2)).flatten)) p r.ref.stream r.ref.item .done }) ∧
  (∀ (s : State) p r, (getBlk s.m p).ve.running = some r → veOver s.m r = false → exec (.vectorOpComplete p) s = .next s) ∧
  (∀ (m : Mach) r, veOver m r = true → r.ringStall = false ∧ r.todo = [] ∧ (r.opcode = 0x30 → r.tags = [])) ∧
  (∀ (s : State) p st w m f, runningOn (getBlk s.m p) st = some w → (getBlk s.m p).pm.stalled = none → (getBlk s.m p).pm.flight.length < 4 →
    m = noteHolds s.m p w → turnOf (getBlk m p) (fun w => (pmFirst m (getBlk m p) w).isSome) = some st → pmFirst m (getBlk m p) w = some f →
    ringStalls (getBlk m p) w.ctx f.desc = false → exec (.premutar p st) s = .next { s with m := pmIssue m p f }) ∧
  (∀ (s : State) p st w m f, runningOn (getBlk s.m p) st = some w → (getBlk s.m p).pm.stalled = none → (getBlk s.m p).pm.flight.length < 4 →
    m = noteHolds s.m p w → turnOf (getBlk m p) (fun w => (pmFirst m (getBlk m p) w).isSome) = some st → pmFirst m (getBlk m p) w = some f →
    ringStalls (getBlk m p) w.ctx f.desc = true →
    exec (.premutar p st) s = .next { s with m := modPm m p (fun x => { x with stalled := some f }) }) ∧
  (∀ (s : State) p st mism, turnOf (getBlk s.m p) (hasVector s.m (getBlk s.m p)) ≠ some st → exec (.vadd p st mism) s = .next s) ∧
  (∀ (s : State) p st w m, runningOn (getBlk s.m p) st = some w → (getBlk s.m p).pm.stalled = none → (getBlk s.m p).pm.flight.length < 4 →
    m = noteHolds s.m p w → turnOf (getBlk m p) (fun w => (pmFirst m (getBlk m p) w).isSome) ≠ some st →
    exec (.premutar p st) s = .next { s with m := m }) ∧
  (∀ (m : Mach) b w f, pmFirst m b w = some f → (∃ q ∈ pmCandidates m b w, f = flightOf m b w q.1 q.2) ∧ ∀ e ∈ b.pm.flight, holds e f = false) ∧
  (∀ (s : State) p f, (getBlk s.m p).pm.flight.find? flightOver = some f → ∃ m,
    m = modPm { s.m with tier := { s.m.tier with regs := s.m.tier.regs.filter (fun g => g.ref != f.ref) } } p
      (fun x => { x with flight := x.flight.filter (fun g => g.ref != f.ref) }) ∧
    exec (.premutarComplete p) s = .next { s with m := markItem m p f.ref.stream f.ref.item .done }) ∧
  (∀ (s : State) p, (getBlk s.m p).pm.flight.find? flightOver = none → exec (.premutarComplete p) s = .next s) ∧
  (∀ (s : State) p f, (getBlk s.m p).ve.running = none → (getBlk s.m p).pm.stalled = some f → ringStalls (getBlk s.m p) f.ref.ctx f.desc = false →
    exec (.ringAccessStart ⟨p, false⟩) s = .next { s with m := pmIssue (modPm s.m p (fun x => { x with stalled := none })) p f }) ∧
  (∀ (s : State) p r w x op a, (getBlk s.m p).ve.running = some r → r.ringStall = true → runningOn (getBlk s.m p) r.ref.stream = some w → w.code = 0 →
    getMan s.m r.ref.ctx r.ref.man = some x → (bodyOf x.img w.wb)[r.ref.item]? = some (.vector op) → veStart p s.m w r.ref.item op none = .go a →
    (getBlk (veApply a (vecBody op a)) p).pm.stalled = none →
    exec (.ringAccessStart ⟨p, false⟩) s = .next { s with m := veApply a (vecBody op a) })

/-- R106 to R109, R112, R119, R121, R122: the banks of a scratchpad. The owner of a bank is served at once, another queues while the owner is busy, and is counted
when it is served; a correction is written back once; the patrol goes on line by line. Where the code finds no error, a read changes nothing but the end of its reader, where what
it reads is poisoned; a write stores its bytes; an alias write ors them in, or clears them, and leaves poisoned granules. -/
def Obligations.ScratchpadEvents : Prop :=
  (∀ (s : State) p master c st off n data busy single double, fenced s.m (spAddr p 0) = false → inLine off n = true → (∀ d, data = some d → d.length = n) →
    (master = 6 ∨ bankAllowed s.m p c off n = true) → master ≠ 0 → nthN (getBlk s.m p).sp.owner (off / 0x20000) = master →
    exec (.spAccess p master c st off n data busy single double) s = .next { s with m := (spPerform s.m p
      { master := master, ctx := c, stream := st, off := off, len := n, data := data, aliasOp := none, viaAlias := false, waited := 0 } single double) }) ∧
  (∀ (s : State) p master c st off n data single double, fenced s.m (spAddr p 0) = false → inLine off n = true → (∀ d, data = some d → d.length = n) →
    (master = 6 ∨ bankAllowed s.m p c off n = true) → nthN (getBlk s.m p).sp.owner (off / 0x20000) ≠ master →
    nthN (getBlk s.m p).sp.owner (off / 0x20000) ≠ 0 → (bankQueue (getBlk s.m p).sp (off / 0x20000) data.isSome).length < 16 →
    ∃ t, exec (.spAccess p master c st off n data true single double) s = .next t ∧ t.nv = s.nv ∧ t.pending = s.pending ∧ t.m.mem = s.m.mem ∧
      (p < 1088 → bankQueue (getBlk t.m p).sp (off / 0x20000) data.isSome = bankQueue (getBlk s.m p).sp (off / 0x20000) data.isSome ++
        [{ master := master, ctx := c, stream := st, off := off, len := n, data := data, aliasOp := none, viaAlias := false, waited := 0 }])) ∧
  (∀ (s : State) p master c st off n data busy single double, fenced s.m (spAddr p 0) = false → inLine off n = true → (∀ d, data = some d → d.length = n) →
    master ≠ 6 → bankAllowed s.m p c off n = false →
    exec (.spAccess p master c st off n data busy single double) s = .next { s with m := endWb s.m p st cSpAddress }) ∧
  (∀ (s : State) p master c st off data busy single double y, fenced s.m (spAddr p 0) = false → 0xC0000 < off + data.length → aliasAllows s.m c (spAddr p off) data.length true = true →
    y = (getBlk s.m p).sp.aliasBank * 0x20000 + off % 0x20000 → (master = 6 ∨ bankAllowed s.m p c y data.length = true) → master ≠ 0 →
    nthN (getBlk s.m p).sp.owner (y / 0x20000) = master →
    exec (.aliasWrite p master c st off data busy false ⟨single, double⟩) s = .next { s with m := (spPerform s.m p
      { master := master, ctx := c, stream := st, off := y, len := data.length, data := some data, aliasOp := some (decide (0xE0000 ≤ off)), viaAlias := true, waited := 0 }
      single double) }) ∧
  (∀ (s : State) p master c st off data busy single double, fenced s.m (spAddr p 0) = false → 0xC0000 < off + data.length →
    aliasAllows s.m c (spAddr p off) data.length true = false →
    exec (.aliasWrite p master c st off data busy false ⟨single, double⟩) s = .next { s with m := endWb s.m p st cSpAddress }) ∧
  (∀ (s : State) p bank waited single double r rs, fenced s.m (spAddr p 0) = false → bankQueue (getBlk s.m p).sp bank false = r :: rs →
    exec (.nonOwnerService p bank false waited single double) s = .next { s with m := (countNonOwner
      (spPerform (modSp s.m p (fun s => { s with rdQueue := tset [] s.rdQueue bank rs })) p r single double) p bank waited) }) ∧
  (∀ (s : State) p bank waited single double r rs, fenced s.m (spAddr p 0) = false → bankQueue (getBlk s.m p).sp bank true = r :: rs →
    exec (.nonOwnerService p bank true waited single double) s = .next { s with m := (countNonOwner
      (spPerform (modSp s.m p (fun s => { s with wrQueue := tset [] s.wrQueue bank rs })) p r single double) p bank waited) }) ∧
  (∀ (s : State) p, exec (.spEccWriteback p) s = .next { s with m := modSp s.m p (fun s => { s with wb := s.wb.drop 1 }) }) ∧
  (∀ (s : State) p bank, p < 1088 → bank < 6 → regionsOn s.m = true → fenced s.m (spAddr p 0) = false → ∃ t pos, exec (.spPatrolRead p bank true [] []) s = .next t ∧ t.nv = s.nv ∧ t.pending = s.pending ∧
    t.m.mem = s.m.mem ∧ t.m.poison = s.m.poison ∧ pos = tget 0 (getBlk s.m p).sp.patrolPos bank ∧
    tget 0 (getBlk t.m p).sp.patrolPos bank = (pos + 1) % 1024 ∧ (getBlk t.m p).sp.patrolForced =
      (if nthN (getBlk s.m p).sp.owner bank ≠ 0 then satAdd (getBlk s.m p).sp.patrolForced 1 else (getBlk s.m p).sp.patrolForced) ∧
    (getBlk t.m p).sp.corrected = (getBlk s.m p).sp.corrected) ∧
  (∀ (m : Mach) p r, r.data = none → r.aliasOp = none → (∀ g ∈ touched r.off r.len false, isPoison m (spAddr p g) = false) → spPerform m p r [] [] = m) ∧
  (∀ (m : Mach) p r, r.data = none → r.aliasOp = none → (∃ g ∈ touched r.off r.len false, isPoison m (spAddr p g) = true) →
    spPerform m p r [] [] = endWb m p r.stream cSpUncorrectable) ∧
  (∀ (m : Mach) p r bs, r.data = some bs → r.aliasOp = none → spPerform m p r [] [] = wrBytes (cancelWb m p r.off r.len) (spAddr p r.off) bs) ∧
  (∀ (m : Mach) clear a bs, spBase ≤ a → m.tier.regs = [] → (∀ i, i < bs.length → isPoison m (granOf (a + i)) = false) →
    ∀ x, memByte (aliasWrite m clear a bs).mem x =
      if a ≤ x ∧ x < a + bs.length then (if clear = true then memByte m.mem x &&& ~~~bs.getD (x - a) 0 else memByte m.mem x ||| bs.getD (x - a) 0)
      else memByte m.mem x)

/-- R234, R235, R237, R242 to R245, R251, R259, R267: where the bytes of a tier lie, and accesses of the tiers through their controllers. An access that names bytes of one 4 KiB unit of a powered, unfenced controller reaches that
controller; behind one that waits it waits in its turn. Where it meets no cargo tile under repair, its on-die corrections are counted, its granules are read through the code, and it is
served: a write stores its bytes, a read of poison ends the waybill that consumes it. A narrow read of a granule still being read is combined with it and counted. One that meets a tile under
repair is held there, and waits at the controller once 64 are held. A write-back is taken once. A corrected granule is counted, flagged and put in hand, its
bytes unchanged; a detected one is counted, flagged by who found it, recorded where nothing is recorded yet, and poisoned. Units of 4 KiB go in turn to a region's stacks and packages, units of
256 B to their channels and subchannels, units of 128 B to a channel's pseudo-channels; a tile lies in eight channels of one stack. -/
def Obligations.TierEvents : Prop :=
  (∀ (s : State) a n data who ref single double ondie joins k len, ctlOf a = some k → len = (match data with | some d => d.length | none => n) → len ≠ 0 →
    a / 4096 = (a + len - 1) / 4096 → fenced s.m a = false →
    exec (.tierAccess a n data who ref single double ondie joins) s = .next { s with m := arriveReq s.m k (tierReq a len data who ref single double ondie joins) }) ∧
  (∀ (s : State) a n data who ref single double ondie joins k len, ctlOf a = some k → len = (match data with | some d => d.length | none => n) → len ≠ 0 →
    a / 4096 = (a + len - 1) / 4096 → fenced s.m a = true →
    exec (.tierAccess a n data who ref single double ondie joins) s = .next { s with m := (match ref with
      | some q => endWb s.m q.1 q.2.stream cMemPoison
      | none => s.m) }) ∧
  (∀ (m : Mach) k q, (getCtl m k).input ≠ [] → arriveReq m k q = modCtl m k (fun x => { x with input := x.input ++ [q] })) ∧
  (∀ (s : State) a n who ref single double ondie joins k m, ctlOf a = some k → n ≠ 0 → a / 4096 = (a + n - 1) / 4096 → fenced s.m a = false →
    (getCtl s.m k).input = [] → repairMet s.m (tierReq a n none who ref single double ondie joins) = none → 64 < n →
    m = throughCode (modCtl s.m k (fun x => { x with ondie := satAdd x.ondie ondie })) (tierTouched a n false) single double who →
    repairMet m (tierReq a n none who ref [] [] 0 joins) = none →
    exec (.tierAccess a n none who ref single double ondie joins) s = .next { s with m := (match ref with
      | some q => if rdPoison m a n = true then endWb m q.1 q.2.stream cMemPoison else m
      | none => m) }) ∧
  (∀ (s : State) a n who ref single double ondie k g m, ctlOf a = some k → n ≠ 0 → a / 4096 = (a + n - 1) / 4096 → fenced s.m a = false →
    (getCtl s.m k).input = [] → repairMet s.m (tierReq a n none who ref single double ondie false) = none → n ≤ 64 → granules a n = [g] →
    m = throughCode (modCtl (modCtl s.m k (fun x => { x with ondie := satAdd x.ondie ondie })) k (fun x => openNarrow k x g)) [g] single double who →
    repairMet m (tierReq a n none who ref [] [] 0 false) = none →
    exec (.tierAccess a n none who ref single double ondie false) s = .next { s with m := (match ref with
      | some q => if rdPoison m a n = true then endWb m q.1 q.2.stream cMemPoison else m
      | none => m) }) ∧
  (∀ (s : State) a n who single double ondie k g m, ctlOf a = some k → n ≠ 0 → a / 4096 = (a + n - 1) / 4096 → fenced s.m a = false →
    (getCtl s.m k).input = [] → repairMet s.m (tierReq a n none who none single double ondie true) = none → n ≤ 64 → granules a n = [g] →
    (getCtl s.m k).narrow.any (fun e => e.1 == g && e.2 < 64) = true →
    m = modCtl (modCtl s.m k (fun x => { x with ondie := satAdd x.ondie ondie })) k (fun x =>
      { x with combined := satAdd x.combined 1, narrow := x.narrow.map (fun e => if e.1 = g then (e.1, e.2 + 1) else e) }) →
    repairMet m (tierReq a n none who none [] [] 0 true) = none →
    exec (.tierAccess a n none who none single double ondie true) s = .next { s with m := m }) ∧
  (∀ (s : State) a n d who ref single double ondie joins k m, ctlOf a = some k → d.length ≠ 0 → a / 4096 = (a + d.length - 1) / 4096 → fenced s.m a = false →
    (getCtl s.m k).input = [] → repairMet s.m (tierReq a d.length (some d) who ref single double ondie joins) = none →
    m = throughCode (modCtl s.m k (fun x => { x with ondie := satAdd x.ondie ondie })) (tierTouched a d.length true) single double who →
    repairMet m (tierReq a d.length (some d) who ref [] [] 0 joins) = none →
    ∃ t m1, exec (.tierAccess a n (some d) who ref single double ondie joins) s = .next t ∧ t.nv = s.nv ∧ t.pending = s.pending ∧ t.m = wrBytes m1 a d ∧
      m1 = { m with tier := { m.tier with ctls := m1.tier.ctls } }) ∧
  (∀ (s : State) a n data who ref single double ondie joins k len r, ctlOf a = some k → len = (match data with | some d => d.length | none => n) → len ≠ 0 →
    a / 4096 = (a + len - 1) / 4096 → fenced s.m a = false → (getCtl s.m k).input = [] →
    repairMet s.m (tierReq a len data who ref single double ondie joins) = some r →
    (heldAt s.m k < 64 → exec (.tierAccess a n data who ref single double ondie joins) s = .next { s with m := (modRepair s.m r.set r.tile
      (fun x => { x with held := x.held ++ [tierReq a len data who ref single double ondie joins] })) }) ∧
    (64 ≤ heldAt s.m k → exec (.tierAccess a n data who ref single double ondie joins) s = .next { s with m := modCtl s.m k (fun x =>
      { x with input := [tierReq a len data who ref single double ondie joins] }) })) ∧
  (∀ (s : State) k, exec (.tierEccWriteback k) s = .next { s with m := modCtl s.m k (fun x => { x with wb := x.wb.drop 1 }) }) ∧
  (∀ (m : Mach) k a, (tierCorrect m k a).mem = m.mem ∧ (tierCorrect m k a).poison = m.poison ∧
    (getCtl (tierCorrect m k a) k).corrected = satAdd (getCtl m k).corrected 1 ∧ (getCtl (tierCorrect m k a) k).eccStatus.getLsbD 0 = true ∧
    a ∈ (getCtl (tierCorrect m k a) k).wb) ∧
  (∀ (m : Mach) k a patrol who, (tierDetect m k a patrol who).mem = m.mem ∧ isPoison (tierDetect m k a patrol who) a = true ∧
    (getCtl (tierDetect m k a patrol who) k).uncorrected = satAdd (getCtl m k).uncorrected 1 ∧
    (getCtl (tierDetect m k a patrol who) k).eccStatus.getLsbD (if patrol = true then 2 else 1) = true ∧
    (getCtl (tierDetect m k a patrol who) k).eccFirst.getLsbD 63 = true ∧
    ((getCtl m k).eccFirst.getLsbD 63 = true → (getCtl (tierDetect m k a patrol who) k).eccFirst = (getCtl m k).eccFirst)) ∧
  (∀ a r o x, r < 4 → o < 0x37E11D6000 → a = r * 0x4000000000 + o → x = o / 4096 / 3 * 4096 + o % 4096 →
    ctlOf a = some (3 * r + o / 4096 % 3) ∧ chanOf a = x / 256 % 32 ∧ pseudoOf a = x / 128 % 2) ∧
  (∀ a r o x, r < 4 → o < 0x7735940000 → a = 0x10000000000 + r * 0x8000000000 + o → x = o / 4096 / 4 * 4096 + o % 4096 →
    ctlOf a = some (16 + (4 * r + o / 4096 % 4)) ∧ subchanOf a = x / 256 % 8) ∧
  (∀ a i k, a < 0x10000000000 → ctlOf a = some k → a % 2048 = 0 → i < 2048 → ctlOf (a + i) = some k ∧ chanOf (a + i) = chanOf a + i / 256 ∧ chanOf a % 8 = 0) ∧
  0x37E11D6000 = 3 * 19531250 * 4096

/-- R215, R246, R248 to R250, R384, R386 to R389: the upkeep of the tiers and of the waymap. Where a controller's bucket does not cover a patrol's 32 bytes, or what stands for a
calibration's time (the model's, log entry 97), that waits; where it does, the bucket pays, the on-die corrections and the end of a pass are counted, and the granule is read through the code: a
poisoned one is left, an error of two symbols is detected, one of one is corrected. A channel that crosses its threshold retires, with an alert; past two a crossing is counted. -/
def Obligations.Upkeep : Prop :=
  (∀ (s : State) k ns ch m, (getCtl s.m k).retiring = some ch →
    m = modCtl s.m k (fun x => { x with retiring := x.crossed.head?, crossed := x.crossed.drop 1, retired := insNat ch x.retired,
                                        poolSpent := (insNat ch x.retired).length == 2 }) →
    exec (.retirementCopyDone k ns) s = .next { s with m := report m 0x1005 clsCorrected (unitCtl k) none 0 0 (leBytes 8 2500000000 ++ leBytes 8 ns) }) ∧
  (∀ (m : Mach) k ch fresh, (getCtl m k).retiring = none → (getCtl m k).crossed = [] → has (getCtl m k).retired ch = false → (getCtl m k).retired.length < 2 →
    (getCtl (retireChan m k ch fresh) k).retiring = some ch ∧ (getCtl (retireChan m k ch fresh) k).alert = true) ∧
  (∀ (m : Mach) k ch, 2 ≤ (getCtl m k).retired.length → has (getCtl m k).retired ch = false → (getCtl m k).retiring ≠ some ch → has (getCtl m k).crossed ch = false →
    (getCtl (retireChan m k ch true) k).retiring = (getCtl m k).retiring ∧ (getCtl (retireChan m k ch true) k).late = (getCtl m k).late + 1 ∧
    (getCtl (retireChan m k ch true) k).alert = true) ∧
  (∀ (s : State) k hot, 16 ≤ k → (hot = true ∨ 1024 < (recent s.m (3600 * secNs) (getCtl s.m k).corr).length) →
    exec (.refreshEvaluation k hot) s = .next { s with m := modCtl s.m k (fun x => { x with refreshX2 := true, coolSince := now s.m }) }) ∧
  (∀ (s : State) k, 16 ≤ k → (recent s.m (3600 * secNs) (getCtl s.m k).corr).length ≤ 1024 → (getCtl s.m k).refreshX2 = true →
    24 * 3600 * secNs ≤ now s.m - (getCtl s.m k).coolSince →
    exec (.refreshEvaluation k false) s = .next { s with m := modCtl s.m k (fun x => { x with refreshX2 := false }) }) ∧
  (∀ (s : State) a q, s.m.zeroing.find? (fun q => q.1 == a) = some q → (∀ c, c < 16 → (getCtx s.m c).sv.zeroing = []) →
    exec (.zeroingComplete a) s = .next { s with m := zeroRange { s.m with zeroing := s.m.zeroing.erase q } q.1 q.2 }) ∧
  (∀ (m : Mach) quantity unit d, (tget [] (noteMargin m quantity unit d).health.margins (marginKey quantity unit)).getLast? = some (now m, d)) ∧
  (∀ (s : State), exec (.waymapPatrol [] []) s = .next { s with m := { s.m with fab := { s.m.fab with wayPatrol := (s.m.fab.wayPatrol + 1) % 524288 } } }) ∧
  (∀ (s : State) single double m, m = double.foldl (notePatrol s.m.fab.wayPatrol 1) (single.foldl (notePatrol s.m.fab.wayPatrol 0) s.m) →
    exec (.waymapPatrol single double) s = .next { s with m := { m with fab := { m.fab with wayPatrol := (s.m.fab.wayPatrol + 1) % 524288 } } }) ∧
  (∀ (s : State) a single double ends ondie k, ctlOf a = some k → (fenced s.m a = true ∨ bktCovers s.m k 32 = false) →
    exec (.tierPatrolRead a ⟨single, double⟩ ends ondie) s = .next s) ∧
  (∀ (s : State) a single double ends ondie k m, ctlOf a = some k → fenced s.m a = false → bktCovers s.m k 32 = true →
    m = modCtl (drawBkt s.m k 32) k (fun x => { x with ondie := satAdd x.ondie ondie, passes := if ends = true then satAdd x.passes 1 else x.passes }) →
    (isPoison s.m (a / 32 * 32) = true → exec (.tierPatrolRead a ⟨single, double⟩ ends ondie) s = .next { s with m := m }) ∧
    (isPoison s.m (a / 32 * 32) = false → exec (.tierPatrolRead a ⟨true, false⟩ ends ondie) s = .next { s with m := tierCorrect m k (a / 32 * 32) }) ∧
    (isPoison s.m (a / 32 * 32) = false → cargoAt (tierDetect m k (a / 32 * 32) true none) (a / 32 * 32) = none →
      exec (.tierPatrolRead a ⟨single, true⟩ ends ondie) s = .next { s with m := noteTierUnc (tierDetect m k (a / 32 * 32) true none) k (a / 32 * 32) }) ∧
    exec (.tierPatrolRead a ⟨false, false⟩ ends ondie) s = .next { s with m := m }) ∧
  (∀ (s : State) k ch d, k < 32 → bktCovers s.m k calBytes = true →
    exec (.periodicCalibration k ch d) s = .next { s with m := noteMargin (drawBkt s.m k calBytes) 4 (k * 64 + ch) d }) ∧
  (∀ (s : State) k ch d, k < 32 → bktCovers s.m k calBytes = false → exec (.periodicCalibration k ch d) s = .next s) ∧
  (∀ (m : Mach) b rate cap n, 10000 * n ≤ bktLevel m b rate cap → bktLevel m (bktDraw m b rate cap n) rate cap = bktLevel m b rate cap - 10000 * n) ∧
  (∀ (m : Mach) b rate cap, bktLevel m b rate cap ≤ 10000 * cap) ∧
  (∀ (m1 m2 : Mach) b rate cap, now m1 ≤ now m2 → bktLevel m1 b rate cap ≤ bktLevel m2 b rate cap)

/-- R280 to R286: the links. A flit that fails its check is refused and nothing of it is taken; the next one in sequence brings its packets where there is room for them, and is answered; one
taken before is only answered. A control flit returns tolls. A timeout sends the unacknowledged flits again, and the sixteenth failed replay of a flit takes the link down. A failed lane is
left out. An UNREACH sends the packet again, before what waits. Responses and collective packets never wait behind a missing sequence; a request that is not relaxed and comes again is dropped, the
one its pair expects is released, one ahead of it is held where the buffer has room; the buffer takes nothing past 8 MiB, and one full outside the reserves grants no toll for
requests. That a flit whose packets find no room is refused is the model's (log entry 90). -/
def Obligations.LinkEvents : Prop :=
  (∀ (s : State) k raw fec, k < 18 → (getLink s.m k).st = .up → s.m.fab.module ≠ none → raw.length = 256 → crc64 (raw.take 248) ≠ recNat raw 248 8 →
    exec (.flit k raw fec) s = .next { s with m := refuseFlit (modLink s.m k (fun x => { x with fec := satAdd x.fec fec })) k }) ∧
  (∀ (s : State) k raw fec m q m1, k < 18 → (getLink s.m k).st = .up → s.m.fab.module ≠ none → raw.length = 256 → crc64 (raw.take 248) = recNat raw 248 8 →
    m = takeAck (modLink s.m k (fun x => { x with fec := satAdd x.fec fec })) k (recNat raw 2 2) → recNat raw 0 2 % 4096 ≠ 4095 → (getLink m k).st = .up →
    recNat raw 0 2 % 4096 = nextFlit (getLink s.m k).lastRecv → q = pkParseAll 16 ((getLink s.m k).rx ++ (raw.drop 4).take 244) →
    m1 = modLink m k (fun x => { x with lastRecv := recNat raw 0 2 % 4096, heard := true, nakSent := false, rx := q.2 }) →
    (∀ m2, q.1.foldlM (arriveOn k) m1 = some m2 → exec (.flit k raw fec) s = .next { s with m := sendControl m2 k false }) ∧
    (q.1.foldlM (arriveOn k) m1 = none → exec (.flit k raw fec) s = .next { s with m := refuseFlit m k })) ∧
  (∀ (s : State) k raw fec m, k < 18 → (getLink s.m k).st = .up → s.m.fab.module ≠ none → raw.length = 256 → crc64 (raw.take 248) = recNat raw 248 8 →
    m = takeAck (modLink s.m k (fun x => { x with fec := satAdd x.fec fec })) k (recNat raw 2 2) → recNat raw 0 2 % 4096 ≠ 4095 → (getLink m k).st = .up →
    recNat raw 0 2 % 4096 ≠ nextFlit (getLink s.m k).lastRecv → ((getLink s.m k).lastRecv + 4095 - recNat raw 0 2 % 4096) % 4095 < 512 →
    exec (.flit k raw fec) s = .next { s with m := sendControl m k false }) ∧
  (∀ (m : Mach) k nak, sendControl m k nak = modLink m k (fun x =>
    { x with line := x.line ++ [.control (ackField x ||| b2n nak <<< 15) (tollCounts m k)] })) ∧
  (∀ (m : Mach) k, refuseFlit m k = sendControl (modLink m k (fun x => { x with nakSent := true })) k (!(getLink m k).nakSent)) ∧
  (∀ (s : State) k tolls, k < 18 → (getLink s.m k).st = .up →
    exec (.controlFlit k true tolls) s = .next { s with m := modLink s.m k (fun x => { x with tolls := (List.range 3).map (nthN tolls) }) }) ∧
  (∀ (s : State) k tolls, exec (.controlFlit k false tolls) s = .next s) ∧
  (∀ (s : State) k, (getLink s.m k).st = .up → (getLink s.m k).sent ≠ [] → (getLink s.m k).sameReplays < 16 →
    exec (.replayTimeout k) s = .next { s with m := modLink s.m k (fun x =>
      { x with replay := satAdd x.replay x.sent.length, sameReplays := x.sameReplays + 1,
               line := x.line ++ x.sent.map (fun q => .packets q.seq (ackField x) q.body) }) }) ∧
  (∀ (s : State) k, (getLink s.m k).st = .up → (getLink s.m k).sent ≠ [] → 16 ≤ (getLink s.m k).sameReplays →
    exec (.replayTimeout k) s = .next { s with m := linkDown s.m k }) ∧
  (∀ (s : State) k lane m, (getLink s.m k).st = .up → has (getLink s.m k).lanes lane = true →
    m = report (modLink s.m k (fun x => { x with lanes := delNat lane x.lanes, failed := insNat lane x.failed, retraining := true })) 0x1003 clsCorrected
      (unitLink k) none 0 0 (leBytes 1 k ++ leBytes 1 lane) →
    exec (.laneFailure k lane) s = .next { s with m := if (getLink m k).lanes.isEmpty = true then linkDown m k else m }) ∧
  (∀ (s : State) k ns, (getLink s.m k).st = .up → (getLink s.m k).retraining = true →
    exec (.laneRetrainComplete k ns) s = .next { s with m := (report
      (modLink s.m k (fun x =>
        { x with retraining := false, replay := satAdd x.replay x.sent.length,
                 line := x.line ++ x.sent.map (fun q => .packets q.seq (ackField x) q.body) })) 0x1005 clsCorrected (unitLink k) none 0 0
      (leBytes 8 (256 * (getLink s.m k).sent.length) ++ leBytes 8 ns)) }) ∧
  (∀ (s : State) k, (getLink s.m k).st = .up → exec (.portSilent k) s = .next { s with m := linkDown s.m k }) ∧
  (∀ (s : State) k lanes, k < 18 → (getLink s.m k).st ≠ .up → s.m.rst.oos = false → s.m.pwr.fabricReady = true → (∃ i, i < 4 ∧ has lanes i = true) →
    exec (.linkRetrainAttempt k lanes) s = .next { s with m := (
      modLink (recoveryRec { s.m with health := { s.m.health with longDown := delNat k s.m.health.longDown } } (unitLink k)) k
        (fun x => trained x ((List.range 4).filter (has lanes)))) }) ∧
  (∀ (s : State) k, k < 18 → (getLink s.m k).st ≠ .up → has s.m.health.longDown k = false →
    exec (.linkDownPersistent k) s = .next { s with m := compareFloor { s.m with health := { s.m.health with longDown := insNat k s.m.health.longDown } } true }) ∧
  (∀ (s : State) k dst opcode sequence tag i q f, k < 18 →
    f = { s.m.fab with reachClear := if s.m.fab.reachClear.any (· == (dst, k)) then s.m.fab.reachClear else s.m.fab.reachClear ++ [(dst, k)] } →
    s.m.fab.wire.findIdx? (fun q => q.1 == k && q.2.dst == dst && q.2.opcode == opcode && q.2.sequence == sequence && q.2.tag == tag) = some i →
    s.m.fab.wire[i]? = some q →
    exec (.unreach k dst opcode sequence tag) s = .next { s with m := { s.m with fab := { f with wire := f.wire.eraseIdx i, again := f.again ++ [q.2] } } }) ∧
  (∀ (s : State) k dst, exec (.reachRestore k dst) s = .next { s with m := { s.m with fab := { s.m.fab with
    reachClear := s.m.fab.reachClear.filter (fun q => q != (dst, k)) } } }) ∧
  (∀ (s : State) src slot held e far, held = s.m.fab.reorder.filter (fun q => pairOf q == 16 * src + slot) → held ≠ [] →
    e = tget 0 s.m.fab.seqIn (16 * src + slot) → far = held.foldl (fun a q => max a ((q.sequence + 2 ^ 24 - e) % 2 ^ 24)) 0 →
    exec (.reorderHoleExpiry src slot) s = .next { s with m := (held.foldl (fun m q => countCustoms m q 9) { s.m with fab := { s.m.fab with
      reorder := s.m.fab.reorder.filter (fun q => pairOf q != 16 * src + slot),
      seqIn := tset 0 s.m.fab.seqIn (16 * src + slot) ((e + far + 1) % 2 ^ 24) } }) }) ∧
  (∀ (m : Mach) pk, (pk.cls ≠ 0 ∨ pk.relaxed = true ∨ pk.ordered = false) → arrivePk m pk = some (arriveFree m pk)) ∧
  (∀ (m : Mach) pk, pk.cls = 0 → pk.relaxed = false → pk.ordered = true → 2 ^ 23 ≤ (pk.sequence + 2 ^ 24 - tget 0 m.fab.seqIn (pairOf pk)) % 2 ^ 24 →
    arrivePk m pk = some m) ∧
  (∀ (m : Mach) pk, pk.cls = 0 → pk.relaxed = false → pk.ordered = true → pk.sequence = tget 0 m.fab.seqIn (pairOf pk) →
    m.fab.reorder.all (fun q => pairOf q != pairOf pk) = true →
    ∃ x, x = ({ m with fab := { m.fab with seqIn := tset 0 m.fab.seqIn (pairOf pk) ((pk.sequence + 1) % 2 ^ 24) } } : Mach) ∧
      arrivePk m pk = some (releasePk x pk)) ∧
  (∀ (m : Mach) pk e, pk.cls = 0 → pk.relaxed = false → pk.ordered = true → e = tget 0 m.fab.seqIn (pairOf pk) → pk.sequence ≠ e →
    (pk.sequence + 2 ^ 24 - e) % 2 ^ 24 < 2 ^ 23 → m.fab.reorder.any (fun q => pairOf q == pairOf pk && q.sequence == pk.sequence) = false →
    (reorderTakes m pk = false → arrivePk m pk = none) ∧ (reorderTakes m pk = true → ∃ x, arrivePk m pk = some x)) ∧
  (∀ (m : Mach) pk, reorderTakes m pk = true → heldBytes m + pkSize pk ≤ 2 ^ 23 ∧
    (outsideFull m = false ∨ (has (reserveModules m) pk.src = true ∧ heldFrom m pk.src < 4))) ∧
  (∀ (m : Mach) k, outsideFull m = true → nthN (tollCounts m k) 0 = 0)

/-- R212, R270, R285, R287: the egress. Nothing leaves before an identifier is assigned; a packet for this module itself goes to its customs; responses go before the contexts'
shares; a packet goes on the link with the most weighted tolls that can take it, the lowest number among equals. -/
def Obligations.Egress : Prop :=
  (∀ (s : State), s.m.fab.module = none → exec .packetSend s = .next s) ∧
  (∀ (s : State) id m i pk, s.m.pwr.st ≠ 3 → s.m.fab.module = some id → m = renamed s.m id → ownPacket m = some (i, pk) →
    exec .packetSend s = .next { s with m := releasePk { m with fab := unwait m.fab i } pk }) ∧
  (∀ (s : State) id m i pk k, s.m.pwr.st ≠ 3 → s.m.fab.module = some id → m = renamed s.m id → ownPacket m = none →
    sendable m (beforeShares m) = some (i, pk) → bestLink m pk = some k →
    exec .packetSend s = .next { s with m := putOnLink { m with fab := unwait (numberPk m.fab i pk).1 i } k (numberPk m.fab i pk).2 }) ∧
  (∀ (s : State) id m q k, s.m.pwr.st ≠ 3 → s.m.fab.module = some id → m = renamed s.m id → ownPacket m = none → sendable m (beforeShares m) = none →
    sendable m (fun _ => true) = some q → bestLink m q.2 = some k →
    exec .packetSend s = .next { s with m := drrSend m k 320 }) ∧
  (∀ (s : State) id m, s.m.pwr.st ≠ 3 → s.m.fab.module = some id → m = renamed s.m id → ownPacket m = none → sendable m (fun _ => true) = none →
    exec .packetSend s = .next { s with m := idleLinks m }) ∧
  (∀ f i pk, f.again.length ≤ i → pk.cls = 0 → pk.ordered = true →
    (numberPk f i pk).2.sequence = tget 0 f.seqOut (16 * pk.dst + pk.srcSlot) ∧
    tget 0 (numberPk f i pk).1.seqOut (16 * pk.dst + pk.srcSlot) = (tget 0 f.seqOut (16 * pk.dst + pk.srcSlot) + 1) % 2 ^ 24) ∧
  (∀ f i pk, (i < f.again.length ∨ pk.cls ≠ 0 ∨ pk.ordered = false) → numberPk f i pk = (f, pk)) ∧
  (∀ (m : Mach) pk k, bestLink m pk = some k → k < 18 ∧ linkTakes m pk k = true ∧ ∀ j, j < 18 → linkTakes m pk j = true →
    nthN (getLink m j).tolls 0 * (getLink m j).lanes.length ≤ nthN (getLink m k).tolls 0 * (getLink m k).lanes.length ∧
    (nthN (getLink m j).tolls 0 * (getLink m j).lanes.length = nthN (getLink m k).tolls 0 * (getLink m k).lanes.length → k ≤ j)) ∧
  (∀ (m : Mach) pk, bestLink m pk = none → ∀ j, j < 18 → linkTakes m pk j = false) ∧
  (∀ (m : Mach) pk k, linkTakes m pk k = true → isBackground m pk = true →
    10000 * pkSize pk ≤ bktLevel m (getLink m k).bktOut linkRate linkCap ∧ 10000 * askedBytes pk ≤ bktLevel m (getLink m k).bktIn linkRate linkCap) ∧
  (∀ (m : Mach) pk, isBackground m pk = true → beforeShares m pk = true)

/-- R237, R253, R287, R288, R290, R292: requests and responses at customs. A request that passes every check is performed and answered,
but one that meets a tile under repair, or what waits before it at its controller, joins that queue; one that fails is answered with NACK and the reason
of the first check that fails, which is counted. A response reaches the unit that holds its tag, which is free again; one that answers nothing outstanding is discarded under
reason 8; a request that is not answered in time completes poisoned or refused. -/
def Obligations.FabricTraffic : Prop :=
  (∀ (s : State) pk i m c, m = { s.m with fab := { s.m.fab with released := s.m.fab.released.eraseIdx i } } → c = requestOwner m pk →
    (∀ op row, (op, row) ∈ [(0x01, Instr.load), (0x02, .store), (0x03, .move), (0x04, .moveRead), (0x05, .accum), (0x06, .fetch), (0x07, .advance)] →
      nextRequest s.m op = some (i, pk) →
      (customsReason m pk (m.fab.module == some pk.src) = none → waitsAt m pk = none → ∃ q, q = performReq (acctAdd (acctReq m c pk) c 10 pk.data.length) pk ∧
        exec row s = .next { s with m := sendPk (acctAdd q.1 c 9 q.2.data.length) q.2 }) ∧
      (∀ g, customsReason m pk (m.fab.module == some pk.src) = none → waitsAt m pk = some g → exec row s = .next { s with m := (
        arriveReq m ((ctlOf g).getD 0) { tierReq pk.addr (targetLen pk) none none none [] [] 0 false with pk := some pk }) }) ∧
      (∀ r, customsReason m pk (m.fab.module == some pk.src) = some r →
        exec row s = .next { s with m := sendPk (countCustoms m pk r) (mkResp pk 0x12 [] [] r false) }))) ∧
  (∀ (m : Mach) op i pk, nextRequest m op = some (i, pk) → m.fab.released[i]? = some pk ∧ pk.cls = 0 ∧ pk.opcode = op ∧ mayPerform m i pk = true) ∧
  (∀ (s : State) pk m q, takeReleased s.m 0x10 = some (pk, m) → reqOf m pk = some q →
    exec .data s = .next { s with m := (answer (acctAdd (closeReq m q.tag) q.ctx 10 pk.data.length) q (padTo q.len pk.data) pk.poison pk.saturated) }) ∧
  (∀ (s : State) pk m q p, takeReleased s.m 0x11 = some (pk, m) → reqOf m pk = some q → q.holder = .premutar p →
    exec .ack s = .next { s with m := answer (if pk.poison.isEmpty = true then closeReq m q.tag else poisonWrite (closeReq m q.tag) p q.tag) q [] [] false }) ∧
  (∀ (s : State) pk m q, takeReleased s.m 0x11 = some (pk, m) → reqOf m pk = some q → (∀ p, q.holder ≠ .premutar p) →
    exec .ack s = .next { s with m := answer (closeReq m q.tag) q [] pk.poison pk.saturated }) ∧
  (∀ (s : State) pk m q x, takeReleased s.m 0x12 = some (pk, m) → reqOf m pk = some q →
    x = modCtx (closeReq m q.tag) q.ctx (fun x => { x with xrRejected := satAdd x.xrRejected 1 }) →
    (1 ≤ pk.addr % 256 → pk.addr % 256 ≤ 7 → exec .nack s = .next { s with m := refused x q (pk.addr % 256) }) ∧
    ((pk.addr % 256 = 0 ∨ 7 < pk.addr % 256) → exec .nack s = .next { s with m := expire x q })) ∧
  (∀ (s : State) op row pk m, (op, row) ∈ [(0x10, Instr.data), (0x11, .ack), (0x12, .nack)] → takeReleased s.m op = some (pk, m) → reqOf m pk = none →
    exec row s = .next { s with m := countCustoms m pk 8 }) ∧
  (∀ (s : State) tag q, s.m.fab.out.find? (fun o => o.tag == tag) = some q → exec (.responseTimeout tag) s = .next { s with m := (expire
    (modCtx (closeReq s.m tag) q.ctx (fun x => { x with xrTimeout := satAdd x.xrTimeout 1 })) q) }) ∧
  (∀ (m : Mach) tag, (closeReq m tag).fab.out.any (fun o => o.tag == tag) = false ∧
    ∀ q ∈ (closeReq m tag).fab.again ++ (closeReq m tag).fab.txq, q.cls = 0 → q.tag ≠ tag)

/-- R167, R275, R287: what passes translation and customs. A translation needs an OUT entry of the slot's current context that grants the operation under a current epoch;
a request passes customs only through an IN entry of an ACTIVE context that grants it, under its membership and epoch, from one of its members. -/
def Obligations.CustomsAdmits : Prop :=
  (∀ (m : Mach) slot opcode a n e x, translate m slot opcode a n = .ok e x → wayCovers e a n = true ∧ e.isIn = false ∧ grants e opcode = true ∧
    e.owner = handleOf m slot ∧ epochCurrent (getCtx m slot).mem e.epoch = true ∧ x = e.target + (a - e.base)) ∧
  (∀ (m : Mach) pk, customsReason m pk false = none → pk.opcode ≠ 0x07 → ∃ e c, inEntry m pk.addr (targetLen pk) = some e ∧ c = getCtx m (e.owner / 4096) ∧
    wayCovers e pk.addr (targetLen pk) = true ∧ e.owner = pk.peer ∧ c.st = .active ∧ pk.membership = c.mem.id ∧ pk.epoch = c.mem.epoch ∧
    has c.mem.members pk.src = true ∧ grants e pk.opcode = true ∧ lengthOk pk = true ∧ memoryCan pk = true) ∧
  (∀ (m : Mach) pk, customsReason m pk false = none → pk.opcode = 0x07 → ∃ n, msAt pk.addr = some n ∧ (getMs m n).owner = pk.peer ∧
    (getMs m n).declared = true ∧ (getMs m n).remote = true ∧ (getMs m n).frozen = false ∧ (getCtx m (pk.peer / 4096)).st = .active)

/-- R119, R181, R237, R253, R254, R290, R404: what a request that passed does. Reads answer the bytes and their poison and change no memory; writes store; an
accumulate or a fetch stores what the adder makes of the old element; an advance adds to its milestone. -/
def Obligations.MemoryOperations : Prop :=
  (∀ (m : Mach) pk m0 m1, (pk.opcode = 0x01 ∨ pk.opcode = 0x04) → fenced m pk.addr = false → m0 = portLines m (aliasRead m pk.addr) pk.length false →
    m1 = (if pk.opcode = 0x01 then narrowLoad m0 (aliasRead m pk.addr) pk.length else m0) →
    performReq m pk = (m1, mkResp pk 0x10 (rdBytes m1 (aliasRead m pk.addr) pk.length) (poisonMask m1 (aliasRead m pk.addr) pk.length) 0 false)) ∧
  (∀ (m : Mach) pk m1, (pk.opcode = 0x02 ∨ pk.opcode = 0x03) → fenced m pk.addr = false → aliasOf m pk.addr = none →
    m1 = wrBytes (portLines m pk.addr pk.data.length true) pk.addr pk.data →
    performReq m pk = (pk.poison.foldl (fun m i => wrPoison m (pk.addr + 32 * i) (min 32 (pk.data.length - 32 * i))) m1, mkResp pk 0x11 [] [] 0 false)) ∧
  (∀ (m : Mach) pk q m1, (pk.opcode = 0x02 ∨ pk.opcode = 0x03) → fenced m pk.addr = false → aliasOf m pk.addr = some q → pk.poison = [] →
    m1 = aliasWrite (portLines m q.2 pk.data.length true) q.1 q.2 pk.data → performReq m pk = (m1, mkResp pk 0x11 [] [] 0 false)) ∧
  (∀ (m : Mach) a n w, isSp a = false → portLines m a n w = m) ∧
  (∀ (m : Mach) a fmt isMax v, isPoison m (granOf a) = false → m.tier.regs = [] → granSize a = 32 → a % adderBytes fmt = 0 →
    rdNat (adderElem m a fmt isMax false v).1 a (adderBytes fmt) = (adderOp fmt isMax (rdNat m a (adderBytes fmt)) v).1 % 2 ^ (8 * adderBytes fmt)) ∧
  (∀ (m : Mach) a fmt isMax v, isPoison (adderElem m a fmt isMax true v).1 (granOf a) = true ∧ (adderElem m a fmt isMax true v).1.mem = m.mem) ∧
  (∀ (m : Mach) a fmt isMax v, isPoison m (granOf a) = true → adderElem m a fmt isMax false v = (dropNarrow m a (adderBytes fmt), false)) ∧
  (∀ (m : Mach) pk n, pk.opcode = 0x07 → msAt pk.addr = some n → (getRgn m (n / 16384)).cordon = false →
    performReq m pk = (modMs m n (fun x => { x with value := wrapAdd x.value (recNat pk.data 0 4) }), mkResp pk 0x11 [] [] 0 false)) ∧
  (∀ w : Bool, ∀ a b, (adderOp (if w then 3 else 2) false a b).2 = true →
    (adderOp (if w then 3 else 2) false a b).1 = 2 ^ ((if w then 64 else 32) - 1) ∨ (adderOp (if w then 3 else 2) false a b).1 = 2 ^ ((if w then 64 else 32) - 1) - 1)

/-- The front of the queue is what a step runs: the command takes effect with the queue's rest, and every command answers a next state that
leaves the queue alone. -/
def Obligations.StepRunsFront : Prop :=
  (∀ c (s : State), step { s with pending := c :: s.pending } = exec c s) ∧
  (∀ c (s : State), ∃ t, exec c s = .next t ∧ t.pending = s.pending) ∧
  (∀ (s : State), ∃ t, step s = .next t ∧ t.pending = s.pending.tail)

/-- R32, R36, R41: the tick of an idle block (log entry 4). While the always-on domain has power the local counter moves, by 1 ns in P0 to P3 and to the next multiple of 40 ns in
P4, up to its largest value, and nothing of the ports, the memory or the fabric moves with it, but for the round's counts of cycles (R397); without power nothing does. -/
def Obligations.IdleTick : Prop :=
  (∀ (s : State), s.pending = [] → s.m.pwr.boot = .dark → step s = .next s) ∧
  (∀ (s : State), s.pending = [] → s.m.pwr.boot ≠ .dark → ∃ t, step s = .next t ∧ t.nv = s.nv ∧ t.pending = [] ∧
    t.m.time = { s.m.time with counter := satAdd s.m.time.counter (tickNs s.m (now s.m)) } ∧ t.m.mem = s.m.mem ∧ t.m.poison = s.m.poison ∧
    t.m.mgmt = { s.m.mgmt with roundTicks := t.m.mgmt.roundTicks, roundHeld := t.m.mgmt.roundHeld } ∧ t.m.fab = s.m.fab) ∧
  (∀ (s : State), s.pending = [] → s.m.pwr.boot ≠ .dark → regionsOn s.m = false → (∀ e ∈ s.m.tier.ctls, e.2.copies = []) →
    step s = .next { s with m := { s.m with time := { s.m.time with counter := satAdd s.m.time.counter (tickNs s.m (now s.m)) } } }) ∧
  (∀ (m : Mach) t, (m.pwr.st < 4 → tickNs m t = 1) ∧ (4 ≤ m.pwr.st → 0 < tickNs m t ∧ tickNs m t ≤ 40 ∧ (t + tickNs m t) % 40 = 0)) ∧
  (∀ (a : W64) k, (satAdd a k).toNat = min (a.toNat + k) (2 ^ 64 - 1))

/-- What the Reset columns and the rules give the machine at reset: every context slot FREE, every milestone unowned and zero, every group FREE, the ports
idle with no tally taken, the event rings empty, no identifier, and the registers with a reset value of their own. Values the spec gives none are
those of log entries 1, 5 to 8 and 10. -/
def Obligations.ResetValues : Prop :=
  State.reset.pending = [] ∧ (∀ c, (getCtx State.reset.m c).st = .free ∧ handleOf State.reset.m c = 0) ∧
  (∀ n, (getMs State.reset.m n).owner = 0 ∧ (getMs State.reset.m n).value = 0 ∧ (getMs State.reset.m n).frozen = false) ∧
  (∀ p g, (getGroup (getBlk State.reset.m p).arr g).st = .free) ∧ (∀ p i, tget 0 (getBlk State.reset.m p).sp.patrolPos i = 0) ∧
  (∀ p, (getMbx State.reset.m p).st = .idle ∧ (getMbx State.reset.m p).accepted = false ∧ nextTally (getMbx State.reset.m p) = 1) ∧
  (∀ k, (getCtl State.reset.m k).threshold = 0x010000 ∧ (getCtl State.reset.m k).corrected = 0) ∧
  State.reset.m.mgmt.hostRing.head = 0 ∧ State.reset.m.mgmt.hostRing.ack = 0 ∧ State.reset.m.mgmt.hostRing.cap = 4096 ∧
  State.reset.m.mgmt.boardRing.cap = 256 ∧ State.reset.m.fab.module = none ∧ State.reset.m.fab.respTimeout = 0x14 ∧
  State.reset.m.rst.engineMs = 100 ∧ State.reset.m.rst.stallDs = 100 ∧ State.reset.m.rst.threshold = 3 ∧ State.reset.m.rst.windowH = 24 ∧
  State.reset.m.health.floor = 100 ∧ State.reset.m.health.published = 1000 ∧ State.reset.m.time.counter = 0 ∧ State.reset.m.time.boot = 0 ∧
  (∀ a, memByte State.reset.m.mem a = memDefault ∧ isPoison State.reset.m a = false)

/-- The state right after reset is one the invariants hold of: legal fuses and flash, memory in its canonical form, and rings that hold no more than
they can; and no raw score above the published one has been noted (the premise of `HealthScore`). -/
def Obligations.SafeAtReset : Prop :=
  NvOk State.reset.nv ∧ MemOk State.reset.m ∧ State.reset.m.health.above = none ∧
  (State.reset.m.mgmt.hostRing.head - State.reset.m.mgmt.hostRing.ack).toNat ≤ State.reset.m.mgmt.hostRing.cap ∧
  (State.reset.m.mgmt.boardRing.head - State.reset.m.mgmt.boardRing.ack).toNat ≤ State.reset.m.mgmt.boardRing.cap ∧
  State.reset.m.mgmt.mbx.length = 4

/-- R439, R442, R444, R446, R454, R460: whatever a step runs, what fuses and flash hold stays legal, and what fuses never undo is not undone. -/
def Obligations.NvKept : Prop :=
  ∀ (s t : State), NvOk s.nv → step s = .next t → NvOk t.nv ∧ NvGrows s.nv t.nv

/-- R442, R444 to R448, R453, R461: who changes what fuses and flash hold. Only twenty commands change any of it; only FW_COMMIT the minimum security version; only the end
of a transition the return count, or a lifecycle to anything but ERASED; only OWNER_ENROL and the end of a zeroise or transition the owner (a management round performs either where an
accepted request waits for it, log entry 113); and no command the identity key or its certificates. -/
def Obligations.FuseWriters : Prop :=
  (∀ c (s t : State), writesNv c = false → exec c s = .next t → t.nv = s.nv) ∧
  (∀ c (s t : State), exec c s = .next t → t.nv.fusedMin ≠ s.nv.fusedMin →
    (∃ r, c = .fwCommit r) ∨ (s.m.mgmt.accepted ≠ [] ∧ ∃ f, c = .managementRound f)) ∧
  (∀ c (s t : State), exec c s = .next t → t.nv.returnCount ≠ s.nv.returnCount → ∃ tag, c = .opDone tag) ∧
  (∀ c (s t : State), exec c s = .next t → t.nv.lifecycle ≠ s.nv.lifecycle → t.nv.lifecycle = 3 ∨ ∃ tag, c = .opDone tag) ∧
  (∀ c (s t : State), exec c s = .next t → t.nv.owner ≠ s.nv.owner →
    (∃ sig r, c = .ownerEnrol sig r) ∨ (∃ tag, c = .opDone tag) ∨ (s.m.mgmt.accepted ≠ [] ∧ ∃ f, c = .managementRound f)) ∧
  (∀ c (s t : State), exec c s = .next t → t.nv.idKey = s.nv.idKey ∧ t.nv.chain = s.nv.chain ∧ t.nv.keyHeld = s.nv.keyHeld)

/-- R442: FW_COMMIT raises the fused minimum to the ACTIVE slot's security version and is refused while a TRY is pending; no command lowers it, and no slot
below it is ever chosen to boot. -/
def Obligations.FusedMinimum : Prop :=
  (∀ (s : State) r a, Passes 0x0505 aB .none (lenIs 0) noResv r s → slotIn s.nv .try_ = none → slotIn s.nv .active = some a →
    ∃ t, exec (.fwCommit r) s = .next t ∧ t.nv.fusedMin =
      if s.nv.fusedMin < (s.nv.slots.getD a fwEmpty).secVer then (s.nv.slots.getD a fwEmpty).secVer else s.nv.fusedMin) ∧
  (∀ (s : State) r, Passes 0x0505 aB .none (lenIs 0) noResv r s → slotIn s.nv .try_ ≠ none →
    exec (.fwCommit r) s = .next { s with m := refuse s.m 0x0505 r { status := 0x45, detail := 0 } }) ∧
  (∀ c (s t : State), exec c s = .next t → s.nv.fusedMin ≤ t.nv.fusedMin) ∧
  (∀ nv f i, chooseSlot nv f = .run i → ∃ x, nv.slots[i]? = some x ∧ nv.fusedMin ≤ x.secVer)

/-- R109, R119, R121, R215, R237, R244: memory. A write that meets no poison stores its bytes and nothing else; a write of part of a poisoned granule is not merged, and
one of all of it ends the poison; zeroing writes zeros and ends poison; poisoning changes no byte; and each keeps the canonical form. -/
def Obligations.MemoryLaws : Prop :=
  (∀ (m : Mach) a bs, (a < spBase → a + bs.length ≤ spBase) → (∀ i, i < bs.length → isPoison m (granOf (a + i)) = false) →
    ∀ x, memByte (wrBytes m a bs).mem x = if a ≤ x ∧ x < a + bs.length then bs.getD (x - a) 0 else memByte m.mem x) ∧
  (∀ (m : Mach) g a bs, g % granSize g = 0 → g ≤ a → a + bs.length ≤ g + granSize g → 0 < bs.length → bs.length < granSize g → isPoison m g = true →
    wrBytes m a bs = markDirty m a bs.length) ∧
  (∀ (m : Mach) g bs, g % granSize g = 0 → bs.length = granSize g → isPoison (wrBytes m g bs) g = false ∧
    ∀ i, i < granSize g → memByte (wrBytes m g bs).mem (g + i) = bs.getD i 0) ∧
  (∀ (m : Mach) a n x, memByte (zeroRange m a n).mem x = (if a ≤ x ∧ x < a + n then memDefault else memByte m.mem x) ∧
    isPoison (zeroRange m a n) x = (if a ≤ x ∧ x < a + n then false else isPoison m x)) ∧
  (∀ (m : Mach) a n, (wrPoison m a n).mem = m.mem ∧ ∀ g, isPoison (wrPoison m a n) g = (isPoison m g || has (granules a n) g)) ∧
  (∀ (m : Mach) a bs clear n, MemOk m → MemOk (wrBytes m a bs) ∧ MemOk (aliasWrite m clear a bs) ∧ MemOk (zeroRange m a n) ∧ MemOk (wrPoison m a n) ∧
    MemOk (gateRegions m))

/-- R64, R65, R70, R71: a value that is exact in a format rounds to its own pattern in either mode and takes no draw; a NaN becomes the canonical one; a magnitude
beyond the top binade becomes the infinity of its sign without a draw; an integer sum takes the nearer bound and stays there; a drain of
integers takes the nearer bound. -/
def Obligations.Arithmetic : Prop :=
  (∀ f b, f = fp16 ∨ f = fp32 ∨ f = fp64 → b < 2 ^ fmtWidth f → decodeF f b ≠ .nan → rne f (decodeF f b) = b ∧
    ∀ g, roundF f .stochastic g (decodeF f b) = { bits := b, gen := g, inexact := false }) ∧
  (∀ f b mode g, f = fp16 ∨ f = fp32 ∨ f = fp64 → decodeF f b = .nan → roundF f mode g (decodeF f b) = { bits := fmtNan f, gen := g, inexact := false }) ∧
  (∀ f mode g neg m (e : Int), f = fp16 ∨ f = fp32 ∨ f = fp64 → 0 < m → fmtEmax f < ilog2 m e →
    roundF f mode g (.fin neg m e false) = { bits := fmtSign f neg + fmtInf f, gen := g, inexact := true }) ∧
  (∀ f g v, (roundF f .rne g v).gen = g ∧ ((roundF f .stochastic g v).gen = g ∨ (roundF f .stochastic g v).gen = drawNext g)) ∧
  (∀ (a p : Int), -2 ^ 31 ≤ a + p → a + p ≤ 2 ^ 31 - 1 → accumI a false p = (a + p, false)) ∧
  (∀ (a p : Int), a + p < -2 ^ 31 → accumI a false p = (-2 ^ 31, true)) ∧ (∀ (a p : Int), 2 ^ 31 - 1 < a + p → accumI a false p = (2 ^ 31 - 1, true)) ∧
  (∀ (a p : Int), accumI a true p = (a, true)) ∧
  (∀ (a : Int), -2 ^ 31 ≤ a → a ≤ 2 ^ 31 - 1 → signed (drainInt 32 a).1 32 = a ∧ (drainInt 32 a).2 = false ∧
    signed (drainInt 16 a).1 16 = max (-32768) (min 32767 a) ∧ ((drainInt 16 a).2 = true ↔ a < -32768 ∨ 32767 < a))

/-- R66: each lane has one generator, and a draw on one lane leaves the generator of every other alone. A generator is never zero. A draw advances it once
by the three shifts and returns bits 31:20 of the new state. -/
def Obligations.Generators : Prop :=
  (∀ g : W32, g ≠ 0 → drawNext g ≠ 0) ∧ (∀ seed step lane wb, laneSeed seed step lane wb ≠ 0) ∧
  (∀ g : W32, drawOf g = (g.extractLsb' 20 12).toNat) ∧
  (∀ g x y : W32, x = g ^^^ (g <<< 13) → y = x ^^^ (x >>> 17) → drawNext g = y ^^^ (y <<< 5)) ∧
  (∀ g h : W32, drawNext g = drawNext h → g = h) ∧
  (∀ (m : Mach) p (w : RunWb) l x, laneGen m p { w with gens := tput l x w.gens } l = x) ∧
  (∀ (m : Mach) p (w : RunWb) l k x, l ≠ k → laneGen m p { w with gens := tput l x w.gens } k = laneGen m p w k)

/-- R418, R421, R422, R425: what every Knaob command does before its own checks. A request the mailbox does not take to its command, or whose port or whose state the module
refuses, changes nothing beyond that port's mailbox and the signal of its answer, and moves no tally; a submit while BUSY is ignored and counted; a bad trailer is answered 0x30, a wrong tally
0x31 with the tally expected, and a repeated one by the answer that was kept. An opcode the table does not list is answered 0x32. A submit that the caravaneer cannot take at
once is accepted all the same: its mailbox is BUSY, its old answer is gone, and it waits in order of acceptance (R419, log entry 113). A refusal for the module's state
yields to one for the length or a reserved field, which come first (R421). -/
def Obligations.GateChecks : Prop :=
  (∀ c (s : State) op mask r m, gateOf c = some (op, mask, r) → frontGate s.nv s.m op r = some m → exec c s = .next { s with m := m }) ∧
  (∀ c (s : State) op mask r b, gateOf c = some (op, mask, r) → frontGate s.nv s.m op r = none → checkPort s.m r.port op mask = .error b →
    exec c s = .next { s with m := refuse s.m op r b }) ∧
  (∀ c (s : State) op mask r b, gateOf c = some (op, mask, r) → frontGate s.nv s.m op r = none → checkPort s.m r.port op mask = .ok () →
    checkState s.nv s.m r.port op mask = .error b →
    ∃ d, (d = b ∨ d.status = 0x33 ∨ d.status = 0x34) ∧ exec c s = .next { s with m := refuse s.m op r d }) ∧
  (∀ (s : State) op r, op ≠ 0 → frontGate s.nv s.m op r = none →
    exec (.status op r) s = .next { s with m := refuse s.m op r { status := 0x32, detail := 0 } }) ∧
  (∀ (m : Mach) op r b, ∃ x pend msgs, refuse m op r b = { m with mgmt := { m.mgmt with mbx := x, msixPend := pend, msgs := msgs } } ∧
    (m.mgmt.mbx.length = 4 → (getMbx (refuse m op r b) r.port).tally = (getMbx m r.port).tally ∧
      (getMbx (refuse m op r b) r.port).accepted = (getMbx m r.port).accepted ∧ (getMbx (refuse m op r b) r.port).kept = (getMbx m r.port).kept ∧
      (getMbx (refuse m op r b) r.port).st = .done ∧ (getMbx (refuse m op r b) r.port).status = b.status) ∧
    ∀ p, p ≠ r.port → getMbx (refuse m op r b) p = getMbx m p) ∧
  (∀ nv (m : Mach) op r, portOpen nv m r.port = true → (getMbx m r.port).st = .busy →
    frontGate nv m op r = some (modMbx m r.port (fun b => { b with ignored := satAdd b.ignored 1 }))) ∧
  (∀ nv (m : Mach) op r, portOpen nv m r.port = true → (getMbx m r.port).st ≠ .busy → (getMbx m r.port).st ≠ .restarting → mustWait m r.port = false →
    (crc32c (reqBytes op r) ≠ r.crc.toNat → frontGate nv m op r = some (respond m op r 0x30 0 (leBytes 4 0) false)) ∧
    (crc32c (reqBytes op r) = r.crc.toNat → (getMbx m r.port).accepted = true → r.tally = (getMbx m r.port).tally →
      frontGate nv m op r = some (respondAgain m r)) ∧
    (crc32c (reqBytes op r) = r.crc.toNat → ((getMbx m r.port).accepted = false ∨ r.tally ≠ (getMbx m r.port).tally) → r.tally ≠ nextTally (getMbx m r.port) →
      frontGate nv m op r = some (respond m op r 0x31 0 (leBytes 4 (nextTally (getMbx m r.port)).toNat) false)) ∧
    (crc32c (reqBytes op r) = r.crc.toNat → r.tally = nextTally (getMbx m r.port) → frontGate nv m op r = none)) ∧
  (∀ nv (m : Mach) op r x, portOpen nv m r.port = true → (getMbx m r.port).st ≠ .busy → (getMbx m r.port).st ≠ .restarting → mustWait m r.port = true →
    x = modMbx m r.port (fun b => { b with st := .busy, resp := [], inHand := some (heldBase + op, r) }) →
    frontGate nv m op r = some { x with mgmt := { x.mgmt with accepted := m.mgmt.accepted ++ [r.port] } })

/-- R434: an event ring writes nothing over an unacknowledged record. A full ring drops an event and counts it in the field of its class, where region-fatal and device-fatal share
one; once an acknowledgement makes room, one OVERFLOW record says how many went; an OP_DONE waits for room; and an event dropped changes nothing but the count. -/
def Obligations.EventRings : Prop :=
  (∀ r cls e, ringRoom r = true → ringEvent r cls e = ringPut r e ∧ (ringPut r e).head = r.head + 1 ∧
    tget noEvent (ringPut r e).recs ((r.head + 1).toNat % r.cap) = { e with seq := (r.head + 1).toNat }) ∧
  (∀ r e i, r.cap ∣ 2 ^ 32 → ringRoom r = true → 1 ≤ i → i ≤ (r.head - r.ack).toNat →
    tget noEvent (ringPut r e).recs ((r.ack + BitVec.ofNat 32 i).toNat % r.cap) = tget noEvent r.recs ((r.ack + BitVec.ofNat 32 i).toNat % r.cap)) ∧
  (∀ r cls e, ringRoom r = false → ringEvent r cls e =
    { r with lost := r.lost + 1, dropped := modNth r.dropped (dropField cls) (fun x => satAdd x 1) }) ∧
  (dropField clsCorrected = 0 ∧ dropField clsRegion = 1 ∧ dropField clsDevice = 1 ∧ dropField clsContained = 2 ∧ dropField clsInfo = 3) ∧
  (∀ r q whole cls e (m : Mach), r.cap < 2 ^ 32 → (r.head - r.ack).toNat ≤ r.cap → ((ringEvent r cls e).head - (ringEvent r cls e).ack).toNat ≤ r.cap ∧
    ((ringAck r q whole).head - (ringAck r q whole).ack).toNat ≤ r.cap ∧ ((flushLost m r).head - (flushLost m r).ack).toNat ≤ r.cap) ∧
  (∀ r (m : Mach), r.lost ≠ 0 → ringRoom r = true → flushLost m r = { ringPut r (overflowEvent m r) with lost := 0 } ∧
    (overflowEvent m r).code = 2 ∧ (overflowEvent m r).detail = padTo 16 (leBytes 8 r.lost)) ∧
  (∀ (s : State) tag o q, s.m.mgmt.ops.find? (fun o => o.tag == tag) = some o → o.outcome = some q →
    ringRoom (if o.port = .host then s.m.mgmt.hostRing else s.m.mgmt.boardRing) = false → exec (.opDone tag) s = .next s) ∧
  (∀ (m : Mach) cls e, ringRoom m.mgmt.hostRing = false →
    hostEvent m cls e = { m with mgmt := { m.mgmt with hostRing := ringEvent m.mgmt.hostRing cls e } }) ∧
  (∀ (m : Mach) cls e, boardEvent m cls e = { m with mgmt := { m.mgmt with
    boardRing := ringEvent m.mgmt.boardRing cls e, ibi := if ringRoom m.mgmt.boardRing = true then satAdd m.mgmt.ibi 1 else m.mgmt.ibi } })

/-- R204: sixteen slots, 0 to 15; a handle is the slot and a generation; each creation in a slot moves its generation on, from 1 to 4,095 and then to 1, so
generation 0 never occurs again and handle 0 names no context: it is the unowned value of milestones and of waymap entries. -/
def Obligations.Handles : Prop :=
  (∀ (m : Mach) c, freeSlot m = some c → c < 16 ∧ ((getCtx m c).st = .free ∨ (getCtx m c).st = .closed) ∧
    ∀ d, d < c → (getCtx m d).st ≠ .free ∧ (getCtx m d).st ≠ .closed) ∧
  (∀ g, g < 4096 → 1 ≤ nextGen g ∧ nextGen g < 4096 ∧ (g < 4095 → nextGen g = g + 1) ∧ (g = 4095 → nextGen g = 1)) ∧
  (∀ (m : Mach) c base seqBase p mem, c < 16 → (getCtx m c).gen < 4096 →
    handleOf (makeCtx m c base seqBase p mem) c = c * 4096 + nextGen (getCtx m c).gen ∧ handleOf (makeCtx m c base seqBase p mem) c ≠ 0 ∧
    handleOf (makeCtx m c base seqBase p mem) c < 65536 ∧ handleLive (makeCtx m c base seqBase p mem) (c * 4096 + nextGen (getCtx m c).gen) = true ∧
    ((getCtx m c).gen ≠ nextGen (getCtx m c).gen → handleLive (makeCtx m c base seqBase p mem) (c * 4096 + (getCtx m c).gen) = false)) ∧
  (∀ (m : Mach), handleLive m 0 = false) ∧
  (noMs.owner = 0 ∧ noWay.owner = 0)

/-- R213, R215, R367: a teardown of a context ACTIVE or PARKED takes what it has: the slot is in TEARDOWN with no manifest, no memory, no cargo binding and no twin, its handle owns no
waymap entry, no request of it is outstanding, no window is open for it, and its milestones keep their values, frozen. A slot in any other state is left alone. -/
def Obligations.Teardown : Prop :=
  (∀ (m : Mach) c trigger x, ((getCtx m c).st = .active ∨ (getCtx m c).st = .parked) → x = startTeardown m c trigger →
    (getCtx x c).st = .teardown ∧ (getCtx x c).gen = (getCtx m c).gen ∧ (getCtx x c).mans = [] ∧ (getCtx x c).memory = [] ∧
    (getCtx x c).sv.bindings = [] ∧ (getCtx x c).sv.entries = [] ∧ (getCtx x c).el.src = none ∧ (getCtx x c).el.park = none ∧
    (∀ e ∈ x.fab.waymap, e.2.owner ≠ handleOf m c) ∧ (∀ o ∈ x.fab.out, o.ctx ≠ c) ∧
    (∀ e ∈ x.tier.wins, ∀ w, e.2 = some w → w.ctx ≠ c) ∧ (∀ k, has (getCargo x k).bound c = false)) ∧
  (∀ (m : Mach) c trigger, (getCtx m c).st ≠ .active → (getCtx m c).st ≠ .parked → startTeardown m c trigger = m) ∧
  (∀ (m : Mach) h n, h ≠ 0 → getMs (freezeMs m h) n = if (getMs m n).owner = h then { getMs m n with frozen := true } else getMs m n)

/-- R13: the frame of memory. Seventy-one commands, the queries and the registers of power, service, fabric and watches among them, change no byte of memory and no
granule's poison, whatever they answer, and what memory reads as stays with it; the three that may let the caravaneer run again, where nothing waits for it. -/
def Obligations.MemoryFrame : Prop :=
  ∀ c (s t : State), keepsMem c = true → (resumesMp c = true → s.m.rst.waiting = []) → exec c s = .next t → t.m.mem = s.m.mem ∧ t.m.poison = s.m.poison ∧
    ∀ a n, t.m.tier.regs = s.m.tier.regs → rdBytes t.m a n = rdBytes s.m a n
end

