-- ==== Sys2Proof/Laws/Knaob.lean ====
section
/-! SUPPORT. What a Knaob request does once it is known whether it passes (R418, R421). -/

namespace Sys2Proof.Machine

set_option Elab.async false

variable {opcode mask : Nat} {u : HandleUse} {lenOk : List Byte → Bool} {resv : List Byte → List (Nat × Nat)} {r : Req} {s : State}

@[simp] theorem must_true (status detail : Nat) : must true status detail = .ok () := rfl

@[simp] theorem must_false (status detail : Nat) : must false status detail = .error { status := status, detail := detail } := rfl

theorem must_of {b : Bool} (h : b = true) (status detail : Nat) : must b status detail = .ok () := by subst h; rfl

theorem must_bind {α : Type} {b : Bool} (h : b = true) (status detail : Nat) (f : Unit → K α) : (must b status detail >>= f) = f () := by
  subst h; rfl

/-- Fields all in range pass. -/
theorem mustAll_of {l : List (Bool × Nat)} (h : ∀ q ∈ l, q.1 = true) : mustAll l = .ok () := by
  have : l.find? (fun q => !q.1) = none := List.find?_eq_none.mpr (fun q hq => by simp [h q hq])
  simp only [mustAll, this]

theorem must_ok_iff {b : Bool} {status detail : Nat} {x : Unit} : must b status detail = .ok x ↔ b = true := by
  cases b <;> simp

@[simp] theorem ok_bind {α β : Type} (a : α) (f : α → K β) : (Except.ok a >>= f : K β) = f a := rfl

@[simp] theorem error_bind {α β : Type} (e : Bad) (f : α → K β) : (Except.error e >>= f : K β) = Except.error e := rfl

/-- A request that passes, and whose command answers `d`, leaves what `finish` makes of it. -/
theorem knaob_ok {body : Mach → Nat → Req → K Done} {d : Done} (h : Passes opcode mask u lenOk resv r s)
    (hb : body s.m (slotOf r) r = .ok d) : knaob opcode mask u lenOk resv body r s.nv s.m = finish opcode r d := by
  obtain ⟨h1, h2, h3⟩ := h
  simp only [knaob, h1, h2, h3, hb, withHandle, ok_bind]

/-- As `knaob_ok`, for a command that may change what fuses and flash hold. -/
theorem knaobNv_ok {body : NonVol → Mach → Nat → Req → K (NonVol × Done)} {d : NonVol × Done} (h : Passes opcode mask u lenOk resv r s)
    (hb : body s.nv s.m (slotOf r) r = .ok d) :
    knaobNv opcode mask u lenOk resv body r s.nv s.m = (d.1, finish opcode r d.2) := by
  obtain ⟨h1, h2, h3⟩ := h
  simp only [knaobNv, h1, h2, h3, hb, withHandle, ok_bind]

/-- A request the mailbox does not take to its command leaves what the front gate made of it. -/
theorem knaob_front {body : Mach → Nat → Req → K Done} {m' : Mach} (h : frontGate s.nv s.m opcode r = some m') :
    knaob opcode mask u lenOk resv body r s.nv s.m = m' := by
  simp only [knaob, h]

/-- A request that fails a shared check is refused with that check's status. -/
theorem knaob_refused {body : Mach → Nat → Req → K Done} {b : Bad} (h1 : frontGate s.nv s.m opcode r = none)
    (h2 : checkReq s.m opcode mask lenOk resv r = .error b) :
    knaob opcode mask u lenOk resv body r s.nv s.m = refuse s.m opcode r b := by
  simp only [knaob, h1, h2, error_bind]

/-- A request that passes those and fails a check of its object is refused with that check's status, where its command finds no field out of range. -/
theorem knaob_object {body : Mach → Nat → Req → K Done} {b : Bad} (h1 : frontGate s.nv s.m opcode r = none)
    (h2 : checkReq s.m opcode mask lenOk resv r = .ok ()) (h3 : checkObj s.nv s.m opcode mask u r = .error b)
    (hb : ∀ e, body s.m (slotOf r) r = .error e → e.status ≠ 0x34 ∧ e.status ≠ 0x35) :
    knaob opcode mask u lenOk resv body r s.nv s.m = refuse s.m opcode r b := by
  simp only [knaob, h1, h2, h3, ok_bind]
  cases h : body s.m (slotOf r) r with
  | ok d => rfl
  | error e => simp only [withHandle, (hb e h).1, (hb e h).2, decide_false, Bool.or_self, Bool.false_eq_true, if_false]

/-- As `knaob_refused`, for a command that may change what fuses and flash hold: they keep. -/
theorem knaobNv_refused {body : NonVol → Mach → Nat → Req → K (NonVol × Done)} {b : Bad} (h1 : frontGate s.nv s.m opcode r = none)
    (h2 : checkReq s.m opcode mask lenOk resv r = .error b) :
    knaobNv opcode mask u lenOk resv body r s.nv s.m = (s.nv, refuse s.m opcode r b) := by
  simp only [knaobNv, h1, h2, error_bind]

@[simp] theorem finish_okay (m : Mach) (p : List Byte) : finish opcode r (okay m p) = respond m opcode r 0 0 p true := rfl

@[simp] theorem finish_longOk (m : Mach) (tag : Nat) : finish opcode r (longOk m tag) = respond m opcode r 0 tag [] true := rfl

@[simp] theorem newOp_snd (m : Mach) (p : Port) (opcode subject : Nat) : (newOp m p opcode subject).2 = m.mgmt.nextTag := rfl

/-- A request that passes, and whose command answers OK, is answered and nothing else of the state moves but what the command changed. -/
theorem knaob_next {body : Mach → Nat → Req → K Done} {m : Mach} {tag : Nat} {p : List Byte} (h : Passes opcode mask u lenOk resv r s)
    (hb : body s.m (slotOf r) r = .ok { m := m, payload := p, tag := tag, status := 0, busy := false }) :
    runK (knaob opcode mask u lenOk resv body r) s = .next (answered s opcode r m tag p) := by
  simp only [runK, knaob_ok h hb]
  rfl

/-- As `knaob_next`, for a command that may change what fuses and flash hold. -/
theorem knaobNv_next {body : NonVol → Mach → Nat → Req → K (NonVol × Done)} {nv : NonVol} {m : Mach} {tag : Nat} {p : List Byte}
    (h : Passes opcode mask u lenOk resv r s)
    (hb : body s.nv s.m (slotOf r) r = .ok (nv, { m := m, payload := p, tag := tag, status := 0, busy := false })) :
    runD (knaobNv opcode mask u lenOk resv body r) s = .next { answered s opcode r m tag p with nv := nv } := by
  simp only [runD, knaobNv_ok h hb]
  rfl

/-- A request that waits for the caravaneer changes its mailbox and the order of acceptance, nothing else (R419). -/
theorem acceptReq_frame (m : Mach) (op : Nat) (q : Req) :
    acceptReq m op q = { m with mgmt := { m.mgmt with mbx := (acceptReq m op q).mgmt.mbx, accepted := m.mgmt.accepted ++ [q.port] } } := rfl

end Sys2Proof.Machine
end

