-- ==== Sys2Proof/Laws/Table.lean ====
section
/-! SUPPORT. What a sparse table holds after an update, and that each update keeps its canonical form. -/

namespace Sys2Proof.Machine

set_option Elab.async false

variable {α : Type}

/-! ### What a key reads as -/

theorem tget_tput (d : α) (t : Tbl α) (k j : Nat) (v : α) : tget d (tput k v t) j = if k = j then v else tget d t j := by
  induction t with
  | nil => simp [tput, tget]
  | cons e t ih =>
    obtain ⟨a, w⟩ := e
    unfold tput
    split
    · simp [tget]
    · split
      · rename_i h1 h2; subst h2; simp [tget]; split <;> rfl
      · rename_i h1 h2; simp only [tget, ih]; split <;> split <;> simp_all

/-- Taking out the entries whose keys meet a test leaves every other key as it was. -/
theorem tget_filter (d : α) (t : Tbl α) (p : Nat → Bool) (j : Nat) :
    tget d (t.filter (fun e => p e.1)) j = if p j then tget d t j else d := by
  induction t with
  | nil => simp [tget]
  | cons e t ih =>
    obtain ⟨a, w⟩ := e
    rw [List.filter_cons]
    by_cases h : a = j
    · subst h; by_cases hp : p a <;> simp [hp, tget, ih]
    · by_cases hp : p a <;> simp [hp, tget, ih, h]

@[simp] theorem tget_tdel (d : α) (t : Tbl α) (k j : Nat) : tget d (tdel t k) j = if k = j then d else tget d t j := by
  have h := tget_filter d t (fun i => i != k) j
  by_cases hk : k = j
  · subst hk; simpa [tdel] using h
  · simpa [tdel, hk, Ne.symm hk, bne_iff_ne] using h

@[simp] theorem tget_tset [DecidableEq α] (d : α) (t : Tbl α) (k j : Nat) (v : α) :
    tget d (tset d t k v) j = if k = j then v else tget d t j := by
  unfold tset; split
  · rename_i h; subst h; exact tget_tdel _ _ _ _
  · exact tget_tput _ _ _ _ _

@[simp] theorem tget_tmod [DecidableEq α] (d : α) (t : Tbl α) (k j : Nat) (f : α → α) :
    tget d (tmod d t k f) j = if k = j then f (tget d t j) else tget d t j := by
  unfold tmod; simp; split <;> simp_all

/-! ### The canonical form -/

theorem tblWf_nil (d : α) : TblWf d [] := ⟨List.Pairwise.nil, fun _ h => nomatch h⟩

theorem tblWf_filter {d : α} {t : Tbl α} (h : TblWf d t) (p : Nat × α → Bool) : TblWf d (t.filter p) := by
  refine ⟨?_, fun e he => h.2 e (List.mem_filter.mp he).1⟩
  exact List.Pairwise.sublist (List.Sublist.map _ List.filter_sublist) h.1

theorem mem_tput {k : Nat} {v : α} {t : Tbl α} {e : Nat × α} (h : e ∈ tput k v t) : e = (k, v) ∨ e ∈ t := by
  induction t with
  | nil => simpa [tput] using h
  | cons x t ih =>
    obtain ⟨a, w⟩ := x
    unfold tput at h
    split at h
    · simpa using h
    · split at h
      · rcases List.mem_cons.mp h with h | h
        · exact .inl h
        · exact .inr (List.mem_cons_of_mem _ h)
      · rcases List.mem_cons.mp h with h | h
        · exact .inr (h ▸ List.mem_cons_self ..)
        · exact (ih h).imp id (List.mem_cons_of_mem _)

theorem keys_tput {t : Tbl α} (h : (t.map Prod.fst).Pairwise (· < ·)) (k : Nat) (v : α) : ((tput k v t).map Prod.fst).Pairwise (· < ·) := by
  induction t with
  | nil => simp [tput]
  | cons x t ih =>
    obtain ⟨a, w⟩ := x
    simp only [List.map_cons, List.pairwise_cons] at h
    unfold tput
    split
    · rename_i hk
      simp only [List.map_cons, List.pairwise_cons, List.mem_cons]
      refine ⟨fun b hb => ?_, h.1, h.2⟩
      rcases hb with rfl | hb
      · exact hk
      · exact Nat.lt_trans hk (h.1 b hb)
    · split
      · rename_i hk; subst hk
        simpa only [List.map_cons, List.pairwise_cons] using h
      · rename_i hk he
        simp only [List.map_cons, List.pairwise_cons]
        refine ⟨fun b hb => ?_, ih h.2⟩
        obtain ⟨e, hm, rfl⟩ := List.mem_map.mp hb
        rcases mem_tput hm with rfl | hm
        · exact Nat.lt_of_le_of_ne (Nat.le_of_not_lt hk) (Ne.symm he)
        · exact h.1 _ (List.mem_map_of_mem hm)

theorem tblWf_tput {d : α} {t : Tbl α} (h : TblWf d t) (k : Nat) {v : α} (hv : v ≠ d) : TblWf d (tput k v t) := by
  refine ⟨keys_tput h.1 k v, fun e he => ?_⟩
  rcases mem_tput he with rfl | he
  · exact hv
  · exact h.2 e he

theorem tblWf_tset [DecidableEq α] {d : α} {t : Tbl α} (h : TblWf d t) (k : Nat) (v : α) : TblWf d (tset d t k v) := by
  unfold tset; split
  · exact tblWf_filter h _
  · exact tblWf_tput h k ‹_›

theorem tblWf_tmod [DecidableEq α] {d : α} {t : Tbl α} (h : TblWf d t) (k : Nat) (f : α → α) : TblWf d (tmod d t k f) :=
  tblWf_tset h k _

end Sys2Proof.Machine
end

