-- ==== Sys2Proof/Laws/State.lean ====
section
/-! SUPPORT. One lemma per field per update of the module's state: an update of one part leaves every other part as it was, and
what it changes reads as changed. -/

namespace Sys2Proof.Machine

set_option Elab.async false

variable (m : Mach)

/-! ### setBlk -/

@[simp] theorem setBlk_fuse (p : Nat) (b : Blk) : (setBlk m p b).fuse = m.fuse := rfl
@[simp] theorem setBlk_time (p : Nat) (b : Blk) : (setBlk m p b).time = m.time := rfl
@[simp] theorem setBlk_mem (p : Nat) (b : Blk) : (setBlk m p b).mem = m.mem := rfl
@[simp] theorem setBlk_poison (p : Nat) (b : Blk) : (setBlk m p b).poison = m.poison := rfl
@[simp] theorem setBlk_zeroing (p : Nat) (b : Blk) : (setBlk m p b).zeroing = m.zeroing := rfl
@[simp] theorem setBlk_rgns (p : Nat) (b : Blk) : (setBlk m p b).rgns = m.rgns := rfl
@[simp] theorem setBlk_ctxs (p : Nat) (b : Blk) : (setBlk m p b).ctxs = m.ctxs := rfl
@[simp] theorem setBlk_ms (p : Nat) (b : Blk) : (setBlk m p b).ms = m.ms := rfl
@[simp] theorem setBlk_msQueue (p : Nat) (b : Blk) : (setBlk m p b).msQueue = m.msQueue := rfl
@[simp] theorem setBlk_msRefused (p : Nat) (b : Blk) : (setBlk m p b).msRefused = m.msRefused := rfl
@[simp] theorem setBlk_fab (p : Nat) (b : Blk) : (setBlk m p b).fab = m.fab := rfl
@[simp] theorem setBlk_tier (p : Nat) (b : Blk) : (setBlk m p b).tier = m.tier := rfl
@[simp] theorem setBlk_ass (p : Nat) (b : Blk) : (setBlk m p b).ass = m.ass := rfl
@[simp] theorem setBlk_mgmt (p : Nat) (b : Blk) : (setBlk m p b).mgmt = m.mgmt := rfl
@[simp] theorem setBlk_conv (p : Nat) (b : Blk) : (setBlk m p b).conv = m.conv := rfl
@[simp] theorem setBlk_health (p : Nat) (b : Blk) : (setBlk m p b).health = m.health := rfl
@[simp] theorem setBlk_rst (p : Nat) (b : Blk) : (setBlk m p b).rst = m.rst := rfl
@[simp] theorem setBlk_sec (p : Nat) (b : Blk) : (setBlk m p b).sec = m.sec := rfl
@[simp] theorem setBlk_pwr (p : Nat) (b : Blk) : (setBlk m p b).pwr = m.pwr := rfl
@[simp] theorem setBlk_pcie (p : Nat) (b : Blk) : (setBlk m p b).pcie = m.pcie := rfl
@[simp] theorem setBlk_cargo (p : Nat) (b : Blk) : (setBlk m p b).cargo = m.cargo := rfl
@[simp] theorem setBlk_parked (p : Nat) (b : Blk) : (setBlk m p b).parked = m.parked := rfl
@[simp] theorem setBlk_twins (p : Nat) (b : Blk) : (setBlk m p b).twins = m.twins := rfl
@[simp] theorem setBlk_freeCtr (p : Nat) (b : Blk) : (setBlk m p b).freeCtr = m.freeCtr := rfl

/-! ### modBlk -/

@[simp] theorem modBlk_fuse (p : Nat) (f : Blk → Blk) : (modBlk m p f).fuse = m.fuse := rfl
@[simp] theorem modBlk_time (p : Nat) (f : Blk → Blk) : (modBlk m p f).time = m.time := rfl
@[simp] theorem modBlk_mem (p : Nat) (f : Blk → Blk) : (modBlk m p f).mem = m.mem := rfl
@[simp] theorem modBlk_poison (p : Nat) (f : Blk → Blk) : (modBlk m p f).poison = m.poison := rfl
@[simp] theorem modBlk_zeroing (p : Nat) (f : Blk → Blk) : (modBlk m p f).zeroing = m.zeroing := rfl
@[simp] theorem modBlk_rgns (p : Nat) (f : Blk → Blk) : (modBlk m p f).rgns = m.rgns := rfl
@[simp] theorem modBlk_ctxs (p : Nat) (f : Blk → Blk) : (modBlk m p f).ctxs = m.ctxs := rfl
@[simp] theorem modBlk_ms (p : Nat) (f : Blk → Blk) : (modBlk m p f).ms = m.ms := rfl
@[simp] theorem modBlk_msQueue (p : Nat) (f : Blk → Blk) : (modBlk m p f).msQueue = m.msQueue := rfl
@[simp] theorem modBlk_msRefused (p : Nat) (f : Blk → Blk) : (modBlk m p f).msRefused = m.msRefused := rfl
@[simp] theorem modBlk_fab (p : Nat) (f : Blk → Blk) : (modBlk m p f).fab = m.fab := rfl
@[simp] theorem modBlk_tier (p : Nat) (f : Blk → Blk) : (modBlk m p f).tier = m.tier := rfl
@[simp] theorem modBlk_ass (p : Nat) (f : Blk → Blk) : (modBlk m p f).ass = m.ass := rfl
@[simp] theorem modBlk_mgmt (p : Nat) (f : Blk → Blk) : (modBlk m p f).mgmt = m.mgmt := rfl
@[simp] theorem modBlk_conv (p : Nat) (f : Blk → Blk) : (modBlk m p f).conv = m.conv := rfl
@[simp] theorem modBlk_health (p : Nat) (f : Blk → Blk) : (modBlk m p f).health = m.health := rfl
@[simp] theorem modBlk_rst (p : Nat) (f : Blk → Blk) : (modBlk m p f).rst = m.rst := rfl
@[simp] theorem modBlk_sec (p : Nat) (f : Blk → Blk) : (modBlk m p f).sec = m.sec := rfl
@[simp] theorem modBlk_pwr (p : Nat) (f : Blk → Blk) : (modBlk m p f).pwr = m.pwr := rfl
@[simp] theorem modBlk_pcie (p : Nat) (f : Blk → Blk) : (modBlk m p f).pcie = m.pcie := rfl
@[simp] theorem modBlk_cargo (p : Nat) (f : Blk → Blk) : (modBlk m p f).cargo = m.cargo := rfl
@[simp] theorem modBlk_parked (p : Nat) (f : Blk → Blk) : (modBlk m p f).parked = m.parked := rfl
@[simp] theorem modBlk_twins (p : Nat) (f : Blk → Blk) : (modBlk m p f).twins = m.twins := rfl
@[simp] theorem modBlk_freeCtr (p : Nat) (f : Blk → Blk) : (modBlk m p f).freeCtr = m.freeCtr := rfl

/-! ### setCtx -/

@[simp] theorem setCtx_fuse (c : Nat) (x : Ctx) : (setCtx m c x).fuse = m.fuse := rfl
@[simp] theorem setCtx_time (c : Nat) (x : Ctx) : (setCtx m c x).time = m.time := rfl
@[simp] theorem setCtx_mem (c : Nat) (x : Ctx) : (setCtx m c x).mem = m.mem := rfl
@[simp] theorem setCtx_poison (c : Nat) (x : Ctx) : (setCtx m c x).poison = m.poison := rfl
@[simp] theorem setCtx_zeroing (c : Nat) (x : Ctx) : (setCtx m c x).zeroing = m.zeroing := rfl
@[simp] theorem setCtx_rgns (c : Nat) (x : Ctx) : (setCtx m c x).rgns = m.rgns := rfl
@[simp] theorem setCtx_blocks (c : Nat) (x : Ctx) : (setCtx m c x).blocks = m.blocks := rfl
@[simp] theorem setCtx_ms (c : Nat) (x : Ctx) : (setCtx m c x).ms = m.ms := rfl
@[simp] theorem setCtx_msQueue (c : Nat) (x : Ctx) : (setCtx m c x).msQueue = m.msQueue := rfl
@[simp] theorem setCtx_msRefused (c : Nat) (x : Ctx) : (setCtx m c x).msRefused = m.msRefused := rfl
@[simp] theorem setCtx_fab (c : Nat) (x : Ctx) : (setCtx m c x).fab = m.fab := rfl
@[simp] theorem setCtx_tier (c : Nat) (x : Ctx) : (setCtx m c x).tier = m.tier := rfl
@[simp] theorem setCtx_ass (c : Nat) (x : Ctx) : (setCtx m c x).ass = m.ass := rfl
@[simp] theorem setCtx_mgmt (c : Nat) (x : Ctx) : (setCtx m c x).mgmt = m.mgmt := rfl
@[simp] theorem setCtx_conv (c : Nat) (x : Ctx) : (setCtx m c x).conv = m.conv := rfl
@[simp] theorem setCtx_health (c : Nat) (x : Ctx) : (setCtx m c x).health = m.health := rfl
@[simp] theorem setCtx_rst (c : Nat) (x : Ctx) : (setCtx m c x).rst = m.rst := rfl
@[simp] theorem setCtx_sec (c : Nat) (x : Ctx) : (setCtx m c x).sec = m.sec := rfl
@[simp] theorem setCtx_pwr (c : Nat) (x : Ctx) : (setCtx m c x).pwr = m.pwr := rfl
@[simp] theorem setCtx_pcie (c : Nat) (x : Ctx) : (setCtx m c x).pcie = m.pcie := rfl
@[simp] theorem setCtx_cargo (c : Nat) (x : Ctx) : (setCtx m c x).cargo = m.cargo := rfl
@[simp] theorem setCtx_parked (c : Nat) (x : Ctx) : (setCtx m c x).parked = m.parked := rfl
@[simp] theorem setCtx_twins (c : Nat) (x : Ctx) : (setCtx m c x).twins = m.twins := rfl
@[simp] theorem setCtx_freeCtr (c : Nat) (x : Ctx) : (setCtx m c x).freeCtr = m.freeCtr := rfl

/-! ### modCtx -/

@[simp] theorem modCtx_fuse (c : Nat) (f : Ctx → Ctx) : (modCtx m c f).fuse = m.fuse := rfl
@[simp] theorem modCtx_time (c : Nat) (f : Ctx → Ctx) : (modCtx m c f).time = m.time := rfl
@[simp] theorem modCtx_mem (c : Nat) (f : Ctx → Ctx) : (modCtx m c f).mem = m.mem := rfl
@[simp] theorem modCtx_poison (c : Nat) (f : Ctx → Ctx) : (modCtx m c f).poison = m.poison := rfl
@[simp] theorem modCtx_zeroing (c : Nat) (f : Ctx → Ctx) : (modCtx m c f).zeroing = m.zeroing := rfl
@[simp] theorem modCtx_rgns (c : Nat) (f : Ctx → Ctx) : (modCtx m c f).rgns = m.rgns := rfl
@[simp] theorem modCtx_blocks (c : Nat) (f : Ctx → Ctx) : (modCtx m c f).blocks = m.blocks := rfl
@[simp] theorem modCtx_ms (c : Nat) (f : Ctx → Ctx) : (modCtx m c f).ms = m.ms := rfl
@[simp] theorem modCtx_msQueue (c : Nat) (f : Ctx → Ctx) : (modCtx m c f).msQueue = m.msQueue := rfl
@[simp] theorem modCtx_msRefused (c : Nat) (f : Ctx → Ctx) : (modCtx m c f).msRefused = m.msRefused := rfl
@[simp] theorem modCtx_fab (c : Nat) (f : Ctx → Ctx) : (modCtx m c f).fab = m.fab := rfl
@[simp] theorem modCtx_tier (c : Nat) (f : Ctx → Ctx) : (modCtx m c f).tier = m.tier := rfl
@[simp] theorem modCtx_ass (c : Nat) (f : Ctx → Ctx) : (modCtx m c f).ass = m.ass := rfl
@[simp] theorem modCtx_mgmt (c : Nat) (f : Ctx → Ctx) : (modCtx m c f).mgmt = m.mgmt := rfl
@[simp] theorem modCtx_conv (c : Nat) (f : Ctx → Ctx) : (modCtx m c f).conv = m.conv := rfl
@[simp] theorem modCtx_health (c : Nat) (f : Ctx → Ctx) : (modCtx m c f).health = m.health := rfl
@[simp] theorem modCtx_rst (c : Nat) (f : Ctx → Ctx) : (modCtx m c f).rst = m.rst := rfl
@[simp] theorem modCtx_sec (c : Nat) (f : Ctx → Ctx) : (modCtx m c f).sec = m.sec := rfl
@[simp] theorem modCtx_pwr (c : Nat) (f : Ctx → Ctx) : (modCtx m c f).pwr = m.pwr := rfl
@[simp] theorem modCtx_pcie (c : Nat) (f : Ctx → Ctx) : (modCtx m c f).pcie = m.pcie := rfl
@[simp] theorem modCtx_cargo (c : Nat) (f : Ctx → Ctx) : (modCtx m c f).cargo = m.cargo := rfl
@[simp] theorem modCtx_parked (c : Nat) (f : Ctx → Ctx) : (modCtx m c f).parked = m.parked := rfl
@[simp] theorem modCtx_twins (c : Nat) (f : Ctx → Ctx) : (modCtx m c f).twins = m.twins := rfl
@[simp] theorem modCtx_freeCtr (c : Nat) (f : Ctx → Ctx) : (modCtx m c f).freeCtr = m.freeCtr := rfl

/-! ### setRgn -/

@[simp] theorem setRgn_fuse (r : Nat) (x : Rgn) : (setRgn m r x).fuse = m.fuse := rfl
@[simp] theorem setRgn_time (r : Nat) (x : Rgn) : (setRgn m r x).time = m.time := rfl
@[simp] theorem setRgn_mem (r : Nat) (x : Rgn) : (setRgn m r x).mem = m.mem := rfl
@[simp] theorem setRgn_poison (r : Nat) (x : Rgn) : (setRgn m r x).poison = m.poison := rfl
@[simp] theorem setRgn_zeroing (r : Nat) (x : Rgn) : (setRgn m r x).zeroing = m.zeroing := rfl
@[simp] theorem setRgn_blocks (r : Nat) (x : Rgn) : (setRgn m r x).blocks = m.blocks := rfl
@[simp] theorem setRgn_ctxs (r : Nat) (x : Rgn) : (setRgn m r x).ctxs = m.ctxs := rfl
@[simp] theorem setRgn_ms (r : Nat) (x : Rgn) : (setRgn m r x).ms = m.ms := rfl
@[simp] theorem setRgn_msQueue (r : Nat) (x : Rgn) : (setRgn m r x).msQueue = m.msQueue := rfl
@[simp] theorem setRgn_msRefused (r : Nat) (x : Rgn) : (setRgn m r x).msRefused = m.msRefused := rfl
@[simp] theorem setRgn_fab (r : Nat) (x : Rgn) : (setRgn m r x).fab = m.fab := rfl
@[simp] theorem setRgn_tier (r : Nat) (x : Rgn) : (setRgn m r x).tier = m.tier := rfl
@[simp] theorem setRgn_ass (r : Nat) (x : Rgn) : (setRgn m r x).ass = m.ass := rfl
@[simp] theorem setRgn_mgmt (r : Nat) (x : Rgn) : (setRgn m r x).mgmt = m.mgmt := rfl
@[simp] theorem setRgn_conv (r : Nat) (x : Rgn) : (setRgn m r x).conv = m.conv := rfl
@[simp] theorem setRgn_health (r : Nat) (x : Rgn) : (setRgn m r x).health = m.health := rfl
@[simp] theorem setRgn_rst (r : Nat) (x : Rgn) : (setRgn m r x).rst = m.rst := rfl
@[simp] theorem setRgn_sec (r : Nat) (x : Rgn) : (setRgn m r x).sec = m.sec := rfl
@[simp] theorem setRgn_pwr (r : Nat) (x : Rgn) : (setRgn m r x).pwr = m.pwr := rfl
@[simp] theorem setRgn_pcie (r : Nat) (x : Rgn) : (setRgn m r x).pcie = m.pcie := rfl
@[simp] theorem setRgn_cargo (r : Nat) (x : Rgn) : (setRgn m r x).cargo = m.cargo := rfl
@[simp] theorem setRgn_parked (r : Nat) (x : Rgn) : (setRgn m r x).parked = m.parked := rfl
@[simp] theorem setRgn_twins (r : Nat) (x : Rgn) : (setRgn m r x).twins = m.twins := rfl
@[simp] theorem setRgn_freeCtr (r : Nat) (x : Rgn) : (setRgn m r x).freeCtr = m.freeCtr := rfl

/-! ### modCtl -/

@[simp] theorem modCtl_fuse (k : Nat) (f : Ctl → Ctl) : (modCtl m k f).fuse = m.fuse := rfl
@[simp] theorem modCtl_time (k : Nat) (f : Ctl → Ctl) : (modCtl m k f).time = m.time := rfl
@[simp] theorem modCtl_mem (k : Nat) (f : Ctl → Ctl) : (modCtl m k f).mem = m.mem := rfl
@[simp] theorem modCtl_poison (k : Nat) (f : Ctl → Ctl) : (modCtl m k f).poison = m.poison := rfl
@[simp] theorem modCtl_zeroing (k : Nat) (f : Ctl → Ctl) : (modCtl m k f).zeroing = m.zeroing := rfl
@[simp] theorem modCtl_rgns (k : Nat) (f : Ctl → Ctl) : (modCtl m k f).rgns = m.rgns := rfl
@[simp] theorem modCtl_blocks (k : Nat) (f : Ctl → Ctl) : (modCtl m k f).blocks = m.blocks := rfl
@[simp] theorem modCtl_ctxs (k : Nat) (f : Ctl → Ctl) : (modCtl m k f).ctxs = m.ctxs := rfl
@[simp] theorem modCtl_ms (k : Nat) (f : Ctl → Ctl) : (modCtl m k f).ms = m.ms := rfl
@[simp] theorem modCtl_msQueue (k : Nat) (f : Ctl → Ctl) : (modCtl m k f).msQueue = m.msQueue := rfl
@[simp] theorem modCtl_msRefused (k : Nat) (f : Ctl → Ctl) : (modCtl m k f).msRefused = m.msRefused := rfl
@[simp] theorem modCtl_fab (k : Nat) (f : Ctl → Ctl) : (modCtl m k f).fab = m.fab := rfl
@[simp] theorem modCtl_ass (k : Nat) (f : Ctl → Ctl) : (modCtl m k f).ass = m.ass := rfl
@[simp] theorem modCtl_mgmt (k : Nat) (f : Ctl → Ctl) : (modCtl m k f).mgmt = m.mgmt := rfl
@[simp] theorem modCtl_conv (k : Nat) (f : Ctl → Ctl) : (modCtl m k f).conv = m.conv := rfl
@[simp] theorem modCtl_health (k : Nat) (f : Ctl → Ctl) : (modCtl m k f).health = m.health := rfl
@[simp] theorem modCtl_rst (k : Nat) (f : Ctl → Ctl) : (modCtl m k f).rst = m.rst := rfl
@[simp] theorem modCtl_sec (k : Nat) (f : Ctl → Ctl) : (modCtl m k f).sec = m.sec := rfl
@[simp] theorem modCtl_pwr (k : Nat) (f : Ctl → Ctl) : (modCtl m k f).pwr = m.pwr := rfl
@[simp] theorem modCtl_pcie (k : Nat) (f : Ctl → Ctl) : (modCtl m k f).pcie = m.pcie := rfl
@[simp] theorem modCtl_cargo (k : Nat) (f : Ctl → Ctl) : (modCtl m k f).cargo = m.cargo := rfl
@[simp] theorem modCtl_parked (k : Nat) (f : Ctl → Ctl) : (modCtl m k f).parked = m.parked := rfl
@[simp] theorem modCtl_twins (k : Nat) (f : Ctl → Ctl) : (modCtl m k f).twins = m.twins := rfl
@[simp] theorem modCtl_freeCtr (k : Nat) (f : Ctl → Ctl) : (modCtl m k f).freeCtr = m.freeCtr := rfl

/-! ### modMs -/

@[simp] theorem modMs_fuse (n : Nat) (f : Milestone → Milestone) : (modMs m n f).fuse = m.fuse := rfl
@[simp] theorem modMs_time (n : Nat) (f : Milestone → Milestone) : (modMs m n f).time = m.time := rfl
@[simp] theorem modMs_mem (n : Nat) (f : Milestone → Milestone) : (modMs m n f).mem = m.mem := rfl
@[simp] theorem modMs_poison (n : Nat) (f : Milestone → Milestone) : (modMs m n f).poison = m.poison := rfl
@[simp] theorem modMs_zeroing (n : Nat) (f : Milestone → Milestone) : (modMs m n f).zeroing = m.zeroing := rfl
@[simp] theorem modMs_rgns (n : Nat) (f : Milestone → Milestone) : (modMs m n f).rgns = m.rgns := rfl
@[simp] theorem modMs_blocks (n : Nat) (f : Milestone → Milestone) : (modMs m n f).blocks = m.blocks := rfl
@[simp] theorem modMs_ctxs (n : Nat) (f : Milestone → Milestone) : (modMs m n f).ctxs = m.ctxs := rfl
@[simp] theorem modMs_msQueue (n : Nat) (f : Milestone → Milestone) : (modMs m n f).msQueue = m.msQueue := rfl
@[simp] theorem modMs_msRefused (n : Nat) (f : Milestone → Milestone) : (modMs m n f).msRefused = m.msRefused := rfl
@[simp] theorem modMs_fab (n : Nat) (f : Milestone → Milestone) : (modMs m n f).fab = m.fab := rfl
@[simp] theorem modMs_tier (n : Nat) (f : Milestone → Milestone) : (modMs m n f).tier = m.tier := rfl
@[simp] theorem modMs_ass (n : Nat) (f : Milestone → Milestone) : (modMs m n f).ass = m.ass := rfl
@[simp] theorem modMs_mgmt (n : Nat) (f : Milestone → Milestone) : (modMs m n f).mgmt = m.mgmt := rfl
@[simp] theorem modMs_conv (n : Nat) (f : Milestone → Milestone) : (modMs m n f).conv = m.conv := rfl
@[simp] theorem modMs_health (n : Nat) (f : Milestone → Milestone) : (modMs m n f).health = m.health := rfl
@[simp] theorem modMs_rst (n : Nat) (f : Milestone → Milestone) : (modMs m n f).rst = m.rst := rfl
@[simp] theorem modMs_sec (n : Nat) (f : Milestone → Milestone) : (modMs m n f).sec = m.sec := rfl
@[simp] theorem modMs_pwr (n : Nat) (f : Milestone → Milestone) : (modMs m n f).pwr = m.pwr := rfl
@[simp] theorem modMs_pcie (n : Nat) (f : Milestone → Milestone) : (modMs m n f).pcie = m.pcie := rfl
@[simp] theorem modMs_cargo (n : Nat) (f : Milestone → Milestone) : (modMs m n f).cargo = m.cargo := rfl
@[simp] theorem modMs_parked (n : Nat) (f : Milestone → Milestone) : (modMs m n f).parked = m.parked := rfl
@[simp] theorem modMs_twins (n : Nat) (f : Milestone → Milestone) : (modMs m n f).twins = m.twins := rfl
@[simp] theorem modMs_freeCtr (n : Nat) (f : Milestone → Milestone) : (modMs m n f).freeCtr = m.freeCtr := rfl

/-! ### modWatch -/

@[simp] theorem modWatch_fuse (n : Nat) (f : Watch → Watch) : (modWatch m n f).fuse = m.fuse := rfl
@[simp] theorem modWatch_time (n : Nat) (f : Watch → Watch) : (modWatch m n f).time = m.time := rfl
@[simp] theorem modWatch_mem (n : Nat) (f : Watch → Watch) : (modWatch m n f).mem = m.mem := rfl
@[simp] theorem modWatch_poison (n : Nat) (f : Watch → Watch) : (modWatch m n f).poison = m.poison := rfl
@[simp] theorem modWatch_zeroing (n : Nat) (f : Watch → Watch) : (modWatch m n f).zeroing = m.zeroing := rfl
@[simp] theorem modWatch_rgns (n : Nat) (f : Watch → Watch) : (modWatch m n f).rgns = m.rgns := rfl
@[simp] theorem modWatch_blocks (n : Nat) (f : Watch → Watch) : (modWatch m n f).blocks = m.blocks := rfl
@[simp] theorem modWatch_ctxs (n : Nat) (f : Watch → Watch) : (modWatch m n f).ctxs = m.ctxs := rfl
@[simp] theorem modWatch_ms (n : Nat) (f : Watch → Watch) : (modWatch m n f).ms = m.ms := rfl
@[simp] theorem modWatch_msQueue (n : Nat) (f : Watch → Watch) : (modWatch m n f).msQueue = m.msQueue := rfl
@[simp] theorem modWatch_msRefused (n : Nat) (f : Watch → Watch) : (modWatch m n f).msRefused = m.msRefused := rfl
@[simp] theorem modWatch_fab (n : Nat) (f : Watch → Watch) : (modWatch m n f).fab = m.fab := rfl
@[simp] theorem modWatch_tier (n : Nat) (f : Watch → Watch) : (modWatch m n f).tier = m.tier := rfl
@[simp] theorem modWatch_mgmt (n : Nat) (f : Watch → Watch) : (modWatch m n f).mgmt = m.mgmt := rfl
@[simp] theorem modWatch_conv (n : Nat) (f : Watch → Watch) : (modWatch m n f).conv = m.conv := rfl
@[simp] theorem modWatch_health (n : Nat) (f : Watch → Watch) : (modWatch m n f).health = m.health := rfl
@[simp] theorem modWatch_rst (n : Nat) (f : Watch → Watch) : (modWatch m n f).rst = m.rst := rfl
@[simp] theorem modWatch_sec (n : Nat) (f : Watch → Watch) : (modWatch m n f).sec = m.sec := rfl
@[simp] theorem modWatch_pwr (n : Nat) (f : Watch → Watch) : (modWatch m n f).pwr = m.pwr := rfl
@[simp] theorem modWatch_pcie (n : Nat) (f : Watch → Watch) : (modWatch m n f).pcie = m.pcie := rfl
@[simp] theorem modWatch_cargo (n : Nat) (f : Watch → Watch) : (modWatch m n f).cargo = m.cargo := rfl
@[simp] theorem modWatch_parked (n : Nat) (f : Watch → Watch) : (modWatch m n f).parked = m.parked := rfl
@[simp] theorem modWatch_twins (n : Nat) (f : Watch → Watch) : (modWatch m n f).twins = m.twins := rfl
@[simp] theorem modWatch_freeCtr (n : Nat) (f : Watch → Watch) : (modWatch m n f).freeCtr = m.freeCtr := rfl

/-! ### modConv -/

@[simp] theorem modConv_fuse (n : Nat) (f : ConvSlot → ConvSlot) : (modConv m n f).fuse = m.fuse := rfl
@[simp] theorem modConv_time (n : Nat) (f : ConvSlot → ConvSlot) : (modConv m n f).time = m.time := rfl
@[simp] theorem modConv_mem (n : Nat) (f : ConvSlot → ConvSlot) : (modConv m n f).mem = m.mem := rfl
@[simp] theorem modConv_poison (n : Nat) (f : ConvSlot → ConvSlot) : (modConv m n f).poison = m.poison := rfl
@[simp] theorem modConv_zeroing (n : Nat) (f : ConvSlot → ConvSlot) : (modConv m n f).zeroing = m.zeroing := rfl
@[simp] theorem modConv_rgns (n : Nat) (f : ConvSlot → ConvSlot) : (modConv m n f).rgns = m.rgns := rfl
@[simp] theorem modConv_blocks (n : Nat) (f : ConvSlot → ConvSlot) : (modConv m n f).blocks = m.blocks := rfl
@[simp] theorem modConv_ctxs (n : Nat) (f : ConvSlot → ConvSlot) : (modConv m n f).ctxs = m.ctxs := rfl
@[simp] theorem modConv_ms (n : Nat) (f : ConvSlot → ConvSlot) : (modConv m n f).ms = m.ms := rfl
@[simp] theorem modConv_msQueue (n : Nat) (f : ConvSlot → ConvSlot) : (modConv m n f).msQueue = m.msQueue := rfl
@[simp] theorem modConv_msRefused (n : Nat) (f : ConvSlot → ConvSlot) : (modConv m n f).msRefused = m.msRefused := rfl
@[simp] theorem modConv_fab (n : Nat) (f : ConvSlot → ConvSlot) : (modConv m n f).fab = m.fab := rfl
@[simp] theorem modConv_tier (n : Nat) (f : ConvSlot → ConvSlot) : (modConv m n f).tier = m.tier := rfl
@[simp] theorem modConv_ass (n : Nat) (f : ConvSlot → ConvSlot) : (modConv m n f).ass = m.ass := rfl
@[simp] theorem modConv_mgmt (n : Nat) (f : ConvSlot → ConvSlot) : (modConv m n f).mgmt = m.mgmt := rfl
@[simp] theorem modConv_health (n : Nat) (f : ConvSlot → ConvSlot) : (modConv m n f).health = m.health := rfl
@[simp] theorem modConv_rst (n : Nat) (f : ConvSlot → ConvSlot) : (modConv m n f).rst = m.rst := rfl
@[simp] theorem modConv_sec (n : Nat) (f : ConvSlot → ConvSlot) : (modConv m n f).sec = m.sec := rfl
@[simp] theorem modConv_pwr (n : Nat) (f : ConvSlot → ConvSlot) : (modConv m n f).pwr = m.pwr := rfl
@[simp] theorem modConv_pcie (n : Nat) (f : ConvSlot → ConvSlot) : (modConv m n f).pcie = m.pcie := rfl
@[simp] theorem modConv_cargo (n : Nat) (f : ConvSlot → ConvSlot) : (modConv m n f).cargo = m.cargo := rfl
@[simp] theorem modConv_parked (n : Nat) (f : ConvSlot → ConvSlot) : (modConv m n f).parked = m.parked := rfl
@[simp] theorem modConv_twins (n : Nat) (f : ConvSlot → ConvSlot) : (modConv m n f).twins = m.twins := rfl
@[simp] theorem modConv_freeCtr (n : Nat) (f : ConvSlot → ConvSlot) : (modConv m n f).freeCtr = m.freeCtr := rfl

/-! ### modChan -/

@[simp] theorem modChan_fuse (n : Nat) (f : Chan → Chan) : (modChan m n f).fuse = m.fuse := rfl
@[simp] theorem modChan_time (n : Nat) (f : Chan → Chan) : (modChan m n f).time = m.time := rfl
@[simp] theorem modChan_mem (n : Nat) (f : Chan → Chan) : (modChan m n f).mem = m.mem := rfl
@[simp] theorem modChan_poison (n : Nat) (f : Chan → Chan) : (modChan m n f).poison = m.poison := rfl
@[simp] theorem modChan_zeroing (n : Nat) (f : Chan → Chan) : (modChan m n f).zeroing = m.zeroing := rfl
@[simp] theorem modChan_rgns (n : Nat) (f : Chan → Chan) : (modChan m n f).rgns = m.rgns := rfl
@[simp] theorem modChan_blocks (n : Nat) (f : Chan → Chan) : (modChan m n f).blocks = m.blocks := rfl
@[simp] theorem modChan_ctxs (n : Nat) (f : Chan → Chan) : (modChan m n f).ctxs = m.ctxs := rfl
@[simp] theorem modChan_ms (n : Nat) (f : Chan → Chan) : (modChan m n f).ms = m.ms := rfl
@[simp] theorem modChan_msQueue (n : Nat) (f : Chan → Chan) : (modChan m n f).msQueue = m.msQueue := rfl
@[simp] theorem modChan_msRefused (n : Nat) (f : Chan → Chan) : (modChan m n f).msRefused = m.msRefused := rfl
@[simp] theorem modChan_fab (n : Nat) (f : Chan → Chan) : (modChan m n f).fab = m.fab := rfl
@[simp] theorem modChan_tier (n : Nat) (f : Chan → Chan) : (modChan m n f).tier = m.tier := rfl
@[simp] theorem modChan_ass (n : Nat) (f : Chan → Chan) : (modChan m n f).ass = m.ass := rfl
@[simp] theorem modChan_mgmt (n : Nat) (f : Chan → Chan) : (modChan m n f).mgmt = m.mgmt := rfl
@[simp] theorem modChan_health (n : Nat) (f : Chan → Chan) : (modChan m n f).health = m.health := rfl
@[simp] theorem modChan_rst (n : Nat) (f : Chan → Chan) : (modChan m n f).rst = m.rst := rfl
@[simp] theorem modChan_sec (n : Nat) (f : Chan → Chan) : (modChan m n f).sec = m.sec := rfl
@[simp] theorem modChan_pwr (n : Nat) (f : Chan → Chan) : (modChan m n f).pwr = m.pwr := rfl
@[simp] theorem modChan_pcie (n : Nat) (f : Chan → Chan) : (modChan m n f).pcie = m.pcie := rfl
@[simp] theorem modChan_cargo (n : Nat) (f : Chan → Chan) : (modChan m n f).cargo = m.cargo := rfl
@[simp] theorem modChan_parked (n : Nat) (f : Chan → Chan) : (modChan m n f).parked = m.parked := rfl
@[simp] theorem modChan_twins (n : Nat) (f : Chan → Chan) : (modChan m n f).twins = m.twins := rfl
@[simp] theorem modChan_freeCtr (n : Nat) (f : Chan → Chan) : (modChan m n f).freeCtr = m.freeCtr := rfl

/-! ### modLink -/

@[simp] theorem modLink_fuse (k : Nat) (f : LinkS → LinkS) : (modLink m k f).fuse = m.fuse := rfl
@[simp] theorem modLink_time (k : Nat) (f : LinkS → LinkS) : (modLink m k f).time = m.time := rfl
@[simp] theorem modLink_mem (k : Nat) (f : LinkS → LinkS) : (modLink m k f).mem = m.mem := rfl
@[simp] theorem modLink_poison (k : Nat) (f : LinkS → LinkS) : (modLink m k f).poison = m.poison := rfl
@[simp] theorem modLink_zeroing (k : Nat) (f : LinkS → LinkS) : (modLink m k f).zeroing = m.zeroing := rfl
@[simp] theorem modLink_rgns (k : Nat) (f : LinkS → LinkS) : (modLink m k f).rgns = m.rgns := rfl
@[simp] theorem modLink_blocks (k : Nat) (f : LinkS → LinkS) : (modLink m k f).blocks = m.blocks := rfl
@[simp] theorem modLink_ctxs (k : Nat) (f : LinkS → LinkS) : (modLink m k f).ctxs = m.ctxs := rfl
@[simp] theorem modLink_ms (k : Nat) (f : LinkS → LinkS) : (modLink m k f).ms = m.ms := rfl
@[simp] theorem modLink_msQueue (k : Nat) (f : LinkS → LinkS) : (modLink m k f).msQueue = m.msQueue := rfl
@[simp] theorem modLink_msRefused (k : Nat) (f : LinkS → LinkS) : (modLink m k f).msRefused = m.msRefused := rfl
@[simp] theorem modLink_tier (k : Nat) (f : LinkS → LinkS) : (modLink m k f).tier = m.tier := rfl
@[simp] theorem modLink_ass (k : Nat) (f : LinkS → LinkS) : (modLink m k f).ass = m.ass := rfl
@[simp] theorem modLink_mgmt (k : Nat) (f : LinkS → LinkS) : (modLink m k f).mgmt = m.mgmt := rfl
@[simp] theorem modLink_conv (k : Nat) (f : LinkS → LinkS) : (modLink m k f).conv = m.conv := rfl
@[simp] theorem modLink_health (k : Nat) (f : LinkS → LinkS) : (modLink m k f).health = m.health := rfl
@[simp] theorem modLink_rst (k : Nat) (f : LinkS → LinkS) : (modLink m k f).rst = m.rst := rfl
@[simp] theorem modLink_sec (k : Nat) (f : LinkS → LinkS) : (modLink m k f).sec = m.sec := rfl
@[simp] theorem modLink_pwr (k : Nat) (f : LinkS → LinkS) : (modLink m k f).pwr = m.pwr := rfl
@[simp] theorem modLink_pcie (k : Nat) (f : LinkS → LinkS) : (modLink m k f).pcie = m.pcie := rfl
@[simp] theorem modLink_cargo (k : Nat) (f : LinkS → LinkS) : (modLink m k f).cargo = m.cargo := rfl
@[simp] theorem modLink_parked (k : Nat) (f : LinkS → LinkS) : (modLink m k f).parked = m.parked := rfl
@[simp] theorem modLink_twins (k : Nat) (f : LinkS → LinkS) : (modLink m k f).twins = m.twins := rfl
@[simp] theorem modLink_freeCtr (k : Nat) (f : LinkS → LinkS) : (modLink m k f).freeCtr = m.freeCtr := rfl

/-! ### modMbx -/

@[simp] theorem modMbx_fuse (p : Port) (f : Mbx → Mbx) : (modMbx m p f).fuse = m.fuse := rfl
@[simp] theorem modMbx_time (p : Port) (f : Mbx → Mbx) : (modMbx m p f).time = m.time := rfl
@[simp] theorem modMbx_mem (p : Port) (f : Mbx → Mbx) : (modMbx m p f).mem = m.mem := rfl
@[simp] theorem modMbx_poison (p : Port) (f : Mbx → Mbx) : (modMbx m p f).poison = m.poison := rfl
@[simp] theorem modMbx_zeroing (p : Port) (f : Mbx → Mbx) : (modMbx m p f).zeroing = m.zeroing := rfl
@[simp] theorem modMbx_rgns (p : Port) (f : Mbx → Mbx) : (modMbx m p f).rgns = m.rgns := rfl
@[simp] theorem modMbx_blocks (p : Port) (f : Mbx → Mbx) : (modMbx m p f).blocks = m.blocks := rfl
@[simp] theorem modMbx_ctxs (p : Port) (f : Mbx → Mbx) : (modMbx m p f).ctxs = m.ctxs := rfl
@[simp] theorem modMbx_ms (p : Port) (f : Mbx → Mbx) : (modMbx m p f).ms = m.ms := rfl
@[simp] theorem modMbx_msQueue (p : Port) (f : Mbx → Mbx) : (modMbx m p f).msQueue = m.msQueue := rfl
@[simp] theorem modMbx_msRefused (p : Port) (f : Mbx → Mbx) : (modMbx m p f).msRefused = m.msRefused := rfl
@[simp] theorem modMbx_fab (p : Port) (f : Mbx → Mbx) : (modMbx m p f).fab = m.fab := rfl
@[simp] theorem modMbx_tier (p : Port) (f : Mbx → Mbx) : (modMbx m p f).tier = m.tier := rfl
@[simp] theorem modMbx_ass (p : Port) (f : Mbx → Mbx) : (modMbx m p f).ass = m.ass := rfl
@[simp] theorem modMbx_conv (p : Port) (f : Mbx → Mbx) : (modMbx m p f).conv = m.conv := rfl
@[simp] theorem modMbx_health (p : Port) (f : Mbx → Mbx) : (modMbx m p f).health = m.health := rfl
@[simp] theorem modMbx_rst (p : Port) (f : Mbx → Mbx) : (modMbx m p f).rst = m.rst := rfl
@[simp] theorem modMbx_sec (p : Port) (f : Mbx → Mbx) : (modMbx m p f).sec = m.sec := rfl
@[simp] theorem modMbx_pwr (p : Port) (f : Mbx → Mbx) : (modMbx m p f).pwr = m.pwr := rfl
@[simp] theorem modMbx_pcie (p : Port) (f : Mbx → Mbx) : (modMbx m p f).pcie = m.pcie := rfl
@[simp] theorem modMbx_cargo (p : Port) (f : Mbx → Mbx) : (modMbx m p f).cargo = m.cargo := rfl
@[simp] theorem modMbx_parked (p : Port) (f : Mbx → Mbx) : (modMbx m p f).parked = m.parked := rfl
@[simp] theorem modMbx_twins (p : Port) (f : Mbx → Mbx) : (modMbx m p f).twins = m.twins := rfl
@[simp] theorem modMbx_freeCtr (p : Port) (f : Mbx → Mbx) : (modMbx m p f).freeCtr = m.freeCtr := rfl

/-! ### modCargo -/

@[simp] theorem modCargo_fuse (k : Nat) (f : CargoSet → CargoSet) : (modCargo m k f).fuse = m.fuse := rfl
@[simp] theorem modCargo_time (k : Nat) (f : CargoSet → CargoSet) : (modCargo m k f).time = m.time := rfl
@[simp] theorem modCargo_mem (k : Nat) (f : CargoSet → CargoSet) : (modCargo m k f).mem = m.mem := rfl
@[simp] theorem modCargo_poison (k : Nat) (f : CargoSet → CargoSet) : (modCargo m k f).poison = m.poison := rfl
@[simp] theorem modCargo_zeroing (k : Nat) (f : CargoSet → CargoSet) : (modCargo m k f).zeroing = m.zeroing := rfl
@[simp] theorem modCargo_rgns (k : Nat) (f : CargoSet → CargoSet) : (modCargo m k f).rgns = m.rgns := rfl
@[simp] theorem modCargo_blocks (k : Nat) (f : CargoSet → CargoSet) : (modCargo m k f).blocks = m.blocks := rfl
@[simp] theorem modCargo_ctxs (k : Nat) (f : CargoSet → CargoSet) : (modCargo m k f).ctxs = m.ctxs := rfl
@[simp] theorem modCargo_ms (k : Nat) (f : CargoSet → CargoSet) : (modCargo m k f).ms = m.ms := rfl
@[simp] theorem modCargo_msQueue (k : Nat) (f : CargoSet → CargoSet) : (modCargo m k f).msQueue = m.msQueue := rfl
@[simp] theorem modCargo_msRefused (k : Nat) (f : CargoSet → CargoSet) : (modCargo m k f).msRefused = m.msRefused := rfl
@[simp] theorem modCargo_fab (k : Nat) (f : CargoSet → CargoSet) : (modCargo m k f).fab = m.fab := rfl
@[simp] theorem modCargo_tier (k : Nat) (f : CargoSet → CargoSet) : (modCargo m k f).tier = m.tier := rfl
@[simp] theorem modCargo_ass (k : Nat) (f : CargoSet → CargoSet) : (modCargo m k f).ass = m.ass := rfl
@[simp] theorem modCargo_mgmt (k : Nat) (f : CargoSet → CargoSet) : (modCargo m k f).mgmt = m.mgmt := rfl
@[simp] theorem modCargo_conv (k : Nat) (f : CargoSet → CargoSet) : (modCargo m k f).conv = m.conv := rfl
@[simp] theorem modCargo_health (k : Nat) (f : CargoSet → CargoSet) : (modCargo m k f).health = m.health := rfl
@[simp] theorem modCargo_rst (k : Nat) (f : CargoSet → CargoSet) : (modCargo m k f).rst = m.rst := rfl
@[simp] theorem modCargo_sec (k : Nat) (f : CargoSet → CargoSet) : (modCargo m k f).sec = m.sec := rfl
@[simp] theorem modCargo_pwr (k : Nat) (f : CargoSet → CargoSet) : (modCargo m k f).pwr = m.pwr := rfl
@[simp] theorem modCargo_pcie (k : Nat) (f : CargoSet → CargoSet) : (modCargo m k f).pcie = m.pcie := rfl
@[simp] theorem modCargo_parked (k : Nat) (f : CargoSet → CargoSet) : (modCargo m k f).parked = m.parked := rfl
@[simp] theorem modCargo_twins (k : Nat) (f : CargoSet → CargoSet) : (modCargo m k f).twins = m.twins := rfl
@[simp] theorem modCargo_freeCtr (k : Nat) (f : CargoSet → CargoSet) : (modCargo m k f).freeCtr = m.freeCtr := rfl

/-! ### modTwin -/

@[simp] theorem modTwin_fuse (n : Nat) (f : TwinReg → TwinReg) : (modTwin m n f).fuse = m.fuse := rfl
@[simp] theorem modTwin_time (n : Nat) (f : TwinReg → TwinReg) : (modTwin m n f).time = m.time := rfl
@[simp] theorem modTwin_mem (n : Nat) (f : TwinReg → TwinReg) : (modTwin m n f).mem = m.mem := rfl
@[simp] theorem modTwin_poison (n : Nat) (f : TwinReg → TwinReg) : (modTwin m n f).poison = m.poison := rfl
@[simp] theorem modTwin_zeroing (n : Nat) (f : TwinReg → TwinReg) : (modTwin m n f).zeroing = m.zeroing := rfl
@[simp] theorem modTwin_rgns (n : Nat) (f : TwinReg → TwinReg) : (modTwin m n f).rgns = m.rgns := rfl
@[simp] theorem modTwin_blocks (n : Nat) (f : TwinReg → TwinReg) : (modTwin m n f).blocks = m.blocks := rfl
@[simp] theorem modTwin_ctxs (n : Nat) (f : TwinReg → TwinReg) : (modTwin m n f).ctxs = m.ctxs := rfl
@[simp] theorem modTwin_ms (n : Nat) (f : TwinReg → TwinReg) : (modTwin m n f).ms = m.ms := rfl
@[simp] theorem modTwin_msQueue (n : Nat) (f : TwinReg → TwinReg) : (modTwin m n f).msQueue = m.msQueue := rfl
@[simp] theorem modTwin_msRefused (n : Nat) (f : TwinReg → TwinReg) : (modTwin m n f).msRefused = m.msRefused := rfl
@[simp] theorem modTwin_fab (n : Nat) (f : TwinReg → TwinReg) : (modTwin m n f).fab = m.fab := rfl
@[simp] theorem modTwin_tier (n : Nat) (f : TwinReg → TwinReg) : (modTwin m n f).tier = m.tier := rfl
@[simp] theorem modTwin_ass (n : Nat) (f : TwinReg → TwinReg) : (modTwin m n f).ass = m.ass := rfl
@[simp] theorem modTwin_mgmt (n : Nat) (f : TwinReg → TwinReg) : (modTwin m n f).mgmt = m.mgmt := rfl
@[simp] theorem modTwin_conv (n : Nat) (f : TwinReg → TwinReg) : (modTwin m n f).conv = m.conv := rfl
@[simp] theorem modTwin_health (n : Nat) (f : TwinReg → TwinReg) : (modTwin m n f).health = m.health := rfl
@[simp] theorem modTwin_rst (n : Nat) (f : TwinReg → TwinReg) : (modTwin m n f).rst = m.rst := rfl
@[simp] theorem modTwin_sec (n : Nat) (f : TwinReg → TwinReg) : (modTwin m n f).sec = m.sec := rfl
@[simp] theorem modTwin_pwr (n : Nat) (f : TwinReg → TwinReg) : (modTwin m n f).pwr = m.pwr := rfl
@[simp] theorem modTwin_pcie (n : Nat) (f : TwinReg → TwinReg) : (modTwin m n f).pcie = m.pcie := rfl
@[simp] theorem modTwin_cargo (n : Nat) (f : TwinReg → TwinReg) : (modTwin m n f).cargo = m.cargo := rfl
@[simp] theorem modTwin_parked (n : Nat) (f : TwinReg → TwinReg) : (modTwin m n f).parked = m.parked := rfl
@[simp] theorem modTwin_freeCtr (n : Nat) (f : TwinReg → TwinReg) : (modTwin m n f).freeCtr = m.freeCtr := rfl

/-! ### modHist -/

@[simp] theorem modHist_fuse (p : Nat) (f : QHist → QHist) : (modHist m p f).fuse = m.fuse := rfl
@[simp] theorem modHist_time (p : Nat) (f : QHist → QHist) : (modHist m p f).time = m.time := rfl
@[simp] theorem modHist_mem (p : Nat) (f : QHist → QHist) : (modHist m p f).mem = m.mem := rfl
@[simp] theorem modHist_poison (p : Nat) (f : QHist → QHist) : (modHist m p f).poison = m.poison := rfl
@[simp] theorem modHist_zeroing (p : Nat) (f : QHist → QHist) : (modHist m p f).zeroing = m.zeroing := rfl
@[simp] theorem modHist_rgns (p : Nat) (f : QHist → QHist) : (modHist m p f).rgns = m.rgns := rfl
@[simp] theorem modHist_blocks (p : Nat) (f : QHist → QHist) : (modHist m p f).blocks = m.blocks := rfl
@[simp] theorem modHist_ctxs (p : Nat) (f : QHist → QHist) : (modHist m p f).ctxs = m.ctxs := rfl
@[simp] theorem modHist_ms (p : Nat) (f : QHist → QHist) : (modHist m p f).ms = m.ms := rfl
@[simp] theorem modHist_msQueue (p : Nat) (f : QHist → QHist) : (modHist m p f).msQueue = m.msQueue := rfl
@[simp] theorem modHist_msRefused (p : Nat) (f : QHist → QHist) : (modHist m p f).msRefused = m.msRefused := rfl
@[simp] theorem modHist_fab (p : Nat) (f : QHist → QHist) : (modHist m p f).fab = m.fab := rfl
@[simp] theorem modHist_tier (p : Nat) (f : QHist → QHist) : (modHist m p f).tier = m.tier := rfl
@[simp] theorem modHist_ass (p : Nat) (f : QHist → QHist) : (modHist m p f).ass = m.ass := rfl
@[simp] theorem modHist_mgmt (p : Nat) (f : QHist → QHist) : (modHist m p f).mgmt = m.mgmt := rfl
@[simp] theorem modHist_conv (p : Nat) (f : QHist → QHist) : (modHist m p f).conv = m.conv := rfl
@[simp] theorem modHist_rst (p : Nat) (f : QHist → QHist) : (modHist m p f).rst = m.rst := rfl
@[simp] theorem modHist_sec (p : Nat) (f : QHist → QHist) : (modHist m p f).sec = m.sec := rfl
@[simp] theorem modHist_pwr (p : Nat) (f : QHist → QHist) : (modHist m p f).pwr = m.pwr := rfl
@[simp] theorem modHist_pcie (p : Nat) (f : QHist → QHist) : (modHist m p f).pcie = m.pcie := rfl
@[simp] theorem modHist_cargo (p : Nat) (f : QHist → QHist) : (modHist m p f).cargo = m.cargo := rfl
@[simp] theorem modHist_parked (p : Nat) (f : QHist → QHist) : (modHist m p f).parked = m.parked := rfl
@[simp] theorem modHist_twins (p : Nat) (f : QHist → QHist) : (modHist m p f).twins = m.twins := rfl
@[simp] theorem modHist_freeCtr (p : Nat) (f : QHist → QHist) : (modHist m p f).freeCtr = m.freeCtr := rfl

/-! ### modMan -/

@[simp] theorem modMan_fuse (c k : Nat) (f : ManSt → ManSt) : (modMan m c k f).fuse = m.fuse := rfl
@[simp] theorem modMan_time (c k : Nat) (f : ManSt → ManSt) : (modMan m c k f).time = m.time := rfl
@[simp] theorem modMan_mem (c k : Nat) (f : ManSt → ManSt) : (modMan m c k f).mem = m.mem := rfl
@[simp] theorem modMan_poison (c k : Nat) (f : ManSt → ManSt) : (modMan m c k f).poison = m.poison := rfl
@[simp] theorem modMan_zeroing (c k : Nat) (f : ManSt → ManSt) : (modMan m c k f).zeroing = m.zeroing := rfl
@[simp] theorem modMan_rgns (c k : Nat) (f : ManSt → ManSt) : (modMan m c k f).rgns = m.rgns := rfl
@[simp] theorem modMan_blocks (c k : Nat) (f : ManSt → ManSt) : (modMan m c k f).blocks = m.blocks := rfl
@[simp] theorem modMan_ms (c k : Nat) (f : ManSt → ManSt) : (modMan m c k f).ms = m.ms := rfl
@[simp] theorem modMan_msQueue (c k : Nat) (f : ManSt → ManSt) : (modMan m c k f).msQueue = m.msQueue := rfl
@[simp] theorem modMan_msRefused (c k : Nat) (f : ManSt → ManSt) : (modMan m c k f).msRefused = m.msRefused := rfl
@[simp] theorem modMan_fab (c k : Nat) (f : ManSt → ManSt) : (modMan m c k f).fab = m.fab := rfl
@[simp] theorem modMan_tier (c k : Nat) (f : ManSt → ManSt) : (modMan m c k f).tier = m.tier := rfl
@[simp] theorem modMan_ass (c k : Nat) (f : ManSt → ManSt) : (modMan m c k f).ass = m.ass := rfl
@[simp] theorem modMan_mgmt (c k : Nat) (f : ManSt → ManSt) : (modMan m c k f).mgmt = m.mgmt := rfl
@[simp] theorem modMan_conv (c k : Nat) (f : ManSt → ManSt) : (modMan m c k f).conv = m.conv := rfl
@[simp] theorem modMan_health (c k : Nat) (f : ManSt → ManSt) : (modMan m c k f).health = m.health := rfl
@[simp] theorem modMan_rst (c k : Nat) (f : ManSt → ManSt) : (modMan m c k f).rst = m.rst := rfl
@[simp] theorem modMan_sec (c k : Nat) (f : ManSt → ManSt) : (modMan m c k f).sec = m.sec := rfl
@[simp] theorem modMan_pwr (c k : Nat) (f : ManSt → ManSt) : (modMan m c k f).pwr = m.pwr := rfl
@[simp] theorem modMan_pcie (c k : Nat) (f : ManSt → ManSt) : (modMan m c k f).pcie = m.pcie := rfl
@[simp] theorem modMan_cargo (c k : Nat) (f : ManSt → ManSt) : (modMan m c k f).cargo = m.cargo := rfl
@[simp] theorem modMan_parked (c k : Nat) (f : ManSt → ManSt) : (modMan m c k f).parked = m.parked := rfl
@[simp] theorem modMan_twins (c k : Nat) (f : ManSt → ManSt) : (modMan m c k f).twins = m.twins := rfl
@[simp] theorem modMan_freeCtr (c k : Nat) (f : ManSt → ManSt) : (modMan m c k f).freeCtr = m.freeCtr := rfl

/-! ### modRun -/

@[simp] theorem modRun_fuse (c k r : Nat) (f : RunSt → RunSt) : (modRun m c k r f).fuse = m.fuse := rfl
@[simp] theorem modRun_time (c k r : Nat) (f : RunSt → RunSt) : (modRun m c k r f).time = m.time := rfl
@[simp] theorem modRun_mem (c k r : Nat) (f : RunSt → RunSt) : (modRun m c k r f).mem = m.mem := rfl
@[simp] theorem modRun_poison (c k r : Nat) (f : RunSt → RunSt) : (modRun m c k r f).poison = m.poison := rfl
@[simp] theorem modRun_zeroing (c k r : Nat) (f : RunSt → RunSt) : (modRun m c k r f).zeroing = m.zeroing := rfl
@[simp] theorem modRun_rgns (c k r : Nat) (f : RunSt → RunSt) : (modRun m c k r f).rgns = m.rgns := rfl
@[simp] theorem modRun_blocks (c k r : Nat) (f : RunSt → RunSt) : (modRun m c k r f).blocks = m.blocks := rfl
@[simp] theorem modRun_ms (c k r : Nat) (f : RunSt → RunSt) : (modRun m c k r f).ms = m.ms := rfl
@[simp] theorem modRun_msQueue (c k r : Nat) (f : RunSt → RunSt) : (modRun m c k r f).msQueue = m.msQueue := rfl
@[simp] theorem modRun_msRefused (c k r : Nat) (f : RunSt → RunSt) : (modRun m c k r f).msRefused = m.msRefused := rfl
@[simp] theorem modRun_fab (c k r : Nat) (f : RunSt → RunSt) : (modRun m c k r f).fab = m.fab := rfl
@[simp] theorem modRun_tier (c k r : Nat) (f : RunSt → RunSt) : (modRun m c k r f).tier = m.tier := rfl
@[simp] theorem modRun_ass (c k r : Nat) (f : RunSt → RunSt) : (modRun m c k r f).ass = m.ass := rfl
@[simp] theorem modRun_mgmt (c k r : Nat) (f : RunSt → RunSt) : (modRun m c k r f).mgmt = m.mgmt := rfl
@[simp] theorem modRun_conv (c k r : Nat) (f : RunSt → RunSt) : (modRun m c k r f).conv = m.conv := rfl
@[simp] theorem modRun_health (c k r : Nat) (f : RunSt → RunSt) : (modRun m c k r f).health = m.health := rfl
@[simp] theorem modRun_rst (c k r : Nat) (f : RunSt → RunSt) : (modRun m c k r f).rst = m.rst := rfl
@[simp] theorem modRun_sec (c k r : Nat) (f : RunSt → RunSt) : (modRun m c k r f).sec = m.sec := rfl
@[simp] theorem modRun_pwr (c k r : Nat) (f : RunSt → RunSt) : (modRun m c k r f).pwr = m.pwr := rfl
@[simp] theorem modRun_pcie (c k r : Nat) (f : RunSt → RunSt) : (modRun m c k r f).pcie = m.pcie := rfl
@[simp] theorem modRun_cargo (c k r : Nat) (f : RunSt → RunSt) : (modRun m c k r f).cargo = m.cargo := rfl
@[simp] theorem modRun_parked (c k r : Nat) (f : RunSt → RunSt) : (modRun m c k r f).parked = m.parked := rfl
@[simp] theorem modRun_twins (c k r : Nat) (f : RunSt → RunSt) : (modRun m c k r f).twins = m.twins := rfl
@[simp] theorem modRun_freeCtr (c k r : Nat) (f : RunSt → RunSt) : (modRun m c k r f).freeCtr = m.freeCtr := rfl

/-! ### freeStep -/

@[simp] theorem freeStep_fuse (n : Nat) : (freeStep m n).fuse = m.fuse := rfl
@[simp] theorem freeStep_time (n : Nat) : (freeStep m n).time = m.time := rfl
@[simp] theorem freeStep_mem (n : Nat) : (freeStep m n).mem = m.mem := rfl
@[simp] theorem freeStep_poison (n : Nat) : (freeStep m n).poison = m.poison := rfl
@[simp] theorem freeStep_zeroing (n : Nat) : (freeStep m n).zeroing = m.zeroing := rfl
@[simp] theorem freeStep_rgns (n : Nat) : (freeStep m n).rgns = m.rgns := rfl
@[simp] theorem freeStep_blocks (n : Nat) : (freeStep m n).blocks = m.blocks := rfl
@[simp] theorem freeStep_ctxs (n : Nat) : (freeStep m n).ctxs = m.ctxs := rfl
@[simp] theorem freeStep_ms (n : Nat) : (freeStep m n).ms = m.ms := rfl
@[simp] theorem freeStep_msQueue (n : Nat) : (freeStep m n).msQueue = m.msQueue := rfl
@[simp] theorem freeStep_msRefused (n : Nat) : (freeStep m n).msRefused = m.msRefused := rfl
@[simp] theorem freeStep_fab (n : Nat) : (freeStep m n).fab = m.fab := rfl
@[simp] theorem freeStep_tier (n : Nat) : (freeStep m n).tier = m.tier := rfl
@[simp] theorem freeStep_ass (n : Nat) : (freeStep m n).ass = m.ass := rfl
@[simp] theorem freeStep_mgmt (n : Nat) : (freeStep m n).mgmt = m.mgmt := rfl
@[simp] theorem freeStep_conv (n : Nat) : (freeStep m n).conv = m.conv := rfl
@[simp] theorem freeStep_health (n : Nat) : (freeStep m n).health = m.health := rfl
@[simp] theorem freeStep_rst (n : Nat) : (freeStep m n).rst = m.rst := rfl
@[simp] theorem freeStep_sec (n : Nat) : (freeStep m n).sec = m.sec := rfl
@[simp] theorem freeStep_pwr (n : Nat) : (freeStep m n).pwr = m.pwr := rfl
@[simp] theorem freeStep_pcie (n : Nat) : (freeStep m n).pcie = m.pcie := rfl
@[simp] theorem freeStep_cargo (n : Nat) : (freeStep m n).cargo = m.cargo := rfl
@[simp] theorem freeStep_parked (n : Nat) : (freeStep m n).parked = m.parked := rfl
@[simp] theorem freeStep_twins (n : Nat) : (freeStep m n).twins = m.twins := rfl

/-! ### setPoison -/

@[simp] theorem setPoison_fuse (g : Nat) (on : Bool) : (setPoison m g on).fuse = m.fuse := rfl
@[simp] theorem setPoison_time (g : Nat) (on : Bool) : (setPoison m g on).time = m.time := rfl
@[simp] theorem setPoison_mem (g : Nat) (on : Bool) : (setPoison m g on).mem = m.mem := rfl
@[simp] theorem setPoison_zeroing (g : Nat) (on : Bool) : (setPoison m g on).zeroing = m.zeroing := rfl
@[simp] theorem setPoison_rgns (g : Nat) (on : Bool) : (setPoison m g on).rgns = m.rgns := rfl
@[simp] theorem setPoison_blocks (g : Nat) (on : Bool) : (setPoison m g on).blocks = m.blocks := rfl
@[simp] theorem setPoison_ctxs (g : Nat) (on : Bool) : (setPoison m g on).ctxs = m.ctxs := rfl
@[simp] theorem setPoison_ms (g : Nat) (on : Bool) : (setPoison m g on).ms = m.ms := rfl
@[simp] theorem setPoison_msQueue (g : Nat) (on : Bool) : (setPoison m g on).msQueue = m.msQueue := rfl
@[simp] theorem setPoison_msRefused (g : Nat) (on : Bool) : (setPoison m g on).msRefused = m.msRefused := rfl
@[simp] theorem setPoison_fab (g : Nat) (on : Bool) : (setPoison m g on).fab = m.fab := rfl
@[simp] theorem setPoison_tier (g : Nat) (on : Bool) : (setPoison m g on).tier = m.tier := rfl
@[simp] theorem setPoison_ass (g : Nat) (on : Bool) : (setPoison m g on).ass = m.ass := rfl
@[simp] theorem setPoison_mgmt (g : Nat) (on : Bool) : (setPoison m g on).mgmt = m.mgmt := rfl
@[simp] theorem setPoison_conv (g : Nat) (on : Bool) : (setPoison m g on).conv = m.conv := rfl
@[simp] theorem setPoison_health (g : Nat) (on : Bool) : (setPoison m g on).health = m.health := rfl
@[simp] theorem setPoison_rst (g : Nat) (on : Bool) : (setPoison m g on).rst = m.rst := rfl
@[simp] theorem setPoison_sec (g : Nat) (on : Bool) : (setPoison m g on).sec = m.sec := rfl
@[simp] theorem setPoison_pwr (g : Nat) (on : Bool) : (setPoison m g on).pwr = m.pwr := rfl
@[simp] theorem setPoison_pcie (g : Nat) (on : Bool) : (setPoison m g on).pcie = m.pcie := rfl
@[simp] theorem setPoison_cargo (g : Nat) (on : Bool) : (setPoison m g on).cargo = m.cargo := rfl
@[simp] theorem setPoison_parked (g : Nat) (on : Bool) : (setPoison m g on).parked = m.parked := rfl
@[simp] theorem setPoison_twins (g : Nat) (on : Bool) : (setPoison m g on).twins = m.twins := rfl
@[simp] theorem setPoison_freeCtr (g : Nat) (on : Bool) : (setPoison m g on).freeCtr = m.freeCtr := rfl

/-! ### heldZero -/

@[simp] theorem heldZero_fuse (key run : Nat) : (heldZero m key run).fuse = m.fuse := rfl
@[simp] theorem heldZero_time (key run : Nat) : (heldZero m key run).time = m.time := rfl
@[simp] theorem heldZero_mem (key run : Nat) : (heldZero m key run).mem = m.mem := rfl
@[simp] theorem heldZero_poison (key run : Nat) : (heldZero m key run).poison = m.poison := rfl
@[simp] theorem heldZero_zeroing (key run : Nat) : (heldZero m key run).zeroing = m.zeroing := rfl
@[simp] theorem heldZero_rgns (key run : Nat) : (heldZero m key run).rgns = m.rgns := rfl
@[simp] theorem heldZero_blocks (key run : Nat) : (heldZero m key run).blocks = m.blocks := rfl
@[simp] theorem heldZero_ctxs (key run : Nat) : (heldZero m key run).ctxs = m.ctxs := rfl
@[simp] theorem heldZero_ms (key run : Nat) : (heldZero m key run).ms = m.ms := rfl
@[simp] theorem heldZero_msQueue (key run : Nat) : (heldZero m key run).msQueue = m.msQueue := rfl
@[simp] theorem heldZero_msRefused (key run : Nat) : (heldZero m key run).msRefused = m.msRefused := rfl
@[simp] theorem heldZero_fab (key run : Nat) : (heldZero m key run).fab = m.fab := rfl
@[simp] theorem heldZero_tier (key run : Nat) : (heldZero m key run).tier = m.tier := rfl
@[simp] theorem heldZero_ass (key run : Nat) : (heldZero m key run).ass = m.ass := rfl
@[simp] theorem heldZero_conv (key run : Nat) : (heldZero m key run).conv = m.conv := rfl
@[simp] theorem heldZero_health (key run : Nat) : (heldZero m key run).health = m.health := rfl
@[simp] theorem heldZero_rst (key run : Nat) : (heldZero m key run).rst = m.rst := rfl
@[simp] theorem heldZero_sec (key run : Nat) : (heldZero m key run).sec = m.sec := rfl
@[simp] theorem heldZero_pwr (key run : Nat) : (heldZero m key run).pwr = m.pwr := rfl
@[simp] theorem heldZero_pcie (key run : Nat) : (heldZero m key run).pcie = m.pcie := rfl
@[simp] theorem heldZero_cargo (key run : Nat) : (heldZero m key run).cargo = m.cargo := rfl
@[simp] theorem heldZero_parked (key run : Nat) : (heldZero m key run).parked = m.parked := rfl
@[simp] theorem heldZero_twins (key run : Nat) : (heldZero m key run).twins = m.twins := rfl
@[simp] theorem heldZero_freeCtr (key run : Nat) : (heldZero m key run).freeCtr = m.freeCtr := rfl

/-! ### boardEvent -/

@[simp] theorem boardEvent_fuse (cls : Nat) (e : Event) : (boardEvent m cls e).fuse = m.fuse := rfl
@[simp] theorem boardEvent_time (cls : Nat) (e : Event) : (boardEvent m cls e).time = m.time := rfl
@[simp] theorem boardEvent_mem (cls : Nat) (e : Event) : (boardEvent m cls e).mem = m.mem := rfl
@[simp] theorem boardEvent_poison (cls : Nat) (e : Event) : (boardEvent m cls e).poison = m.poison := rfl
@[simp] theorem boardEvent_zeroing (cls : Nat) (e : Event) : (boardEvent m cls e).zeroing = m.zeroing := rfl
@[simp] theorem boardEvent_rgns (cls : Nat) (e : Event) : (boardEvent m cls e).rgns = m.rgns := rfl
@[simp] theorem boardEvent_blocks (cls : Nat) (e : Event) : (boardEvent m cls e).blocks = m.blocks := rfl
@[simp] theorem boardEvent_ctxs (cls : Nat) (e : Event) : (boardEvent m cls e).ctxs = m.ctxs := rfl
@[simp] theorem boardEvent_ms (cls : Nat) (e : Event) : (boardEvent m cls e).ms = m.ms := rfl
@[simp] theorem boardEvent_msQueue (cls : Nat) (e : Event) : (boardEvent m cls e).msQueue = m.msQueue := rfl
@[simp] theorem boardEvent_msRefused (cls : Nat) (e : Event) : (boardEvent m cls e).msRefused = m.msRefused := rfl
@[simp] theorem boardEvent_fab (cls : Nat) (e : Event) : (boardEvent m cls e).fab = m.fab := rfl
@[simp] theorem boardEvent_tier (cls : Nat) (e : Event) : (boardEvent m cls e).tier = m.tier := rfl
@[simp] theorem boardEvent_ass (cls : Nat) (e : Event) : (boardEvent m cls e).ass = m.ass := rfl
@[simp] theorem boardEvent_conv (cls : Nat) (e : Event) : (boardEvent m cls e).conv = m.conv := rfl
@[simp] theorem boardEvent_health (cls : Nat) (e : Event) : (boardEvent m cls e).health = m.health := rfl
@[simp] theorem boardEvent_rst (cls : Nat) (e : Event) : (boardEvent m cls e).rst = m.rst := rfl
@[simp] theorem boardEvent_sec (cls : Nat) (e : Event) : (boardEvent m cls e).sec = m.sec := rfl
@[simp] theorem boardEvent_pwr (cls : Nat) (e : Event) : (boardEvent m cls e).pwr = m.pwr := rfl
@[simp] theorem boardEvent_pcie (cls : Nat) (e : Event) : (boardEvent m cls e).pcie = m.pcie := rfl
@[simp] theorem boardEvent_cargo (cls : Nat) (e : Event) : (boardEvent m cls e).cargo = m.cargo := rfl
@[simp] theorem boardEvent_parked (cls : Nat) (e : Event) : (boardEvent m cls e).parked = m.parked := rfl
@[simp] theorem boardEvent_twins (cls : Nat) (e : Event) : (boardEvent m cls e).twins = m.twins := rfl
@[simp] theorem boardEvent_freeCtr (cls : Nat) (e : Event) : (boardEvent m cls e).freeCtr = m.freeCtr := rfl

/-! ### What a place holds after an update -/

@[simp] theorem getBlk_setBlk (p : Nat) (b : Blk) (j : Nat) :
    getBlk (setBlk m p b) j = if p = j then b else getBlk m j := by
  simp [getBlk, setBlk]
@[simp] theorem getBlk_modBlk (p : Nat) (f : Blk → Blk) (j : Nat) :
    getBlk (modBlk m p f) j = if p = j then f (getBlk m j) else getBlk m j := by
  simp [getBlk, modBlk, setBlk]
  split <;> simp_all
@[simp] theorem getCtx_setCtx (c : Nat) (x : Ctx) (j : Nat) :
    getCtx (setCtx m c x) j = if c = j then x else getCtx m j := by
  simp [getCtx, setCtx]
@[simp] theorem getCtx_modCtx (c : Nat) (f : Ctx → Ctx) (j : Nat) :
    getCtx (modCtx m c f) j = if c = j then f (getCtx m j) else getCtx m j := by
  simp [getCtx, modCtx, setCtx]
  split <;> simp_all
@[simp] theorem getRgn_setRgn (r : Nat) (x : Rgn) (j : Nat) :
    getRgn (setRgn m r x) j = if r = j then x else getRgn m j := by
  simp [getRgn, setRgn]
@[simp] theorem getCtl_modCtl (k : Nat) (f : Ctl → Ctl) (j : Nat) :
    getCtl (modCtl m k f) j = if k = j then f (getCtl m j) else getCtl m j := by
  simp [getCtl, modCtl]
@[simp] theorem getMs_modMs (n : Nat) (f : Milestone → Milestone) (j : Nat) :
    getMs (modMs m n f) j = if n = j then f (getMs m j) else getMs m j := by
  simp [getMs, modMs]
@[simp] theorem getWatch_modWatch (n : Nat) (f : Watch → Watch) (j : Nat) :
    getWatch (modWatch m n f) j = if n = j then f (getWatch m j) else getWatch m j := by
  simp [getWatch, modWatch]
@[simp] theorem getConv_modConv (n : Nat) (f : ConvSlot → ConvSlot) (j : Nat) :
    getConv (modConv m n f) j = if n = j then f (getConv m j) else getConv m j := by
  simp [getConv, modConv]
@[simp] theorem getChan_modChan (n : Nat) (f : Chan → Chan) (j : Nat) :
    getChan (modChan m n f) j = if n = j then f (getChan m j) else getChan m j := by
  simp [getChan, modChan]
@[simp] theorem getLink_modLink (k : Nat) (f : LinkS → LinkS) (j : Nat) :
    getLink (modLink m k f) j = if k = j then f (getLink m j) else getLink m j := by
  simp [getLink, modLink]
@[simp] theorem getCargo_modCargo (k : Nat) (f : CargoSet → CargoSet) (j : Nat) :
    getCargo (modCargo m k f) j = if k = j then f (getCargo m j) else getCargo m j := by
  simp [getCargo, modCargo]

/-! ### A place of one kind after an update of another -/

@[simp] theorem getBlk_modCtx (c : Nat) (f : Ctx → Ctx) (j : Nat) : getBlk (modCtx m c f) j = getBlk m j := rfl
@[simp] theorem getBlk_setRgn (r : Nat) (x : Rgn) (j : Nat) : getBlk (setRgn m r x) j = getBlk m j := rfl
@[simp] theorem getBlk_modCtl (k : Nat) (f : Ctl → Ctl) (j : Nat) : getBlk (modCtl m k f) j = getBlk m j := rfl
@[simp] theorem getBlk_modMs (n : Nat) (f : Milestone → Milestone) (j : Nat) : getBlk (modMs m n f) j = getBlk m j := rfl
@[simp] theorem getBlk_modWatch (n : Nat) (f : Watch → Watch) (j : Nat) : getBlk (modWatch m n f) j = getBlk m j := rfl
@[simp] theorem getBlk_modConv (n : Nat) (f : ConvSlot → ConvSlot) (j : Nat) : getBlk (modConv m n f) j = getBlk m j := rfl
@[simp] theorem getBlk_modChan (n : Nat) (f : Chan → Chan) (j : Nat) : getBlk (modChan m n f) j = getBlk m j := rfl
@[simp] theorem getBlk_modMbx (p : Port) (f : Mbx → Mbx) (j : Nat) : getBlk (modMbx m p f) j = getBlk m j := rfl
@[simp] theorem getBlk_modCargo (k : Nat) (f : CargoSet → CargoSet) (j : Nat) : getBlk (modCargo m k f) j = getBlk m j := rfl
@[simp] theorem getBlk_modHist (p : Nat) (f : QHist → QHist) (j : Nat) : getBlk (modHist m p f) j = getBlk m j := rfl
@[simp] theorem getBlk_freeStep (n : Nat) (j : Nat) : getBlk (freeStep m n) j = getBlk m j := rfl
@[simp] theorem getBlk_setPoison (g : Nat) (on : Bool) (j : Nat) : getBlk (setPoison m g on) j = getBlk m j := rfl
@[simp] theorem getCtx_modBlk (p : Nat) (f : Blk → Blk) (j : Nat) : getCtx (modBlk m p f) j = getCtx m j := rfl
@[simp] theorem getCtx_setRgn (r : Nat) (x : Rgn) (j : Nat) : getCtx (setRgn m r x) j = getCtx m j := rfl
@[simp] theorem getCtx_modCtl (k : Nat) (f : Ctl → Ctl) (j : Nat) : getCtx (modCtl m k f) j = getCtx m j := rfl
@[simp] theorem getCtx_modMs (n : Nat) (f : Milestone → Milestone) (j : Nat) : getCtx (modMs m n f) j = getCtx m j := rfl
@[simp] theorem getCtx_modWatch (n : Nat) (f : Watch → Watch) (j : Nat) : getCtx (modWatch m n f) j = getCtx m j := rfl
@[simp] theorem getCtx_modConv (n : Nat) (f : ConvSlot → ConvSlot) (j : Nat) : getCtx (modConv m n f) j = getCtx m j := rfl
@[simp] theorem getCtx_modChan (n : Nat) (f : Chan → Chan) (j : Nat) : getCtx (modChan m n f) j = getCtx m j := rfl
@[simp] theorem getCtx_modMbx (p : Port) (f : Mbx → Mbx) (j : Nat) : getCtx (modMbx m p f) j = getCtx m j := rfl
@[simp] theorem getCtx_modCargo (k : Nat) (f : CargoSet → CargoSet) (j : Nat) : getCtx (modCargo m k f) j = getCtx m j := rfl
@[simp] theorem getCtx_modHist (p : Nat) (f : QHist → QHist) (j : Nat) : getCtx (modHist m p f) j = getCtx m j := rfl
@[simp] theorem getCtx_freeStep (n : Nat) (j : Nat) : getCtx (freeStep m n) j = getCtx m j := rfl
@[simp] theorem getCtx_setPoison (g : Nat) (on : Bool) (j : Nat) : getCtx (setPoison m g on) j = getCtx m j := rfl
@[simp] theorem getRgn_modBlk (p : Nat) (f : Blk → Blk) (j : Nat) : getRgn (modBlk m p f) j = getRgn m j := rfl
@[simp] theorem getRgn_modCtx (c : Nat) (f : Ctx → Ctx) (j : Nat) : getRgn (modCtx m c f) j = getRgn m j := rfl
@[simp] theorem getRgn_modCtl (k : Nat) (f : Ctl → Ctl) (j : Nat) : getRgn (modCtl m k f) j = getRgn m j := rfl
@[simp] theorem getRgn_modMs (n : Nat) (f : Milestone → Milestone) (j : Nat) : getRgn (modMs m n f) j = getRgn m j := rfl
@[simp] theorem getRgn_modWatch (n : Nat) (f : Watch → Watch) (j : Nat) : getRgn (modWatch m n f) j = getRgn m j := rfl
@[simp] theorem getRgn_modConv (n : Nat) (f : ConvSlot → ConvSlot) (j : Nat) : getRgn (modConv m n f) j = getRgn m j := rfl
@[simp] theorem getRgn_modChan (n : Nat) (f : Chan → Chan) (j : Nat) : getRgn (modChan m n f) j = getRgn m j := rfl
@[simp] theorem getRgn_modMbx (p : Port) (f : Mbx → Mbx) (j : Nat) : getRgn (modMbx m p f) j = getRgn m j := rfl
@[simp] theorem getRgn_modCargo (k : Nat) (f : CargoSet → CargoSet) (j : Nat) : getRgn (modCargo m k f) j = getRgn m j := rfl
@[simp] theorem getRgn_modHist (p : Nat) (f : QHist → QHist) (j : Nat) : getRgn (modHist m p f) j = getRgn m j := rfl
@[simp] theorem getRgn_freeStep (n : Nat) (j : Nat) : getRgn (freeStep m n) j = getRgn m j := rfl
@[simp] theorem getRgn_setPoison (g : Nat) (on : Bool) (j : Nat) : getRgn (setPoison m g on) j = getRgn m j := rfl
@[simp] theorem getCtl_modBlk (p : Nat) (f : Blk → Blk) (j : Nat) : getCtl (modBlk m p f) j = getCtl m j := rfl
@[simp] theorem getCtl_modCtx (c : Nat) (f : Ctx → Ctx) (j : Nat) : getCtl (modCtx m c f) j = getCtl m j := rfl
@[simp] theorem getCtl_setRgn (r : Nat) (x : Rgn) (j : Nat) : getCtl (setRgn m r x) j = getCtl m j := rfl
@[simp] theorem getCtl_modMs (n : Nat) (f : Milestone → Milestone) (j : Nat) : getCtl (modMs m n f) j = getCtl m j := rfl
@[simp] theorem getCtl_modWatch (n : Nat) (f : Watch → Watch) (j : Nat) : getCtl (modWatch m n f) j = getCtl m j := rfl
@[simp] theorem getCtl_modConv (n : Nat) (f : ConvSlot → ConvSlot) (j : Nat) : getCtl (modConv m n f) j = getCtl m j := rfl
@[simp] theorem getCtl_modChan (n : Nat) (f : Chan → Chan) (j : Nat) : getCtl (modChan m n f) j = getCtl m j := rfl
@[simp] theorem getCtl_modMbx (p : Port) (f : Mbx → Mbx) (j : Nat) : getCtl (modMbx m p f) j = getCtl m j := rfl
@[simp] theorem getCtl_modCargo (k : Nat) (f : CargoSet → CargoSet) (j : Nat) : getCtl (modCargo m k f) j = getCtl m j := rfl
@[simp] theorem getCtl_modHist (p : Nat) (f : QHist → QHist) (j : Nat) : getCtl (modHist m p f) j = getCtl m j := rfl
@[simp] theorem getCtl_freeStep (n : Nat) (j : Nat) : getCtl (freeStep m n) j = getCtl m j := rfl
@[simp] theorem getCtl_setPoison (g : Nat) (on : Bool) (j : Nat) : getCtl (setPoison m g on) j = getCtl m j := rfl
@[simp] theorem getMs_modBlk (p : Nat) (f : Blk → Blk) (j : Nat) : getMs (modBlk m p f) j = getMs m j := rfl
@[simp] theorem getMs_modCtx (c : Nat) (f : Ctx → Ctx) (j : Nat) : getMs (modCtx m c f) j = getMs m j := rfl
@[simp] theorem getMs_setRgn (r : Nat) (x : Rgn) (j : Nat) : getMs (setRgn m r x) j = getMs m j := rfl
@[simp] theorem getMs_modCtl (k : Nat) (f : Ctl → Ctl) (j : Nat) : getMs (modCtl m k f) j = getMs m j := rfl
@[simp] theorem getMs_modWatch (n : Nat) (f : Watch → Watch) (j : Nat) : getMs (modWatch m n f) j = getMs m j := rfl
@[simp] theorem getMs_modConv (n : Nat) (f : ConvSlot → ConvSlot) (j : Nat) : getMs (modConv m n f) j = getMs m j := rfl
@[simp] theorem getMs_modChan (n : Nat) (f : Chan → Chan) (j : Nat) : getMs (modChan m n f) j = getMs m j := rfl
@[simp] theorem getMs_modMbx (p : Port) (f : Mbx → Mbx) (j : Nat) : getMs (modMbx m p f) j = getMs m j := rfl
@[simp] theorem getMs_modCargo (k : Nat) (f : CargoSet → CargoSet) (j : Nat) : getMs (modCargo m k f) j = getMs m j := rfl
@[simp] theorem getMs_modHist (p : Nat) (f : QHist → QHist) (j : Nat) : getMs (modHist m p f) j = getMs m j := rfl
@[simp] theorem getMs_freeStep (n : Nat) (j : Nat) : getMs (freeStep m n) j = getMs m j := rfl
@[simp] theorem getMs_setPoison (g : Nat) (on : Bool) (j : Nat) : getMs (setPoison m g on) j = getMs m j := rfl
@[simp] theorem getWatch_modBlk (p : Nat) (f : Blk → Blk) (j : Nat) : getWatch (modBlk m p f) j = getWatch m j := rfl
@[simp] theorem getWatch_modCtx (c : Nat) (f : Ctx → Ctx) (j : Nat) : getWatch (modCtx m c f) j = getWatch m j := rfl
@[simp] theorem getWatch_setRgn (r : Nat) (x : Rgn) (j : Nat) : getWatch (setRgn m r x) j = getWatch m j := rfl
@[simp] theorem getWatch_modCtl (k : Nat) (f : Ctl → Ctl) (j : Nat) : getWatch (modCtl m k f) j = getWatch m j := rfl
@[simp] theorem getWatch_modMs (n : Nat) (f : Milestone → Milestone) (j : Nat) : getWatch (modMs m n f) j = getWatch m j := rfl
@[simp] theorem getWatch_modConv (n : Nat) (f : ConvSlot → ConvSlot) (j : Nat) : getWatch (modConv m n f) j = getWatch m j := rfl
@[simp] theorem getWatch_modChan (n : Nat) (f : Chan → Chan) (j : Nat) : getWatch (modChan m n f) j = getWatch m j := rfl
@[simp] theorem getWatch_modMbx (p : Port) (f : Mbx → Mbx) (j : Nat) : getWatch (modMbx m p f) j = getWatch m j := rfl
@[simp] theorem getWatch_modCargo (k : Nat) (f : CargoSet → CargoSet) (j : Nat) : getWatch (modCargo m k f) j = getWatch m j := rfl
@[simp] theorem getWatch_modHist (p : Nat) (f : QHist → QHist) (j : Nat) : getWatch (modHist m p f) j = getWatch m j := rfl
@[simp] theorem getWatch_freeStep (n : Nat) (j : Nat) : getWatch (freeStep m n) j = getWatch m j := rfl
@[simp] theorem getWatch_setPoison (g : Nat) (on : Bool) (j : Nat) : getWatch (setPoison m g on) j = getWatch m j := rfl
@[simp] theorem getConv_modBlk (p : Nat) (f : Blk → Blk) (j : Nat) : getConv (modBlk m p f) j = getConv m j := rfl
@[simp] theorem getConv_modCtx (c : Nat) (f : Ctx → Ctx) (j : Nat) : getConv (modCtx m c f) j = getConv m j := rfl
@[simp] theorem getConv_setRgn (r : Nat) (x : Rgn) (j : Nat) : getConv (setRgn m r x) j = getConv m j := rfl
@[simp] theorem getConv_modCtl (k : Nat) (f : Ctl → Ctl) (j : Nat) : getConv (modCtl m k f) j = getConv m j := rfl
@[simp] theorem getConv_modMs (n : Nat) (f : Milestone → Milestone) (j : Nat) : getConv (modMs m n f) j = getConv m j := rfl
@[simp] theorem getConv_modWatch (n : Nat) (f : Watch → Watch) (j : Nat) : getConv (modWatch m n f) j = getConv m j := rfl
@[simp] theorem getConv_modMbx (p : Port) (f : Mbx → Mbx) (j : Nat) : getConv (modMbx m p f) j = getConv m j := rfl
@[simp] theorem getConv_modCargo (k : Nat) (f : CargoSet → CargoSet) (j : Nat) : getConv (modCargo m k f) j = getConv m j := rfl
@[simp] theorem getConv_modHist (p : Nat) (f : QHist → QHist) (j : Nat) : getConv (modHist m p f) j = getConv m j := rfl
@[simp] theorem getConv_freeStep (n : Nat) (j : Nat) : getConv (freeStep m n) j = getConv m j := rfl
@[simp] theorem getConv_setPoison (g : Nat) (on : Bool) (j : Nat) : getConv (setPoison m g on) j = getConv m j := rfl
@[simp] theorem getChan_modBlk (p : Nat) (f : Blk → Blk) (j : Nat) : getChan (modBlk m p f) j = getChan m j := rfl
@[simp] theorem getChan_modCtx (c : Nat) (f : Ctx → Ctx) (j : Nat) : getChan (modCtx m c f) j = getChan m j := rfl
@[simp] theorem getChan_setRgn (r : Nat) (x : Rgn) (j : Nat) : getChan (setRgn m r x) j = getChan m j := rfl
@[simp] theorem getChan_modCtl (k : Nat) (f : Ctl → Ctl) (j : Nat) : getChan (modCtl m k f) j = getChan m j := rfl
@[simp] theorem getChan_modMs (n : Nat) (f : Milestone → Milestone) (j : Nat) : getChan (modMs m n f) j = getChan m j := rfl
@[simp] theorem getChan_modWatch (n : Nat) (f : Watch → Watch) (j : Nat) : getChan (modWatch m n f) j = getChan m j := rfl
@[simp] theorem getChan_modMbx (p : Port) (f : Mbx → Mbx) (j : Nat) : getChan (modMbx m p f) j = getChan m j := rfl
@[simp] theorem getChan_modCargo (k : Nat) (f : CargoSet → CargoSet) (j : Nat) : getChan (modCargo m k f) j = getChan m j := rfl
@[simp] theorem getChan_modHist (p : Nat) (f : QHist → QHist) (j : Nat) : getChan (modHist m p f) j = getChan m j := rfl
@[simp] theorem getChan_freeStep (n : Nat) (j : Nat) : getChan (freeStep m n) j = getChan m j := rfl
@[simp] theorem getChan_setPoison (g : Nat) (on : Bool) (j : Nat) : getChan (setPoison m g on) j = getChan m j := rfl
@[simp] theorem getLink_modBlk (p : Nat) (f : Blk → Blk) (j : Nat) : getLink (modBlk m p f) j = getLink m j := rfl
@[simp] theorem getLink_modCtx (c : Nat) (f : Ctx → Ctx) (j : Nat) : getLink (modCtx m c f) j = getLink m j := rfl
@[simp] theorem getLink_setRgn (r : Nat) (x : Rgn) (j : Nat) : getLink (setRgn m r x) j = getLink m j := rfl
@[simp] theorem getLink_modCtl (k : Nat) (f : Ctl → Ctl) (j : Nat) : getLink (modCtl m k f) j = getLink m j := rfl
@[simp] theorem getLink_modMs (n : Nat) (f : Milestone → Milestone) (j : Nat) : getLink (modMs m n f) j = getLink m j := rfl
@[simp] theorem getLink_modWatch (n : Nat) (f : Watch → Watch) (j : Nat) : getLink (modWatch m n f) j = getLink m j := rfl
@[simp] theorem getLink_modConv (n : Nat) (f : ConvSlot → ConvSlot) (j : Nat) : getLink (modConv m n f) j = getLink m j := rfl
@[simp] theorem getLink_modChan (n : Nat) (f : Chan → Chan) (j : Nat) : getLink (modChan m n f) j = getLink m j := rfl
@[simp] theorem getLink_modMbx (p : Port) (f : Mbx → Mbx) (j : Nat) : getLink (modMbx m p f) j = getLink m j := rfl
@[simp] theorem getLink_modCargo (k : Nat) (f : CargoSet → CargoSet) (j : Nat) : getLink (modCargo m k f) j = getLink m j := rfl
@[simp] theorem getLink_modHist (p : Nat) (f : QHist → QHist) (j : Nat) : getLink (modHist m p f) j = getLink m j := rfl
@[simp] theorem getLink_freeStep (n : Nat) (j : Nat) : getLink (freeStep m n) j = getLink m j := rfl
@[simp] theorem getLink_setPoison (g : Nat) (on : Bool) (j : Nat) : getLink (setPoison m g on) j = getLink m j := rfl
@[simp] theorem getCargo_modBlk (p : Nat) (f : Blk → Blk) (j : Nat) : getCargo (modBlk m p f) j = getCargo m j := rfl
@[simp] theorem getCargo_modCtx (c : Nat) (f : Ctx → Ctx) (j : Nat) : getCargo (modCtx m c f) j = getCargo m j := rfl
@[simp] theorem getCargo_setRgn (r : Nat) (x : Rgn) (j : Nat) : getCargo (setRgn m r x) j = getCargo m j := rfl
@[simp] theorem getCargo_modCtl (k : Nat) (f : Ctl → Ctl) (j : Nat) : getCargo (modCtl m k f) j = getCargo m j := rfl
@[simp] theorem getCargo_modMs (n : Nat) (f : Milestone → Milestone) (j : Nat) : getCargo (modMs m n f) j = getCargo m j := rfl
@[simp] theorem getCargo_modWatch (n : Nat) (f : Watch → Watch) (j : Nat) : getCargo (modWatch m n f) j = getCargo m j := rfl
@[simp] theorem getCargo_modConv (n : Nat) (f : ConvSlot → ConvSlot) (j : Nat) : getCargo (modConv m n f) j = getCargo m j := rfl
@[simp] theorem getCargo_modChan (n : Nat) (f : Chan → Chan) (j : Nat) : getCargo (modChan m n f) j = getCargo m j := rfl
@[simp] theorem getCargo_modMbx (p : Port) (f : Mbx → Mbx) (j : Nat) : getCargo (modMbx m p f) j = getCargo m j := rfl
@[simp] theorem getCargo_modHist (p : Nat) (f : QHist → QHist) (j : Nat) : getCargo (modHist m p f) j = getCargo m j := rfl
@[simp] theorem getCargo_freeStep (n : Nat) (j : Nat) : getCargo (freeStep m n) j = getCargo m j := rfl
@[simp] theorem getCargo_setPoison (g : Nat) (on : Bool) (j : Nat) : getCargo (setPoison m g on) j = getCargo m j := rfl
@[simp] theorem getMbx_modBlk (p : Nat) (f : Blk → Blk) (q : Port) : getMbx (modBlk m p f) q = getMbx m q := rfl
@[simp] theorem getMbx_modCtx (c : Nat) (f : Ctx → Ctx) (q : Port) : getMbx (modCtx m c f) q = getMbx m q := rfl
@[simp] theorem getMbx_setRgn (r : Nat) (x : Rgn) (q : Port) : getMbx (setRgn m r x) q = getMbx m q := rfl
@[simp] theorem getMbx_modCtl (k : Nat) (f : Ctl → Ctl) (q : Port) : getMbx (modCtl m k f) q = getMbx m q := rfl
@[simp] theorem getMbx_modMs (n : Nat) (f : Milestone → Milestone) (q : Port) : getMbx (modMs m n f) q = getMbx m q := rfl
@[simp] theorem getMbx_modWatch (n : Nat) (f : Watch → Watch) (q : Port) : getMbx (modWatch m n f) q = getMbx m q := rfl
@[simp] theorem getMbx_modConv (n : Nat) (f : ConvSlot → ConvSlot) (q : Port) : getMbx (modConv m n f) q = getMbx m q := rfl
@[simp] theorem getMbx_modChan (n : Nat) (f : Chan → Chan) (q : Port) : getMbx (modChan m n f) q = getMbx m q := rfl
@[simp] theorem getMbx_modCargo (k : Nat) (f : CargoSet → CargoSet) (q : Port) : getMbx (modCargo m k f) q = getMbx m q := rfl
@[simp] theorem getMbx_modHist (p : Nat) (f : QHist → QHist) (q : Port) : getMbx (modHist m p f) q = getMbx m q := rfl
@[simp] theorem getMbx_freeStep (n : Nat) (q : Port) : getMbx (freeStep m n) q = getMbx m q := rfl
@[simp] theorem getMbx_setPoison (g : Nat) (on : Bool) (q : Port) : getMbx (setPoison m g on) q = getMbx m q := rfl

end Sys2Proof.Machine
end

