-- ==== Sys2Proof/Laws/Memory.lean ====
section
/-! SUPPORT. What the operations over memory do to its bytes, and that each keeps its canonical form. -/

namespace Sys2Proof.Machine

set_option Elab.async false

/-! ### Bytes -/

/-- A byte reads as it was stored, and no other byte changes. -/
@[simp] theorem memByte_memPut (mem : List Host.Cell) (a x : Nat) (b : Byte) :
    memByte (memPut mem a b) x = if a = x then b else memByte mem x := tget_tset _ _ _ _ _

/-- Bytes stored at consecutive addresses read as they were stored, and no other byte changes. -/
theorem memByte_memPutAll (mem : List Host.Cell) (a x : Nat) (bs : List Byte) :
    memByte (memPutAll mem a bs) x = if a ≤ x ∧ x < a + bs.length then bs.getD (x - a) 0 else memByte mem x := by
  induction bs generalizing mem a with
  | nil => simp only [memPutAll, List.length_nil]; rw [if_neg (by omega)]
  | cons b bs ih =>
    simp only [memPutAll, ih, memByte_memPut, List.length_cons]
    by_cases h : a = x
    · subst h
      rw [if_neg (by omega), if_pos rfl, if_pos (by omega), Nat.sub_self, List.getD_cons_zero]
    · by_cases hx : a + 1 ≤ x ∧ x < a + 1 + bs.length
      · have h1 : x - a = (x - (a + 1)) + 1 := by omega
        rw [if_pos hx, if_pos (by omega), h1, List.getD_cons_succ]
      · rw [if_neg hx, if_neg h, if_neg (by omega)]

/-- Marking the tiles of twins touches no byte. -/
@[simp] theorem markDirty_mem (m : Mach) (a n : Nat) : (markDirty m a n).mem = m.mem := by
  have hd : (dropNarrow m a n).mem = m.mem := by unfold dropNarrow; split <;> rfl
  unfold markDirty
  dsimp only
  split
  · exact hd
  · exact hd

/-- Zeroing a range makes its bytes read as zero and changes no other byte. -/
theorem memByte_zeroRange (m : Mach) (a n x : Nat) :
    memByte (zeroRange m a n).mem x = if x < a ∨ a + n ≤ x then memByte m.mem x else memDefault := by
  have h := tget_filter memDefault m.mem (fun i => decide (i < a) || decide (a + n ≤ i)) x
  simp only [Bool.or_eq_true, decide_eq_true_eq] at h
  simp only [zeroRange, markDirty_mem]
  exact h

/-! ### The canonical form -/

theorem memWf_memPut {mem : List Host.Cell} (h : memWf mem) (a : Nat) (b : Byte) : memWf (memPut mem a b) := tblWf_tset h a b

theorem memWf_memPutAll {mem : List Host.Cell} (h : memWf mem) (a : Nat) (bs : List Byte) : memWf (memPutAll mem a bs) := by
  induction bs generalizing mem a with
  | nil => exact h
  | cons b bs ih => exact ih (memWf_memPut h a b) _

theorem memWf_zeroRange {m : Mach} (h : memWf m.mem) (a n : Nat) : memWf (zeroRange m a n).mem := tblWf_filter (by simpa using h) _

theorem memWf_gateRegions {m : Mach} (h : memWf m.mem) : memWf (gateRegions m).mem := tblWf_filter h _

theorem memWf_wrGran {m : Mach} (h : memWf m.mem) (g a : Nat) (bs : List Byte) : memWf (wrGran m g a bs).mem := by
  unfold wrGran
  split
  · exact memWf_memPutAll h a bs
  · split
    · exact h
    · exact memWf_memPutAll h a bs

/-- A step over a list keeps what each of its steps keeps. -/
theorem foldl_keeps {β : Type} {P : Mach → Prop} {f : Mach → β → Mach} (hf : ∀ m x, P m → P (f m x)) (l : List β) {m : Mach} (h : P m) :
    P (l.foldl f m) := by
  induction l generalizing m with
  | nil => exact h
  | cons x l ih => exact ih (hf m x h)

theorem memWf_wrBytes {m : Mach} (h : memWf m.mem) (a : Nat) (bs : List Byte) : memWf (wrBytes m a bs).mem :=
  foldl_keeps (P := fun m => memWf m.mem) (fun _ _ h => memWf_wrGran h _ _ _) _ (by simpa using h)

/-- Poisoning changes no byte. -/
@[simp] theorem wrPoison_mem (m : Mach) (a n : Nat) : (wrPoison m a n).mem = m.mem :=
  foldl_keeps (P := fun k => k.mem = m.mem) (f := fun m g => setPoison m g true) (fun _ _ h => h) _ (markDirty_mem m a n)

theorem memWf_wrPoison {m : Mach} (h : memWf m.mem) (a n : Nat) : memWf (wrPoison m a n).mem := by simpa using h

theorem memWf_aliasWrite {m : Mach} (h : memWf m.mem) (clear : Bool) (a : Nat) (bs : List Byte) : memWf (aliasWrite m clear a bs).mem := by
  refine foldl_keeps (P := fun m => memWf m.mem) (fun m g h => ?_) _ h
  dsimp only
  split
  · exact h
  · exact memWf_wrBytes h _ _

theorem memWf_reset : memWf machReset.mem := tblWf_nil _

end Sys2Proof.Machine
end

