-- ==== Sys2Proof/Laws/Ops.lean ====
section
/-! SUPPORT. What the shared operations leave as it was: each lemma says once everything its operation can change. -/

namespace Sys2Proof.Machine

set_option Elab.async false

/-! ### Events and records -/

/-- Signalling a vector changes the pending bits or the messages sent, nothing else. -/
theorem signal_frame (m : Mach) (v : Nat) :
    signal m v = { m with mgmt := { m.mgmt with msixPend := (signal m v).mgmt.msixPend, msgs := (signal m v).mgmt.msgs } } := by
  unfold signal; split <;> rfl

/-- A log record changes the log and its head, nothing else. -/
theorem logRec_frame (m : Mach) (code cls unit dump flags : Nat) (ctx : Option Nat) (d : List Byte) :
    logRec m code cls unit dump flags ctx d =
      { m with mgmt := { m.mgmt with log := (logRec m code cls unit dump flags ctx d).mgmt.log,
                                     logHead := (logRec m code cls unit dump flags ctx d).mgmt.logHead } } := by
  unfold logRec; dsimp only; split <;> rfl

/-- An event on the host ring changes the management state alone. -/
theorem hostEvent_frame (m : Mach) (cls : Nat) (e : Event) : hostEvent m cls e = { m with mgmt := (hostEvent m cls e).mgmt } := by
  unfold hostEvent; dsimp only; split
  · rw [signal_frame]
  · rfl

/-- Two steps that each change the management state alone change it alone. -/
theorem mgmt_trans {m a b : Mach} (h1 : a = { m with mgmt := a.mgmt }) (h2 : b = { a with mgmt := b.mgmt }) : b = { m with mgmt := b.mgmt } := by
  have h : ∀ x, ({ a with mgmt := x } : Mach) = { m with mgmt := x } := fun x => by rw [h1]
  exact h2.trans (h _)

theorem boardEvent_frame (m : Mach) (cls : Nat) (e : Event) : boardEvent m cls e = { m with mgmt := (boardEvent m cls e).mgmt } := rfl

/-- Reporting an event changes the management state alone. -/
theorem report_frame (m : Mach) (code cls unit : Nat) (ctx : Option Nat) (contexts subject : Nat) (d : List Byte) :
    report m code cls unit ctx contexts subject d = { m with mgmt := (report m code cls unit ctx contexts subject d).mgmt } := by
  have hl : logRec m code cls unit 0 0 ctx d = { m with mgmt := (logRec m code cls unit 0 0 ctx d).mgmt } := by
    unfold logRec; dsimp only; split <;> rfl
  unfold report; dsimp only
  split <;> split
  · exact mgmt_trans (mgmt_trans hl (hostEvent_frame _ _ _)) (boardEvent_frame _ _ _)
  · exact mgmt_trans hl (boardEvent_frame _ _ _)
  · exact mgmt_trans hl (hostEvent_frame _ _ _)
  · exact hl

/-- Neither ring gains a record past its capacity: an event that finds no room is counted. -/
theorem ringEvent_full {r : EvRing} (h : ringRoom r = false) (cls : Nat) (e : Event) :
    (ringEvent r cls e).recs = r.recs ∧ (ringEvent r cls e).head = r.head ∧ (ringEvent r cls e).lost = r.lost + 1 := by
  simp [ringEvent, h]

/-- A record written to flash moves one sector's count and kind, nothing else (R388). -/
theorem flashWrite_frame (m : Mach) (kind : Nat) :
    flashWrite m kind = { m with mgmt := { m.mgmt with flash := (flashWrite m kind).mgmt.flash } } := by
  unfold flashWrite; dsimp only; split <;> rfl

/-- Background work adds to the round's count of it, nothing else (R397). -/
theorem bgWork_frame (m : Mach) (u : Nat) : bgWork m u = { m with mgmt := { m.mgmt with bgUnits := m.mgmt.bgUnits + u } } := rfl

/-! ### Long commands -/

@[simp] theorem newOp_frame (m : Mach) (p : Port) (opcode subject : Nat) :
    (newOp m p opcode subject).1 = { m with mgmt := { m.mgmt with
      ops := (m.mgmt.ops ++ [{ tag := m.mgmt.nextTag, port := p, opcode := opcode, subject := subject, outcome := none, waits := [] }])
      nextTag := if m.mgmt.nextTag + 1 = 2 ^ 32 then 1 else m.mgmt.nextTag + 1 } } := rfl

theorem endOp_frame (m : Mach) (tag status result : Nat) :
    endOp m tag status result = { m with mgmt := { m.mgmt with ops := (endOp m tag status result).mgmt.ops } } := rfl

theorem endOps_frame (m : Mach) (c : Nat) (codes : List Nat) (status : Nat) :
    endOps m c codes status = { m with mgmt := { m.mgmt with ops := (endOps m c codes status).mgmt.ops } } := rfl

/-! ### Accounting and requests on the fabric -/

/-- Accounting changes the accounting of one slot, nothing else. -/
theorem acctAdd_frame (m : Mach) (c i k : Nat) : acctAdd m c i k = { m with ctxs := (acctAdd m c i k).ctxs } := by
  unfold acctAdd; split <;> rfl

/-- Accounting changes nothing of a slot but its accounting. -/
theorem getCtx_acctAdd (m : Mach) (c i k j : Nat) :
    ∃ a p q, getCtx (acctAdd m c i k) j = { getCtx m j with acct := a, firstAct := p, lastAct := q } := by
  unfold acctAdd
  split
  · exact ⟨_, _, _, rfl⟩
  · rw [getCtx_modCtx]
    split
    · exact ⟨_, _, _, rfl⟩
    · exact ⟨_, _, _, rfl⟩

/-- What a translation depends on: the entries, the module's own identifier, and the handle, membership and page pools of the slot. -/
def SameReach (c : Nat) (m m' : Mach) : Prop :=
  m'.fab.waymap = m.fab.waymap ∧ m'.fab.wayBad = m.fab.wayBad ∧ m'.fab.module = m.fab.module ∧ handleOf m' c = handleOf m c ∧
    (getCtx m' c).mem = (getCtx m c).mem ∧ (getCtx m' c).par = (getCtx m c).par ∧ (getCtx m' c).poolNear = (getCtx m c).poolNear ∧
    (getCtx m' c).poolFar = (getCtx m c).poolFar

theorem SameReach.refl (c : Nat) (m : Mach) : SameReach c m m := ⟨rfl, rfl, rfl, rfl, rfl, rfl, rfl, rfl⟩

theorem SameReach.trans {c : Nat} {a b d : Mach} (h : SameReach c a b) (k : SameReach c b d) : SameReach c a d :=
  ⟨k.1.trans h.1, k.2.1.trans h.2.1, k.2.2.1.trans h.2.2.1, k.2.2.2.1.trans h.2.2.2.1, k.2.2.2.2.1.trans h.2.2.2.2.1,
    k.2.2.2.2.2.1.trans h.2.2.2.2.2.1, k.2.2.2.2.2.2.1.trans h.2.2.2.2.2.2.1, k.2.2.2.2.2.2.2.trans h.2.2.2.2.2.2.2⟩

theorem translate_congr {c : Nat} {m m' : Mach} (h : SameReach c m m') (op a n : Nat) : translate m' c op a n = translate m c op a n := by
  obtain ⟨h1, h2, h3, h4, h5, h6, h7, h8⟩ := h
  simp only [translate, outEntry, poolOut, poolEntry, poolPages, pageVirt, pageAddr, modId, h1, h2, h3, h4, h5, h6, h7, h8]
  rfl

/-- A request that translates to another module is sent, and later ones translate as before. -/
theorem fabAccess_sent {m : Mach} {ref : ItemRef} {op virt len : Nat} {e : WayEnt} {phys : Nat}
    (ht : translate m ref.ctx op virt len = .ok e phys) (hm : m.fab.module ≠ some e.module)
    (h : Holder) (sub : Nat) (data : List Byte) (poison : List Nat) (relaxed : Bool) :
    ∃ m' tag, fabAccess m ref h op sub virt len data poison relaxed false = .sent m' tag ∧ SameReach ref.ctx m m' := by
  simp only [fabAccess, ht, hm, Bool.false_eq_true, if_false, decide_false, Bool.false_and]
  refine ⟨_, _, rfl, ?_⟩
  obtain ⟨_, _, _, q⟩ := getCtx_acctAdd { m with fab := { m.fab with
    nextTag := (m.fab.nextTag + 1) % 2 ^ 32
    out := m.fab.out ++ [{ tag := m.fab.nextTag, holder := h, opcode := op, ctx := ref.ctx, man := ref.man, run := ref.run, wb := ref.wb,
                           virt := virt, len := len, issued := now m }]
    txq := m.fab.txq ++ [mkReq m ref.ctx e op sub phys len data poison relaxed false m.fab.nextTag]
    released := m.fab.released } } ref.ctx 9 data.length ref.ctx
  refine ⟨?_, ?_, ?_, ?_, ?_, ?_, ?_, ?_⟩
  · rw [acctAdd_frame]
  · rw [acctAdd_frame]
  · rw [acctAdd_frame]
  · unfold handleOf
    dsimp only
    rw [q]
    rfl
  · rw [q]; rfl
  · rw [q]; rfl
  · rw [q]; rfl
  · rw [q]; rfl

/-- A fold whose every step goes through goes through. -/
theorem foldl_ok {β : Type} {f : FabRes → β → FabRes} {P : Mach → Prop} (l : List β)
    (hf : ∀ q ∈ l, ∀ k out, P k → ∃ k' out', f (.ok k [] [] out) q = .ok k' [] [] out' ∧ P k') :
    ∀ k out, P k → ∃ k' out', l.foldl f (.ok k [] [] out) = .ok k' [] [] out' := by
  induction l with
  | nil => exact fun k out _ => ⟨k, out, rfl⟩
  | cons q l ih =>
    intro k out h
    obtain ⟨k', out', h1, h2⟩ := hf q (List.mem_cons_self ..) k out h
    rw [List.foldl_cons, h1]
    exact ih (fun x hx => hf x (List.mem_cons_of_mem _ hx)) k' out' h2

/-- A write whose every piece is of whole granules and translates to another module is sent. -/
theorem fabWrite_sent {m : Mach} {ref : ItemRef} (h : Holder) {a : Nat} (bs : List Byte) (poison : List Nat)
    (ht : ∀ q ∈ fabPieces m ref.ctx a bs.length, 32 ≤ q.2 ∧ ∃ e phys, translate m ref.ctx (if q.2 ≤ 64 then 0x02 else 0x03) q.1 q.2 = .ok e phys ∧
      m.fab.module ≠ some e.module) :
    ∃ m' out, fabWrite m ref h a bs poison = .ok m' [] [] out := by
  unfold fabWrite
  refine foldl_ok (P := SameReach ref.ctx m) _ (fun q hq k out hk => ?_) m [] (.refl _ _)
  obtain ⟨h0, e, phys, h1, h2⟩ := ht q hq
  obtain ⟨m1, tag, h3, h4⟩ := fabAccess_sent (m := k) (ref := ref) (e := e) (phys := phys) ((translate_congr hk _ _ _).trans h1)
    (by rw [hk.2.2.1]; exact h2) h 0 ((bs.drop (q.1 - a)).take q.2) ((List.range (ceilDiv q.2 32)).filter (fun i =>
        poison.any (fun g => 32 * g < q.1 - a + 32 * i + 32 && q.1 - a + 32 * i < 32 * g + 32 && 32 * g < q.1 - a + q.2))) false
  have hn : (isFar k ref.ctx q.1 q.2 && decide (q.2 < 32)) = false := by simp; intro _; omega
  dsimp only
  rw [hn]
  simp only [Bool.false_eq_true, if_false, h3]
  exact ⟨m1, _, rfl, hk.trans h4⟩

end Sys2Proof.Machine
end

