-- ==== Sys2Proof/WellFormed.lean ====
section
/-! DEFINITION. Which commands are well formed: those that name a thing there is. The meanings are total on the others too. -/

namespace Sys2Proof

open Sys2Proof.Machine

/-- A physical block there is (Table 0.2). -/
def blockOk (p : Nat) : Bool := p < 1088
/-- A waybill stream (R194). -/
def streamOk (s : Nat) : Bool := 1 ≤ s && s ≤ 3
/-- A context slot, or a manifest slot of one (R190, R205). -/
def slotOk (c : Nat) : Bool := c < 16
/-- A link (R281). -/
def linkOk (k : Nat) : Bool := k < 18
/-- A tier controller: a stack, or 16 + a package (R234). -/
def ctlOk (k : Nat) : Bool := k < 12 || (16 ≤ k && k < 32)
/-- A cargo set (R366) or a channel (R320). -/
def setOk (k : Nat) : Bool := k < 4096
/-- A request with the eight reserved header bytes (R420). -/
def reqOk (r : Req) : Bool := r.resv.length == 8
/-- The opcodes of Table 16.7, STATUS apart. -/
def knownOpcode (n : Nat) : Bool :=
  let i := n % 256
  match n / 256 with
  | 1 => (1 ≤ i && i ≤ 19)
  | 2 => (1 ≤ i && i ≤ 7)
  | 3 => (1 ≤ i && i ≤ 5)
  | 4 => (1 ≤ i && i ≤ 4)
  | 5 => (1 ≤ i && i ≤ 5)
  | 6 => (1 ≤ i && i ≤ 8)
  | 7 => (1 ≤ i && i ≤ 8)
  | 8 => (1 ≤ i && i ≤ 15)
  | _ => false
/-- The status row stands for STATUS itself and for opcodes the table does not list (R421). -/
def statusOk (n : Nat) : Bool := n < 65536 && !knownOpcode n
/-- A write within BAR0 (R418) or, for maintenance, within the blocks' register windows of Table
1.6 (R123, R124; log 88). -/
def bar0Ok (a : Nat) (bs : List Byte) : Bool :=
  decide (a + bs.length ≤ 0x4000000) ||
    decide (0x7F010000000 ≤ a ∧ a + bs.length ≤ 0x7F010000000 + 0x10000 * 1088)
/-- A round's facts name quantities of Table 14.8. -/
def roundOk (f : RoundFacts) : Bool := f.margins.all (fun q => decide (q.1 < 6))

/-- Whether a command is well formed. -/
def Instr.wf : Instr → Bool
  | .status opcode r => statusOk opcode && reqOk r
  | .ctxCreate r => reqOk r
  | .ctxClose r => reqOk r
  | .teardownEnd c => slotOk c
  | .ctxExtend r => reqOk r
  | .ctxReclaim r => reqOk r
  | .reclaimBlockLeave c a => slotOk c && decide (a < 1024)
  | .reclaimDeadline c => slotOk c
  | .ctxPark r => reqOk r
  | .parkQuiesced c => slotOk c
  | .parkDeadline c => slotOk c
  | .parkComplete c => slotOk c
  | .ctxUnpark _ _ r => reqOk r
  | .ctxUnparkImage _ r => reqOk r
  | .ctxReshard r => reqOk r
  | .reshardEffect c => slotOk c
  | .manifestPost _ r => reqOk r
  | .manifestLaunch r => reqOk r
  | .manifestRetire r => reqOk r
  | .flagsClear _ r => reqOk r
  | .numericsSave r => reqOk r
  | .numericsLoad _ r => reqOk r
  | .watchOpen r => reqOk r
  | .watchClose r => reqOk r
  | .orderedOpen r => reqOk r
  | .cvConfigure r => reqOk r
  | .servingConfig r => reqOk r
  | .cargoLoad r => reqOk r
  | .cargoSeal r => reqOk r
  | .cargoSetReady k => setOk k
  | .cargoBind r => reqOk r
  | .cargoUnbind r => reqOk r
  | .cargoSwap r => reqOk r
  | .swapDrained k => setOk k
  | .cargoSwitch r => reqOk r
  | .cargoSwitchApply c => slotOk c
  | .seqRead r => reqOk r
  | .statement r => reqOk r
  | .logRead q => reqOk q.req
  | .dumpRead q => reqOk q.req
  | .counterRead r => reqOk r
  | .boardEvents r => reqOk r
  | .powerCap r => reqOk r
  | .clockLimit r => reqOk r
  | .powerState r => reqOk r
  | .powerQuery r => reqOk r
  | .fwStage r => reqOk r
  | .fwVerify _ r => reqOk r
  | .fwActivate r => reqOk r
  | .fwQuery r => reqOk r
  | .fwCommit r => reqOk r
  | .tryBootTimeout _ => true
  | .lifecycleQuery r => reqOk r
  | .ownerEnrol _ r => reqOk r
  | .policySet _ r => reqOk r
  | .debugUnlock _ r => reqOk r
  | .debugLock r => reqOk r
  | .debugSessionExpiry => true
  | .zeroise _ r => reqOk r
  | .lifecycleSet _ r => reqOk r
  | .certRead r => reqOk r
  | .reset r => reqOk r
  | .oosSet r => reqOk r
  | .returnToService r => reqOk r
  | .retainFloor r => reqOk r
  | .wdtSet r => reqOk r
  | .retireThreshold r => reqOk r
  | .eccClear _ r => reqOk r
  | .healthQuery r => reqOk r
  | .moduleIdSet r => reqOk r
  | .membershipSet r => reqOk r
  | .waymapMap r => reqOk r
  | .waymapUnmap r => reqOk r
  | .waymapRead r => reqOk r
  | .respTimeoutSet r => reqOk r
  | .convoySet _ r => reqOk r
  | .convoyRemove r => reqOk r
  | .schedulePost _ r => reqOk r
  | .channelOpen r => reqOk r
  | .channelClose r => reqOk r
  | .twinAccept r => reqOk r
  | .twinSet _ _ _ r => reqOk r
  | .restore r => reqOk r
  | .customsClear _ r => reqOk r
  | .opDone _ => true
  | .chpCrAck c _ _ => slotOk c
  | .mpEvtAck _ _ => true
  | .msixUnmask v => decide (v < 64)
  | .registerWrite a d => bar0Ok a d.bytes
  | .bar2Read _ _ _ _ => true
  | .bar2Write _ _ _ _ => true
  | .inputPowerRise _ => true
  | .inputUndervoltage => true
  | .alwaysOnLoss => true
  | .inputOvervoltage => true
  | .wake _ _ => true
  | .perst _ => true
  | .powerLoopSample _ => true
  | .fastTrip => true
  | .thermalStep => true
  | .thermalShutdown => true
  | .supplyDroop r => decide (r < 4)
  | .railOutOfRange => true
  | .clockLoss _ => true
  | .lockstepMismatch => true
  | .mpRestartDone => true
  | .duplicateMismatch _ => true
  | .alarmCondition cond => decide (cond < 4)
  | .fuseIntegrityCheck _ => true
  | .getVersion _ => true
  | .getCapabilities _ => true
  | .negotiateAlgorithms _ _ _ _ => true
  | .getDigests _ => true
  | .getCertificate _ _ _ _ => true
  | .challenge _ _ _ => true
  | .getMeasurements _ _ _ _ => true
  | .keyProg _ _ _ => true
  | .kSetGo _ => true
  | .managementRound f => roundOk f
  | .healthScoreSave => true
  | .waybillStart p => blockOk p
  | .waybillComplete p stream => blockOk p && streamOk stream
  | .seqStepBuild c _ => slotOk c
  | .runStart c k => slotOk c && slotOk k
  | .runComplete c k _ => slotOk c && slotOk k
  | .completionRecord c q => slotOk c && decide (q < 4096)
  | .blockHandover p => blockOk p
  | .arrayOp p stream _ => blockOk p && streamOk stream
  | .arrayOpComplete p => blockOk p
  | .drain p stream _ => blockOk p && streamOk stream
  | .drainComplete p => blockOk p
  | .discard p stream => blockOk p && streamOk stream
  | .windowSet p stream _ => blockOk p && streamOk stream
  | .aliasSet p stream _ => blockOk p && streamOk stream
  | .barrier p stream => blockOk p && streamOk stream
  | .premutar p stream => blockOk p && streamOk stream
  | .premutarComplete p => blockOk p
  | .vadd p stream _ => blockOk p && streamOk stream
  | .vsub p stream _ => blockOk p && streamOk stream
  | .vmul p stream _ => blockOk p && streamOk stream
  | .vfma p stream _ => blockOk p && streamOk stream
  | .vdiv p stream _ => blockOk p && streamOk stream
  | .vsqrt p stream _ => blockOk p && streamOk stream
  | .vfunc p stream _ => blockOk p && streamOk stream
  | .vmaxMin p stream _ => blockOk p && streamOk stream
  | .vsign p stream _ => blockOk p && streamOk stream
  | .vcmp p stream _ => blockOk p && streamOk stream
  | .vselect p stream _ => blockOk p && streamOk stream
  | .vcvt p stream _ => blockOk p && streamOk stream
  | .sh16Enc p stream _ => blockOk p && streamOk stream
  | .sh16Dec p stream _ => blockOk p && streamOk stream
  | .vreduce p stream _ => blockOk p && streamOk stream
  | .vfinalize p stream _ => blockOk p && streamOk stream
  | .regLoad p stream _ => blockOk p && streamOk stream
  | .regStore p stream _ => blockOk p && streamOk stream
  | .vcompress p stream _ => blockOk p && streamOk stream
  | .vexpand p stream _ => blockOk p && streamOk stream
  | .gather p stream _ => blockOk p && streamOk stream
  | .scatter p stream _ => blockOk p && streamOk stream
  | .scatterAdd p stream _ => blockOk p && streamOk stream
  | .lhSlice p stream _ => blockOk p && streamOk stream
  | .lhRecombine p stream _ => blockOk p && streamOk stream
  | .topk p stream _ => blockOk p && streamOk stream
  | .signc p stream _ => blockOk p && streamOk stream
  | .vectorOpComplete p => blockOk p
  | .ringAccessStart p => blockOk p.num
  | .spAccess p _ c stream _ _ _ _ _ _ => blockOk p && slotOk c && decide (stream ≤ 3)
  | .aliasWrite p _ c stream _ _ _ _ _ => blockOk p && slotOk c && decide (stream ≤ 3)
  | .nonOwnerService p bank _ _ _ _ => blockOk p && decide (bank < 6)
  | .spEccWriteback p => blockOk p
  | .spPatrolRead p bank _ _ _ => blockOk p && decide (bank < 6)
  | .milestoneAdvance n _ => decide (n < 65536)
  | .milestoneMulticast n p => decide (n < 65536) && blockOk p
  | .cvFrame p => blockOk p
  | .assayerSummary => true
  | .endOfRunMarker => true
  | .stepClose c => slotOk c
  | .closeTimeout c => slotOk c
  | .tierAccess _ _ _ _ _ _ _ _ _ => true
  | .tierEccWriteback k => ctlOk k
  | .tierPatrolRead _ _ _ _ => true
  | .retirementCopyDone k _ => ctlOk k
  | .refreshEvaluation k _ => ctlOk k
  | .cargoSourceTimeout _ => true
  | .cargoRefetchDeadline set _ => setOk set
  | .orderedClose n => decide (n < 64)
  | .orderedShareClosed n => decide (n < 64)
  | .outriderDeadline c k _ _ => slotOk c && slotOk k
  | .zeroingComplete _ => true
  | .periodicCalibration k _ _ => ctlOk k
  | .waymapPatrol _ _ => true
  | .packetSend => true
  | .flit k _ _ => linkOk k
  | .controlFlit k _ tolls => linkOk k && (tolls.length == 3)
  | .replayTimeout k => linkOk k
  | .laneFailure k lane => linkOk k && decide (lane < 4)
  | .laneRetrainComplete k _ => linkOk k
  | .portSilent k => linkOk k
  | .linkRetrainAttempt k _ => linkOk k
  | .linkDownPersistent k => linkOk k
  | .unreach k _ _ _ _ => linkOk k
  | .reachRestore k _ => linkOk k
  | .reorderHoleExpiry _ _ => true
  | .load => true
  | .store => true
  | .move => true
  | .moveRead => true
  | .accum => true
  | .fetch => true
  | .advance => true
  | .data => true
  | .ack => true
  | .nack => true
  | .responseTimeout _ => true
  | .collectiveTrigger n => decide (n.num < 64)
  | .grant => true
  | .cdata => true
  | .progressTimerExpiry n => decide (n < 64)
  | .abort => true
  | .channelUnitSend n => setOk n
  | .chData => true
  | .channelUnitProduce n => setOk n
  | .chCredit => true
  | .chClose => true
  | .channelCreditTimeout n => setOk n
  | .stepCommit c => slotOk c
  | .twinTile => true
  | .twinSeal => true
  | .twinAck => true
  | .twinNack => true
  | .commitTimeout c => slotOk c
  | .restoreReq => true
  | .restoreData => true
  | .restoreEnd => true
  | .restoreTimeout c => slotOk c
  | .watchdogExpiry _ => true
  | .stall c => slotOk c
  | .cordonTimeout _ => true
  | .collectionUnitTimeout _ _ => true
  | .resetComplete _ _ => true
  | .rungWatchdogExpiry _ _ => true
  | .managementIslandRestartTimeout => true
  | .tamperLatchSet => true
  | .haltAndStep _ => true

end Sys2Proof
end

