-- ==== Sys2Proof/Tests/Slice0.lean ====
section
/-! SUPPORT. Tests: what the statements suppose is met by a concrete state and operands, ill-formed commands are refused, and the worked examples of the spec come out. -/

namespace Sys2Proof.Tests
open Sys2Proof Sys2Proof.Machine
set_option maxRecDepth 100000
set_option Elab.async false

/-- A state with its module changed. -/
def onM (s : State) (f : Mach → Mach) : State := { s with m := f s.m }

/-- The module running in P0 with its host link up; logical arrays 0 to 3 stand on physical blocks 0 to 3. -/
def run : State := onM State.reset (fun m => { m with
  pwr := { pwrReset with boot := .running, fabricReady := true, limitMhz := 700, loopMhz := 700, thermMhz := 700, capW := 3000 }
  pcie := { pcieReset with linkUp := true, perst := false }
  rgns := [(0, { rgnReset with map := (List.range 4).map (fun i => (i, { valid := true, subst := false, phys := i })) })] })

/-- A request with the first tally of its port and its trailer right. -/
def mk (op : Nat) (p : Port) (h : Nat) (payload : List Byte) : Req :=
  let r : Req := { port := p, tally := 1, handle := BitVec.ofNat 16 h, len := payload.length, resv := List.replicate 8 0, payload := payload, crc := 0 }
  { r with crc := BitVec.ofNat 32 (crc32c (reqBytes op r)) }

/-- Zeros. -/
def zs (n : Nat) : List Byte := List.replicate n 0
/-- Numbers of 4 bytes. -/
def w4 (ns : List Nat) : List Byte := (ns.map (leBytes 4)).flatten

/-- Numbers of 2 bytes. -/
def w2 (ns : List Nat) : List Byte := (ns.map (leBytes 2)).flatten
/-- Single bytes. -/
def w1 (ns : List Nat) : List Byte := (ns.map (leBytes 1)).flatten

/-- A state with what lasts changed. -/
def onNv (s : State) (f : NonVol → NonVol) : State := { s with nv := f s.nv }

/-- Changed in its management state. -/
def onG (s : State) (f : MgmtS → MgmtS) : State := onM s (fun m => { m with mgmt := f m.mgmt })

/-- Changed in its security state. -/
def onS (s : State) (f : SecS → SecS) : State := onM s (fun m => { m with sec := f m.sec })

/-- The parameters of the contexts of these tests. -/
def par1 : CtxPar :=
  { noPar with blocks := (List.range 4).map (fun i => { array := i, mask := 63, weight := 1 }), msCount := 8, seqEntries := 4, maxTiles := 4,
               storeBytes := 4096, portWeight := 1, pageBytes := 4096, chunk := 64, intakeSlots := 4 }

/-- `run` with slot 1 ACTIVE: handle 0x1001. -/
def act : State := onM run (fun m => { m with ctxs := [(1, { ctxReset with st := .active, gen := 1, par := par1 })] })

/-- A token (Table 17.4). -/
def tok (kind value signer rounds scope : Nat) : List Byte :=
  w4 [0x4D33544B] ++ w2 [1] ++ w1 [kind, signer] ++ zs 16 ++ w4 [0] ++ w1 [value] ++ zs 3 ++ w4 [rounds, scope] ++ zs 536

/-- A long command not yet answered. -/
def lop (opcode subject : Nat) (out : Option (Nat × Nat)) : LongOp :=
  { tag := 5, port := .host, opcode := opcode, subject := subject, outcome := out, waits := [] }

/-- A boot that meets nothing bad. -/
def f0 : BootFacts :=
  { tryOk := true, activeOk := true, bist := [], slow := [], absent := [], lanes := [], watts := 0, slotId := 0, fuseBad := false }

/-- A firmware image with an empty body. -/
def img0 : Tbl Byte :=
  [(0, 0x57), (1, 0x46), (2, 0x33), (3, 0x4D)] ++ (List.range 64).map (fun i => (20 + i, (padTo 64 (Config.sha512 [])).getD i 0))

/-- `act` with its slot changed. -/
def actC (f : Ctx → Ctx) : State := onM act (fun m => modCtx m 1 f)

/-- A slot without blocks. -/
def bare (x : Ctx) : Ctx := { x with par := { x.par with blocks := [] } }

/-- An OUT entry of slot 1 onto module 1. -/
def wOut : WayEnt := { noWay with valid := true, size := 2, read := true, write := true, atomic := true, advance := true, module := 1, owner := 4097 }

/-- A state on a network: this module is 0, and slot 1 reaches module 1. -/
def net (s : State) : State := onM s (fun m => { m with fab := { m.fab with module := some 0, waymap := [(7, wOut)] } })

/-- A waybill of stream 1 on array 0. -/
def wb0 (items : List Item) : WaybillD := { noWaybill with stream := 1, banks := [0, 0, 0, 0, 0, 0], body := items }
/-- An image of waybills. -/
def img1 (ws : List WaybillD) : Image :=
  { bytes := 128, tOff := 0, tensors := [], decls := [], waybills := ws, weights := [1, 1, 1], step := true, deadline := 0, runs2 := false }
/-- A run in flight. -/
def run0 : RunSt :=
  { run := 0, started := true, built := true, step := 0, seq := 0, startNs := 0, startedWbs := [], doneWbs := [], halted := false, code := 0,
    failWb := 0, flags := 0, tiles := [], sets := [], ended := false }
/-- A posted manifest. -/
def man1 (i : Image) (rs : List RunSt) : ManSt :=
  { gen := 1, order := 0, img := i, launched := 1, nextRun := 0, runs := rs, halted := false, retiring := none, late := [], place := 0 }
/-- `act` with a posted manifest in slot 0. -/
def withMan (q : ManSt) : State := actC (fun x => { x with mans := [(0, some q)] })
/-- A running waybill. -/
def rw0 (items : List Item) : RunWb :=
  { ctx := 1, man := 0, run := 0, wb := 0, stream := 1, seedWb := 0, step := 0, items := items.map (fun _ => .waiting), vregs := 0, regs := [],
    gens := [], flags := 0, code := 0, seq := none, startNs := 0 }
/-- The manifest of `busy`. -/
def manB (items : List Item) : ManSt := man1 (img1 [wb0 items]) [{ run0 with startedWbs := [0] }]
/-- Block 0 running a waybill of slot 1. -/
def busy (items : List Item) : State :=
  onM (withMan (manB items)) (fun m => modBlk m 0 (fun b => { b with seq := { b.seq with holder := some 1, running := [rw0 items] } }))
/-- Changed in block 0. -/
def onB (s : State) (f : Blk → Blk) : State := onM s (fun m => modBlk m 0 f)

/-- The bytes of a manifest image: one waybill, whose body is a BARRIER. -/
def manBytes : List Byte :=
  let b := w4 [0x4D334D46] ++ w2 [1, 64] ++ w4 [128, 0, 0, 0, 0, 0, 1, 64, 0, 0, 96, 32] ++ w1 [1, 1, 1, 0] ++ w4 [0] ++
    w4 [0x400, 0, 0, 0xFFFFFFFF, 0, 32, 0, 0] ++ w1 [8, 0] ++ w2 [2] ++ zs 12 ++ zs 16
  spliceBytes b 12 (leBytes 4 (crc32c b))

/-- A park image of a slot. -/
def park0 (c : Nat) (p : CtxPar) : ParkImg :=
  { slot := c, ctx := { ctxReset with st := .parked, gen := 1, par := p }, blks := [], banks := [], store := [], ms := [], record := [], convs := [], chans := [] }

/-- Whether a check answers. -/
def okB {ε α : Type} (x : Except ε α) : Bool := match x with | .ok _ => true | .error _ => false
theorem ok_of {ε α : Type} {x : Except ε α} (h : okB x = true) : ∃ a, x = .ok a := by
  cases x with
  | ok a => exact ⟨a, rfl⟩
  | error _ => cases h

theorem some_of {α : Type} {x : Option α} (h : x.isSome = true) : ∃ a, x = some a := Option.isSome_iff_exists.mp h

/-- A state in which slot 1 reaches this module's own near tier. -/
def own (s : State) : State := onM s (fun m => { m with fab := { m.fab with module := some 0, waymap := [(7, { wOut with module := 0 })] } })

/-- A serving configuration. -/
def conf0 : ServConf := { man := 0, perPage := 1, stepBuf := 0, ptrTable := 0, binds := [], privates := [] }
/-- `act` with cargo set 4095. -/
def crg (g : CargoSet) : State := onM act (fun m => { m with cargo := [(4095, g)] })
/-- A request that waits for its response. -/
def out0 (h : Holder) (op : Nat) : OutReq :=
  { tag := 5, holder := h, opcode := op, ctx := 1, man := 0, run := 0, wb := 0, virt := 0, len := 32, issued := 0 }
/-- A state with requests out. -/
def outs (s : State) (l : List OutReq) : State := onM s (fun m => { m with fab := { m.fab with out := l } })
/-- An ordered window. -/
def ow0 : OrdWin :=
  { ctx := 1, target := 0, bytes := 2048, fmt := 0, closeMs := 0, closeTarget := 0, doneMs := 1, logAddr := 0, nMax := 0, closing := false, shares := [], log := [] }
/-- A cargo repair. -/
def rep0 : Repair := { ctl := 0, set := 4095, tile := 0, source := 0, tag := 5, started := 0, got := [], bad := [], held := [] }
/-- A tile summary. -/
def sum0 : TileSum := { watch := 16383, ctx := 1, step := 0, elements := 1, zeros := 0, saturated := 0, nonfinite := 0, underflow := 0, amax := 0 }
/-- An end-of-run marker. -/
def mark0 : Marker := { ctx := 1, step := 0, man := 0, run := 0, p := 0 }
/-- Changed in the assayer. -/
def onA (s : State) (f : AssS → AssS) : State := onM s (fun m => { m with ass := f m.ass })
/-- Changed in the tiers. -/
def onT (s : State) (f : TierS → TierS) : State := onM s (fun m => { m with tier := f m.tier })

/-- `own` with its entry fit for a cargo set, and an IN entry that admits it. -/
def ownCargo (s : State) : State := onM s (fun m => { m with fab := { m.fab with module := some 0, waymap :=
  [(7, { wOut with module := 0, cargo := true }), (9, { wOut with isIn := true, cargo := true })] } })

/-- A packet from module 1 for slot 1 of this module. -/
def pkt0 (op addr : Nat) (data : List Byte) : Packet :=
  { opcode := op, keyed := false, saturated := false, poison := [], cls := 2, ordered := true, relaxed := false, length := data.length, src := 1,
    dst := 0, addr := addr, membership := 0, peer := 4097, epoch := 0, sequence := 0, subcode := 1, srcSlot := 0, tag := 0, data := data }
/-- A state in which a packet has been released. -/
def rel (s : State) (p : Packet) : State := onM s (fun m => { m with fab := { m.fab with released := [p] } })

/-- The bytes of a convoy record of modules 0 and 1. -/
def convBytes : List Byte := w2 [1, 4097] ++ w4 [0] ++ w2 [2, 0] ++ w1 [1, 0] ++ w2 [0] ++ zs 16 ++ w2 [0, 4097, 1, 4097]
/-- The bytes of a collective descriptor. -/
def collBytes (op : Nat) : List Byte :=
  w1 [op, 0, 12, 0] ++ w2 [0, 0] ++ w4 [0, 1] ++ w2 [1, 1] ++ zs 4 ++ w4 [1, 0, 0, 0, 65536, 0, 0] ++ zs 12
/-- A running collective. -/
def coll0 : Coll :=
  { d := 0, occ := 0, op := 0, layout := 0, acc := [], copied := [], opened := 1, seen := [], granted := [], sent := [], gave := [0], loads := [], writes := [], stepsLanded := 0, stepsDone := 1 }
/-- Convoy slot 63 in a state, with a schedule of one collective. -/
def conv0 (st op : Nat) (c : Option Coll) : ConvSlot := { convReset with st := st, rc := convRecOf convBytes, sched := [collOf (collBytes op)], coll := c }
/-- A state with that convoy. -/
def cvs (x : ConvSlot) : State := onM (net act) (fun m => { m with conv := { m.conv with slots := [(63, x)] }, ms := [(0, { noMs with value := 1 })] })

/-- The halves of a channel with module 1. -/
def sendH : ChSend := { array := 3, window := 15, peerM := 1, peerC := 0, unit := 2048, timeout := 1, credits := 0, sent := 0 }
/-- The receiving half. -/
def recvH : ChRecv :=
  { array := 3, window := 15, peerM := 1, peerC := 0, unit := 2048, min := 1, quota := 1, timeout := 1, out := 0, held := [], parts := [], next := 0, credited := 0 }
/-- A state with channel 4095, and window 15 of block 3 a RING of one page holding `tail` bytes. -/
def chn (x : Chan) (tail : Nat) : State :=
  onM (net act) (fun m => modBlk { m with conv := { m.conv with chans := [(4095, x)] } } 3
    (fun b => { b with sp := { b.sp with wins := [(15, { enable := true, ring := true, ctx := 1, size := 1, base := 0, head := 0, tail := tail })] } }))

/-- The source side of a twin, its partner on module 1. -/
def src0 : TwinSrc :=
  { peerM := 1, peerH := 4097, timeout := 200, journal := 2048, depth := 2, ranges := 0, tiles := [], dirty := [], commit := none, tag := none }
/-- A state with it, changed. -/
def twS (f : ElSt → ElSt) : State := net (actC (fun x => { x with el := f { x.el with src := some src0 } }))
/-- The twin side. -/
def reg0 : TwinReg :=
  { ctx := 4097, peerM := 1, peerH := 4097, depth := 2, copy := 0, bytes := 2048, journal := 0, jbytes := 2048, undo := 0, last := some 0, inHand := [], undos := [] }
/-- The registration of `test_TwinCommands_met`. -/
def reg1 : TwinReg :=
  { ctx := 4097, peerM := 8191, peerH := 4097, depth := 2, copy := 0, bytes := 2048, journal := 0x100000, jbytes := 2048, undo := 0x200000, last := none,
    inHand := [], undos := [] }
/-- A state with it. -/
def twR : State := onM (net act) (fun m => { m with twins := [(0, some reg0)] })
/-- A commit on its way. -/
def com0 : Commit := { step := 0, tiles := 0, resync := false }
/-- A restore in progress. -/
def res0 : Restore := { peerM := 1, step := 0, counter := 1, tag := 5, got := [] }

/-- Changed in its power state. -/
def onP (s : State) (f : PwrS → PwrS) : State := onM s (fun m => { m with pwr := f m.pwr })
/-- Changed in its reset state. -/
def onR (s : State) (f : RstS → RstS) : State := onM s (fun m => { m with rst := f m.rst })
/-- A module in P4. -/
def inP4S : State := onP run (fun p => { p with boot := .standby, st := 4 })
/-- A module under a D2 session of full scope. -/
def dbg : State := onS run (fun c => { c with session := some { level := 2, ends := none, scope := 31 } })
/-- A module whose responder has come as far as `v`, with its identity key. -/
def spd (v : Spdm) : State := onS run (fun c => { c with keys := true, spdmHost := v })
/-- What a quiet round finds. -/
def r0 : RoundFacts := { energy := 0, watts := 0, die := [], stackT := [], margins := [], cmds := [] }
/-- A reset in progress. -/
def job0 (rung dom : Nat) : RstJob :=
  { rung := rung, first := rung, domain := dom, origin := dom, trigger := 0, requested := false, tags := [], dump := 1, stamp := noStamp, units := [] }
/-- A state with it. -/
def jobS (j : RstJob) : State := onR run (fun r => { r with jobs := [j] })

/-- An operand side. -/
def side0 : ArraySide := { base := 0, kstride := 0, tstride := 0, scale := 0 }
/-- An array operation on group 0 that opens it with a code. -/
def aop (op : Nat) : ArrayOp :=
  { pairing := 0, shA := false, shB := false, shape := 0, wide := 0, base := 0, opens := [op], k := 1, rows := [32], a := side0, b := side0, loadBase := 0 }
/-- A drain of group 0. -/
def dop : DrainOp :=
  { groups := [0], outFmt := 0, stochastic := false, col := false, mv := 32, nv := 32, ca := 0, cb := 0, co := 0, lineStride := 0, dstScale := 0,
    dst := [0], tiles := [0] }
/-- A group that slot 1 has open. -/
def open0 : Group := { freeGroup with st := .opened, ctx := 1, stream := 1 }
/-- `busy` with group 0 open. -/
def busyG (items : List Item) : State := onB (busy items) (fun b => { b with arr := { b.arr with groups := [(0, open0)] } })
/-- The reference of item 0 of the running waybill of `busy`. -/
def ref0 : ItemRef := { ctx := 1, man := 0, run := 0, wb := 0, item := 0, stream := 1 }
/-- A drain in the drain unit. -/
def djob : DrainJob := { ref := ref0, op := dop, ca := 0, cb := 0, co := 0, seedWb := 0, stop := none, live := [0] }
/-- A stream of one element. -/
def strm (off : Nat) : StreamD :=
  { fmt := 0, stripe := 0, viaWindow := false, window := 0, offset := off, length := 1, lenReg := false, lenV := 0, lenWord := 0 }
/-- An addition of one element. -/
def vop : VecOp :=
  { opcode := 1, rounding := 0, accFmt := 0, indexMode := 0, subop := 0, ra := 0, raForm := 0, rb := 0, rbForm := 0, period := 1, param0 := 0, param1 := 0,
    ins := [strm 0, strm 0x20000], outs := [strm 0x40000], remote := none }
/-- A move of 128 bytes into window 15, or beside it. -/
def dsc (win : Bool) : PmDesc :=
  { fill := false, elemSize := 4, sh16 := false, relaxed := false, srcG32 := false, dstG32 := false, srcRow := 0, srcChan := 0, dstRow := 0, dstChan := 0,
    src := { space := 0, window := 0, base := 0 }, dst := { space := if win then 1 else 0, window := 15, base := 0 },
    srcScale := { space := 0, window := 0, base := 0 }, dstScale := { space := 0, window := 0, base := 0 },
    dims := [{ perm := 0, padMode := 0, extent := 32, srcStride := 4, dstStride := 4, extLo := 0, extHi := 0, roomLo := 0, roomHi := 0, dstOrigin := 0, srcOrigin := 0 }],
    padValue := 0, boxTensor := 0 }
/-- A full RING window of one page. -/
def ringFull : Win := { enable := true, ring := true, ctx := 1, size := 1, base := 0, head := 0, tail := 2048 }
/-- A running vector operation. -/
def vrun : VeRun := { ref := ref0, opcode := 1, tags := [], rows := [], todo := [], fmt := 0, poisoned := false, nf := [], frame := [], code := 0, ringStall := false }
/-- A descriptor whose lanes have been moved. -/
def flt : Flight := { flightOf act.m blkReset (rw0 [.premutar (dsc false)]) 0 (dsc false) with moved := true, sending := true }
/-- Block 0 of `act` with every bank owned by a master. -/
def banks (o : Nat) : State := onB act (fun b => { b with sp := { b.sp with owner := List.replicate 6 o } })
/-- A request at a bank port. -/
def bq0 : BankReq := { master := 1, ctx := 1, stream := 1, off := 0, len := 8, data := none, aliasOp := none, viaAlias := false, waited := 0 }
/-- A vector operation's arguments. -/
def varg : VArgs := { m := act.m, p := 0, w := rw0 [.vector vop], op := vop, ix := 0, ins := [], outs := [], cut := none }
/-- Whether an operation starts. -/
def goes (r : VeStart) : Bool := match r with | .go _ => true | _ => false
theorem go_of {r : VeStart} (h : goes r = true) : ∃ a, r = .go a := by
  cases r with
  | go a => exact ⟨a, rfl⟩
  | _ => cases h

/-- Link 17 up. -/
def lnk (f : LinkS → LinkS) : State :=
  onM (net act) (fun m => modLink m 17 (fun l => f { l with st := .up, lanes := [0, 1, 2, 3], tolls := [100, 100, 100] }))
/-- Changed in the fabric. -/
def onF (s : State) (f : FabS → FabS) : State := onM s (fun m => { m with fab := f m.fab })
/-- The bytes of a flit that carries nothing. -/
def flit0 : List Byte := zs 248 ++ leBytes 8 (crc64 (zs 248))
/-- A state whose slot 1 admits module 1. -/
def adm : State :=
  onM (actC (fun x => { x with mem := { x.mem with members := [1] } })) (fun m => { m with
    fab := { m.fab with module := some 0, waymap := [(7, { wOut with isIn := true, module := 0 })] }
    ms := [(0, { noMs with owner := 4097, declared := true, remote := true })] })
/-- The state a command leaves. -/
def nextOf (o : Host.Outcome State Fault Refusal) : State := match o with | .next t => t | _ => State.reset
/-- A commit of a slot with a higher security version. -/
def fwS : State := onNv run (fun n => { n with slots := [{ fwEmpty with st := .active, secVer := 1 }, fwEmpty] })
/-- An enrolment. -/
def enrol : Req := mk 0x602 .board 0 (w4 [0] ++ w4 [128] ++ zs 508 ++ w4 [65537])
/-- A move to RETURN whose contexts are gone. -/
def retS : State := onG run (fun g => { g with ops := [lop 0x607 2 none] })

/-- Whether a check lets a request on. -/
def good (k : K Unit) : Bool := match k with | .ok _ => true | .error _ => false

theorem good_ok {k : K Unit} (h : good k = true) : k = .ok () := by
  cases k with
  | ok _ => rfl
  | error _ => cases h

theorem passes_of {op mask : Nat} {u : HandleUse} {lenOk : List Byte → Bool} {resv : List Byte → List (Nat × Nat)} {r : Req} {s : State}
    (h : ((frontGate s.nv s.m op r).isNone && good (checkReq s.m op mask lenOk resv r) && good (checkObj s.nv s.m op mask u r)) = true) :
    Passes op mask u lenOk resv r s := by
  simp only [Bool.and_eq_true, Option.isNone_iff_eq_none] at h
  exact ⟨h.1.1, good_ok h.1.2, good_ok h.2⟩

theorem padTo_length (n : Nat) (l : List Byte) : (padTo n l).length = n := by
  simp [padTo]; omega

/-- An image whose digest field holds the digest of its empty body verifies. -/
theorem staged_ok : verifyStatus nvReset { fwEmpty with st := .staged, image := img0 } true = 0 := by
  have key : imageBytes { fwEmpty with st := .staged, image := img0 } 20 64 = padTo 64 (Config.sha512 []) := by
    have h1 : imageBytes { fwEmpty with st := .staged, image := img0 } 20 64
        = (List.range 64).map (fun i => (padTo 64 (Config.sha512 [])).getD i 0) := by rfl
    rw [h1]
    have hl := padTo_length 64 (Config.sha512 [])
    apply List.ext_getElem
    · simp [hl]
    · intro i _ h2
      simp [List.getD_eq_getElem?_getD, h2]
  have h0 : recNat (imageBytes { fwEmpty with st := .staged, image := img0 } 0 1024) 0 4 = 0x4D334657 := by rfl
  have hb : recNat (imageBytes { fwEmpty with st := .staged, image := img0 } 0 1024) 16 4 = 0 := by rfl
  simp only [verifyStatus, h0, hb, key]
  simp [imageBytes, nvReset]

/-- A park whose image is about to be written. -/
def parkK : ParkSt := { image := 0, tag := 5, quiesced := true }
/-- The state it stands in. -/
def parkS : State := net (actC (fun x => { bare x with el := { x.el with park := some parkK } }))

/-- The image that the bytes of `manBytes` hold, and the slot it is posted in. -/
def post0 : Except Nat (Image × Nat) :=
  match readImage manBytes with
  | .ok i => (match checkPost (net act).m 1 i with | .ok k => .ok (i, k) | .error _ => .error 0)
  | .error e => .error e
theorem post_ok {i : Image} {k : Nat} (h : post0 = .ok (i, k)) : readImage manBytes = .ok i ∧ checkPost (net act).m 1 i = .ok k := by
  unfold post0 at h
  split at h
  · split at h
    · cases h; exact ⟨by assumption, by assumption⟩
    · cases h
  · cases h

/-- The image can be written to where it goes. -/
theorem park_sent : ∃ m1 b, fabWrite (freeStep (settle parkS.m 1) (imageSize (imageOf (settle parkS.m 1) 1) - 64)) (unitRef 1) (.sequence 1)
    (parkK.image + 64) (freeBytes (settle parkS.m 1) (imageSize (imageOf (settle parkS.m 1) 1) - 64)) [] = .ok m1 [] [] b := by
  apply fabWrite_sent
  have hl : (freeBytes (settle parkS.m 1) (imageSize (imageOf (settle parkS.m 1) 1) - 64)).length = imageSize (imageOf (settle parkS.m 1) 1) - 64 := by
    simp [freeBytes]
  rw [hl]
  have key : ((fabPieces (freeStep (settle parkS.m 1) (imageSize (imageOf (settle parkS.m 1) 1) - 64)) 1 (parkK.image + 64)
      (imageSize (imageOf (settle parkS.m 1) 1) - 64)).all (fun q => decide (32 ≤ q.2) &&
      match translate (freeStep (settle parkS.m 1) (imageSize (imageOf (settle parkS.m 1) 1) - 64)) 1 (if q.2 ≤ 64 then 0x02 else 0x03) q.1 q.2 with
      | .ok e _ => (freeStep (settle parkS.m 1) (imageSize (imageOf (settle parkS.m 1) 1) - 64)).fab.module != some e.module
      | .fault _ => false)) = true := by decide +kernel
  intro q hq
  have h := List.all_eq_true.mp key q hq
  rw [Bool.and_eq_true, decide_eq_true_eq] at h
  obtain ⟨h0, h⟩ := h
  refine ⟨h0, ?_⟩
  split at h
  · rename_i e phys he
    exact ⟨e, phys, he, by simpa using h⟩
  · cases h

/-- A chunk that the first step of the collective takes. -/
theorem fits_of {st : CStep} (h : (collSteps (convRecOf convBytes) (collOf (collBytes 2)))[0]? = some st) :
    cdataFits coll0 st (pkt0 0x21 (65536 + 1) (zs 32)) = true := by
  have key : ((collSteps (convRecOf convBytes) (collOf (collBytes 2)))[0]?).all (fun st => cdataFits coll0 st (pkt0 0x21 (65536 + 1) (zs 32))) = true := by
    decide +kernel
  rw [h] at key; exact key

/-- A step that ended, to be sent to the twin. -/
def comS : State :=
  net (actC (fun x => { x with mans := [(0, some (man1 (img1 [wb0 []]) [{ run0 with doneWbs := [0], startedWbs := [0], ended := true }]))],
                               el := { x.el with src := some src0 } }))

/-- A TWIN_SET of one range. -/
def twReq : Req := mk 0x080D .host 4097 (w2 [8191, 4097] ++ w4 [1000, 0x200000, 0, 1, 0, 0, 0, 2048, 0])

/-- A certificate chain answers from its first bytes. -/
theorem chain_long : 3 < (spdmChain run.nv).length := by
  simp only [spdmChain, List.length_append, padTo_length]; omega

/-- A vector operation that waits on a window and may start. -/
def vst : State := onB (busy [.vector vop]) (fun b => { b with ve := { b.ve with running := some { vrun with ringStall := true } } })
theorem stall_of {a : VArgs} (h : veStart 0 vst.m (rw0 [.vector vop]) 0 vop none = .go a) :
    (getBlk (veApply a (vecBody vop a)) 0).pm.stalled = none := by
  have hb : (match veStart 0 vst.m (rw0 [.vector vop]) 0 vop none with
    | .go a => (getBlk (veApply a (vecBody vop a)) 0).pm.stalled.isNone
    | _ => false) = true := by decide +kernel
  rw [h] at hb
  exact Option.isNone_iff_eq_none.mp hb

/-- `run` at a time at which a bucket holds something. -/
def late (s : State) : State := onM s (fun m => { m with time := { m.time with counter := 1000000000 } })
/-- `run` with region 0 cordoned. -/
def cordR : State := onM run (fun m => { m with rgns := [(0, { getRgn m 0 with cordon := true })] })
/-- A cargo tile under repair at address 0. -/
def rpr : State := onM (crg { cargoReset with st := 2, pages := [0] }) (fun m => { m with tier := { m.tier with repairs := [rep0] } })
/-- The descriptor that block 0 of `s` may issue. -/
def nextPm (s : State) (d : PmDesc) : Flight :=
  flightOf (noteHolds s.m 0 (rw0 [.premutar d])) (getBlk (noteHolds s.m 0 (rw0 [.premutar d])) 0) (rw0 [.premutar d]) 0 d
/-- A flit that was sent. -/
def sent0 : SentFlit := { seq := 0, body := [], pks := [] }
/-- A module whose reorder buffer has room for its contexts' members alone. -/
def full : State := onM (actC (fun x => { x with mem := { x.mem with members := (List.range 4096).reverse } })) (fun m =>
  { m with fab := { m.fab with reorder := List.replicate 4 { pkt0 1 0 [] with src := 8000 } } })

/-! ### Witnesses: a state and operands that meet the hypotheses of each clause of each statement -/

/-- What the clauses of `Obligations.PowerAndService` suppose can be met. -/
theorem test_PowerAndService_met :
    (∃ s : State, ∃ r, Passes 0x0401 aB .none (lenIs 4) noResv r s ∧ 1600 ≤ pf r 0 4) ∧
    (∃ s : State, ∃ r, Passes 0x0402 aB .none (lenIs 4) noResv r s ∧ 200 ≤ pf r 0 4 ∧ pf r 0 4 % 25 = 0) ∧
    (∃ s : State, ∃ r, Passes 0x0403 aB .none (lenIs 4) (resvAt [(1, 3)]) r s ∧ pf r 0 1 ≠ 1 ∧ pf r 0 1 ≤ 3 ∧ ((s.m.rst.oos = true → 3 ≤ pf r 0 1)) ∧ pf r 0 1 ≠ s.m.pwr.st ∧ mayEnter s.m (pf r 0 1) = true) ∧
    (∃ s : State, ∃ r, Passes 0x0403 aB .none (lenIs 4) (resvAt [(1, 3)]) r s ∧ pf r 0 1 = 4 ∧ s.m.pwr.st ≠ 4 ∧ mayEnter s.m 4 = true) ∧
    (∃ s : State, ∃ r, Passes 0x0701 (aH + aB) .none (lenIs 8) (resvAt [(1, 1), (6, 2)]) r s ∧ pf r 0 1 = 5 ∧ unitExists (pf r 2 4) = true) ∧
    (∃ s : State, ∃ r, Passes 0x0702 aB .none (lenIs 4) (resvAt [(1, 1)]) r s ∧ 2 ≤ pf r 0 1 ∧ pf r 0 1 ≤ 16 ∧ 1 ≤ pf r 2 2 ∧ pf r 2 2 ≤ 168) ∧
    (∃ s : State, ∃ r, Passes 0x0703 aB .none (lenIs 0) noResv r s ∧ s.m.rst.oos = true) ∧
    (∃ s : State, ∃ r, Passes 0x0704 aB .none (lenIs 4) (resvAt [(1, 3)]) r s ∧ pf r 0 1 ≤ 100 ∧ s.m.rst.oos = true) ∧
    (∃ s : State, ∃ r, Passes 0x0704 aB .none (lenIs 4) (resvAt [(1, 3)]) r s ∧ pf r 0 1 ≤ 100 ∧ s.m.rst.oos = false) ∧
    (∃ s : State, ∃ r, Passes 0x0705 aB .none (lenIs 4) (resvAt [(1, 1)]) r s ∧ 1 ≤ pf r 0 1 ∧ pf r 0 1 ≤ 100 ∧ 1 ≤ pf r 2 2 ∧ pf r 2 2 ≤ 36000) ∧
    (∃ s : State, ∃ r, Passes 0x0706 aB .none (lenIs 4) noResv r s ∧ 1024 ≤ pf r 0 4 ∧ pf r 0 4 ≤ 16777215) :=
  ⟨⟨run, (mk 0x0401 .board 0 (w4 [5000])), passes_of (by decide +kernel), by decide +kernel⟩,
   ⟨run, (mk 0x0402 .board 0 (w4 [200])), passes_of (by decide +kernel), by decide +kernel⟩,
   ⟨run, (mk 0x0403 .board 0 (w4 [2])), passes_of (by decide +kernel), by decide +kernel⟩,
   ⟨run, (mk 0x0403 .board 0 (w4 [4])), passes_of (by decide +kernel), by decide +kernel⟩,
   ⟨run, (mk 0x0701 .host 0 (leBytes 2 5 ++ leBytes 4 (unitBlk 1 0) ++ zs 2)), passes_of (by decide +kernel), by decide +kernel⟩,
   ⟨run, (mk 0x0702 .board 0 (leBytes 2 16 ++ leBytes 2 168)), passes_of (by decide +kernel), by decide +kernel⟩,
   ⟨(onM run (fun m => { m with rst := { m.rst with oos := true } })), (mk 0x0703 .board 0 ([])), passes_of (by decide +kernel), by decide +kernel⟩,
   ⟨(onM run (fun m => { m with rst := { m.rst with oos := true } })), (mk 0x0704 .board 0 (w4 [100])), passes_of (by decide +kernel), by decide +kernel⟩,
   ⟨run, (mk 0x0704 .board 0 (w4 [0])), passes_of (by decide +kernel), by decide +kernel⟩,
   ⟨run, (mk 0x0705 .board 0 (leBytes 2 1 ++ leBytes 2 36000)), passes_of (by decide +kernel), by decide +kernel⟩,
   ⟨run, (mk 0x0706 .board 0 (w4 [1024])), passes_of (by decide +kernel), by decide +kernel⟩⟩

/-- What the clauses of `Obligations.ReadCommands` suppose can be met. -/
theorem test_ReadCommands_met :
    (∃ s : State, ∃ r, Passes 0 (aH + aB + aD) .none (lenIs 0) noResv r s) ∧
    (∃ s : State, ∃ r, Passes 0x0404 (aH + aB + aD) .none (lenIs 0) noResv r s) ∧
    (∃ s : State, ∃ r, Passes 0x0504 (aH + aB + aD) .none (lenIs 0) noResv r s) ∧
    (∃ s : State, ∃ r, Passes 0x0601 (aH + aB + aD) .none (lenIs 0) noResv r s) ∧
    (∃ s : State, ∃ r, Passes 0x0608 (aH + aB + aD) .none (lenIs 8) noResv r s ∧ pf r 4 4 ≤ 4064) ∧
    (∃ s : State, ∃ r, Passes 0x0708 (aH + aB + aD) .none (lenIs 0) noResv r s) ∧
    (∃ s : State, ∃ r, Passes 0x0302 (aH + aB + aD) .none (lenIs 12) noResv r s ∧ 1 ≤ pf r 8 4 ∧ pf r 8 4 ≤ 63) ∧
    (∃ s : State, ∃ r, ∃ n : Nat, Passes 0x0302 (aH + aB + aD) .none (lenIs 12) noResv r s ∧ pf r 8 4 = 1 ∧ n = pf r 0 8 ∧ (logAt s.m n).isSome = true) ∧
    (∃ s : State, ∃ r, ∃ d, Passes 0x0303 (aH + aB + aD) .none (lenIs 12) noResv r s ∧ s.m.mgmt.dumps.find? (fun d => d.num == pf r 0 4) = some d ∧ pf r 8 4 ≤ 4064 ∧ pf r 4 4 + pf r 8 4 ≤ 256 + 1024 * d.units.length ∧ ((s.m.mgmt.dumps.getLast?.map (·.num) = some (pf r 0 4) ∨ rdPoison s.m (dumpSlot (pf r 0 4) + pf r 4 4) (pf r 8 4) = false))) ∧
    (∃ s : State, ∃ r, ∃ d, Passes 0x0303 (aH + aB + aD) .none (lenIs 12) noResv r s ∧ s.m.mgmt.dumps.find? (fun d => d.num == pf r 0 4) = some d ∧ pf r 8 4 ≤ 4064 ∧ pf r 4 4 + pf r 8 4 ≤ 256 + 1024 * d.units.length ∧ s.m.mgmt.dumps.getLast?.map (·.num) = some (pf r 0 4) ∧ rdPoison s.m (dumpSlot (pf r 0 4) + pf r 4 4) (pf r 8 4) = false) ∧
    (∃ s : State, ∃ r, ∃ p, Passes 0x0304 (aH + aB + aD) .none (lenIs 8) (resvAt [(1, 1)]) r s ∧ pf r 0 1 ≤ 3 ∧ pf r 2 2 < 1024 ∧ pf r 4 4 < 16 ∧ physOf s.m (pf r 2 2) = some p) ∧
    (∃ s : State, ∃ r, Passes 0x0301 (aH + aB) .standing (lenIs 0) noResv r s) ∧
    (∃ s : State, ∃ r, Passes 0x0207 (aH + aD) .standing (lenIs 8) noResv r s ∧ pf r 0 4 < (getCtx s.m (slotOf r)).par.seqEntries ∧ 1 ≤ pf r 4 4 ∧ pf r 4 4 ≤ 63 ∧ pf r 0 4 + pf r 4 4 ≤ (getCtx s.m (slotOf r)).par.seqEntries) ∧
    (∃ s : State, ∃ r, ∃ k, ∃ e, Passes 0x0805 (aH + aD) .optLive (lenIs 12) (resvAt [(2, 2)]) r s ∧ r.handle ≠ 0 ∧ pf r 0 1 ≤ 1 ∧ pf r 1 1 ≤ 2 ∧ addrOk (pf r 4 8) = true ∧ s.m.fab.waymap.find? (fun e => e.2.valid && e.2.isIn == (pf r 0 1 == 1) && e.2.size == pf r 1 1 && e.2.base == pf r 4 8 / segBytes (pf r 1 1) * segBytes (pf r 1 1) && ((pf r 0 1 == 1) || e.2.owner / 4096 == slotOf r)) = some (k, e)) :=
  ⟨⟨run, (mk 0x0000 .host 0 ([])), passes_of (by decide +kernel)⟩,
   ⟨run, (mk 0x0404 .host 0 ([])), passes_of (by decide +kernel)⟩,
   ⟨run, (mk 0x0504 .board 0 ([])), passes_of (by decide +kernel)⟩,
   ⟨run, (mk 0x0601 .host 0 ([])), passes_of (by decide +kernel)⟩,
   ⟨run, (mk 0x0608 .host 0 (w4 [0, 4064])), passes_of (by decide +kernel), by decide +kernel⟩,
   ⟨run, (mk 0x0708 .board 0 ([])), passes_of (by decide +kernel)⟩,
   ⟨run, (mk 0x0302 .host 0 (w4 [0, 0, 63])), passes_of (by decide +kernel), by decide +kernel⟩,
   ⟨(onG run (fun g => { g with log := [(0, { noLog with count := 1 })], logHead := 1 })), (mk 0x0302 .host 0 (w4 [0, 0, 1])), 0, passes_of (by decide +kernel), by decide +kernel⟩,
   ⟨(onG run (fun g => { g with dumps := [{ num := 1, rung := 5, finalRung := 5, domain := 0, trigger := 0, stamp := noStamp, collectNs := 0, resetNs := 0, units := [] }] })), (mk 0x0303 .host 0 (w4 [1, 0, 256])), ({ num := 1, rung := 5, finalRung := 5, domain := 0, trigger := 0, stamp := noStamp, collectNs := 0, resetNs := 0, units := [] }), passes_of (by decide +kernel), by decide +kernel⟩,
   ⟨(onG run (fun g => { g with dumps := [{ num := 1, rung := 5, finalRung := 5, domain := 0, trigger := 0, stamp := noStamp, collectNs := 0, resetNs := 0, units := [] }] })), (mk 0x0303 .host 0 (w4 [1, 0, 256])), ({ num := 1, rung := 5, finalRung := 5, domain := 0, trigger := 0, stamp := noStamp, collectNs := 0, resetNs := 0, units := [] }), passes_of (by decide +kernel), by decide +kernel⟩,
   ⟨run, (mk 0x0304 .host 0 (w1 [3, 0] ++ w2 [3] ++ w4 [15])), 3, passes_of (by decide +kernel), by decide +kernel⟩,
   ⟨act, (mk 0x0301 .host 4097 ([])), passes_of (by decide +kernel)⟩,
   ⟨act, (mk 0x0207 .host 4097 (w4 [0, 4])), passes_of (by decide +kernel), by decide +kernel⟩,
   ⟨(onM act (fun m => { m with fab := { m.fab with waymap := [(7, { noWay with valid := true, owner := 4097 })] } })), (mk 0x0805 .host 4097 (w4 [0, 0, 0])), 7, ({ noWay with valid := true, owner := 4097 }), passes_of (by decide +kernel), by decide +kernel⟩⟩

/-- What the clauses of `Obligations.HostPlane` suppose can be met. -/
theorem test_HostPlane_met :
    (∃ s : State, ∃ v, s.m.pcie.linkUp = true ∧ s.m.mgmt.hostRing.lost = 0 ∧ (BitVec.ofNat 32 v - s.m.mgmt.hostRing.ack).toNat ≤ (s.m.mgmt.hostRing.head - s.m.mgmt.hostRing.ack).toNat) ∧
    (∃ s : State, ∃ v, ∃ whole, s.m.pcie.linkUp = true ∧ s.m.mgmt.hostRing.lost = 0 ∧ ((whole = false ∨ (s.m.mgmt.hostRing.head - s.m.mgmt.hostRing.ack).toNat < (BitVec.ofNat 32 v - s.m.mgmt.hostRing.ack).toNat))) ∧
    (∃ s : State, ∃ v, ∃ r, r = { s.m.mgmt.hostRing with ack := BitVec.ofNat 32 v } ∧ s.m.pcie.linkUp = true ∧ s.m.mgmt.hostRing.lost ≠ 0 ∧ (BitVec.ofNat 32 v - s.m.mgmt.hostRing.ack).toNat ≤ (s.m.mgmt.hostRing.head - s.m.mgmt.hostRing.ack).toNat ∧ ringRoom r = true) ∧
    (∃ s : State, ∃ v, s.m.pcie.linkUp = true ∧ v < 64 ∧ s.m.mgmt.msixMask.getLsbD v = true ∧ s.m.mgmt.msixPend.getLsbD v = true) ∧
    (∃ s : State, ∃ v, s.m.pcie.linkUp = true ∧ v < 64 ∧ s.m.mgmt.msixMask.getLsbD v = true ∧ s.m.mgmt.msixPend.getLsbD v = false) ∧
    (∃ s : State, ∃ a, ∃ data : List Byte, s.m.pcie.linkUp = true ∧ a + data.length ≤ 0x1000) ∧
    (∃ s : State, ∃ v : Nat, ∃ b : Byte, s.m.pcie.linkUp = true ∧ v < 64 ∧ b.getLsbD 0 = true) ∧
    (∃ s : State, ∃ a, ∃ data : List Byte, s.m.pcie.linkUp = true ∧ (((0x1000 ≤ a ∧ a + data.length ≤ 0x2008) ∨ (0x200C ≤ a ∧ a + data.length ≤ 0x2028) ∨ (0x202C ≤ a ∧ a + data.length ≤ 0x4000) ∨ (0x4400 ≤ a ∧ a + data.length ≤ 0x1400000) ∨ (0x1400100 ≤ a ∧ a + data.length ≤ 0x2000000) ∨ (0x2200000 ≤ a ∧ a < 0x7F000000000)))) ∧
    (∃ s : State, ∃ data : List Byte, ∃ q, q = areaReq s.m ∧ s.m.pcie.linkUp = true ∧ data.length = 4 ∧ (((getMbx s.m .host).st = .idle ∨ (getMbx s.m .host).st = .done)) ∧ s.m.pwr.boot = .running ∧ chipFenced s.m = false) ∧
    (∃ s : State, ∃ data : List Byte, s.m.pcie.linkUp = true ∧ data.length = 4 ∧ (getMbx s.m .host).st = .busy) ∧
    (∃ s : State, ∃ c : Nat, ∃ data : List Byte, s.m.pcie.linkUp = true ∧ c < 16 ∧ data.length = 4) ∧
    (∃ s : State, ∃ data : List Byte, s.m.pcie.linkUp = true ∧ data.length = 4) ∧
    (∃ s : State, ∃ p : Nat, ∃ data : List Byte, p < 1088 ∧ mpStopped s.m = false ∧ regionsOn s.m = true ∧ data.length = 4) ∧
    (∃ s : State, ∃ p : Nat, ∃ n : Nat, ∃ data : List Byte, p < 1088 ∧ n < 16 ∧ mpStopped s.m = false ∧ regionsOn s.m = true ∧ data.length = 4) ∧
    (∃ s : State, ∃ r, Passes 0x0305 aB .none (lenIs 4) noResv r s) :=
  ⟨⟨(onG run (fun g => { g with hostRing := { g.hostRing with head := 3 } })), 3, by decide +kernel⟩,
   ⟨(onG run (fun g => { g with hostRing := { g.hostRing with head := 3 } })), 4, true, by decide +kernel⟩,
   ⟨(onG run (fun g => { g with hostRing := { g.hostRing with head := 3, lost := 2 } })), 3, _, rfl, by decide +kernel⟩,
   ⟨(onG run (fun g => { g with msixPend := BitVec.allOnes 64 })), 63, by decide +kernel⟩,
   ⟨run, 63, by decide +kernel⟩,
   ⟨run, 0xFF0, (zs 16), by decide +kernel⟩,
   ⟨run, 63, 1, by decide +kernel⟩,
   ⟨run, 0x4400, (zs 16), by decide +kernel⟩,
   ⟨run, (zs 4), _, rfl, by decide +kernel⟩,
   ⟨(onM run (fun m => modMbx m .host (fun b => { b with st := .busy }))), (zs 4), by decide +kernel⟩,
   ⟨run, 15, (zs 4), by decide +kernel⟩,
   ⟨run, (zs 4), by decide +kernel⟩,
   ⟨run, 1087, (zs 4), by decide +kernel⟩,
   ⟨run, 1087, 15, (zs 4), by decide +kernel⟩,
   ⟨run, (mk 0x0305 .board 0 (w4 [0])), passes_of (by decide +kernel)⟩⟩

/-- What the clauses of `Obligations.ClearCommands` suppose can be met. -/
theorem test_ClearCommands_met :
    (∃ s : State, ∃ r, Passes 0x0707 aB .none (lenIs 8) (resvAt [(2, 2)]) r s ∧ pf r 4 4 < 8 ∧ pf r 0 1 ≤ 1 ∧ pf r 1 1 < (if pf r 0 1 = 0 then 12 else 16)) ∧
    (∃ s : State, ∃ r, Passes 0x080F (aH + aB) .none (lenIs 4) noResv r s ∧ pf r 0 4 < 1024) ∧
    (∃ s : State, ∃ r, Passes 0x010C aH .active (lenIs 8) (resvAt [(1, 1)]) r s ∧ pf r 0 1 = 4 ∧ pf r 4 4 < 8 ∧ pf r 2 2 < 16384 ∧ (getWatch s.m (pf r 2 2)).st ≠ 0 ∧ (getWatch s.m (pf r 2 2)).ctx = handleOf s.m (slotOf r)) ∧
    (∃ s : State, ∃ r, ∃ p, Passes 0x010C aH .active (lenIs 8) (resvAt [(1, 1)]) r s ∧ pf r 0 1 < 3 ∧ pf r 2 2 < 1024 ∧ pf r 4 4 < 2 ^ classBits (pf r 0 1) ∧ flagTargets s.m (slotOf r) (pf r 2 2) = [(pf r 2 2, p)]) :=
  ⟨⟨run, (mk 0x0707 .board 0 (w1 [1, 15] ++ w2 [0] ++ w4 [7])), passes_of (by decide +kernel), by decide +kernel⟩,
   ⟨run, (mk 0x080F .board 0 (w4 [1023])), passes_of (by decide +kernel), by decide +kernel⟩,
   ⟨(onM act (fun m => { m with ass := { m.ass with watches := [(16383, { watchReset with st := 1, ctx := 4097 })] } })), (mk 0x010C .host 4097 (w1 [4, 0] ++ w2 [16383] ++ w4 [7])), passes_of (by decide +kernel), by decide +kernel⟩,
   ⟨act, (mk 0x010C .host 4097 (w1 [2, 0] ++ w2 [3] ++ w4 [1])), 3, passes_of (by decide +kernel), by decide +kernel⟩⟩

/-- What the clauses of `Obligations.FirmwareCommands` suppose can be met. -/
theorem test_FirmwareCommands_met :
    (∃ s : State, ∃ r, Passes 0x0501 aB .none (fun p => 8 ≤ p.length && p.length == 8 + alignUp (recNat p 4 4) 4) noResv r s ∧ pf r 0 4 = 0 ∧ pf r 4 4 ≤ 4064 ∧ verifying s.m = false) ∧
    (∃ s : State, ∃ r, ∃ f, f = s.nv.slots.getD (otherSlot s.m) fwEmpty ∧ Passes 0x0501 aB .none (fun p => 8 ≤ p.length && p.length == 8 + alignUp (recNat p 4 4) 4) noResv r s ∧ pf r 0 4 ≠ 0 ∧ f.st = .staged ∧ pf r 4 4 ≤ 4064 ∧ pf r 0 4 + pf r 4 4 ≤ 0x4000000 ∧ verifying s.m = false) ∧
    (∃ s : State, ∃ r, ∃ sig, ∃ f, ∃ h, f = s.nv.slots.getD (otherSlot s.m) fwEmpty ∧ h = imageBytes f 0 1024 ∧ Passes 0x0502 aB .none (lenIs 0) noResv r s ∧ verifyStatus s.nv f sig = 0 ∧ f.st = .staged ∧ verifying s.m = false) ∧
    (∃ s : State, ∃ r, Passes 0x0503 aB .none (lenIs 4) (resvAt [(1, 3)]) r s ∧ pf r 0 1 ≤ 1 ∧ (s.nv.slots.getD (otherSlot s.m) fwEmpty).st = .verified ∧ verifying s.m = false) ∧
    (∃ s : State, ∃ r, ∃ a, Passes 0x0505 aB .none (lenIs 0) noResv r s ∧ slotIn s.nv .try_ = none ∧ slotIn s.nv .active = some a) ∧
    (∃ s : State, ∃ f, ∃ g, g = bringUp (failTry s.nv) { s.m with time := { s.m.time with round := 0 } } f ∧ s.m.pwr.boot = .trying) :=
  ⟨⟨run, (mk 0x0501 .board 0 (w4 [0, 4] ++ zs 4)), passes_of (by decide +kernel), by decide +kernel⟩,
   ⟨(onNv run (fun n => { n with slots := [{ fwEmpty with st := .active }, { fwEmpty with st := .staged }] })), (mk 0x0501 .board 0 (w4 [0x3FFFFFC, 4] ++ zs 4)), _, rfl, passes_of (by decide +kernel), by decide +kernel⟩,
   ⟨(onNv run (fun n => { n with slots := [{ fwEmpty with st := .active }, { fwEmpty with st := .staged, image := img0 }] })), (mk 0x0502 .board 0 ([])), true, _, _, rfl, rfl, passes_of (by decide +kernel), staged_ok, by decide +kernel⟩,
   ⟨(onNv run (fun n => { n with slots := [{ fwEmpty with st := .active }, { fwEmpty with st := .verified }] })), (mk 0x0503 .board 0 (w4 [1])), passes_of (by decide +kernel), by decide +kernel⟩,
   ⟨run, (mk 0x0505 .board 0 ([])), 0, passes_of (by decide +kernel), by decide +kernel⟩,
   ⟨(onM run (fun m => { m with pwr := { m.pwr with boot := .trying } })), f0, _, rfl, by decide +kernel⟩⟩

/-- What the clauses of `Obligations.OwnerAndLifecycle` suppose can be met. -/
theorem test_OwnerAndLifecycle_met :
    (∃ s : State, ∃ r, Passes 0x0602 aB .none (fun p => (p.length == 520 && recNat p 0 1 != 1) || (p.length == 1032 && recNat p 0 1 == 1)) (resvAt [(1, 3)]) r s ∧ pf r 0 1 = 0 ∧ s.nv.lifecycle = 1 ∧ s.nv.owner = none ∧ 128 ≤ pf r 4 1 ∧ pf r 516 4 = 65537) ∧
    (∃ s : State, ∃ r, Passes 0x0602 aB .none (fun p => (p.length == 520 && recNat p 0 1 != 1) || (p.length == 1032 && recNat p 0 1 == 1)) (resvAt [(1, 3)]) r s ∧ pf r 0 1 = 1 ∧ s.nv.lifecycle = 1 ∧ s.nv.owner ≠ none ∧ 128 ≤ pf r 4 1 ∧ pf r 516 4 = 65537) ∧
    (∃ s : State, ∃ r, Passes 0x0603 aB .none (lenIs 576) (resvAt [(6, 2), (29, 3), (39, 1), (44, 20)]) r s ∧ pf r 28 1 < 4 ∧ badLevel r.payload = none ∧ 4 ≤ pf r 40 2 ∧ pf r 40 2 ≤ 1024 ∧ 1 ≤ pf r 42 2 ∧ pf r 42 2 ≤ 168 ∧ pf r 0 4 = 0x4D33504C ∧ pf r 4 2 = 1 ∧ ((recZero r.payload 12 16 = true ∨ (r.payload.drop 12).take 16 = padTo 16 s.m.fuse.serial)) ∧ s.nv.owner ≠ none ∧ s.nv.policy.seq.toNat < pf r 8 4) ∧
    (∃ s : State, ∃ r, ∃ sig, ∃ signed, ∃ m0, ∃ m1, ∃ q, signed = (recNat r.payload 0 1 == 2 && tbit s.nv.policy.flags 1) ∧ m0 = (if signed then useToken s.m (r.payload.drop 20) else s.m) ∧ m1 = (match m0.sec.zeroise with | some z => endOp m0 z.tag 0x50 0 | none => m0) ∧ q = newOp m1 r.port 0x0606 (pf r 0 1) ∧ Passes 0x0606 aB .none (fun p => p.length == if recNat p 0 1 == 2 && tbit s.nv.policy.flags 1 then 596 else 20) (resvAt [(1, 3)]) r s ∧ ((signed = true → checkToken s.nv s.m (r.payload.drop 20) 3 0 20 sig = .ok ())) ∧ pf r 0 1 ≤ 2 ∧ (r.payload.drop 4).take 16 = padTo 16 s.m.fuse.serial ∧ ((pf r 0 1 = 2 ∨ s.m.sec.zeroise = none))) ∧
    (∃ s : State, ∃ r, ∃ sig, ∃ tok, ∃ m0, ∃ q, tok = r.payload.drop 4 ∧ m0 = (if tok = [] then s.m else useToken s.m tok) ∧ q = newOp m0 r.port 0x0607 (pf r 0 1) ∧ Passes 0x0607 aB .none (fun p => p.length == 580 || (p.length == 4 && s.nv.lifecycle == 0)) (resvAt [(1, 3)]) r s ∧ lifecycleMove s.nv (pf r 0 1) = .ok () ∧ ((tok ≠ [] → checkToken s.nv s.m tok 2 (pf r 0 1) 4 sig = .ok ())) ∧ pf r 0 1 ≤ 3 ∧ s.m.sec.zeroise = none ∧ moving s.m = false ∧ ((s.nv.lifecycle = 0 ∨ s.m.pwr.st ≠ 3))) :=
  ⟨⟨run, (mk 0x0602 .board 0 (w4 [0] ++ w4 [128] ++ zs 508 ++ w4 [65537])), passes_of (by decide +kernel), by decide +kernel⟩,
   ⟨(onNv run (fun n => { n with owner := some [] })), (mk 0x0602 .board 0 (w4 [1] ++ w4 [128] ++ zs 508 ++ w4 [65537] ++ zs 512)), passes_of (by decide +kernel), by decide +kernel⟩,
   ⟨(onNv run (fun n => { n with owner := some [] })), (mk 0x0603 .board 0 (w4 [0x4D33504C] ++ w2 [1, 0] ++ w4 [1] ++ zs 16 ++ w1 [3, 0, 0, 0] ++ w1 [3, 3, 3, 3, 3, 3, 3, 0] ++ w2 [1024, 168] ++ zs 532)), passes_of (by decide +kernel), by decide +kernel⟩,
   ⟨(onNv run (fun n => { n with owner := some [], policy := { n.policy with flags := 2 } })), (mk 0x0606 .board 0 (w4 [2] ++ zs 16 ++ tok 3 0 1 0 0)), true, _, _, _, _, rfl, rfl, rfl, rfl, passes_of (by decide +kernel), fun _ => good_ok (by decide +kernel), by decide +kernel⟩,
   ⟨(onNv run (fun n => { n with owner := some [] })), (mk 0x0607 .board 0 (w4 [2] ++ tok 2 2 0 0 0)), true, _, _, _, rfl, rfl, rfl, passes_of (by decide +kernel), good_ok (by decide +kernel), fun _ => good_ok (by decide +kernel), by decide +kernel⟩⟩

/-- What the clauses of `Obligations.DebugCommands` suppose can be met. -/
theorem test_DebugCommands_met :
    (∃ s : State, ∃ r, ∃ sig, Passes 0x0604 aD .none (lenIs 576) noResv r s ∧ checkToken s.nv s.m r.payload 1 0 0 sig = .ok () ∧ s.m.pwr.st < 2) ∧
    (∃ s : State, ∃ r, Passes 0x0605 (aB + aD) .none (lenIs 0) noResv r s) ∧
    (∃ s : State, ∃ q, ∃ n, s.m.sec.session = some q ∧ q.ends = some n ∧ n ≤ s.m.time.round.toNat) ∧
    (∃ s : State, ((∀ q, s.m.sec.session = some q → ∀ n, q.ends = some n → s.m.time.round.toNat < n))) ∧
    (∃ s : State, s.m.sec.session ≠ none ∧ s.m.rst.waiting = []) :=
  ⟨⟨run, (mk 0x0604 .debug 0 (tok 1 1 0 1 3)), true, passes_of (by decide +kernel), good_ok (by decide +kernel), by decide +kernel⟩,
   ⟨run, (mk 0x0605 .board 0 ([])), passes_of (by decide +kernel)⟩,
   ⟨(onS run (fun c => { c with session := some { level := 2, ends := some 0, scope := 31 } })), ({ level := 2, ends := some 0, scope := 31 }), 0, by decide +kernel⟩,
   ⟨(onS run (fun c => { c with session := some { level := 2, ends := none, scope := 31 } })), (by intro q h; cases h; nofun)⟩,
   ⟨(onS run (fun c => { c with session := some { level := 2, ends := none, scope := 31 } })), by decide +kernel⟩⟩

/-- What the clauses of `Obligations.LongCommandEnds` suppose can be met. -/
theorem test_LongCommandEnds_met :
    (∃ s : State, ∃ tag, ∃ o, ∃ q, s.m.mgmt.ops.find? (fun o => o.tag == tag) = some o ∧ o.outcome = some q ∧ o.port = .host ∧ ringRoom s.m.mgmt.hostRing = true) ∧
    (∃ s : State, ∃ tag, ∃ o, s.m.mgmt.ops.find? (fun o => o.tag == tag) = some o ∧ o.outcome = none ∧ o.opcode = 0x0606 ∧ allDown s.m = true) ∧
    (∃ s : State, ∃ tag, ∃ o, s.m.mgmt.ops.find? (fun o => o.tag == tag) = some o ∧ o.outcome = none ∧ o.opcode = 0x0607 ∧ allDown s.m = true ∧ s.nv.lifecycle = 1 ∧ o.subject = 2) ∧
    (∃ s : State, ∃ tag, s.m.mgmt.ops.find? (fun o => o.tag == tag) = none) :=
  ⟨⟨(onG run (fun g => { g with ops := [lop 0x103 1 (some (0, 0))] })), 5, (lop 0x103 1 (some (0, 0))), (0, 0), by decide +kernel⟩,
   ⟨(onG run (fun g => { g with ops := [lop 0x606 2 none] })), 5, (lop 0x606 2 none), by decide +kernel⟩,
   ⟨(onG run (fun g => { g with ops := [lop 0x607 2 none] })), 5, (lop 0x607 2 none), by decide +kernel⟩,
   ⟨run, 0, by decide +kernel⟩⟩

/-- What the clauses of `Obligations.ContextCommands` suppose can be met. -/
theorem test_ContextCommands_met :
    (∃ s : State, ∃ r, ∃ c, ∃ g, Passes 0x0101 aH .none (fun p => 60 ≤ p.length && p.length == 60 + 8 * recNat p 52 2) (fun p => (54, 6) :: (List.range (recNat p 52 2)).map (fun i => (60 + 8 * i + 6, 2))) r s ∧ checkPar r (readPar r) = .ok () ∧ grantAll s.m c (readPar r) = .ok g ∧ freeSlot s.m = some c) ∧
    (∃ s : State, ∃ r, Passes 0x0102 (aH + aB) .any (lenIs 0) noResv r s ∧ (getCtx s.m (slotOf r)).st = .active) ∧
    (∃ s : State, ∃ c, (getCtx s.m c).st = .teardown ∧ mpStopped s.m = false) ∧
    (∃ s : State, ∃ r, ∃ rs, rs = readRuns r 4 (pf r 0 4) ∧ Passes 0x0103 aH .active (fun p => 4 ≤ p.length && p.length == 4 + 8 * recNat p 0 4) (fun p => (List.range (recNat p 0 4)).map (fun i => (4 + 8 * i + 6, 2))) r s ∧ checkRuns 4 rs = .ok () ∧ 1 ≤ pf r 0 4 ∧ pf r 0 4 ≤ 500 ∧ ((∀ x ∈ runArrays rs, (physOf s.m x.array).isSome = true ∧ shareOf (getCtx s.m (slotOf r)) x.array = none ∧ maskClash s.m (slotOf r) x = false))) ∧
    (∃ s : State, ∃ r, ∃ as, as = ((List.range (pf r 4 4)).map (fun i => (pf r (8 + 4 * i) 2, pf r (10 + 4 * i) 2))).flatMap (fun q => (List.range q.2).map (q.1 + ·)) ∧ Passes 0x0104 (aH + aB) .active (fun p => 8 ≤ p.length && p.length == 8 + 4 * recNat p 4 4) noResv r s ∧ pf r 0 4 ≤ 10000 ∧ 1 ≤ pf r 4 4 ∧ (((List.range (pf r 4 4)).map (fun i => (pf r (8 + 4 * i) 2, pf r (10 + 4 * i) 2))).all (fun q => 1 ≤ q.2 && q.1 + q.2 ≤ 1024) && noDup as) = true ∧ (getCtx s.m (slotOf r)).el.park = none ∧ (getCtx s.m (slotOf r)).el.reclaim = none ∧ as.all (fun a => (shareOf (getCtx s.m (slotOf r)) a).isSome) = true) ∧
    (∃ s : State, ∃ c, ∃ a, ∃ q, (getCtx s.m c).el.reclaim = some q ∧ has q.arrays a = true ∧ atBoundary s.m c a = true) ∧
    (∃ s : State, ∃ c, ∃ q, (getCtx s.m c).el.reclaim = some q) :=
  ⟨by
      obtain ⟨g, hg⟩ := ok_of (x := grantAll run.m 0 (readPar (mk 0x0101 .host 0 (w4 [0, 0, 0, 0, 0x100000, 0, 65536, 0, 0, 0, 2048] ++ w2 [32, 1, 0] ++ w1 [1, 0] ++ w2 [1] ++ zs 6 ++ w2 [3, 1] ++ w1 [63, 255] ++ zs 2)))) (by decide +kernel)
      exact ⟨run, (mk 0x0101 .host 0 (w4 [0, 0, 0, 0, 0x100000, 0, 65536, 0, 0, 0, 2048] ++ w2 [32, 1, 0] ++ w1 [1, 0] ++ w2 [1] ++ zs 6 ++ w2 [3, 1] ++ w1 [63, 255] ++ zs 2)), 0, g, passes_of (by decide +kernel), good_ok (by decide +kernel), hg, by decide +kernel⟩,
   ⟨act, (mk 0x0102 .host 4097 ([])), passes_of (by decide +kernel), by decide +kernel⟩,
   ⟨(actC (fun x => { x with st := .teardown })), 1, by decide +kernel⟩,
   ⟨(actC bare), (mk 0x0103 .host 4097 (w4 [1] ++ w2 [3, 1] ++ w1 [63, 255] ++ zs 2)), _, rfl, passes_of (by decide +kernel), good_ok (by decide +kernel), by decide +kernel⟩,
   ⟨act, (mk 0x0104 .host 4097 (w4 [10000, 1] ++ w2 [0, 4])), _, rfl, passes_of (by decide +kernel), by decide +kernel⟩,
   ⟨(actC (fun x => { x with el := { x.el with reclaim := some { arrays := [3], tag := 5 } } })), 1, 3, ({ arrays := [3], tag := 5 }), by decide +kernel⟩,
   ⟨(actC (fun x => { x with el := { x.el with reclaim := some { arrays := [3], tag := 5 } } })), 1, ({ arrays := [3], tag := 5 }), by decide +kernel⟩⟩

/-- What the clauses of `Obligations.ElasticCommands` suppose can be met. -/
theorem test_ElasticCommands_met :
    (∃ s : State, ∃ r, Passes 0x0108 aH .active (lenIs 16) (resvAt [(4, 4)]) r s ∧ pf r 0 4 ≠ (getCtx s.m (slotOf r)).layout ∧ (getCtx s.m (slotOf r)).el.reshard = none ∧ (inFlight (getCtx s.m (slotOf r))).all (fun e => e.step < pf r 8 8) = true ∧ (((getCtx s.m (slotOf r)).ran = true → (getCtx s.m (slotOf r)).lastStep.toNat < pf r 8 8))) ∧
    (∃ s : State, ∃ c, ∃ e, (getCtx s.m c).el.reshard = some e ∧ (inFlight (getCtx s.m c)).all (fun r => e.sAt ≤ r.step || r.halted || r.ended) = true ∧ startsBelow (getCtx s.m c) e.sAt = false ∧ convsIdle s.m c = true ∧ s.m.tier.wins.all (fun w => match w.2 with | some w => w.ctx != c | none => true) = true) ∧
    (∃ s : State, ∃ r, Passes 0x0105 aH .active (lenIs 12) noResv r s ∧ pf r 0 4 ≤ 10000 ∧ addrOk (pf r 4 8) = true ∧ pf r 4 8 % 2048 = 0 ∧ (getCtx s.m (slotOf r)).el.park = none ∧ (getCtx s.m (slotOf r)).el.reclaim = none ∧ (getCtx s.m (slotOf r)).el.restore = none) ∧
    (∃ s : State, ∃ c, ∃ k, (getCtx s.m c).el.park = some k ∧ quiesced s.m c = true) ∧
    (∃ s : State, ∃ c, ∃ k, (getCtx s.m c).el.park = some k ∧ k.quiesced = false) ∧
    (∃ s : State, ∃ c, ∃ k, ∃ m0, ∃ m1, ∃ a, ∃ d, ∃ b, m0 = settle s.m c ∧ (getCtx s.m c).el.park = some k ∧ k.quiesced = true ∧ quiesced s.m c = true ∧ fabWrite (freeStep m0 (imageSize (imageOf m0 c) - 64)) (unitRef c) (.sequence c) (k.image + 64) (freeBytes m0 (imageSize (imageOf m0 c) - 64)) [] = .ok m1 a d b) ∧
    (∃ s : State, ∃ r, ∃ image : Nat, ∃ i, Passes 0x0106 aH .parked (lenIs 0) noResv r s ∧ tget none s.m.parked (slotOf r) = some i ∧ setFree s.m (slotOf r) i.ctx.par.blocks = true ∧ (match readRec s.m (slotOf r) image 64 [] with | some h => headerGood h | none => true) = true) ∧
    (∃ s : State, ∃ r, ∃ i : ParkImg, ∃ d, ∃ g, Passes 0x0107 aH .active (lenIs 8) noResv r s ∧ grantAll s.m d i.ctx.par = .ok g ∧ addrOk (pf r 0 8) = true ∧ pf r 0 8 % 2048 = 0 ∧ (getCtx s.m (slotOf r)).par.blocks = [] ∧ freeSlot s.m = some d ∧ setFree s.m d i.ctx.par.blocks = true) :=
  ⟨⟨act, (mk 0x0108 .host 4097 (w4 [1, 0, 0, 0])), passes_of (by decide +kernel), by decide +kernel⟩,
   ⟨(actC (fun x => { x with el := { x.el with reshard := some { epoch := 1, sAt := 0, tag := 5 } } })), 1, ({ epoch := 1, sAt := 0, tag := 5 }), by decide +kernel⟩,
   ⟨act, (mk 0x0105 .host 4097 (w4 [10000, 0, 0])), passes_of (by decide +kernel), by decide +kernel⟩,
   ⟨(actC (fun x => { x with el := { x.el with park := some { image := 0, tag := 5, quiesced := false } } })), 1, ({ image := 0, tag := 5, quiesced := false }), by decide +kernel⟩,
   ⟨(actC (fun x => { x with el := { x.el with park := some { image := 0, tag := 5, quiesced := false } } })), 1, ({ image := 0, tag := 5, quiesced := false }), by decide +kernel⟩,
   by
      obtain ⟨m1, b, h⟩ := park_sent
      exact ⟨parkS, 1, parkK, settle parkS.m 1, m1, [], [], b, rfl, by decide +kernel, by decide +kernel, by decide +kernel, h⟩,
   ⟨(onM (actC (fun x => { x with st := .parked })) (fun m => { m with parked := [(1, some (park0 1 par1))] })), (mk 0x0106 .host 4097 ([])), 0, (park0 1 par1), passes_of (by decide +kernel), by decide +kernel, by decide +kernel, by decide +kernel⟩,
   by
      obtain ⟨g, hg⟩ := ok_of (x := grantAll (actC bare).m 0 ({ par1 with storeBytes := 0x100000, pageBytes := 2048 })) (by decide +kernel)
      exact ⟨(actC bare), (mk 0x0107 .host 4097 (w4 [2048, 0])), (park0 2 { par1 with storeBytes := 0x100000, pageBytes := 2048 }), 0, g, passes_of (by decide +kernel), hg, by decide +kernel⟩⟩

/-- What the clauses of `Obligations.ManifestCommands` suppose can be met. -/
theorem test_ManifestCommands_met :
    (∃ s : State, ∃ r, ∃ ext, ∃ bs, ∃ i, ∃ k : Nat, Passes 0x0109 aH .active (lenIs 16) (resvAt [(12, 4)]) r s ∧ readImage bs = .ok i ∧ checkPost s.m (slotOf r) i = .ok k ∧ addrOk (pf r 0 8) = true ∧ 64 ≤ pf r 8 4 ∧ pf r 8 4 ≤ 268435456 ∧ readRec s.m (slotOf r) (pf r 0 8) (pf r 8 4) ext = some bs) ∧
    (∃ s : State, ∃ r, ∃ q, Passes 0x010A aH .active (lenIs 8) (resvAt [(2, 2)]) r s ∧ 1 ≤ pf r 4 4 ∧ manOf s.m (slotOf r) (pf r 0 2) = some q ∧ q.2.halted = false ∧ q.2.retiring = none) ∧
    (∃ s : State, ∃ r, ∃ q, Passes 0x010B aH .active (lenIs 4) (resvAt [(2, 2)]) r s ∧ manOf s.m (slotOf r) (pf r 0 2) = some q ∧ q.2.retiring = none) ∧
    (∃ m : Mach, ∃ c, ∃ k, getMan m c k = none) ∧
    (∃ m : Mach, ∃ c, ∃ st : Nat, storeBase (getCtx m c) = some st) ∧
    (∃ m : Mach, ∃ c, ∃ k, ∃ q, ∃ tag, getMan m c k = some q ∧ q.retiring = some tag ∧ ((∀ r ∈ q.runs, r.started = false))) :=
  ⟨by
      obtain ⟨⟨i, k⟩, h⟩ := ok_of (x := post0) (by decide +kernel)
      obtain ⟨hi, hk⟩ := post_ok h
      exact ⟨(net act), (mk 0x0109 .host 4097 (w4 [0, 0, 128, 0])), manBytes, manBytes, i, k, passes_of (by decide +kernel), hi, hk, by decide +kernel⟩,
   ⟨(withMan (man1 (img1 [wb0 []]) [])), (mk 0x010A .host 4097 (w2 [0x1001, 0] ++ w4 [1])), (0, man1 (img1 [wb0 []]) []), passes_of (by decide +kernel), by decide +kernel⟩,
   ⟨(withMan (man1 (img1 [wb0 []]) [])), (mk 0x010B .host 4097 (w2 [0x1001, 0])), (0, man1 (img1 [wb0 []]) []), passes_of (by decide +kernel), by decide +kernel⟩,
   ⟨act.m, 1, 15, by decide +kernel⟩,
   ⟨(actC (fun x => { x with memory := [(4096, 8192)] })).m, 1, 4096, by decide +kernel⟩,
   ⟨(withMan { man1 (img1 [wb0 []]) [] with retiring := some 5 }).m, 1, 0, ({ man1 (img1 [wb0 []]) [] with retiring := some 5 }), 5, by decide +kernel⟩⟩

/-- What the clauses of `Obligations.RunEvents` suppose can be met. -/
theorem test_RunEvents_met :
    (∃ s : State, ∃ c, ∃ k, ∃ q, getMan s.m c k = some q ∧ canStart s.m c k = true ∧ ((serves (getCtx s.m c) k = true → (q.runs.find? (fun r => r.run == q.nextRun && r.built)).isSome = true))) ∧
    (∃ s : State, ∃ c, ∃ k, ∃ run, ∃ q, ∃ r, getMan s.m c k = some q ∧ getRun q run = some r ∧ r.started = true ∧ r.ended = false ∧ anyRunning s.m c k run = false ∧ (((List.range q.img.waybills.length).all (has r.doneWbs) = true ∨ r.halted = true)) ∧ remoteOut s.m c k run none = false) ∧
    (∃ s : State, ∃ p, ∃ c, ∃ e, blkRuns s.m p = true ∧ (getBlk (reeval s.m p) p).seq.holder = some c ∧ (getCtx (reeval s.m p) c).st = .active ∧ pick (reeval s.m p) p c = some e) ∧
    (∃ s : State, ∃ p, ∃ c, ∃ e, ∃ m, m = modBlk (reeval s.m p) p (fun b => { b with seq := { b.seq with holder := some c, heldCycles := 0 } }) ∧ blkRuns s.m p = true ∧ (getBlk (reeval s.m p) p).seq.holder = none ∧ nextHolder (reeval s.m p) p none = some c ∧ (getCtx m c).st = .active ∧ pick m p c = some e) ∧
    (∃ s : State, ∃ p, ∃ st, ∃ w, ∃ q, ∃ z, z = releaseWb s.m p w q ∧ runningOn (getBlk s.m p) st = some w ∧ bodyOver w = true ∧ getMan s.m w.ctx w.man = some q ∧ awaitsWrites (getBlk s.m p) w q.img = false) ∧
    (∃ s : State, ∃ c, ∃ f, ∃ q, (getCtx s.m c).sv.conf = some f ∧ getMan s.m c f.man = some q ∧ canStart s.m c f.man = true ∧ q.runs.any (fun r => r.run == q.nextRun) = false) :=
  ⟨⟨(withMan (man1 (img1 [wb0 []]) [])), 1, 0, (man1 (img1 [wb0 []]) []), by decide +kernel⟩,
   ⟨(withMan (man1 (img1 [wb0 []]) [{ run0 with doneWbs := [0] }])), 1, 0, 0, (man1 (img1 [wb0 []]) [{ run0 with doneWbs := [0] }]), ({ run0 with doneWbs := [0] }), by decide +kernel⟩,
   ⟨(onB (withMan (man1 (img1 [wb0 []]) [run0])) (fun b => { b with seq := { b.seq with holder := some 1 } })), 0, 1, (0, 0, 0, .body), by decide +kernel⟩,
   ⟨(withMan (man1 (img1 [wb0 []]) [run0])), 0, 1, (0, 0, 0, .body), _, rfl, by decide +kernel⟩,
   ⟨(busy []), 0, 1, (rw0 []), (manB []), _, rfl, by decide +kernel⟩,
   ⟨(actC (fun x => { x with mans := [(0, some (man1 (img1 [wb0 []]) []))], sv := { x.sv with conf := some { man := 0, perPage := 1, stepBuf := 0, ptrTable := 0, binds := [], privates := [] } } })), 1, ({ man := 0, perPage := 1, stepBuf := 0, ptrTable := 0, binds := [], privates := [] }), (man1 (img1 [wb0 []]) []), by decide +kernel⟩⟩

/-- What the clauses of `Obligations.StartedWork` suppose can be met. -/
theorem test_StartedWork_met :
    (∃ m : Mach, ∃ c, ∃ k, ∃ q, getMan m c k = some q) ∧
    (∃ m : Mach, ∃ p, ∃ c, ∃ k, ∃ q, getMan m c k = some q ∧ p < 1088) :=
  ⟨⟨(busy []).m, 1, 0, (manB []), by decide +kernel⟩,
   ⟨(busy []).m, 1087, 1, 0, (manB []), by decide +kernel⟩⟩

/-- What the clauses of `Obligations.CompletionRecords` suppose can be met. -/
theorem test_CompletionRecords_met :
    (∃ s : State, ∃ c, ∃ q, ∃ r, tget noRec (getCtx s.m c).cr.recs (q % 4096) = r ∧ r.seq = q ∧ r.st = .pending ∧ r.final = true ∧ advancing s.m c = false ∧ completionRecord.waits c s.m r = false) ∧
    (∃ s : State, ∃ c, ∃ v, (BitVec.ofNat 32 v - (getCtx s.m c).cr.ack).toNat ≤ ((getCtx s.m c).cr.issued - (getCtx s.m c).cr.ack).toNat ∧ recsFinal (getCtx s.m c) (getCtx s.m c).cr.ack.toNat (BitVec.ofNat 32 v - (getCtx s.m c).cr.ack).toNat = true) ∧
    (∃ s : State, ∃ c, ∃ v, ∃ whole, ((whole = false ∨ ((getCtx s.m c).cr.issued - (getCtx s.m c).cr.ack).toNat < (BitVec.ofNat 32 v - (getCtx s.m c).cr.ack).toNat ∨ recsFinal (getCtx s.m c) (getCtx s.m c).cr.ack.toNat (BitVec.ofNat 32 v - (getCtx s.m c).cr.ack).toNat = false))) :=
  ⟨⟨(actC (fun x => { x with cr := { x.cr with issued := 1, recs := [(1, { noRec with seq := 1, st := .pending, final := true })] } })), 1, 1, ({ noRec with seq := 1, st := .pending, final := true }), by decide +kernel⟩,
   ⟨(actC (fun x => { x with cr := { x.cr with issued := 1, recs := [(1, { noRec with seq := 1, st := .done, final := true })] } })), 1, 1, by decide +kernel⟩,
   ⟨(actC (fun x => { x with cr := { x.cr with issued := 1, recs := [(1, { noRec with seq := 1, st := .pending, final := true })] } })), 1, 1, true, by decide +kernel⟩⟩

/-- What the clauses of `Obligations.SequencerItems` suppose can be met. -/
theorem test_SequencerItems_met :
    (∃ s : State, ∃ p, ∃ st, ∃ w, ∃ i, ∃ n, ∃ cfg, ∃ ptr, seqItem s.m p st isWindowSet = some (w, i, .windowSet n cfg ptr) ∧ windowBusy s.m p w.ctx n = false ∧ (((getWin (getBlk s.m p) n).enable = false ∨ (getWin (getBlk s.m p) n).ctx = w.ctx))) ∧
    (∃ s : State, ∃ p, ∃ st, ∃ w, ∃ i, ∃ n, ∃ cfg, ∃ ptr, seqItem s.m p st isWindowSet = some (w, i, .windowSet n cfg ptr) ∧ windowBusy s.m p w.ctx n = false ∧ (getWin (getBlk s.m p) n).enable = true ∧ (getWin (getBlk s.m p) n).ctx ≠ w.ctx) ∧
    (∃ s : State, ∃ p, ∃ st, ∃ w, ∃ i, ∃ en, ∃ bank, seqItem s.m p st isAliasSet = some (w, i, .aliasSet en bank) ∧ aliasBusy s.m p w.ctx = false ∧ (((getBlk s.m p).sp.aliasOn = false ∨ (getBlk s.m p).sp.aliasCtx = w.ctx))) ∧
    (∃ s : State, ∃ p, ∃ st, ∃ w, ∃ i, ∃ it, seqItem s.m p st isBarrier = some (w, i, it)) ∧
    (∃ s : State, ∃ p, ∃ a, ∃ h, ∃ d, arrayOf (reeval s.m p) p = some a ∧ (getBlk (reeval s.m p) p).seq.holder = some h ∧ mustLeave (reeval s.m p) p a h = true ∧ atBoundary (reeval s.m p) h a = true ∧ nextHolder (reeval s.m p) p (some h) = some d) ∧
    (∃ s : State, ∃ n, homeRuns s.m n = true ∧ (s.m.msQueue.filter (fun q => q.1 == n)).isEmpty = false ∧ (getMs s.m n).frozen = false) ∧
    (∃ s : State, ∃ n, homeRuns s.m n = true ∧ (s.m.msQueue.filter (fun q => q.1 == n)).isEmpty = false ∧ (getMs s.m n).frozen = true) ∧
    (∃ s : State, ∃ n, homeRuns s.m n = true ∧ (getMs s.m n).owner ≠ 0) ∧
    (∃ s : State, ∃ c, ∃ k, ∃ run, ∃ w, ∃ q, ∃ r, ∃ p, getMan s.m c k = some q ∧ getRun q run = some r ∧ physOf s.m (wbOf q.img w).array = some p ∧ r.started = true ∧ r.halted = false ∧ eligible q r w = true ∧ (unmet (getBlk s.m p) (getCtx s.m c) q.img run w).isEmpty = false ∧ (unmet (getBlk s.m p) (getCtx s.m c) q.img run w).all (isOutrider q.img) = true ∧ q.late.any (· == (run, w)) = false) :=
  ⟨⟨(busy [.windowSet 15 0x80000000 0]), 0, 1, (rw0 [.windowSet 15 0x80000000 0]), 0, 15, 0x80000000, 0, by decide +kernel⟩,
   ⟨(onB (busy [.windowSet 15 0x80000000 0]) (fun b => { b with sp := { b.sp with wins := [(15, { noWin with enable := true, ctx := 2 })] } })), 0, 1, (rw0 [.windowSet 15 0x80000000 0]), 0, 15, 0x80000000, 0, by decide +kernel⟩,
   ⟨(busy [.aliasSet true 5]), 0, 1, (rw0 [.aliasSet true 5]), 0, true, 5, by decide +kernel⟩,
   ⟨(busy [.barrier 0]), 0, 1, (rw0 [.barrier 0]), 0, (.barrier 0), by decide +kernel⟩,
   ⟨(onB (onM act (fun m => modCtx m 2 (fun _ => { ctxReset with st := .active, gen := 1, par := par1, mans := [(0, some (man1 (img1 [wb0 []]) [run0]))] }))) (fun b => { b with seq := { b.seq with holder := some 1 } })), 0, 0, 1, 2, by decide +kernel⟩,
   ⟨(onM run (fun m => { m with msQueue := [(65535, 1)] })), 65535, by decide +kernel⟩,
   ⟨(onM run (fun m => { m with msQueue := [(65535, 1)], ms := [(65535, { noMs with frozen := true })] })), 65535, by decide +kernel⟩,
   ⟨(onM run (fun m => { m with msQueue := [(65535, 1)], ms := [(65535, { noMs with owner := 4097 })] })), 65535, by decide +kernel⟩,
   ⟨(withMan (man1 ({ img1 [{ wb0 [] with ins := [{ decl := 0, amount := 0, target := 1 }] }] with decls := [{ noDecl with cls := 1 }] }) [run0])), 1, 0, 0, 0, (man1 ({ img1 [{ wb0 [] with ins := [{ decl := 0, amount := 0, target := 1 }] }] with decls := [{ noDecl with cls := 1 }] }) [run0]), run0, 0, by decide +kernel⟩⟩

/-- What the clauses of `Obligations.NumericsCommands` suppose can be met. -/
theorem test_NumericsCommands_met :
    (∃ s : State, ∃ r, ∃ m, ∃ q, m = (if (inFlight (getCtx s.m (slotOf r))).all (·.ended) = true then settle s.m (slotOf r) else s.m) ∧ Passes 0x010D aH .active (lenIs 8) noResv r s ∧ writeRecord m (slotOf r) (pf r 0 8) = some q ∧ addrOk (pf r 0 8) = true ∧ settled m (slotOf r) = true) ∧
    (∃ s : State, ∃ r, ∃ m, m = (if (inFlight (getCtx s.m (slotOf r))).all (·.ended) = true then settle s.m (slotOf r) else s.m) ∧ Passes 0x010D aH .active (lenIs 8) noResv r s ∧ addrOk (pf r 0 8) = true ∧ settled m (slotOf r) = false) ∧
    (∃ s : State, ∃ r, ∃ ext, ∃ hd, ∃ bs, Passes 0x010E aH .active (lenIs 8) noResv r s ∧ addrOk (pf r 0 8) = true ∧ ((∀ n ∈ openWatches s.m (slotOf r), (getWatch s.m n).st = 1)) ∧ readRec s.m (slotOf r) (pf r 0 8) 32 ext = some hd ∧ recNat hd 8 4 ≤ 16384 ∧ readRec s.m (slotOf r) (pf r 0 8) (32 + 96 * recNat hd 8 4) ext = some bs) ∧
    (∃ s : State, ∃ r, Passes 0x010F aH .opt (lenIs 32) (resvAt [(10, 6), (24, 8)]) r s ∧ checkHandle s.m .active (pf r 2 2) = .ok () ∧ pf r 0 2 < 16384 ∧ ((r.handle = 0 ∨ pf r 2 2 = r.handle.toNat)) ∧ addrOk (pf r 16 8) = true ∧ pf r 16 8 % 8 = 0 ∧ (getWatch s.m (pf r 0 2)).st = 0) ∧
    (∃ s : State, ∃ r, Passes 0x0110 aH .active (lenIs 4) (resvAt [(2, 2)]) r s ∧ pf r 0 2 < 16384 ∧ has (openWatches s.m (slotOf r)) (pf r 0 2) = true) :=
  ⟨by
      obtain ⟨q, hq⟩ := some_of (x := writeRecord (settle (net act).m 1) 1 0) (by decide +kernel)
      exact ⟨(net act), (mk 0x010D .host 4097 (w4 [0, 0])), _, q, rfl, passes_of (by decide +kernel), hq, by decide +kernel⟩,
   ⟨(net (withMan (man1 (img1 [wb0 []]) [run0]))), (mk 0x010D .host 4097 (w4 [0, 0])), _, rfl, passes_of (by decide +kernel), by decide +kernel⟩,
   ⟨(net (onA act (fun a => { a with watches := [(16383, { watchReset with st := 1, ctx := 4097 })] }))), (mk 0x010E .host 4097 (w4 [0, 0])), (zs 32), (zs 32), (zs 32), passes_of (by decide +kernel), by decide +kernel⟩,
   ⟨act, (mk 0x010F .host 4097 (w2 [16383, 4097] ++ zs 28)), passes_of (by decide +kernel), good_ok (by decide +kernel), by decide +kernel⟩,
   ⟨(onA act (fun a => { a with watches := [(16383, { watchReset with st := 1, ctx := 4097 })] })), (mk 0x0110 .host 4097 (w2 [16383, 0])), passes_of (by decide +kernel), by decide +kernel⟩⟩

/-- What the clauses of `Obligations.AssayerEvents` suppose can be met. -/
theorem test_AssayerEvents_met :
    (∃ s : State, ∃ q, ∃ qs, s.m.ass.sums = q :: qs) ∧
    (∃ s : State, ∃ k, ∃ ks, s.m.ass.markers = k :: ks) ∧
    (∃ s : State, ∃ c, ∃ q, (getMbx s.m .host).inHand = none ∧ closable s.m c = some q ∧ ((higherAssigned (getCtx s.m c) q = true ∨ (getCtx s.m c).el.park.isSome = true ∨ (getCtx s.m c).st = .teardown)) ∧ s.m.ass.stopped.any (fun z => z.1 == c) = false) ∧
    (∃ s : State, ∃ c, ∃ q, ∃ r, (getMbx s.m .host).inHand = some (0x010D, r) ∧ slotOf r = c ∧ (getMbx s.m .host).st = .busy ∧ closable s.m c = some q) ∧
    (∃ s : State, ∃ c, ∃ q, closable s.m c = some q ∧ s.m.ass.stopped.any (fun z => z.1 == c) = false) ∧
    (∃ m : Mach, ∃ q : TileSum, (getWatch m q.watch).st ≠ 0 ∧ (getWatch m q.watch).ctx = handleOf m q.ctx) :=
  ⟨⟨(onA act (fun a => { a with sums := [sum0] })), sum0, [], by decide +kernel⟩,
   ⟨(onA act (fun a => { a with markers := [mark0] })), mark0, [], by decide +kernel⟩,
   ⟨(onM (onA act (fun a => { a with arrived := [mark0] })) (fun m => modCtx m 1 (fun x => { x with st := .teardown }))), 1, 0, by decide +kernel⟩,
   ⟨(onM (onA act (fun a => { a with arrived := [mark0] })) (fun m => modMbx m .host (fun b => { b with st := .busy, inHand := some (0x10D, mk 0x10D .host 4097 (w4 [0, 0])) }))), 1, 0, (mk 0x10D .host 4097 (w4 [0, 0])), by decide +kernel⟩,
   ⟨(onA act (fun a => { a with arrived := [mark0] })), 1, 0, by decide +kernel⟩,
   ⟨(onA act (fun a => { a with watches := [(16383, { watchReset with st := 1, ctx := 4097 })] })).m, sum0, by decide +kernel⟩⟩

/-- What the clauses of `Obligations.OrderedAndServing` suppose can be met. -/
theorem test_OrderedAndServing_met :
    (∃ s : State, ∃ r, ∃ t, ∃ l, ∃ k, ∃ w, w = ({ ctx := slotOf r, target := t, bytes := pf r 8 8, fmt := pf r 16 1, closeMs := (getCtx s.m (slotOf r)).msBase + pf r 18 2, closeTarget := pf r 20 4, doneMs := (getCtx s.m (slotOf r)).msBase + pf r 24 2, logAddr := l, nMax := pf r 36 4, closing := false, shares := [], log := [] } : OrdWin) ∧ Passes 0x0111 aH .active (lenIs 40) (resvAt [(17, 1), (26, 2)]) r s ∧ addrOk (pf r 0 8) = true ∧ pf r 0 8 % 2048 = 0 ∧ 1 ≤ pf r 8 8 ∧ pf r 8 8 ≤ 0x100000000 ∧ pf r 16 1 < 4 ∧ addrOk (pf r 28 8) = true ∧ pf r 18 2 < (getCtx s.m (slotOf r)).par.msCount ∧ pf r 24 2 < (getCtx s.m (slotOf r)).par.msCount ∧ ownRange s.m (slotOf r) 0x02 (pf r 0 8) (pf r 8 8) = some t ∧ ownRange s.m (slotOf r) 0x02 (pf r 28 8) (max 1 (32 * pf r 36 4)) = some l ∧ (tierOf t).isSome = true ∧ tierOf t = tierOf l ∧ s.m.tier.wins.all (fun e => match e.2 with | some w => w.target + w.bytes ≤ t || t + pf r 8 8 ≤ w.target | none => true) = true ∧ (List.range 64).find? (fun k => (tget none s.m.tier.wins k).isNone) = some k) ∧
    (∃ s : State, ∃ n, ∃ w, tget none s.m.tier.wins n = some w ∧ w.closing = false ∧ msMet (getMs s.m w.closeMs).value.toNat w.closeTarget = true) ∧
    (∃ s : State, ∃ n, ∃ w, tget none s.m.tier.wins n = some w ∧ w.closing = true) ∧
    (∃ s : State, ∃ r, ∃ q, ∃ binds, ∃ privs, binds = (List.range (pf r 24 4)).map (fun i => (pf r (32 + 8 * i) 4, pf r (36 + 8 * i) 2)) ∧ privs = (List.range (pf r 28 4)).map (fun i => pf r (32 + 8 * pf r 24 4 + 2 * i) 2) ∧ Passes 0x0113 aH .active (fun p => 32 ≤ p.length && p.length == alignUp (32 + 8 * recNat p 24 4 + 2 * recNat p 28 4) 4) (fun p => [(2, 2)] ++ (List.range (recNat p 24 4)).map (fun i => (32 + 8 * i + 6, 2)) ++ (if recNat p 28 4 % 2 = 1 then [(32 + 8 * recNat p 24 4 + 2 * recNat p 28 4, 2)] else [])) r s ∧ 1 ≤ pf r 4 4 ∧ pf r 4 4 ≤ 65536 ∧ addrOk (pf r 8 8) = true ∧ addrOk (pf r 16 8) = true ∧ manOf s.m (slotOf r) (pf r 0 2) = some q ∧ q.2.img.step = true ∧ binds.all (fun b => b.1 < q.2.img.waybills.length && b.2 < (getCtx s.m (slotOf r)).par.maxTiles) = true ∧ privs.all (fun d => d < q.2.img.decls.length && (q.2.img.decls.getD d noDecl).cls == 1) = true) :=
  ⟨⟨(own act), (mk 0x0111 .host 4097 (w4 [0, 0, 2048, 0] ++ w1 [3, 0] ++ w2 [7] ++ w4 [0] ++ w2 [7, 0] ++ w4 [4096, 0, 0])), 0, 4096, 0, _, rfl, passes_of (by decide +kernel), by decide +kernel⟩,
   ⟨(onT act (fun t => { t with wins := [(63, some ow0)] })), 63, ow0, by decide +kernel⟩,
   ⟨(onT act (fun t => { t with wins := [(63, some { ow0 with closing := true })] })), 63, ({ ow0 with closing := true }), by decide +kernel⟩,
   ⟨(withMan (man1 (img1 [wb0 []]) [])), (mk 0x0113 .host 4097 (w2 [0x1001, 0] ++ w4 [65536, 0, 0, 0, 0, 1, 0, 0] ++ w2 [3, 0])), (0, man1 (img1 [wb0 []]) []), _, _, rfl, rfl, passes_of (by decide +kernel), by decide +kernel⟩⟩

/-- What the clauses of `Obligations.CheckValues` suppose can be met. -/
theorem test_CheckValues_met :
    (∃ s : State, ∃ r, ∃ p, Passes 0x0112 aH .active (lenIs 36) (resvAt [(2, 2), (4, 2)]) r s ∧ fld (pf r 4 8) 28 4 = 0 ∧ pf r 0 2 < 1024 ∧ tbit (pf r 4 8) 63 = true ∧ 8 ≤ fld (pf r 4 8) 50 6 + 1 ∧ ((tbit (pf r 4 8) 56 = true ∨ (fld (pf r 4 8) 50 6 + 1) % 8 = 0)) ∧ ((tbit (pf r 4 8) 60 = false ∨ fld (pf r 4 8) 61 2 = 0)) ∧ pf r 12 8 < 2 ^ (fld (pf r 4 8) 50 6 + 1) ∧ physOf s.m (pf r 0 2) = some p ∧ (shareOf (getCtx s.m (slotOf r)) (pf r 0 2)).isSome = true ∧ ((tbit (getBlk s.m p).cv.cfg.toNat 63 = false ∨ fld (getBlk s.m p).cv.cfg.toNat 28 4 = slotOf r))) ∧
    (∃ s : State, ∃ r, ∃ p, Passes 0x0112 aH .active (lenIs 36) (resvAt [(2, 2), (4, 2)]) r s ∧ pf r 0 2 < 1024 ∧ pf r 4 8 = 0 ∧ pf r 12 8 = 0 ∧ pf r 20 8 = 0 ∧ pf r 28 8 = 0 ∧ physOf s.m (pf r 0 2) = some p ∧ (shareOf (getCtx s.m (slotOf r)) (pf r 0 2)).isSome = true ∧ ((tbit (getBlk s.m p).cv.cfg.toNat 63 = false ∨ fld (getBlk s.m p).cv.cfg.toNat 28 4 = slotOf r))) ∧
    (∃ s : State, ∃ p, ∃ f, ∃ fs, tbit (getBlk s.m p).cv.cfg.toNat 63 = true ∧ engineInReset s.m p 3 = false ∧ blkRuns s.m p = true ∧ fld (getBlk s.m p).cv.cfg.toNat 61 2 ≠ 0 ∧ (getBlk s.m p).cv.frameQ = f :: fs) ∧
    (∃ v, ∃ frame : List Byte, fld v.cfg.toNat 48 2 = 0 ∧ cvTrailer v ≤ frame.length) :=
  ⟨⟨act, (mk 0x0112 .host 4097 (w2 [3, 0] ++ w4 [0, 0x80FC0000, 0xFFFFFFFF, 0xFFFFFFFF, 0, 0, 0, 0])), 3, passes_of (by decide +kernel), by decide +kernel⟩,
   ⟨act, (mk 0x0112 .host 4097 (w2 [3, 0] ++ zs 32)), 3, passes_of (by decide +kernel), by decide +kernel⟩,
   ⟨(onB act (fun b => { b with cv := { b.cv with cfg := 0xA0FC000000000000, frameQ := [[1]] } })), 0, [1], [], by decide +kernel⟩,
   ⟨cvReset, (zs 8), by decide +kernel⟩⟩

/-- What the clauses of `Obligations.CargoSets` suppose can be met. -/
theorem test_CargoSets_met :
    (∃ s : State, ∃ r, ∃ ps, ∃ c, c = pf r 2 2 / 4096 ∧ Passes 0x0201 aH .opt (lenIs 92) (resvAt [(26, 2)]) r s ∧ checkHandle s.m .active (pf r 2 2) = .ok () ∧ cargoPages s.m c (pf r 4 8) (pf r 12 8) = some ps ∧ pf r 0 2 < 4096 ∧ addrOk (pf r 4 8) = true ∧ pf r 4 8 % 2048 = 0 ∧ pf r 12 8 ≠ 0 ∧ pf r 12 8 % 2048 = 0 ∧ 200 ≤ pf r 20 4 ∧ pf r 20 4 ≤ 50000 ∧ pf r 24 1 ≤ 1 ∧ pf r 25 1 ≤ 8 ∧ ((pf r 24 1 = 1 ∨ 1 ≤ pf r 25 1)) ∧ ((∀ i, i < 8 → addrOk (pf r (28 + 8 * i) 8) = true)) ∧ (getCargo s.m (pf r 0 2)).st = 0) ∧
    (∃ s : State, ∃ r, Passes 0x0202 aH .opt (lenIs 4) (resvAt [(2, 2)]) r s ∧ pf r 0 2 < 4096 ∧ (((getCargo s.m (pf r 0 2)).st = 1 ∨ (getCargo s.m (pf r 0 2)).st = 4)) ∧ (getCargo s.m (pf r 0 2)).seed = true ∧ (getCargo s.m (pf r 0 2)).sealed = false) ∧
    (∃ s : State, ∃ r, Passes 0x0203 aH .active (lenIs 4) (resvAt [(2, 2)]) r s ∧ pf r 0 2 < 4096 ∧ (getCargo s.m (pf r 0 2)).st = 2) ∧
    (∃ s : State, ∃ r, ∃ g, g = getCargo s.m (pf r 0 2) ∧ Passes 0x0204 aH .active (lenIs 4) (resvAt [(2, 2)]) r s ∧ pf r 0 2 < 4096 ∧ has g.bound (slotOf r) = true) ∧
    (∃ s : State, ∃ r, Passes 0x0205 aH .opt (lenIs 68) noResv r s ∧ pf r 0 2 < 4096 ∧ pf r 2 1 ≤ 1 ∧ pf r 3 1 ≤ 8 ∧ ((pf r 2 1 = 1 ∨ 1 ≤ pf r 3 1)) ∧ ((∀ i, i < 8 → addrOk (pf r (4 + 8 * i) 8) = true)) ∧ (getCargo s.m (pf r 0 2)).st = 2) ∧
    (∃ s : State, ∃ r, Passes 0x0206 aH .active (lenIs 36) (resvAt [(2, 2), (24, 12)]) r s ∧ fld (pf r 4 8) 57 7 = 0 ∧ fld (pf r 12 8) 57 7 = 0 ∧ pf r 20 4 < 4096 ∧ pf r 0 2 < 4096 ∧ (getCtx s.m (slotOf r)).sv.conf.isSome = true ∧ (getCargo s.m (pf r 20 4)).st = 2 ∧ has (getCargo s.m (pf r 20 4)).bound (slotOf r) = true) ∧
    (∃ s : State, ∃ k, ∃ g, getCargo s.m k = g ∧ ((g.st = 1 ∨ g.st = 4)) ∧ g.fetches.any (fun e => e.2.1 == noSource) = false ∧ g.left = [] ∧ ((g.seed = false ∨ g.sealed = true)) ∧ g.pages.any (fun a => rdPoison s.m a 2048) = false) ∧
    (∃ s : State, ∃ k, ∃ g, getCargo s.m k = g ∧ ((g.st = 1 ∨ g.st = 4)) ∧ g.fetches.any (fun e => e.2.1 == noSource) = true) ∧
    (∃ s : State, ∃ k, ∃ g, ∃ q, getCargo s.m k = g ∧ g.next = some q ∧ g.st = 3 ∧ g.inFlight = 0 ∧ ((∀ c ∈ g.bound, builtWith s.m c k = false)) ∧ s.m.tier.repairs.any (·.set == k) = false) ∧
    (∃ s : State, ∃ c, ∃ f, ∃ q, ∃ qs, (getCtx s.m c).sv.conf = some f ∧ (getCtx s.m c).sv.switches = q :: qs ∧ inFlight (getCtx s.m c) = [] ∧ (getCtx s.m c).st = .active ∧ (getCtx s.m c).el.park = none ∧ ((∀ e ∈ mansOf (getCtx s.m c), ∀ r ∈ e.2.runs, r.built = false))) ∧
    (∃ s : State, ∃ tag, ∃ o, ∃ k : Nat, s.m.fab.out.find? (fun o => o.tag == tag) = some o ∧ o.holder = .cargo k) ∧
    (∃ s : State, ∃ tag, ∃ o, ∃ k : Nat, s.m.fab.out.find? (fun o => o.tag == tag) = some o ∧ o.holder = .repair k) ∧
    (∃ s : State, ∃ k, ∃ t, ∃ r, repairOf s.m k t = some r) :=
  ⟨by
      obtain ⟨ps, hp⟩ := some_of (x := cargoPages (ownCargo act).m 1 0 2048) (by decide +kernel)
      exact ⟨(ownCargo act), (mk 0x0201 .host 4097 (w2 [4095, 4097] ++ w4 [0, 0, 2048, 0, 50000] ++ w1 [0, 8] ++ zs 66)), ps, _, rfl, passes_of (by decide +kernel), good_ok (by decide +kernel), hp, by decide +kernel⟩,
   ⟨(crg { cargoReset with st := 1, seed := true }), (mk 0x0202 .host 4097 (w2 [4095, 0])), passes_of (by decide +kernel), by decide +kernel⟩,
   ⟨(crg { cargoReset with st := 2 }), (mk 0x0203 .host 4097 (w2 [4095, 0])), passes_of (by decide +kernel), by decide +kernel⟩,
   ⟨(crg { cargoReset with st := 2, bound := [1] }), (mk 0x0204 .host 4097 (w2 [4095, 0])), _, rfl, passes_of (by decide +kernel), by decide +kernel⟩,
   ⟨(crg { cargoReset with st := 2 }), (mk 0x0205 .host 4097 (w2 [4095] ++ w1 [0, 8] ++ zs 64)), passes_of (by decide +kernel), by decide +kernel⟩,
   ⟨(onM (crg { cargoReset with st := 2, bound := [1] }) (fun m => modServ m 1 (fun v => { v with conf := some conf0 }))), (mk 0x0206 .host 4097 (w2 [4095, 0] ++ zs 16 ++ w4 [4095] ++ zs 12)), passes_of (by decide +kernel), by decide +kernel⟩,
   ⟨(crg { cargoReset with st := 1 }), 4095, ({ cargoReset with st := 1 }), by decide +kernel⟩,
   ⟨(crg { cargoReset with st := 1, fetches := [(0, (noSource, 0))] }), 4095, ({ cargoReset with st := 1, fetches := [(0, (noSource, 0))] }), by decide +kernel⟩,
   ⟨(crg { cargoReset with st := 3, next := some (false, [0]) }), 4095, ({ cargoReset with st := 3, next := some (false, [0]) }), (false, [0]), by decide +kernel⟩,
   ⟨(onM act (fun m => modServ m 1 (fun v => { v with conf := some conf0, switches := [(4095, zs 32, 5)] }))), 1, conf0, (4095, zs 32, 5), [], by decide +kernel⟩,
   ⟨(outs act [out0 (.cargo 4095) 1]), 5, (out0 (.cargo 4095) 1), 4095, by decide +kernel⟩,
   ⟨(outs act [out0 (.repair 0) 1]), 5, (out0 (.repair 0) 1), 0, by decide +kernel⟩,
   ⟨(onT act (fun t => { t with repairs := [rep0] })), 4095, 0, rep0, by decide +kernel⟩⟩

/-- What the clauses of `Obligations.FabricCommands` suppose can be met. -/
theorem test_FabricCommands_met :
    (∃ s : State, ∃ r, Passes 0x0801 (aH + aB) .none (lenIs 4) (resvAt [(2, 2)]) r s ∧ pf r 0 2 < 8192 ∧ ((s.m.fab.module = none ∨ ∀ c, c < 16 → (getCtx s.m c).st = .free ∨ (getCtx s.m c).st = .closed))) ∧
    (∃ s : State, ∃ r, ∃ x, x = (getCtx s.m (slotOf r)).mem ∧ Passes 0x0802 aH .active (lenIs 1032) (resvAt [(3, 1)]) r s ∧ pf r 2 1 ≤ 1 ∧ pf r 4 4 ≠ x.epoch ∧ ((x.carriedValid = false ∨ pf r 4 4 ≠ x.carried))) ∧
    (∃ s : State, ∃ r, ∃ t, ∃ isIn, ∃ sz, ∃ p, ∃ segs, ∃ own, ∃ sets, isIn = (pf r 0 1 == 1) ∧ sz = segBytes (pf r 1 1) ∧ p = pf r 2 1 ∧ segs = (List.range (pf r 4 4)).map (fun i => pf r 8 8 + i * sz) ∧ own = (if isIn then segs else if s.m.fab.module == some (pf r 16 2) && !tbit p 3 then (List.range (pf r 4 4)).map (fun i => pf r 24 8 + i * sz) else []) ∧ sets = s.m.cargo.filter (fun e => e.2.st != 0 && e.2.pages.any (fun g => own.any (fun a => g < a + sz && a < g + 2048))) ∧ Passes 0x0803 aH .active (lenIs 32) (resvAt [(3, 1), (20, 4)]) r s ∧ putWays s.m.fab.waymap ((List.range (pf r 4 4)).map (fun i => ({ valid := true, isIn := isIn, size := pf r 1 1, read := tbit p 0, write := tbit p 1, atomic := tbit p 2, advance := tbit p 3, cargo := tbit p 4, module := pf r 16 2, owner := handleOf s.m (slotOf r), peer := pf r 18 2, epoch := (getCtx s.m (slotOf r)).mem.epoch, target := if isIn then 0 else pf r 24 8 + i * sz, base := pf r 8 8 + i * sz } : WayEnt))) = some t ∧ pf r 0 1 ≤ 1 ∧ pf r 1 1 ≤ 2 ∧ p < 32 ∧ ((tbit p 4 = true → tbit p 1 = false ∧ tbit p 2 = false)) ∧ 1 ≤ pf r 4 4 ∧ pf r 4 4 ≤ 4096 ∧ pf r 8 8 % sz = 0 ∧ pf r 16 2 < 8192 ∧ ((isIn = true → tbit p 3 = false ∧ pf r 16 2 = 0 ∧ pf r 24 8 = 0 ∧ segs.all (fun a => segReachable a sz) = true)) ∧ ((isIn = false → pf r 8 8 + pf r 4 4 * sz ≤ 2 ^ 57 ∧ pf r 24 8 % sz = 0 ∧ tbit p 3 = isAdvance (pf r 24 8))) ∧ ((isIn = false → tbit p 3 = true → p = 8 ∧ pf r 1 1 = 0 ∧ pf r 4 4 = 1)) ∧ ((isIn = false → tbit p 3 = false → (List.range (pf r 4 4)).all (fun i => segReachable (pf r 24 8 + i * sz) sz) = true)) ∧ ((tbit p 2 = true → isSp (if isIn then pf r 8 8 else pf r 24 8) = false)) ∧ own.all (windowPresent s.m) = true ∧ own.any (fun a => meetsZeroing s.m a sz) = false ∧ segs.any (fun a => wayOverlaps s.m isIn (slotOf r) a sz) = false ∧ ((∀ e ∈ sets, e.2.keeper = slotOf r ∨ has e.2.bound (slotOf r) = true)) ∧ ((sets = [] ∨ tbit p 4 = true ∨ (tbit p 1 = false ∧ tbit p 2 = false)))) ∧
    (∃ s : State, ∃ r, ∃ ks, ∃ m, ks = (List.range (pf r 4 4)).map (fun i => wayAt s.m (pf r 0 1 == 1) (pf r 1 1) (handleOf s.m (slotOf r)) (pf r 8 8 + i * segBytes (pf r 1 1))) ∧ m = (newOp { s.m with fab := { s.m.fab with waymap := ks.foldl (fun t k => match k with | some k => tset noWay t k noWay | none => t) s.m.fab.waymap } } r.port 0x0804 (slotOf r)).1 ∧ Passes 0x0804 aH .active (lenIs 16) (resvAt [(2, 2)]) r s ∧ pf r 0 1 ≤ 1 ∧ pf r 1 1 ≤ 2 ∧ 1 ≤ pf r 4 4 ∧ pf r 4 4 ≤ 4096 ∧ pf r 8 8 % segBytes (pf r 1 1) = 0 ∧ addrOk (pf r 8 8) = true ∧ ks.all Option.isSome = true) ∧
    (∃ s : State, ∃ r, Passes 0x0806 aH .none (lenIs 4) noResv r s ∧ 1 ≤ pf r 0 4 ∧ pf r 0 4 ≤ 1000) :=
  ⟨⟨run, (mk 0x0801 .host 0 (w2 [8191, 0])), passes_of (by decide +kernel), by decide +kernel⟩,
   ⟨act, (mk 0x0802 .host 4097 (w2 [1] ++ w1 [1, 0] ++ w4 [1] ++ zs 1024)), _, rfl, passes_of (by decide +kernel), by decide +kernel⟩,
   by
      obtain ⟨t, ht⟩ := some_of (x := putWays [] ((List.range 1).map (fun i => ({ noWay with valid := true, size := 2, read := true, write := true, atomic := true, module := 8191, owner := 4097, peer := 4097, target := 0 + i * 2 ^ 34, base := 0 + i * 2 ^ 34 } : WayEnt)))) (by decide +kernel)
      exact ⟨act, (mk 0x0803 .host 4097 (w1 [0, 2, 7, 0] ++ w4 [1, 0, 0] ++ w2 [8191, 4097] ++ w4 [0, 0, 0])), t, _, _, _, _, _, _, rfl, rfl, rfl, rfl, rfl, rfl, passes_of (by decide +kernel), ht, by decide +kernel⟩,
   ⟨(net act), (mk 0x0804 .host 4097 (w1 [0, 2, 0, 0] ++ w4 [1, 0, 0])), _, _, rfl, rfl, passes_of (by decide +kernel), by decide +kernel⟩,
   ⟨run, (mk 0x0806 .host 0 (w4 [1000])), passes_of (by decide +kernel), by decide +kernel⟩⟩

/-- What the clauses of `Obligations.ConvoyCommands` suppose can be met. -/
theorem test_ConvoyCommands_met :
    (∃ s : State, ∃ r, ∃ ext, ∃ bs, ∃ k, Passes 0x0807 aH .active (lenIs 12) noResv r s ∧ addrOk (pf r 0 8) = true ∧ 36 ≤ pf r 8 4 ∧ pf r 8 4 ≤ 32 + 4 * 8192 ∧ pf r 8 4 % 4 = 0 ∧ readRec s.m (slotOf r) (pf r 0 8) (pf r 8 4) ext = some bs ∧ convRecOk s.m r.handle.toNat bs = true ∧ findConv s.m (convRecOf bs).id (convRecOf bs).ctx = none ∧ (List.range 64).find? (fun k => (getConv s.m k).st == 0) = some k) ∧
    (∃ s : State, ∃ r, ∃ ext, ∃ bs, ∃ k, Passes 0x0807 aH .active (lenIs 12) noResv r s ∧ addrOk (pf r 0 8) = true ∧ 36 ≤ pf r 8 4 ∧ pf r 8 4 ≤ 32 + 4 * 8192 ∧ pf r 8 4 % 4 = 0 ∧ readRec s.m (slotOf r) (pf r 0 8) (pf r 8 4) ext = some bs ∧ convRecOk s.m r.handle.toNat bs = true ∧ findConv s.m (convRecOf bs).id (convRecOf bs).ctx = some k ∧ (getConv s.m k).rc.epoch ≠ (convRecOf bs).epoch) ∧
    (∃ s : State, ∃ r, Passes 0x0808 aH .active (lenIs 4) noResv r s ∧ pf r 0 4 < 64 ∧ ownsConv s.m (pf r 0 4) r.handle.toNat = true ∧ (getConv s.m (pf r 0 4)).st ≠ 2) ∧
    (∃ s : State, ∃ r, ∃ ext, ∃ bs, Passes 0x0809 aH .active (lenIs 16) noResv r s ∧ pf r 0 4 < 64 ∧ addrOk (pf r 4 8) = true ∧ 1 ≤ pf r 12 4 ∧ pf r 12 4 ≤ 256 ∧ ownsConv s.m (pf r 0 4) r.handle.toNat = true ∧ (getConv s.m (pf r 0 4)).st ≠ 2 ∧ readRec s.m (slotOf r) (pf r 4 8) (64 * pf r 12 4) ext = some bs ∧ ((List.range (pf r 12 4)).map (fun i => (bs.drop (64 * i)).take 64)).all (collOk (getConv s.m (pf r 0 4)).rc (getCtx s.m (slotOf r))) = true) ∧
    (∃ s : State, ∃ n, ∃ d, convLive s.m (getConv s.m n) = true ∧ (getConv s.m n).coll = none ∧ (getConv s.m n).st = 1 ∧ (getConv s.m n).sched[(getConv s.m n).next % (getConv s.m n).sched.length]? = some d ∧ trigMet s.m (getConv s.m n) d (d.target + (getConv s.m n).next / (getConv s.m n).sched.length * d.stride) = true) ∧
    (∃ s : State, ∃ n, ∃ q, ∃ d, convLive s.m (getConv s.m n) = true ∧ (getConv s.m n).coll = some q ∧ (getConv s.m n).sched[q.d]? = some d ∧ d.op = 6 ∧ 0 < q.opened ∧ q.opened < (collSteps (getConv s.m n).rc d).length ∧ q.opened ≤ q.stepsDone ∧ trigMet s.m (getConv s.m n) d (d.target + q.occ * d.stride + q.opened) = true) ∧
    (∃ s : State, ∃ pk, ∃ m1, ∃ n, ∃ c, ∃ d, ArrivesConv s.m 0x20 pk m1 n ∧ (getConv m1 n).coll = some c ∧ (getConv m1 n).sched[c.d]? = some d ∧ recNat pk.data 0 4 = c.layout ∧ recNat pk.data 12 4 = schedCheck d) ∧
    (∃ s : State, ∃ pk, ∃ m1, ∃ n, ∃ c, ∃ d, ∃ i, ∃ j, ∃ st, (collSteps (getConv m1 n).rc d)[i]? = some st ∧ cdataFits c st pk = true ∧ ArrivesConv s.m 0x21 pk m1 n ∧ (getConv m1 n).coll = some c ∧ (getConv m1 n).sched[c.d]? = some d ∧ findChunk d (collSteps (getConv m1 n).rc d) (pk.tag / 256) = some (i, j)) ∧
    (∃ s : State, ∃ pk, ∃ m1, ∃ n, ArrivesConv s.m 0x22 pk m1 n ∧ (getConv m1 n).st ≠ 3) ∧
    (∃ s : State, ∃ n, (getConv s.m n).st = 2) :=
  ⟨⟨(net act), (mk 0x0807 .host 4097 (w4 [0, 0, 40])), convBytes, convBytes, 0, passes_of (by decide +kernel), by decide +kernel⟩,
   ⟨(cvs { conv0 2 2 none with rc := { convRecOf convBytes with epoch := 5 } }), (mk 0x0807 .host 4097 (w4 [0, 0, 40])), convBytes, convBytes, 63, passes_of (by decide +kernel), by decide +kernel⟩,
   ⟨(cvs (conv0 3 2 none)), (mk 0x0808 .host 4097 (w4 [63])), passes_of (by decide +kernel), by decide +kernel⟩,
   ⟨(cvs (conv0 1 2 none)), (mk 0x0809 .host 4097 (w4 [63, 0, 0, 1])), (collBytes 2), (collBytes 2), passes_of (by decide +kernel), by decide +kernel⟩,
   ⟨(cvs (conv0 1 2 none)), 63, (collOf (collBytes 2)), by decide +kernel⟩,
   ⟨(cvs { conv0 2 6 (some coll0) with rc := { convRecOf convBytes with members := [(0, 4097), (1, 4097), (2, 4097)] } }), 63, coll0, (collOf (collBytes 6)), by decide +kernel⟩,
   ⟨(rel (cvs (conv0 2 2 (some coll0))) (pkt0 0x20 (65536 + 1) (zs 12 ++ w4 [schedCheck (collOf (collBytes 2))]))), (pkt0 0x20 (65536 + 1) (zs 12 ++ w4 [schedCheck (collOf (collBytes 2))])), (cvs (conv0 2 2 (some coll0))).m, 63, coll0, (collOf (collBytes 2)), by decide +kernel⟩,
   by
      obtain ⟨st, hs⟩ := some_of (x := (collSteps (convRecOf convBytes) (collOf (collBytes 2)))[0]?) (by decide +kernel)
      exact ⟨(rel (cvs (conv0 2 2 (some coll0))) (pkt0 0x21 (65536 + 1) (zs 32))), (pkt0 0x21 (65536 + 1) (zs 32)), (cvs (conv0 2 2 (some coll0))).m, 63, coll0, (collOf (collBytes 2)), 0, 0, st, hs, fits_of hs, by decide +kernel⟩,
   ⟨(rel (cvs (conv0 1 2 none)) (pkt0 0x22 (65536 + 1) (zs 32))), (pkt0 0x22 (65536 + 1) (zs 32)), (cvs (conv0 1 2 none)).m, 63, by decide +kernel⟩,
   ⟨(cvs (conv0 2 2 (some coll0))), 63, by decide +kernel⟩⟩

/-- What the clauses of `Obligations.ChannelCommands` suppose can be met. -/
theorem test_ChannelCommands_met :
    (∃ s : State, ∃ r, ∃ x, ∃ y, ∃ rx, ∃ tx, ∃ m, rx = (pf r 2 1 == 2 || pf r 2 1 == 3) ∧ tx = (pf r 2 1 == 1 || pf r 2 1 == 3) ∧ x = getChan s.m (pf r 0 2) ∧ y = ({ ctx := r.handle.toNat, units := if x.send.isSome || x.recv.isSome then x.units else 0, send := if tx then some { array := pf r 4 2, window := pf r 6 1, peerM := pf r 8 2, peerC := pf r 10 2, unit := 2048 * pf r 12 2, timeout := pf r 18 2, credits := 0, sent := 0 } else x.send, recv := if rx then some { array := pf r 4 2, window := pf r 6 1, peerM := pf r 8 2, peerC := pf r 10 2, unit := 2048 * pf r 12 2, min := pf r 14 2, quota := pf r 16 2, timeout := pf r 18 2, out := 0, held := [], parts := [], next := 0, credited := 0 } else x.recv } : Chan) ∧ m = modChan (forgetChan s.m (pf r 0 2)) (pf r 0 2) (fun _ => y) ∧ Passes 0x080A aH .active (lenIs 20) (resvAt [(3, 1), (7, 1)]) r s ∧ pf r 0 2 < 4096 ∧ 1 ≤ pf r 2 1 ∧ pf r 2 1 ≤ 3 ∧ pf r 4 2 < 1024 ∧ (shareOf (getCtx s.m (slotOf r)) (pf r 4 2)).isSome = true ∧ pf r 6 1 < 16 ∧ pf r 8 2 < 8192 ∧ pf r 10 2 < 4096 ∧ 1 ≤ pf r 12 2 ∧ pf r 12 2 ≤ 32 ∧ ((rx = true → pf r 12 2 ≤ pf r 14 2 ∧ pf r 14 2 ≤ pf r 16 2 ∧ pf r 16 2 ≤ 16384 ∧ csvMin s.m (pf r 4 2 / 256) + pf r 14 2 ≤ 16384)) ∧ 1 ≤ pf r 18 2 ∧ pf r 18 2 ≤ 1000 ∧ (physOf s.m (pf r 4 2)).isSome = true ∧ (((x.send = none ∧ x.recv = none) ∨ (x.ctx = r.handle.toNat ∧ (tx = true → x.send = none) ∧ (rx = true → x.recv = none))))) ∧
    (∃ s : State, ∃ r, Passes 0x080B aH .active (lenIs 4) (resvAt [(2, 2)]) r s ∧ pf r 0 2 < 4096 ∧ (((getChan s.m (pf r 0 2)).send.isSome = true ∨ (getChan s.m (pf r 0 2)).recv.isSome = true)) ∧ (getChan s.m (pf r 0 2)).ctx = r.handle.toNat) ∧
    (∃ s : State, ∃ n, ∃ q, ∃ p, (getChan s.m n).send = some q ∧ physOf s.m q.array = some p ∧ sendReadyChan s.m (getChan s.m n) q p = true) ∧
    (∃ s : State, ∃ n, ∃ q, ∃ h, h = s ∧ (getChan s.m n).send = some q ∧ (getChan s.m n).recv = none ∧ q.credits = 0) ∧
    (∃ s : State, ∃ pk, ∃ m1, ∃ n, ∃ h, ArrivesChan s.m 0x24 pk m1 n ∧ (getChan m1 n).recv = some h) ∧
    (∃ s : State, ∃ n, ∃ h, ∃ u, ∃ rest, ∃ p, (getChan s.m n).recv = some h ∧ h.held = u :: rest ∧ physOf s.m h.array = some p ∧ mayProduce s.m n (getChan s.m n) h u p = true) ∧
    (∃ s : State, ∃ pk, ∃ m1, ∃ n, ArrivesChan s.m 0x25 pk m1 n) ∧
    (∃ s : State, ∃ pk, ∃ m1, ∃ n, ArrivesChan s.m 0x26 pk m1 n) ∧
    (∃ s : State, ∃ n, ∃ q, ∃ p, (getChan s.m n).send = some q ∧ physOf s.m q.array = some p ∧ q.credits = 0 ∧ q.unit ≤ winFill (getWin (getBlk s.m p) q.window)) ∧
    (∃ m : Mach, ∃ n, (((getChan m n).send.isSome = true ∨ (getChan m n).recv.isSome = true))) :=
  ⟨⟨act, (mk 0x080A .host 4097 (w2 [4095] ++ w1 [3, 0] ++ w2 [3] ++ w1 [15, 0] ++ w2 [8191, 4095, 32, 32, 16384, 1000])), _, _, _, _, _, rfl, rfl, rfl, rfl, rfl, passes_of (by decide +kernel), by decide +kernel⟩,
   ⟨(chn { ctx := 4097, send := some sendH, recv := none, units := 0 } 0), (mk 0x080B .host 4097 (w2 [4095, 0])), passes_of (by decide +kernel), by decide +kernel⟩,
   ⟨(chn { ctx := 4097, send := some { sendH with credits := 1 }, recv := none, units := 0 } 2048), 4095, ({ sendH with credits := 1 }), 3, by decide +kernel⟩,
   ⟨(chn { ctx := 4097, send := some sendH, recv := none, units := 0 } 2048), 4095, sendH, _, rfl, by decide +kernel⟩,
   ⟨(rel (chn { ctx := 4097, send := none, recv := some recvH, units := 0 } 0) (pkt0 0x24 (65536 * 4095) (zs 32))), (pkt0 0x24 (65536 * 4095) (zs 32)), (chn { ctx := 4097, send := none, recv := some recvH, units := 0 } 0).m, 4095, recvH, ⟨by decide +kernel, by decide +kernel, by decide +kernel, .inr ⟨recvH, by decide +kernel⟩⟩, by decide +kernel⟩,
   ⟨(chn { ctx := 4097, send := none, recv := some { recvH with held := [{ data := [], poison := [], judged := true }] }, units := 0 } 0), 4095, ({ recvH with held := [{ data := [], poison := [], judged := true }] }), ({ data := [], poison := [], judged := true }), [], 3, by decide +kernel⟩,
   ⟨(rel (chn { ctx := 4097, send := some sendH, recv := none, units := 0 } 0) (pkt0 0x25 (65536 * 4095) (zs 32))), (pkt0 0x25 (65536 * 4095) (zs 32)), (chn { ctx := 4097, send := some sendH, recv := none, units := 0 } 0).m, 4095, ⟨by decide +kernel, by decide +kernel, by decide +kernel, .inl ⟨sendH, by decide +kernel⟩⟩⟩,
   ⟨(rel (chn { ctx := 4097, send := some sendH, recv := none, units := 0 } 0) (pkt0 0x26 (65536 * 4095) (zs 32))), (pkt0 0x26 (65536 * 4095) (zs 32)), (chn { ctx := 4097, send := some sendH, recv := none, units := 0 } 0).m, 4095, ⟨by decide +kernel, by decide +kernel, by decide +kernel, .inl ⟨sendH, by decide +kernel⟩⟩⟩,
   ⟨(chn { ctx := 4097, send := some sendH, recv := none, units := 0 } 2048), 4095, sendH, 3, by decide +kernel⟩,
   ⟨(chn { ctx := 4097, send := some sendH, recv := none, units := 0 } 0).m, 4095, by decide +kernel⟩⟩

/-- What the clauses of `Obligations.TwinCommands` suppose can be met. -/
theorem test_TwinCommands_met :
    (∃ s : State, ∃ r, ∃ copy : Nat, ∃ rs : List (Nat × Nat), ∃ tiles, rs = (List.range (pf r 16 4)).map (fun i => (pf r (24 + 16 * i) 8, pf r (32 + 16 * i) 8)) ∧ Passes 0x080D aH .active (fun p => 24 ≤ p.length && p.length == 24 + 16 * recNat p 16 4) (resvAt [(20, 4)]) r s ∧ (rs ++ [(pf r 8 8, areaBytes)]).foldl (fun (l : Option (List Nat)) q => match l, tileAddrs s.m (slotOf r) 0x03 q.1 q.2 with | some l, some k => some (l ++ k) | _, _ => none) (some []) = some tiles ∧ pf r 0 2 < 8192 ∧ pf r 4 4 ≤ 1000 ∧ addrOk (pf r 8 8) = true ∧ pf r 8 8 % 2048 = 0 ∧ 1 ≤ pf r 16 4 ∧ pf r 16 4 ≤ 64 ∧ rs.all (fun q => addrOk q.1 && q.1 % 2048 == 0 && q.2 % 2048 == 0 && q.2 != 0) = true ∧ rs.foldl (fun a q => a + q.2) 0 + areaBytes = copy ∧ s.m.ctxs.foldl (fun a e => a + (if e.1 = slotOf r then 0 else match e.2.el.src with | some s => 2048 * s.ranges | none => 0)) 0 + rs.foldl (fun a q => a + q.2) 0 ≤ 0x8000000000) ∧
    (∃ s : State, ∃ r, ∃ g, ∃ n, AcceptsTwin r s g ∧ ((∀ k o, (k, some o) ∈ s.m.twins → sameAreas o g = false)) ∧ n = ((List.range (s.m.twins.length + 1)).find? (fun k => (tget none s.m.twins k).isNone)).getD 0) ∧
    (∃ s : State, ∃ r, ∃ g, ∃ n, ∃ o, AcceptsTwin r s g ∧ s.m.twins.findSome? (fun e => e.2.bind (fun o => if sameAreas o g then some (e.1, o) else none)) = some (n, o)) ∧
    (∃ s : State, ∃ r, ∃ src, ∃ q, q = newOp s.m r.port 0x080E (slotOf r) ∧ Passes 0x080E aH .active (lenIs 24) (resvAt [(2, 2)]) r s ∧ pf r 0 2 < 8192 ∧ pf r 16 8 = (pf r 8 8 + 1) % 2 ^ 64 ∧ inFlight (getCtx s.m (slotOf r)) = [] ∧ (getCtx s.m (slotOf r)).el.restore = none ∧ (getCtx s.m (slotOf r)).el.park = none ∧ (getCtx s.m (slotOf r)).el.src = some src ∧ src.peerM = pf r 0 2) ∧
    (∃ s : State, ∃ c, ∃ src, ∃ st, ∃ src', (getCtx (saveForCommit s.m c st src) c).el.src = some src' ∧ (getCtx s.m c).el.src = some src ∧ commitStep (getCtx s.m c) = some st ∧ src.commit = none ∧ (getCtx s.m c).el.restore = none ∧ (getCtx s.m c).st = .active) ∧
    (∃ s : State, ∃ pk, ∃ m1, ∃ n, ∃ g, Arrives s.m 0x38 pk m1 ∧ regOf m1 pk = some (n, g) ∧ tileFits g pk = true) ∧
    (∃ s : State, ∃ pk, ∃ m1, ∃ n, ∃ g, Arrives s.m 0x39 pk m1 ∧ regOf m1 pk = some (n, g) ∧ g.inHand.length = recNat pk.data 8 4 ∧ ((recNat pk.data 12 1 ≠ 0 ∨ ∀ e ∈ g.inHand, e.2 = noTile))) ∧
    (∃ s : State, ∃ pk, ∃ m1, ∃ n, ∃ g, Arrives s.m 0x39 pk m1 ∧ regOf m1 pk = some (n, g) ∧ g.inHand.length = recNat pk.data 8 4 ∧ recNat pk.data 12 1 = 0 ∧ ((∃ e ∈ g.inHand, e.2 ≠ noTile))) ∧
    (∃ s : State, ∃ pk, ∃ m1, ∃ src, ∃ k, Arrives s.m 0x3A pk m1 ∧ srcOf m1 pk = some src ∧ src.commit = some k ∧ recNat pk.data 0 8 = k.step) ∧
    (∃ s : State, ∃ pk, ∃ m1, ∃ src, ∃ k, Arrives s.m 0x3B pk m1 ∧ srcOf m1 pk = some src ∧ src.commit = some k ∧ recNat pk.data 0 8 = k.step) ∧
    (∃ s : State, ∃ c, ∃ k, (getCtx s.m c).el.src.bind (·.commit) = some k) ∧
    (∃ s : State, ∃ pk, ∃ m1, ∃ n, ∃ g, Arrives s.m 0x3C pk m1 ∧ regNamed m1 pk = some (n, g) ∧ holdsStep g (recNat pk.data 0 8) = true) ∧
    (∃ s : State, ∃ pk, ∃ m1, ∃ src, ∃ e, Arrives s.m 0x3D pk m1 ∧ srcOf m1 pk = some src ∧ (getCtx m1 (pk.peer / 4096)).el.restore = some e) ∧
    (∃ s : State, ∃ pk, ∃ m1, ∃ src, ∃ e, Arrives s.m 0x3E pk m1 ∧ srcOf m1 pk = some src ∧ (getCtx m1 (pk.peer / 4096)).el.restore = some e ∧ recNat pk.data 12 1 = 0 ∧ e.got.length = recNat pk.data 8 4) ∧
    (∃ s : State, ∃ c, ∃ e, (getCtx s.m c).el.restore = some e) :=
  ⟨by
      obtain ⟨tiles, ht⟩ := some_of (x := (((List.range (pf twReq 16 4)).map (fun i => (pf twReq (24 + 16 * i) 8, pf twReq (32 + 16 * i) 8))) ++ [(pf twReq 8 8, areaBytes)]).foldl (fun (l : Option (List Nat)) q => match l, tileAddrs (own act).m (slotOf twReq) 0x03 q.1 q.2 with | some l, some k => some (l ++ k) | _, _ => none) (some [])) (by decide +kernel)
      exact ⟨(own act), twReq, (areaBytes + 2048), _, tiles, rfl, passes_of (by decide +kernel), ht, by decide +kernel⟩,
   ⟨(own act), (mk 0x080C .host 4097 (w2 [8191, 4097] ++ w1 [2, 0, 0, 0] ++ w4 [0, 0, 2048, 0, 0x100000, 0, 2048, 0, 0x200000, 0])), reg1, 0, ⟨passes_of (by decide +kernel), by decide +kernel⟩, (by intro k o h; cases h), by decide +kernel⟩,
   ⟨(onM (own act) (fun m => { m with twins := [(0, some { reg1 with peerM := 1, last := some 9 })] })), (mk 0x080C .host 4097 (w2 [8191, 4097] ++ w1 [2, 0, 0, 0] ++ w4 [0, 0, 2048, 0, 0x100000, 0, 2048, 0, 0x200000, 0])), reg1, 0, ({ reg1 with peerM := 1, last := some 9 }), ⟨passes_of (by decide +kernel), by decide +kernel⟩, by decide +kernel⟩,
   ⟨(twS (fun y => y)), (mk 0x080E .host 4097 (w2 [1, 0] ++ w4 [0, 0xFFFFFFFF, 0xFFFFFFFF, 0, 0])), src0, _, rfl, passes_of (by decide +kernel), by decide +kernel⟩,
   by
      obtain ⟨e, he⟩ := some_of (x := (getCtx (saveForCommit comS.m 1 0 src0) 1).el.src) (by decide +kernel)
      exact ⟨comS, 1, src0, 0, e, he, by decide +kernel⟩,
   ⟨(rel (twR) (pkt0 0x38 0 (zs 32))), (pkt0 0x38 0 (zs 32)), (twR).m, 0, reg0, by decide +kernel⟩,
   ⟨(rel (twR) (pkt0 0x39 0 (zs 32))), (pkt0 0x39 0 (zs 32)), (twR).m, 0, reg0, by decide +kernel⟩,
   ⟨(rel (onM twR (fun m => { m with twins := [(0, some { reg0 with inHand := [(0, { data := zs 2048, poison := [] })] })] })) (pkt0 0x39 0 (padTo 32 (zs 8 ++ w4 [1])))), (pkt0 0x39 0 (padTo 32 (zs 8 ++ w4 [1]))), (onM twR (fun m => { m with twins := [(0, some { reg0 with inHand := [(0, { data := zs 2048, poison := [] })] })] })).m, 0, ({ reg0 with inHand := [(0, { data := zs 2048, poison := [] })] }), by decide +kernel⟩,
   ⟨(rel (twS (fun y => { y with src := some { src0 with commit := some com0 } })) (pkt0 0x3A 0 (zs 32))), (pkt0 0x3A 0 (zs 32)), (twS (fun y => { y with src := some { src0 with commit := some com0 } })).m, ({ src0 with commit := some com0 }), com0, by decide +kernel⟩,
   ⟨(rel (twS (fun y => { y with src := some { src0 with commit := some com0 } })) (pkt0 0x3B 0 (zs 32))), (pkt0 0x3B 0 (zs 32)), (twS (fun y => { y with src := some { src0 with commit := some com0 } })).m, ({ src0 with commit := some com0 }), com0, by decide +kernel⟩,
   ⟨(twS (fun y => { y with src := some { src0 with commit := some com0 } })), 1, com0, by decide +kernel⟩,
   ⟨(rel (twR) (pkt0 0x3C 0 (zs 32))), (pkt0 0x3C 0 (zs 32)), (twR).m, 0, reg0, by decide +kernel⟩,
   ⟨(rel (twS (fun y => { y with restore := some res0 })) (pkt0 0x3D 0 (zs 32))), (pkt0 0x3D 0 (zs 32)), (twS (fun y => { y with restore := some res0 })).m, src0, res0, by decide +kernel⟩,
   ⟨(rel (twS (fun y => { y with restore := some res0 })) (pkt0 0x3E 0 (zs 32))), (pkt0 0x3E 0 (zs 32)), (twS (fun y => { y with restore := some res0 })).m, src0, res0, by decide +kernel⟩,
   ⟨(twS (fun y => { y with restore := some res0 })), 1, res0, by decide +kernel⟩⟩

/-- What the clauses of `Obligations.HostMemory` suppose can be met. -/
theorem test_HostMemory_met :
    (∃ s : State, ∃ a, ∃ n, ∃ single : List Nat, ∃ double : List Nat, ∃ m, m = bar2Bank s.m a n single double false ∧ bar2Stop s.m a n = none ∧ fenced s.m a = false ∧ isSp a = true) ∧
    (∃ s : State, ∃ a, ∃ n, ∃ single : List Nat, ∃ double : List Nat, ∃ ondie : Nat, ∃ k, ∃ m, m = throughCode (modCtl s.m k (fun x => { x with ondie := satAdd x.ondie ondie })) (tierTouched a n false) single double none ∧ bar2Stop s.m a n = none ∧ fenced s.m a = false ∧ isSp a = false ∧ ctlOf a = some k ∧ (getCtl s.m k).input = [] ∧ repairMet s.m (hostTierReq a n none single double ondie) = none ∧ repairMet m (hostTierReq a n none [] [] 0) = none) ∧
    (∃ s : State, ∃ a, ∃ data : List Byte, bar2Stop s.m a data.length = none ∧ fenced s.m a = false ∧ isSp a = true) ∧
    (∃ s : State, ∃ a, ∃ data : List Byte, ∃ single : List Nat, ∃ double : List Nat, ∃ ondie : Nat, ∃ k, ∃ m, m = throughCode (modCtl s.m k (fun x => { x with ondie := satAdd x.ondie ondie })) (tierTouched a data.length true) single double none ∧ bar2Stop s.m a data.length = none ∧ fenced s.m a = false ∧ isSp a = false ∧ ctlOf a = some k ∧ (getCtl s.m k).input = [] ∧ repairMet s.m (hostTierReq a data.length (some data) single double ondie) = none ∧ repairMet m (hostTierReq a data.length (some data) [] [] 0) = none) ∧
    (∃ s : State, ∃ a, ∃ n : Nat, ∃ data : Option (List Byte), ∃ single : List Nat, ∃ double : List Nat, ∃ ondie : Nat, ∃ k, ∃ len, ∃ q, ∃ r, len = (match data with | some d => d.length | none => n) ∧ q = hostTierReq a len data single double ondie ∧ bar2Stop s.m a len = none ∧ fenced s.m a = false ∧ isSp a = false ∧ ctlOf a = some k ∧ (getCtl s.m k).input = [] ∧ repairMet s.m q = some r ∧ heldAt s.m k < 64) ∧
    (∃ s : State, ∃ a, ∃ n : Nat, bar2Stop s.m a n = none ∧ fenced s.m a = true) ∧
    (∃ s : State, ∃ a, ∃ data : List Byte, bar2Stop s.m a data.length = none ∧ fenced s.m a = true) ∧
    (∃ s : State, ((s.m.pwr.boot ≠ .running ∨ s.m.pcie.linkUp = false))) ∧
    (∃ s : State, ∃ a, ∃ n, s.m.pwr.boot = .running ∧ s.m.pcie.linkUp = true ∧ s.m.pwr.st ≠ 3 ∧ s.m.rst.oos = false ∧ bar2Reaches a n = false) ∧
    (∃ s : State, ∃ a, ∃ data : List Byte, s.m.pwr.boot = .running ∧ s.m.pcie.linkUp = true ∧ s.m.pwr.st ≠ 3 ∧ s.m.rst.oos = false ∧ bar2Reaches a data.length = false) ∧
    (∃ s : State, s.m.pwr.boot = .running ∧ s.m.pcie.linkUp = true ∧ ((s.m.pwr.st = 3 ∨ s.m.rst.oos = true))) ∧
    (∃ s : State, s.m.pwr.boot = .running ∧ s.m.pcie.linkUp = true ∧ ((s.m.pwr.st = 3 ∨ s.m.rst.oos = true))) :=
  ⟨⟨run, (spBase + 0xBFFFF), 1, [], [], _, rfl, by decide +kernel⟩,
   ⟨run, 0x37A11D5FFF, 1, [], [], 0, 1, _, rfl, by decide +kernel⟩,
   ⟨run, (spBase + 0xBFFFF), [1], by decide +kernel⟩,
   ⟨run, 0x37A11D5FFF, [1], [], [], 0, 1, _, rfl, by decide +kernel⟩,
   ⟨rpr, 0, 64, none, [], [], 0, 0, _, _, rep0, rfl, rfl, by decide +kernel⟩,
   ⟨cordR, 0x37A11D5FFF, 1, by decide +kernel⟩,
   ⟨cordR, 0x37A11D5FFF, [1], by decide +kernel⟩,
   ⟨(onM run (fun m => { m with pcie := { m.pcie with linkUp := false } })), by decide +kernel⟩,
   ⟨run, 0x37A11D6000, 1, by decide +kernel⟩,
   ⟨run, 0x37A11D6000, [1], by decide +kernel⟩,
   ⟨(onM run (fun m => { m with pwr := { m.pwr with st := 3 } })), by decide +kernel⟩,
   ⟨(onM run (fun m => { m with rst := { m.rst with oos := true } })), by decide +kernel⟩⟩

/-- What the clauses of `Obligations.InputPower` suppose can be met. -/
theorem test_InputPower_met :
    (∃ s : State, ((s.m.pwr.boot = .dark ∨ inP4 s.m = true))) ∧
    (∃ s : State, inP4 s.m = true ∧ s.m.pwr.inputLow = false ∧ s.m.pwr.hotLatch = false) ∧
    (∃ s : State, inP4 s.m = true ∧ s.m.pwr.inputLow = false) ∧
    (∃ s : State, inP4 s.m = true ∧ s.m.pwr.hotLatch = true) ∧
    (∃ s : State, s.m.pwr.boot = .running ∧ s.m.pwr.st < 4 ∧ s.m.rst.inReset = false) ∧
    (∃ s : State, s.m.pwr.boot = .running ∧ chipFenced s.m = false) :=
  ⟨⟨State.reset, by decide +kernel⟩,
   ⟨inP4S, by decide +kernel⟩,
   ⟨inP4S, by decide +kernel⟩,
   ⟨(onP (inP4S) (fun p => { p with hotLatch := true })), by decide +kernel⟩,
   ⟨run, by decide +kernel⟩,
   ⟨run, by decide +kernel⟩⟩

/-- What the clauses of `Obligations.ClockLoops` suppose can be met. -/
theorem test_ClockLoops_met :
    (∃ s : State, ∃ w : Nat, ∃ p, p = { s.m.pwr with samples := (w :: s.m.pwr.samples).take 100, stepAt := min 100 (s.m.pwr.stepAt + 1), upAt := min 100 (s.m.pwr.upAt + 1) } ∧ chipRuns s.m = true ∧ mpStopped s.m = false) ∧
    (∃ s : State, chipRuns s.m = true ∧ mpStopped s.m = false) ∧
    (∃ s : State, chipRuns s.m = false) ∧
    (∃ s : State, chipRuns s.m = true ∧ mpStopped s.m = true) ∧
    (∃ n : Nat, ∃ f, f % 25 = 0 ∧ 200 + 25 * n ≤ f) ∧
    (∃ s : State, chipRuns s.m = true ∧ mpStopped s.m = false) ∧
    (∃ s : State, ((chipRuns s.m = false ∨ mpStopped s.m = true))) ∧
    (∃ s : State, ∃ q, ∃ m, ∃ n, q = (if alarmArmed s.m = true then raiseAlarm s.nv s.m 3 else (s.nv, s.m)) ∧ m = (if q.2.health.downSince = none then { q.2 with health := { q.2.health with downSince := some (now q.2) } } else q.2) ∧ n = enterP4 (teardownAll m 0x4001) ∧ s.m.pwr.boot ≠ .dark ∧ inP4 s.m = false ∧ s.m.rst.inReset = false) ∧
    (∃ s : State, ((s.m.pwr.boot = .dark ∨ inP4 s.m = true ∨ s.m.rst.inReset = true))) ∧
    (∃ s : State, s.m.pwr.boot = .running ∧ s.m.pwr.st < 4 ∧ s.m.rst.inReset = false) ∧
    (∃ top : Nat, ∃ f, f < top) :=
  ⟨⟨run, 3001, _, rfl, by decide +kernel⟩,
   ⟨run, by decide +kernel⟩,
   ⟨State.reset, by decide +kernel⟩,
   ⟨(onS (run) (fun c => { c with mpHalted := true })), by decide +kernel⟩,
   ⟨20, 700, by decide +kernel⟩,
   ⟨run, by decide +kernel⟩,
   ⟨State.reset, by decide +kernel⟩,
   ⟨run, _, _, _, rfl, rfl, rfl, by decide +kernel⟩,
   ⟨inP4S, by decide +kernel⟩,
   ⟨run, by decide +kernel⟩,
   ⟨700, 699, by decide +kernel⟩⟩

/-- What the clauses of `Obligations.Detections` suppose can be met. -/
theorem test_Detections_met :
    (∃ s : State, ∃ r : Nat, regionsOn s.m = true ∧ r < 4) ∧
    (∃ s : State, chipRuns s.m = true) ∧
    (∃ s : State, ∃ k, regionsOn s.m = true ∧ has allCtls k = true) ∧
    (∃ s : State, ∃ k : ClockLost, chipRuns s.m = true ∧ ((k = .aclk ∨ k = .nclk ∨ k = .mclk ∨ k = .roundTimer))) ∧
    (∃ s : State, ∃ k : Nat, k < 18 ∧ (getLink s.m k).st ≠ .down) ∧
    (∃ s : State, ∃ u : Nat, regionsOn s.m = true ∧ unitKind u = 0 ∧ unitIx u < 1088 ∧ ((unitSub u = 0 ∨ unitSub u = 3))) ∧
    (∃ s : State, ∃ u : Nat, regionsOn s.m = true ∧ unitKind u = 1 ∧ unitIx u < 4 ∧ 1 ≤ unitSub u ∧ unitSub u ≤ 3) ∧
    (∃ s : State, ∃ u : Nat, chipRuns s.m = true ∧ unitKind u = 2 ∧ unitSub u ≤ 2) ∧
    (∃ s : State, ((∀ t, s.m.rst.restartAt = some t → 3600 * 1000000000 ≤ now s.m - t)) ∧ chipRuns s.m = true ∧ s.m.rst.restarting = false) ∧
    (∃ s : State, ∃ t, chipRuns s.m = true ∧ s.m.rst.restarting = false ∧ s.m.rst.restartAt = some t ∧ now s.m - t < 3600 * 1000000000) ∧
    (∃ s : State, s.m.rst.restarting = true) ∧
    (∃ s : State, s.m.rst.restarting = true ∧ s.m.rst.waiting = []) :=
  ⟨⟨run, 3, by decide +kernel⟩,
   ⟨run, by decide +kernel⟩,
   ⟨run, 31, by decide +kernel⟩,
   ⟨run, .roundTimer, by decide +kernel⟩,
   ⟨(onM run (fun m => modLink m 17 (fun l => { l with st := .up }))), 17, by decide +kernel⟩,
   ⟨run, (unitBlk 1087 3), by decide +kernel⟩,
   ⟨run, (unitRgn 3 3), by decide +kernel⟩,
   ⟨run, (unitChip 2), by decide +kernel⟩,
   ⟨run, (by intro t h; exact absurd (show (none : Option Nat) = some t from h) (by simp)), by decide +kernel⟩,
   ⟨(onR run (fun r => { r with restartAt := some 0 })), 0, by decide +kernel⟩,
   ⟨(onR run (fun r => { r with restarting := true })), by decide +kernel⟩,
   ⟨(onR run (fun r => { r with restarting := true })), by decide +kernel⟩⟩

/-- What the clauses of `Obligations.SecurityEvents` suppose can be met. -/
theorem test_SecurityEvents_met :
    (∃ s : State, ∃ c : Nat, c < 4 ∧ alarmArmed s.m = true) ∧
    (∃ s : State, ∃ m, m = { s.m with sec := { s.m.sec with fuseRound := s.m.time.round.toNat } } ∧ alarmArmed s.m = true) ∧
    (∃ s : State, inP4 s.m = true) ∧
    (∃ s : State, inP4 s.m = false) ∧
    (∃ s : State, chipRuns s.m = true ∧ s.m.sec.locked = false ∧ dbgGrants s.m 2 = true) ∧
    (∃ s : State, ∃ p, chipRuns s.m = true ∧ s.m.sec.locked = false ∧ dbgGrants s.m 2 = true ∧ (getBlk s.m p).halted = true) ∧
    (∃ s : State, ∃ u, chipRuns s.m = true ∧ s.m.sec.locked = false ∧ dbgGrants s.m 3 = true ∧ unitExists u = true) ∧
    (∃ s : State, ∃ a, ∃ n, chipRuns s.m = true ∧ s.m.sec.locked = false ∧ dbgGrants s.m 4 = true ∧ n ≤ 4064 ∧ ((∀ i, i < n → isPopulated (a + i) = true))) ∧
    (∃ s : State, ∃ a, ∃ bs : List Byte, chipRuns s.m = true ∧ s.m.sec.locked = false ∧ dbgGrants s.m 4 = true ∧ bs.length ≤ 4064 ∧ ((∀ i, i < bs.length → isPopulated (a + i) = true))) ∧
    (∃ s : State, ((∀ i, dbgGrants s.m i = false))) ∧
    (∃ nv : NonVol, ∃ cond, ∃ level, level = nthN nv.policy.levels cond) :=
  ⟨⟨run, 3, by decide +kernel⟩,
   ⟨run, _, rfl, by decide +kernel⟩,
   ⟨inP4S, by decide +kernel⟩,
   ⟨run, by decide +kernel⟩,
   ⟨dbg, by decide +kernel⟩,
   ⟨(onM dbg (fun m => modBlk m 1087 (fun b => { b with halted := true }))), 1087, by decide +kernel⟩,
   ⟨dbg, (unitChip 0x21), by decide +kernel⟩,
   ⟨dbg, 0x37A11D5FF8, 8, by decide +kernel⟩,
   ⟨dbg, 0x37A11D5FF8, (zs 8), by decide +kernel⟩,
   ⟨run, fun _ => rfl⟩,
   ⟨nvReset, 6, _, rfl⟩⟩

/-- What the clauses of `Obligations.Attestation` suppose can be met. -/
theorem test_Attestation_met :
    (∃ s : State, ∃ b, spdmUp s.m b = true) ∧
    (∃ s : State, ∃ b, spdmUp s.m b = true ∧ (spdmOf s.m b).version = true) ∧
    (∃ s : State, ∃ b, ∃ spec : Nat, ∃ asym : Nat, ∃ hash : Nat, spdmUp s.m b = true ∧ (spdmOf s.m b).caps = true ∧ tbit spec 0 = true ∧ tbit asym 6 = true ∧ tbit hash 2 = true) ∧
    (∃ s : State, ∃ b, spdmUp s.m b = true ∧ (spdmOf s.m b).algs = true) ∧
    (∃ s : State, ∃ b, ∃ off : Nat, off < (spdmChain s.nv).length ∧ spdmUp s.m b = true ∧ (spdmOf s.m b).algs = true) ∧
    (∃ s : State, ∃ b, ∃ what : Nat, spdmUp s.m b = true ∧ (spdmOf s.m b).algs = true ∧ ((what = 0 ∨ what = 1 ∨ what = 255)) ∧ canSign s.nv s.m = true) ∧
    (∃ s : State, ∃ b, ∃ signed, ∃ slot : Nat, ∃ i, ∃ k : Nat, ∃ n : Nat, ∃ recs, (((i = 0 ∧ k = 7 ∧ n = 0 ∧ recs = []) ∨ (1 ≤ i ∧ i ≤ 7 ∧ k = 0 ∧ n = 1 ∧ recs = measBlock s.nv s.m i) ∨ (i = 255 ∧ k = 0 ∧ n = 7 ∧ recs = allBlocks s.nv s.m))) ∧ spdmUp s.m b = true ∧ (spdmOf s.m b).algs = true ∧ ((signed = true → slot = 0 ∧ canSign s.nv s.m = true))) ∧
    (∃ s : State, chipRuns s.m = true ∧ s.m.pcie.linkUp = true) ∧
    (∃ s : State, chipRuns s.m = true ∧ s.m.pcie.linkUp = true ∧ s.m.pcie.ide ≠ []) :=
  ⟨⟨(spd spdmReset), false, by decide +kernel⟩,
   ⟨(spd { spdmReset with version := true }), false, by decide +kernel⟩,
   ⟨(spd { spdmReset with caps := true }), false, 1, 64, 4, by decide +kernel⟩,
   ⟨(spd { version := true, caps := true, algs := true }), false, by decide +kernel⟩,
   ⟨(spd { version := true, caps := true, algs := true }), false, 3, chain_long, by decide +kernel⟩,
   ⟨(spd { version := true, caps := true, algs := true }), false, 255, by decide +kernel⟩,
   ⟨(spd { version := true, caps := true, algs := true }), false, true, 0, 0, 7, 0, [], .inl ⟨rfl, rfl, rfl, rfl⟩, by decide +kernel⟩,
   ⟨run, by decide +kernel⟩,
   ⟨(onM run (fun m => { m with pcie := { m.pcie with ide := [(0, [])] } })), by decide +kernel⟩⟩

/-- What the clauses of `Obligations.ManagementRounds` suppose can be met. -/
theorem test_ManagementRounds_met :
    (∃ s : State, ∃ f : RoundFacts, ∃ m, m = f.margins.foldl (fun m q => noteMargin m q.1 q.2.1 q.2.2) (takeTemps (upkeep { s.m with time := { s.m.time with round := satAdd s.m.time.round 1 } }) f) ∧ chipRuns s.m = true ∧ s.m.rst.restarting = false ∧ s.m.sec.mpHalted = false ∧ s.m.mgmt.accepted = []) ∧
    (∃ s : State, chipRuns s.m = true ∧ ((s.m.rst.restarting = true ∨ s.m.sec.mpHalted = true))) ∧
    (∃ s : State, chipRuns s.m = true) :=
  ⟨⟨run, ({ r0 with margins := [(0, 0, 1)] }), _, rfl, by decide +kernel⟩,
   ⟨(onR run (fun r => { r with restarting := true })), by decide +kernel⟩,
   ⟨run, by decide +kernel⟩⟩

/-- What the clauses of `Obligations.HealthScore` suppose can be met. -/
theorem test_HealthScore_met :
    (∃ h : HealthS, ((h.above ≠ none → h.published ≤ h.low))) ∧
    (∃ m : Mach, ∃ cold : Bool, ((m.health.above ≠ none → m.health.published ≤ m.health.low)) ∧ (clearForBoot m cold).health.above ≠ none) :=
  ⟨⟨({ healthReset with above := some 0, low := 1000 }), by decide +kernel⟩,
   ⟨(onM run (fun m => { m with health := { m.health with above := some 0, low := 1000 } })).m, false, by decide +kernel⟩⟩

/-- What the clauses of `Obligations.HangsAndResets` suppose can be met. -/
theorem test_HangsAndResets_met :
    (∃ s : State, ∃ u, watched s.m u = true ∧ s.m.rst.jobs.find? (fun j => domainRoot j.rung u == some j.domain) = none ∧ u ≠ unitChip 5) ∧
    (∃ s : State, watched s.m (unitChip 5) = true ∧ s.m.rst.jobs.find? (fun j => domainRoot j.rung (unitChip 5) == some j.domain) = none) ∧
    (∃ s : State, ∃ u, ∃ j, watched s.m u = true ∧ s.m.rst.jobs.find? (fun j => domainRoot j.rung u == some j.domain) = some j) ∧
    (∃ s : State, ∃ u, watched s.m u = false) ∧
    (∃ s : State, ∃ c, ∃ m, m = (slotsLeft s.m c).foldl (fun m k => haltMan m c k cRunHalted 0xFFFFFFFF) s.m ∧ c < 16 ∧ (getCtx s.m c).st = .active ∧ slotsLeft s.m c ≠ []) ∧
    (∃ s : State, ∃ dom, ∃ j, s.m.rst.jobs.find? (fun j => j.domain == dom) = some j) ∧
    (∃ s : State, mpStopped s.m = false) ∧
    (∃ s : State, mpStopped s.m = true) ∧
    (∃ s : State, ∃ dom, ∃ j, unitKind dom ≠ 3 ∧ s.m.rst.jobs.find? (fun j => j.domain == dom) = some j ∧ uncollected s.m j = true) ∧
    (∃ m : Mach, ∃ c, ∃ k, ∃ q, getMan m c k = some q ∧ q.halted = false) ∧
    (∃ s : State, ∃ dom, ∃ j, s.m.rst.jobs.find? (fun j => j.domain == dom) = some j ∧ uncollected s.m j = false ∧ j.rung = 2 ∧ unitKind dom = 0) ∧
    (∃ s : State, ∃ dom, ∃ j, s.m.rst.jobs.find? (fun j => j.domain == dom) = some j ∧ uncollected s.m j = false ∧ j.rung = 2 ∧ unitKind dom ≠ 0) ∧
    (∃ s : State, ∃ dom, ∃ j, s.m.rst.jobs.find? (fun j => j.domain == dom) = some j ∧ uncollected s.m j = false ∧ j.rung = 3) ∧
    (∃ s : State, ∃ dom, ∃ j, s.m.rst.jobs.find? (fun j => j.domain == dom) = some j ∧ uncollected s.m j = false ∧ j.rung = 4 ∧ j.requested = true) ∧
    (∃ s : State, ∃ dom, ∃ j, ∃ r, r = resetRgn s.m (unitIx dom) ∧ s.m.rst.jobs.find? (fun j => j.domain == dom) = some j ∧ uncollected s.m j = false ∧ j.rung = 4 ∧ j.requested = false) ∧
    (∃ s : State, ∃ dom, ∃ j, s.m.rst.jobs.find? (fun j => j.domain == dom) = some j ∧ j.rung = 5) ∧
    (∃ s : State, ∃ dom, ∃ j, unitKind dom ≠ 3 ∧ s.m.rst.jobs.find? (fun j => j.domain == dom) = some j ∧ uncollected s.m j = false ∧ ((j.rung = 3 ∨ j.rung = 4))) ∧
    (∃ s : State, ∃ dom, ∃ j, unitKind dom ≠ 3 ∧ s.m.rst.jobs.find? (fun j => j.domain == dom) = some j ∧ uncollected s.m j = false ∧ j.rung = 2) ∧
    (∃ s : State, ∃ dom, ∃ j, unitKind dom ≠ 3 ∧ s.m.rst.jobs.find? (fun j => j.domain == dom) = some j ∧ j.rung = 5 ∧ slotIn s.nv .try_ = none) ∧
    (∃ s : State, ∃ dom, ∃ j, unitKind dom ≠ 3 ∧ s.m.rst.jobs.find? (fun j => j.domain == dom) = some j ∧ j.rung = 5 ∧ slotIn s.nv .try_ ≠ none) ∧
    (∃ s : State, ∃ dom, unitKind dom = 3 ∧ unitIx dom < 16 ∧ (getCtx s.m (unitIx dom)).st = .teardown) :=
  ⟨⟨(onB run (fun b => { b with arr := { b.arr with running := some (ref0, 0) } })), (unitBlk 0 1), by decide +kernel⟩,
   ⟨run, by decide +kernel⟩,
   ⟨(onB (jobS (job0 3 (unitBlk 0 0))) (fun b => { b with arr := { b.arr with running := some (ref0, 0) } })), (unitBlk 0 1), (job0 3 (unitBlk 0 0)), by decide +kernel⟩,
   ⟨State.reset, (unitChip 0), by decide +kernel⟩,
   ⟨(withMan (man1 (img1 [wb0 []]) [])), 1, _, rfl, by decide +kernel⟩,
   ⟨(jobS (job0 3 ((unitBlk 1087 0)))), (unitBlk 1087 0), (job0 3 ((unitBlk 1087 0))), by decide +kernel⟩,
   ⟨run, by decide +kernel⟩,
   ⟨(onS (run) (fun c => { c with mpHalted := true })), by decide +kernel⟩,
   ⟨(onS (jobS (job0 3 (unitBlk 1087 0))) (fun c => { c with mpHalted := true })), (unitBlk 1087 0), (job0 3 (unitBlk 1087 0)), by decide +kernel⟩,
   ⟨(withMan (man1 (img1 [wb0 []]) [run0])).m, 1, 0, (man1 (img1 [wb0 []]) [run0]), by decide +kernel⟩,
   ⟨(jobS (job0 2 ((unitBlk 1087 2)))), (unitBlk 1087 2), (job0 2 ((unitBlk 1087 2))), by decide +kernel⟩,
   ⟨(jobS (job0 2 ((unitChip 3)))), (unitChip 3), (job0 2 ((unitChip 3))), by decide +kernel⟩,
   ⟨(jobS (job0 3 ((unitBlk 1087 0)))), (unitBlk 1087 0), (job0 3 ((unitBlk 1087 0))), by decide +kernel⟩,
   ⟨(jobS ({ job0 4 ((unitRgn 3 0)) with requested := true })), (unitRgn 3 0), ({ job0 4 ((unitRgn 3 0)) with requested := true }), by decide +kernel⟩,
   ⟨(jobS (job0 4 ((unitRgn 3 0)))), (unitRgn 3 0), (job0 4 ((unitRgn 3 0))), _, rfl, by decide +kernel⟩,
   ⟨(jobS (job0 5 ((unitChip 0)))), (unitChip 0), (job0 5 ((unitChip 0))), by decide +kernel⟩,
   ⟨(jobS (job0 4 ((unitRgn 3 0)))), (unitRgn 3 0), (job0 4 ((unitRgn 3 0))), by decide +kernel⟩,
   ⟨(jobS (job0 2 ((unitBlk 1087 2)))), (unitBlk 1087 2), (job0 2 ((unitBlk 1087 2))), by decide +kernel⟩,
   ⟨(jobS (job0 5 ((unitChip 0)))), (unitChip 0), (job0 5 ((unitChip 0))), by decide +kernel⟩,
   ⟨(onNv (jobS (job0 5 (unitChip 0))) (fun n => { n with slots := [{ fwEmpty with st := .active }, { fwEmpty with st := .try_ }] })), (unitChip 0), (job0 5 (unitChip 0)), by decide +kernel⟩,
   ⟨(actC (fun x => { x with st := .teardown })), (unitCtx 1 4097), by decide +kernel⟩⟩

/-- What the clauses of `Obligations.ArrayEvents` suppose can be met. -/
theorem test_ArrayEvents_met :
    (∃ s : State, ∃ p, ∃ st, ∃ w, ∃ ix, ∃ o, runningOn (getBlk s.m p) st = some w ∧ nextItem s.m w isArrayOp = some (ix, .arrayOp o) ∧ (getBlk s.m p).arr.running = none ∧ ((∀ x ∈ opOpens s.m (getBlk s.m p) w o, x = .ok)) ∧ ((has o.opens 1 = true → (getBlk s.m p).arr.queue = []))) ∧
    (∃ s : State, ∃ p, ∃ st, ∃ w, ∃ ix, ∃ o, runningOn (getBlk s.m p) st = some w ∧ nextItem s.m w isArrayOp = some (ix, .arrayOp o) ∧ (getBlk s.m p).arr.running = none ∧ ((∀ x ∈ opOpens s.m (getBlk s.m p) w o, x = .ok)) ∧ has o.opens 1 = true ∧ (getBlk s.m p).arr.queue ≠ [] ∧ (getBlk s.m p).arr.queue.length < 8) ∧
    (∃ m : Mach, ∃ p, ∃ r, ∃ o, ∃ mism, ∃ rest, ∃ m1, ∃ w, m1 = modBlk m p (fun b => modArr b (fun a => { a with queue := rest })) ∧ (getBlk m p).arr.queue = .load r o mism :: rest ∧ runningOn (getBlk m1 p) r.stream = some w) ∧
    (∃ s : State, ∃ p, ∃ st, ∃ w, ∃ ix, ∃ o, runningOn (getBlk s.m p) st = some w ∧ nextItem s.m w isArrayOp = some (ix, .arrayOp o) ∧ (getBlk s.m p).arr.running = none ∧ OpenRes.bad ∈ opOpens s.m (getBlk s.m p) w o) ∧
    (∃ s : State, ∃ p, ∃ q, (getBlk s.m p).arr.running = some q ∧ loadWaits (getBlk s.m p).arr = false) ∧
    (∃ s : State, ∃ p, ∃ st, ∃ w, ∃ ix, ∃ o, runningOn (getBlk s.m p) st = some w ∧ nextItem s.m w isDrain = some (ix, .drain o) ∧ drainBad s.m (getBlk s.m p) w o = false ∧ (getBlk s.m p).arr.queue.length < 8) ∧
    (∃ s : State, ∃ p, ∃ st, ∃ w, ∃ ix, ∃ o, runningOn (getBlk s.m p) st = some w ∧ nextItem s.m w isDrain = some (ix, .drain o) ∧ drainBad s.m (getBlk s.m p) w o = true) ∧
    (∃ s : State, ∃ p, ∃ j, ∃ js, ∃ step, ∃ m, step = ((runningOn (getBlk s.m p) j.ref.stream).map (·.step)).getD 0 ∧ m = (j.op.groups.zip (List.range j.op.groups.length)).foldl (fun m q => drainGroup p j step m q.2 q.1) s.m ∧ (getBlk s.m p).arr.queue = .drain j :: js ∧ drainFaults (getBlk s.m p).arr j = false) ∧
    (∃ s : State, ∃ p, ∃ j, ∃ js, ∃ step, ∃ m, step = ((runningOn (getBlk s.m p) j.ref.stream).map (·.step)).getD 0 ∧ m = (j.op.groups.zip (List.range j.op.groups.length)).foldl (fun m q => drainGroup p j step m q.2 q.1) s.m ∧ (getBlk s.m p).arr.queue = .drain j :: js ∧ drainFaults (getBlk s.m p).arr j = true) ∧
    (∃ m : Mach, ∃ p : Nat, ∃ j, ∃ g : Nat, drains (getBlk m p).arr j g = false) ∧
    (∃ s : State, ∃ p, ∃ st, ∃ w, ∃ ix, ∃ mask, runningOn (getBlk s.m p) st = some w ∧ nextItem s.m w isDiscard = some (ix, .discard mask) ∧ discardBad s.m (getBlk s.m p) w mask = false) ∧
    (∃ g : Nat, g < 8) ∧
    (∃ o : ArrayOp, ∃ i, i < (shapeOf o.shape).1 * (shapeOf o.shape).2) ∧
    (∃ o : ArrayOp, ∃ g, ((g < o.base ∨ o.base + (shapeOf o.shape).1 * (shapeOf o.shape).2 ≤ g))) ∧
    (∃ o : ArrayOp, ∃ i, nthN o.opens i ≠ 2) ∧
    (∃ o : ArrayOp, ∃ i, nthN o.opens i = 2) ∧
    (∃ valid : Nat, ∃ j : Nat, j < 32 ∧ valid ≤ 32) :=
  ⟨⟨(busy [.arrayOp (aop 0)]), 0, 1, (rw0 [.arrayOp (aop 0)]), 0, (aop 0), by decide +kernel⟩,
   ⟨(onB (busy [.arrayOp (aop 1)]) (fun b => { b with arr := { b.arr with queue := [.drain djob] } })), 0, 1, (rw0 [.arrayOp (aop 1)]), 0, (aop 1), by decide +kernel⟩,
   ⟨(onB (busy [.arrayOp (aop 1)]) (fun b => { b with arr := { b.arr with queue := [.load ref0 (aop 1) none] } })).m, 0, ref0, (aop 1), none, [], _, (rw0 [.arrayOp (aop 1)]), rfl, by decide +kernel⟩,
   ⟨(busy [.arrayOp (aop 2)]), 0, 1, (rw0 [.arrayOp (aop 2)]), 0, (aop 2), by decide +kernel⟩,
   ⟨(onB act (fun b => { b with arr := { b.arr with running := some (ref0, 0) } })), 0, (ref0, 0), by decide +kernel⟩,
   ⟨(busyG [.drain dop]), 0, 1, (rw0 [.drain dop]), 0, dop, by decide +kernel⟩,
   ⟨(busy [.drain dop]), 0, 1, (rw0 [.drain dop]), 0, dop, by decide +kernel⟩,
   ⟨(onB act (fun b => { b with arr := { b.arr with queue := [.drain djob] } })), 0, djob, [], _, _, rfl, rfl, by decide +kernel⟩,
   ⟨(onB act (fun b => { b with arr := { b.arr with queue := [.drain djob], groups := [(0, { open0 with st := .faulted })] } })), 0, djob, [], _, _, rfl, rfl, by decide +kernel⟩,
   ⟨(onB act (fun b => { b with arr := { b.arr with groups := [(0, { open0 with st := .faulted })] } })).m, 0, djob, 0, by decide +kernel⟩,
   ⟨(busyG [.discard 1]), 0, 1, (rw0 [.discard 1]), 0, 1, by decide +kernel⟩,
   ⟨7, by decide +kernel⟩,
   ⟨(aop 0), 0, by decide +kernel⟩,
   ⟨(aop 0), 1, by decide +kernel⟩,
   ⟨(aop 0), 0, by decide +kernel⟩,
   ⟨(aop 2), 0, by decide +kernel⟩,
   ⟨32, 31, by decide +kernel⟩⟩

/-- What the clauses of `Obligations.VectorOperations` suppose can be met. -/
theorem test_VectorOperations_met :
    (∃ s : State, ∃ p, ∃ st, ∃ mism, ∃ w, ∃ ix, ∃ op, ∃ a, veStart p s.m w ix op mism = .go a ∧ (getBlk s.m p).ve.running = none ∧ turnOf (getBlk s.m p) (hasVector s.m (getBlk s.m p)) = some st ∧ runningOn (getBlk s.m p) st = some w ∧ nextItem s.m w isVector = some (ix, .vector op)) :=
  by
      obtain ⟨a, ha⟩ := go_of (r := veStart 0 (busy [.vector vop]).m (rw0 [.vector vop]) 0 vop none) (by decide +kernel)
      exact ⟨(busy [.vector vop]), 0, 1, none, (rw0 [.vector vop]), 0, vop, a, ha, by decide +kernel⟩

/-- What the clauses of `Obligations.VectorResults` suppose can be met. -/
theorem test_VectorResults_met :
    (∃ a : VArgs, opMode a.op = .rne) ∧
    (∃ a : VArgs, ∃ e, ∃ code : Nat, a.cut = some (e, code) ∧ e < (outS a 0).n) :=
  ⟨⟨varg, by decide +kernel⟩,
   ⟨({ varg with outs := [{ pl := .direct 0 0, n := 1, fmt := 0 }], cut := some (0, 5) }), 0, 5, by decide +kernel⟩⟩

/-- What the clauses of `Obligations.EngineEvents` suppose can be met. -/
theorem test_EngineEvents_met :
    (∃ s : State, ∃ p, ∃ r, ∃ m1, m1 = modBlk s.m p (fun b => let b := endStreams (noteFlags b r.ref r.nf.length r.nf.length (r.nf.map (fun e => (0, e))) []) r true; { b with ve := { b.ve with running := none, late := b.ve.late ++ r.tags.map (fun t => (t, r.ref)) } }) ∧ (getBlk s.m p).ve.running = some r ∧ veOver s.m r = true ∧ r.code = 0 ∧ r.poisoned = false) ∧
    (∃ s : State, ∃ p, ∃ r, (getBlk s.m p).ve.running = some r ∧ veOver s.m r = false) ∧
    (∃ m : Mach, ∃ r, veOver m r = true) ∧
    (∃ s : State, ∃ p, ∃ st, ∃ w, ∃ m, ∃ f, m = noteHolds s.m p w ∧ runningOn (getBlk s.m p) st = some w ∧ (getBlk s.m p).pm.stalled = none ∧ (getBlk s.m p).pm.flight.length < 4 ∧ turnOf (getBlk m p) (fun w => (pmFirst m (getBlk m p) w).isSome) = some st ∧ pmFirst m (getBlk m p) w = some f ∧ ringStalls (getBlk m p) w.ctx f.desc = false) ∧
    (∃ s : State, ∃ p, ∃ st, ∃ w, ∃ m, ∃ f, m = noteHolds s.m p w ∧ runningOn (getBlk s.m p) st = some w ∧ (getBlk s.m p).pm.stalled = none ∧ (getBlk s.m p).pm.flight.length < 4 ∧ turnOf (getBlk m p) (fun w => (pmFirst m (getBlk m p) w).isSome) = some st ∧ pmFirst m (getBlk m p) w = some f ∧ ringStalls (getBlk m p) w.ctx f.desc = true) ∧
    (∃ s : State, ∃ p : Nat, ∃ st, turnOf (getBlk s.m p) (hasVector s.m (getBlk s.m p)) ≠ some st) ∧
    (∃ s : State, ∃ p, ∃ st, ∃ w, ∃ m, m = noteHolds s.m p w ∧ runningOn (getBlk s.m p) st = some w ∧ (getBlk s.m p).pm.stalled = none ∧ (getBlk s.m p).pm.flight.length < 4 ∧ turnOf (getBlk m p) (fun w => (pmFirst m (getBlk m p) w).isSome) ≠ some st) ∧
    (∃ m : Mach, ∃ b, ∃ w, ∃ f, pmFirst m b w = some f) ∧
    (∃ s : State, ∃ p, ∃ f, (getBlk s.m p).pm.flight.find? flightOver = some f) ∧
    (∃ s : State, ∃ p : Nat, (getBlk s.m p).pm.flight.find? flightOver = none) ∧
    (∃ s : State, ∃ p, ∃ f, (getBlk s.m p).ve.running = none ∧ (getBlk s.m p).pm.stalled = some f ∧ ringStalls (getBlk s.m p) f.ref.ctx f.desc = false) ∧
    (∃ s : State, ∃ p, ∃ r, ∃ w, ∃ x, ∃ op, ∃ a, veStart p s.m w r.ref.item op none = .go a ∧ (getBlk (veApply a (vecBody op a)) p).pm.stalled = none ∧ (getBlk s.m p).ve.running = some r ∧ r.ringStall = true ∧ runningOn (getBlk s.m p) r.ref.stream = some w ∧ w.code = 0 ∧ getMan s.m r.ref.ctx r.ref.man = some x ∧ (bodyOf x.img w.wb)[r.ref.item]? = some (.vector op)) :=
  ⟨⟨(onB act (fun b => { b with ve := { b.ve with running := some vrun } })), 0, vrun, _, rfl, by decide +kernel⟩,
   ⟨(onB act (fun b => { b with ve := { b.ve with running := some { vrun with opcode := 0x30, tags := [1] } } })), 0, ({ vrun with opcode := 0x30, tags := [1] }), by decide +kernel⟩,
   ⟨act.m, vrun, by decide +kernel⟩,
   ⟨(busy [.premutar (dsc false)]), 0, 1, (rw0 [.premutar (dsc false)]), _, (nextPm (busy [.premutar (dsc false)]) (dsc false)), rfl, by decide +kernel⟩,
   ⟨(onB (busy [.premutar (dsc true)]) (fun b => { b with sp := { b.sp with wins := [(15, ringFull)] } })), 0, 1, (rw0 [.premutar (dsc true)]), _, (nextPm (onB (busy [.premutar (dsc true)]) (fun b => { b with sp := { b.sp with wins := [(15, ringFull)] } })) (dsc true)), rfl, by decide +kernel⟩,
   ⟨act, 0, 1, by decide +kernel⟩,
   ⟨(busy [.barrier 0]), 0, 1, (rw0 [.barrier 0]), _, rfl, by decide +kernel⟩,
   ⟨(busy [.premutar (dsc false)]).m, (getBlk (busy [.premutar (dsc false)]).m 0), (rw0 [.premutar (dsc false)]), (nextPm (busy [.premutar (dsc false)]) (dsc false)), by decide +kernel⟩,
   ⟨(onB act (fun b => { b with pm := { b.pm with flight := [flt] } })), 0, flt, by decide +kernel⟩,
   ⟨act, 0, by decide +kernel⟩,
   ⟨(onB act (fun b => { b with pm := { b.pm with stalled := some flt } })), 0, flt, by decide +kernel⟩,
   by
      obtain ⟨a, ha⟩ := go_of (r := veStart 0 vst.m (rw0 [.vector vop]) 0 vop none) (by decide +kernel)
      exact ⟨vst, 0, ({ vrun with ringStall := true }), (rw0 [.vector vop]), (manB [.vector vop]), vop, a, ha, stall_of ha, by decide +kernel⟩⟩

/-- What the clauses of `Obligations.ScratchpadEvents` suppose can be met. -/
theorem test_ScratchpadEvents_met :
    (∃ s : State, ∃ p, ∃ master : Nat, ∃ c, ∃ off, ∃ n, ∃ data : Option (List Byte), ((∀ d, data = some d → d.length = n)) ∧ fenced s.m (spAddr p 0) = false ∧ inLine off n = true ∧ ((master = 6 ∨ bankAllowed s.m p c off n = true)) ∧ master ≠ 0 ∧ nthN (getBlk s.m p).sp.owner (off / 0x20000) = master) ∧
    (∃ s : State, ∃ p, ∃ master : Nat, ∃ c, ∃ off, ∃ n, ∃ data : Option (List Byte), ((∀ d, data = some d → d.length = n)) ∧ fenced s.m (spAddr p 0) = false ∧ inLine off n = true ∧ ((master = 6 ∨ bankAllowed s.m p c off n = true)) ∧ nthN (getBlk s.m p).sp.owner (off / 0x20000) ≠ master ∧ nthN (getBlk s.m p).sp.owner (off / 0x20000) ≠ 0 ∧ (bankQueue (getBlk s.m p).sp (off / 0x20000) data.isSome).length < 16) ∧
    (∃ s : State, ∃ p, ∃ master : Nat, ∃ c, ∃ off, ∃ n, ∃ data : Option (List Byte), ((∀ d, data = some d → d.length = n)) ∧ fenced s.m (spAddr p 0) = false ∧ inLine off n = true ∧ master ≠ 6 ∧ bankAllowed s.m p c off n = false) ∧
    (∃ s : State, ∃ p, ∃ master : Nat, ∃ c, ∃ off, ∃ data : List Byte, ∃ y, y = (getBlk s.m p).sp.aliasBank * 0x20000 + off % 0x20000 ∧ fenced s.m (spAddr p 0) = false ∧ 0xC0000 < off + data.length ∧ aliasAllows s.m c (spAddr p off) data.length true = true ∧ ((master = 6 ∨ bankAllowed s.m p c y data.length = true)) ∧ master ≠ 0 ∧ nthN (getBlk s.m p).sp.owner (y / 0x20000) = master) ∧
    (∃ s : State, ∃ p, ∃ c, ∃ off, ∃ data : List Byte, fenced s.m (spAddr p 0) = false ∧ 0xC0000 < off + data.length ∧ aliasAllows s.m c (spAddr p off) data.length true = false) ∧
    (∃ s : State, ∃ p, ∃ bank, ∃ r : BankReq, ∃ rs, fenced s.m (spAddr p 0) = false ∧ bankQueue (getBlk s.m p).sp bank false = r :: rs) ∧
    (∃ s : State, ∃ p, ∃ bank, ∃ r : BankReq, ∃ rs, fenced s.m (spAddr p 0) = false ∧ bankQueue (getBlk s.m p).sp bank true = r :: rs) ∧
    (∃ s : State, ∃ p : Nat, ∃ bank : Nat, p < 1088 ∧ bank < 6 ∧ regionsOn s.m = true ∧ fenced s.m (spAddr p 0) = false) ∧
    (∃ m : Mach, ∃ p, ∃ r : BankReq, r.data = none ∧ r.aliasOp = none ∧ ((∀ g ∈ touched r.off r.len false, isPoison m (spAddr p g) = false))) ∧
    (∃ m : Mach, ∃ p, ∃ r : BankReq, r.data = none ∧ r.aliasOp = none ∧ ((∃ g ∈ touched r.off r.len false, isPoison m (spAddr p g) = true))) ∧
    (∃ r : BankReq, ∃ bs : List Byte, r.data = some bs ∧ r.aliasOp = none) ∧
    (∃ m : Mach, ∃ a, ∃ bs : List Byte, spBase ≤ a ∧ m.tier.regs = [] ∧ ((∀ i, i < bs.length → isPoison m (granOf (a + i)) = false))) :=
  ⟨⟨(banks 1), 0, 1, 1, 0xBFFF8, 8, none, (by intro d h; cases h), by decide +kernel⟩,
   ⟨(banks 2), 0, 1, 1, 0xBFFF8, 8, none, (by intro d h; cases h), by decide +kernel⟩,
   ⟨(actC (fun x => { x with par := { x.par with blocks := [{ array := 0, mask := 31, weight := 1 }] } })), 0, 1, 1, 0xBFFF8, 8, none, (by intro d h; cases h), by decide +kernel⟩,
   ⟨(onB (banks 1) (fun b => { b with sp := { b.sp with aliasOn := true, aliasBank := 5, aliasCtx := 1 } })), 0, 1, 1, 0xC0000, (zs 4), _, rfl, by decide +kernel⟩,
   ⟨(banks 1), 0, 1, 0xFFFFC, (zs 4), by decide +kernel⟩,
   ⟨(onB (act) (fun b => { b with sp := { b.sp with rdQueue := [(5, [bq0])] } })), 0, 5, bq0, [], by decide +kernel⟩,
   ⟨(onB (act) (fun b => { b with sp := { b.sp with wrQueue := [(5, [bq0])] } })), 0, 5, bq0, [], by decide +kernel⟩,
   ⟨run, 1087, 5, by decide +kernel⟩,
   ⟨run.m, 1087, bq0, by decide +kernel⟩,
   ⟨(onM run (fun m => { m with poison := [(spBase, true)] })).m, 0, bq0, by decide +kernel⟩,
   ⟨({ bq0 with data := some (zs 8) }), (zs 8), by decide +kernel⟩,
   ⟨run.m, spBase, (zs 8), by decide +kernel⟩⟩

/-- What the clauses of `Obligations.TierEvents` suppose can be met. -/
theorem test_TierEvents_met :
    (∃ s : State, ∃ a, ∃ n : Nat, ∃ data : Option (List Byte), ∃ k, ∃ len, len = (match data with | some d => d.length | none => n) ∧ ctlOf a = some k ∧ len ≠ 0 ∧ a / 4096 = (a + len - 1) / 4096 ∧ fenced s.m a = false) ∧
    (∃ s : State, ∃ a, ∃ n : Nat, ∃ data : Option (List Byte), ∃ k, ∃ len, len = (match data with | some d => d.length | none => n) ∧ ctlOf a = some k ∧ len ≠ 0 ∧ a / 4096 = (a + len - 1) / 4096 ∧ fenced s.m a = true) ∧
    (∃ m : Mach, ∃ k, (getCtl m k).input ≠ []) ∧
    (∃ s : State, ∃ a, ∃ n, ∃ who : Option Nat, ∃ ref : Option (Nat × ItemRef), ∃ single : List Nat, ∃ double : List Nat, ∃ ondie : Nat, ∃ joins : Bool, ∃ k, ∃ m, m = throughCode (modCtl s.m k (fun x => { x with ondie := satAdd x.ondie ondie })) (tierTouched a n false) single double who ∧ ctlOf a = some k ∧ n ≠ 0 ∧ a / 4096 = (a + n - 1) / 4096 ∧ fenced s.m a = false ∧ (getCtl s.m k).input = [] ∧ repairMet s.m (tierReq a n none who ref single double ondie joins) = none ∧ 64 < n ∧ repairMet m (tierReq a n none who ref [] [] 0 joins) = none) ∧
    (∃ s : State, ∃ a, ∃ n, ∃ who : Option Nat, ∃ ref : Option (Nat × ItemRef), ∃ single : List Nat, ∃ double : List Nat, ∃ ondie : Nat, ∃ k, ∃ g, ∃ m, m = throughCode (modCtl (modCtl s.m k (fun x => { x with ondie := satAdd x.ondie ondie })) k (fun x => openNarrow k x g)) [g] single double who ∧ ctlOf a = some k ∧ n ≠ 0 ∧ a / 4096 = (a + n - 1) / 4096 ∧ fenced s.m a = false ∧ (getCtl s.m k).input = [] ∧ repairMet s.m (tierReq a n none who ref single double ondie false) = none ∧ n ≤ 64 ∧ granules a n = [g] ∧ repairMet m (tierReq a n none who ref [] [] 0 false) = none) ∧
    (∃ s : State, ∃ a, ∃ n, ∃ who : Option Nat, ∃ single : List Nat, ∃ double : List Nat, ∃ ondie : Nat, ∃ k, ∃ g, ∃ m, m = modCtl (modCtl s.m k (fun x => { x with ondie := satAdd x.ondie ondie })) k (fun x => { x with combined := satAdd x.combined 1, narrow := x.narrow.map (fun e => if e.1 = g then (e.1, e.2 + 1) else e) }) ∧ ctlOf a = some k ∧ n ≠ 0 ∧ a / 4096 = (a + n - 1) / 4096 ∧ fenced s.m a = false ∧ (getCtl s.m k).input = [] ∧ repairMet s.m (tierReq a n none who none single double ondie true) = none ∧ n ≤ 64 ∧ granules a n = [g] ∧ (getCtl s.m k).narrow.any (fun e => e.1 == g && e.2 < 64) = true ∧ repairMet m (tierReq a n none who none [] [] 0 true) = none) ∧
    (∃ s : State, ∃ a, ∃ d : List Byte, ∃ who : Option Nat, ∃ ref : Option (Nat × ItemRef), ∃ single : List Nat, ∃ double : List Nat, ∃ ondie : Nat, ∃ joins : Bool, ∃ k, ∃ m, m = throughCode (modCtl s.m k (fun x => { x with ondie := satAdd x.ondie ondie })) (tierTouched a d.length true) single double who ∧ ctlOf a = some k ∧ d.length ≠ 0 ∧ a / 4096 = (a + d.length - 1) / 4096 ∧ fenced s.m a = false ∧ (getCtl s.m k).input = [] ∧ repairMet s.m (tierReq a d.length (some d) who ref single double ondie joins) = none ∧ repairMet m (tierReq a d.length (some d) who ref [] [] 0 joins) = none) ∧
    (∃ s : State, ∃ a, ∃ n : Nat, ∃ data : Option (List Byte), ∃ who : Option Nat, ∃ ref : Option (Nat × ItemRef), ∃ single : List Nat, ∃ double : List Nat, ∃ ondie : Nat, ∃ joins : Bool, ∃ k, ∃ len, ∃ r, len = (match data with | some d => d.length | none => n) ∧ ctlOf a = some k ∧ len ≠ 0 ∧ a / 4096 = (a + len - 1) / 4096 ∧ fenced s.m a = false ∧ (getCtl s.m k).input = [] ∧ repairMet s.m (tierReq a len data who ref single double ondie joins) = some r) ∧
    (∃ a, ∃ r, ∃ o, ∃ x, a = r * 0x4000000000 + o ∧ x = o / 4096 / 3 * 4096 + o % 4096 ∧ r < 4 ∧ o < 0x37E11D6000) ∧
    (∃ a, ∃ r, ∃ o, ∃ x, a = 0x10000000000 + r * 0x8000000000 + o ∧ x = o / 4096 / 4 * 4096 + o % 4096 ∧ r < 4 ∧ o < 0x7735940000) ∧
    (∃ a, ∃ i, ∃ k, a < 0x10000000000 ∧ ctlOf a = some k ∧ a % 2048 = 0 ∧ i < 2048) :=
  ⟨⟨run, 0, 4096, none, 0, _, rfl, by decide +kernel⟩,
   ⟨cordR, 0, 4096, none, 0, _, rfl, by decide +kernel⟩,
   ⟨(onM run (fun m => modCtl m 0 (fun x => { x with input := [tierReq 0 64 none none none [] [] 0 false] }))).m, 0, by decide +kernel⟩,
   ⟨run, 0, 4096, none, none, [], [], 0, false, 0, _, rfl, by decide +kernel⟩,
   ⟨run, 0, 32, none, none, [], [], 0, 0, 0, _, rfl, by decide +kernel⟩,
   ⟨(onM run (fun m => modCtl m 0 (fun x => { x with narrow := [(0, 63)] }))), 0, 32, none, [], [], 0, 0, 0, _, rfl, by decide +kernel⟩,
   ⟨run, 0x10000000000, (zs 64), none, none, [], [], 0, false, 16, _, rfl, by decide +kernel⟩,
   ⟨rpr, 0, 64, none, none, none, [], [], 0, false, 0, _, rep0, rfl, by decide +kernel⟩,
   ⟨_, 3, 0x37E11D5FFF, _, rfl, rfl, by decide +kernel⟩,
   ⟨_, 3, 0x773593FFFF, _, rfl, rfl, by decide +kernel⟩,
   ⟨0, 2047, 0, by decide +kernel⟩⟩

/-- What the clauses of `Obligations.Upkeep` suppose can be met. -/
theorem test_Upkeep_met :
    (∃ s : State, ∃ k, ∃ ch, ∃ m, m = modCtl s.m k (fun x => { x with retiring := x.crossed.head?, crossed := x.crossed.drop 1, retired := insNat ch x.retired, poolSpent := (insNat ch x.retired).length == 2 }) ∧ (getCtl s.m k).retiring = some ch) ∧
    (∃ m : Mach, ∃ k, ∃ ch, (getCtl m k).retiring = none ∧ (getCtl m k).crossed = [] ∧ has (getCtl m k).retired ch = false ∧ (getCtl m k).retired.length < 2) ∧
    (∃ m : Mach, ∃ k, ∃ ch, 2 ≤ (getCtl m k).retired.length ∧ has (getCtl m k).retired ch = false ∧ (getCtl m k).retiring ≠ some ch ∧ has (getCtl m k).crossed ch = false) ∧
    (∃ s : State, ∃ k, ∃ hot : Bool, 16 ≤ k ∧ ((hot = true ∨ 1024 < (recent s.m (3600 * secNs) (getCtl s.m k).corr).length))) ∧
    (∃ s : State, ∃ k, 16 ≤ k ∧ (recent s.m (3600 * secNs) (getCtl s.m k).corr).length ≤ 1024 ∧ (getCtl s.m k).refreshX2 = true ∧ 24 * 3600 * secNs ≤ now s.m - (getCtl s.m k).coolSince) ∧
    (∃ s : State, ∃ a, ∃ q, s.m.zeroing.find? (fun q => q.1 == a) = some q ∧ ((∀ c, c < 16 → (getCtx s.m c).sv.zeroing = []))) ∧
    (∃ s : State, ∃ single : List Nat, ∃ double : List Nat, ∃ m, m = double.foldl (notePatrol s.m.fab.wayPatrol 1) (single.foldl (notePatrol s.m.fab.wayPatrol 0) s.m)) ∧
    (∃ s : State, ∃ a, ∃ k, ctlOf a = some k ∧ ((fenced s.m a = true ∨ bktCovers s.m k 32 = false))) ∧
    (∃ s : State, ∃ a, ∃ ends : Bool, ∃ ondie : Nat, ∃ k, ∃ m, m = modCtl (drawBkt s.m k 32) k (fun x => { x with ondie := satAdd x.ondie ondie, passes := if ends = true then satAdd x.passes 1 else x.passes }) ∧ ctlOf a = some k ∧ fenced s.m a = false ∧ bktCovers s.m k 32 = true) ∧
    (∃ s : State, ∃ k, k < 32 ∧ bktCovers s.m k calBytes = true) ∧
    (∃ s : State, ∃ k, k < 32 ∧ bktCovers s.m k calBytes = false) ∧
    (∃ m : Mach, ∃ b : Bucket, ∃ rate : Nat, ∃ cap : Nat, ∃ n : Nat, 10000 * n ≤ bktLevel m b rate cap) ∧
    (∃ m1 : Mach, ∃ m2 : Mach, now m1 ≤ now m2) :=
  ⟨⟨(onM run (fun m => modCtl m 15 (fun x => { x with retiring := some 63 }))), 15, 63, _, rfl, by decide +kernel⟩,
   ⟨run.m, 15, 63, by decide +kernel⟩,
   ⟨(onM run (fun m => modCtl m 15 (fun x => { x with retired := [1, 2] }))).m, 15, 63, by decide +kernel⟩,
   ⟨run, 16, true, by decide +kernel⟩,
   ⟨(onM run (fun m => modCtl { m with time := { m.time with counter := BitVec.ofNat 64 (24 * 3600 * secNs) } } 31 (fun x => { x with refreshX2 := true }))), 31, by decide +kernel⟩,
   ⟨(onM run (fun m => { m with zeroing := [(0, 2048)] })), 0, (0, 2048), by decide +kernel⟩,
   ⟨run, [0], [1], _, rfl⟩,
   ⟨run, 0, 0, by decide +kernel⟩,
   ⟨(late run), 0, true, 1, 0, _, rfl, by decide +kernel⟩,
   ⟨(late run), 31, by decide +kernel⟩,
   ⟨run, 31, by decide +kernel⟩,
   ⟨(late run).m, ({ level := 0, since := 0 }), linkRate, linkCap, 1, by decide +kernel⟩,
   ⟨run.m, (late run).m, by decide +kernel⟩⟩

/-- What the clauses of `Obligations.LinkEvents` suppose can be met. -/
theorem test_LinkEvents_met :
    (∃ s : State, ∃ k, ∃ raw, k < 18 ∧ (getLink s.m k).st = .up ∧ s.m.fab.module ≠ none ∧ raw.length = 256 ∧ crc64 (raw.take 248) ≠ recNat raw 248 8) ∧
    (∃ s : State, ∃ k, ∃ raw, ∃ fec, ∃ m, ∃ q, ∃ m1, m = takeAck (modLink s.m k (fun x => { x with fec := satAdd x.fec fec })) k (recNat raw 2 2) ∧ q = pkParseAll 16 ((getLink s.m k).rx ++ (raw.drop 4).take 244) ∧ m1 = modLink m k (fun x => { x with lastRecv := recNat raw 0 2 % 4096, heard := true, nakSent := false, rx := q.2 }) ∧ k < 18 ∧ (getLink s.m k).st = .up ∧ s.m.fab.module ≠ none ∧ raw.length = 256 ∧ crc64 (raw.take 248) = recNat raw 248 8 ∧ recNat raw 0 2 % 4096 ≠ 4095 ∧ (getLink m k).st = .up ∧ recNat raw 0 2 % 4096 = nextFlit (getLink s.m k).lastRecv) ∧
    (∃ s : State, ∃ k, ∃ raw, ∃ fec, ∃ m, m = takeAck (modLink s.m k (fun x => { x with fec := satAdd x.fec fec })) k (recNat raw 2 2) ∧ k < 18 ∧ (getLink s.m k).st = .up ∧ s.m.fab.module ≠ none ∧ raw.length = 256 ∧ crc64 (raw.take 248) = recNat raw 248 8 ∧ recNat raw 0 2 % 4096 ≠ 4095 ∧ (getLink m k).st = .up ∧ recNat raw 0 2 % 4096 ≠ nextFlit (getLink s.m k).lastRecv ∧ ((getLink s.m k).lastRecv + 4095 - recNat raw 0 2 % 4096) % 4095 < 512) ∧
    (∃ s : State, ∃ k, k < 18 ∧ (getLink s.m k).st = .up) ∧
    (∃ s : State, ∃ k, (getLink s.m k).st = .up ∧ (getLink s.m k).sent ≠ [] ∧ (getLink s.m k).sameReplays < 16) ∧
    (∃ s : State, ∃ k, (getLink s.m k).st = .up ∧ (getLink s.m k).sent ≠ [] ∧ 16 ≤ (getLink s.m k).sameReplays) ∧
    (∃ s : State, ∃ k, ∃ lane, ∃ m, m = report (modLink s.m k (fun x => { x with lanes := delNat lane x.lanes, failed := insNat lane x.failed, retraining := true })) 0x1003 clsCorrected (unitLink k) none 0 0 (leBytes 1 k ++ leBytes 1 lane) ∧ (getLink s.m k).st = .up ∧ has (getLink s.m k).lanes lane = true) ∧
    (∃ s : State, ∃ k, (getLink s.m k).st = .up ∧ (getLink s.m k).retraining = true) ∧
    (∃ s : State, ∃ k, (getLink s.m k).st = .up) ∧
    (∃ s : State, ∃ k, ∃ lanes, k < 18 ∧ (getLink s.m k).st ≠ .up ∧ s.m.rst.oos = false ∧ s.m.pwr.fabricReady = true ∧ ((∃ i, i < 4 ∧ has lanes i = true))) ∧
    (∃ s : State, ∃ k, k < 18 ∧ (getLink s.m k).st ≠ .up ∧ has s.m.health.longDown k = false) ∧
    (∃ s : State, ∃ k, ∃ dst, ∃ opcode, ∃ sequence, ∃ tag, ∃ i, ∃ q, ∃ f, f = { s.m.fab with reachClear := if s.m.fab.reachClear.any (· == (dst, k)) then s.m.fab.reachClear else s.m.fab.reachClear ++ [(dst, k)] } ∧ k < 18 ∧ s.m.fab.wire.findIdx? (fun q => q.1 == k && q.2.dst == dst && q.2.opcode == opcode && q.2.sequence == sequence && q.2.tag == tag) = some i ∧ s.m.fab.wire[i]? = some q) ∧
    (∃ s : State, ∃ src, ∃ slot, ∃ held, ∃ e, ∃ far, held = s.m.fab.reorder.filter (fun q => pairOf q == 16 * src + slot) ∧ e = tget 0 s.m.fab.seqIn (16 * src + slot) ∧ far = held.foldl (fun a q => max a ((q.sequence + 2 ^ 24 - e) % 2 ^ 24)) 0 ∧ held ≠ []) ∧
    (∃ pk : Packet, ((pk.cls ≠ 0 ∨ pk.relaxed = true ∨ pk.ordered = false))) ∧
    (∃ m : Mach, ∃ pk : Packet, pk.cls = 0 ∧ pk.relaxed = false ∧ pk.ordered = true ∧ 2 ^ 23 ≤ (pk.sequence + 2 ^ 24 - tget 0 m.fab.seqIn (pairOf pk)) % 2 ^ 24) ∧
    (∃ m : Mach, ∃ pk : Packet, pk.cls = 0 ∧ pk.relaxed = false ∧ pk.ordered = true ∧ pk.sequence = tget 0 m.fab.seqIn (pairOf pk) ∧ m.fab.reorder.all (fun q => pairOf q != pairOf pk) = true) ∧
    (∃ m : Mach, ∃ pk : Packet, ∃ e, e = tget 0 m.fab.seqIn (pairOf pk) ∧ pk.cls = 0 ∧ pk.relaxed = false ∧ pk.ordered = true ∧ pk.sequence ≠ e ∧ (pk.sequence + 2 ^ 24 - e) % 2 ^ 24 < 2 ^ 23 ∧ m.fab.reorder.any (fun q => pairOf q == pairOf pk && q.sequence == pk.sequence) = false) ∧
    (∃ m : Mach, ∃ pk : Packet, reorderTakes m pk = true) ∧
    (∃ m : Mach, outsideFull m = true) :=
  ⟨⟨(lnk (fun l => l)), 17, (zs 255 ++ w1 [1]), by decide +kernel⟩,
   ⟨(lnk (fun l => { l with lastRecv := 0xFFE })), 17, flit0, 0, _, _, _, rfl, rfl, rfl, by decide +kernel⟩,
   ⟨(lnk (fun l => { l with lastRecv := 0 })), 17, flit0, 0, _, rfl, by decide +kernel⟩,
   ⟨(lnk (fun l => l)), 17, by decide +kernel⟩,
   ⟨(lnk (fun l => { l with sent := [sent0], sameReplays := 15 })), 17, by decide +kernel⟩,
   ⟨(lnk (fun l => { l with sent := [sent0], sameReplays := 16 })), 17, by decide +kernel⟩,
   ⟨(lnk (fun l => l)), 17, 3, _, rfl, by decide +kernel⟩,
   ⟨(lnk (fun l => { l with retraining := true })), 17, by decide +kernel⟩,
   ⟨(lnk (fun l => l)), 17, by decide +kernel⟩,
   ⟨run, 17, [3], by decide +kernel⟩,
   ⟨run, 17, by decide +kernel⟩,
   ⟨(onF run (fun f => { f with wire := [(17, pkt0 1 0 [])] })), 17, 0, 1, 0, 0, 0, (17, pkt0 1 0 []), _, rfl, by decide +kernel⟩,
   ⟨(onF run (fun f => { f with reorder := [{ pkt0 1 0 [] with sequence := 5 }] })), 1, 0, _, _, _, rfl, rfl, rfl, by decide +kernel⟩,
   ⟨({ pkt0 1 0 [] with cls := 1 }), by decide +kernel⟩,
   ⟨run.m, ({ pkt0 1 0 [] with cls := 0, sequence := 2 ^ 24 - 1 }), by decide +kernel⟩,
   ⟨run.m, ({ pkt0 1 0 [] with cls := 0, sequence := 0 }), by decide +kernel⟩,
   ⟨run.m, ({ pkt0 1 0 [] with cls := 0, sequence := 2 ^ 23 - 1 }), _, rfl, by decide +kernel⟩,
   ⟨run.m, ({ pkt0 1 0 [] with cls := 0, sequence := 1 }), by decide +kernel⟩,
   ⟨full.m, by decide +kernel⟩⟩

/-- What the clauses of `Obligations.Egress` suppose can be met. -/
theorem test_Egress_met :
    (∃ s : State, s.m.fab.module = none) ∧
    (∃ s : State, ∃ id, ∃ m, ∃ i, ∃ pk, m = renamed s.m id ∧ s.m.pwr.st ≠ 3 ∧ s.m.fab.module = some id ∧ ownPacket m = some (i, pk)) ∧
    (∃ s : State, ∃ id, ∃ m, ∃ i, ∃ pk, ∃ k, m = renamed s.m id ∧ s.m.pwr.st ≠ 3 ∧ s.m.fab.module = some id ∧ ownPacket m = none ∧ sendable m (beforeShares m) = some (i, pk) ∧ bestLink m pk = some k) ∧
    (∃ s : State, ∃ id, ∃ m, ∃ q, ∃ k, m = renamed s.m id ∧ s.m.pwr.st ≠ 3 ∧ s.m.fab.module = some id ∧ ownPacket m = none ∧ sendable m (beforeShares m) = none ∧ sendable m (fun _ => true) = some q ∧ bestLink m q.2 = some k) ∧
    (∃ s : State, ∃ id, ∃ m, m = renamed s.m id ∧ s.m.pwr.st ≠ 3 ∧ s.m.fab.module = some id ∧ ownPacket m = none ∧ sendable m (fun _ => true) = none) ∧
    (∃ f : FabS, ∃ i, ∃ pk : Packet, f.again.length ≤ i ∧ pk.cls = 0 ∧ pk.ordered = true) ∧
    (∃ f : FabS, ∃ i, ∃ pk : Packet, ((i < f.again.length ∨ pk.cls ≠ 0 ∨ pk.ordered = false))) ∧
    (∃ m : Mach, ∃ pk : Packet, ∃ k, bestLink m pk = some k) ∧
    (∃ m : Mach, ∃ pk : Packet, bestLink m pk = none) ∧
    (∃ m : Mach, ∃ pk : Packet, ∃ k, linkTakes m pk k = true ∧ isBackground m pk = true) ∧
    (∃ m : Mach, ∃ pk : Packet, isBackground m pk = true) :=
  ⟨⟨run, by decide +kernel⟩,
   ⟨(onF (net act) (fun f => { f with txq := [pkt0 1 0 []] })), 0, _, 0, ({ pkt0 1 0 [] with src := 0 }), rfl, by decide +kernel⟩,
   ⟨(onF (lnk (fun l => l)) (fun f => { f with txq := [{ pkt0 0x10 0 [] with dst := 2, cls := 1 }] })), 0, _, 0, ({ pkt0 0x10 0 [] with src := 0, dst := 2, cls := 1 }), 17, rfl, by decide +kernel⟩,
   ⟨(onF (lnk (fun l => l)) (fun f => { f with txq := [{ pkt0 1 0 [] with dst := 2, cls := 0 }] })), 0, _, (0, { pkt0 1 0 [] with src := 0, dst := 2, cls := 0 }), 17, rfl, by decide +kernel⟩,
   ⟨(net act), 0, _, rfl, by decide +kernel⟩,
   ⟨(net act).m.fab, 0, ({ pkt0 1 0 [] with cls := 0, dst := 2 }), by decide +kernel⟩,
   ⟨(net act).m.fab, 0, (pkt0 0x10 0 []), by decide +kernel⟩,
   ⟨(lnk (fun l => l)).m, ({ pkt0 1 0 [] with dst := 2, cls := 0 }), 17, by decide +kernel⟩,
   ⟨run.m, (pkt0 1 0 []), by decide +kernel⟩,
   ⟨(late (lnk (fun l => l))).m, ({ pkt0 0x3C 0 [] with dst := 2 }), 17, by decide +kernel⟩,
   ⟨run.m, (pkt0 0x3E 0 []), by decide +kernel⟩⟩

/-- What the clauses of `Obligations.FabricTraffic` suppose can be met. -/
theorem test_FabricTraffic_met :
    (∃ s : State, ∃ pk, ∃ i, ∃ m, ∃ c, m = { s.m with fab := { s.m.fab with released := s.m.fab.released.eraseIdx i } } ∧ c = requestOwner m pk) ∧
    (∃ m : Mach, ∃ op, ∃ i, ∃ pk, nextRequest m op = some (i, pk)) ∧
    (∃ s : State, ∃ pk, ∃ m, ∃ q, takeReleased s.m 0x10 = some (pk, m) ∧ reqOf m pk = some q) ∧
    (∃ s : State, ∃ pk, ∃ m, ∃ q, ∃ p, takeReleased s.m 0x11 = some (pk, m) ∧ reqOf m pk = some q ∧ q.holder = .premutar p) ∧
    (∃ s : State, ∃ pk, ∃ m, ∃ q, ((∀ p, q.holder ≠ .premutar p)) ∧ takeReleased s.m 0x11 = some (pk, m) ∧ reqOf m pk = some q) ∧
    (∃ s : State, ∃ pk, ∃ m, ∃ q, ∃ x, x = modCtx (closeReq m q.tag) q.ctx (fun x => { x with xrRejected := satAdd x.xrRejected 1 }) ∧ takeReleased s.m 0x12 = some (pk, m) ∧ reqOf m pk = some q) ∧
    (∃ s : State, ∃ op, ∃ row, ∃ pk, ∃ m, (op, row) ∈ [(0x10, Instr.data), (0x11, .ack), (0x12, .nack)] ∧ takeReleased s.m op = some (pk, m) ∧ reqOf m pk = none) ∧
    (∃ s : State, ∃ tag, ∃ q, s.m.fab.out.find? (fun o => o.tag == tag) = some q) :=
  ⟨⟨run, (pkt0 1 0 []), 0, _, _, rfl, rfl⟩,
   ⟨(rel (net act) ({ pkt0 1 0 [] with cls := 0, sequence := 0 })).m, 1, 0, ({ pkt0 1 0 [] with cls := 0, sequence := 0 }), by decide +kernel⟩,
   ⟨(rel (outs (net act) [out0 (.premutar 0) 1]) ({ pkt0 0x10 0 (zs 32) with tag := 5 })), ({ pkt0 0x10 0 (zs 32) with tag := 5 }), (outs (net act) [out0 (.premutar 0) 1]).m, (out0 (.premutar 0) 1), by decide +kernel⟩,
   ⟨(rel (outs (net act) [out0 (.premutar 0) 2]) ({ pkt0 0x11 0 [] with tag := 5 })), ({ pkt0 0x11 0 [] with tag := 5 }), (outs (net act) [out0 (.premutar 0) 2]).m, (out0 (.premutar 0) 2), 0, by decide +kernel⟩,
   ⟨(rel (outs (net act) [out0 (.vector 0) 2]) ({ pkt0 0x11 0 [] with tag := 5 })), ({ pkt0 0x11 0 [] with tag := 5 }), (outs (net act) [out0 (.vector 0) 2]).m, (out0 (.vector 0) 2), (by intro p; simp [out0]), by decide +kernel⟩,
   ⟨(rel (outs (net act) [out0 (.vector 0) 2]) ({ pkt0 0x12 7 [] with tag := 5 })), ({ pkt0 0x12 7 [] with tag := 5 }), (outs (net act) [out0 (.vector 0) 2]).m, (out0 (.vector 0) 2), _, rfl, by decide +kernel⟩,
   ⟨(rel (net act) ({ pkt0 0x10 0 (zs 32) with tag := 5 })), 0x10, .data, ({ pkt0 0x10 0 (zs 32) with tag := 5 }), (net act).m, (by simp), by decide +kernel⟩,
   ⟨(outs act [out0 (.vector 0) 1]), 5, (out0 (.vector 0) 1), by decide +kernel⟩⟩

/-- What the clauses of `Obligations.CustomsAdmits` suppose can be met. -/
theorem test_CustomsAdmits_met :
    (∃ m : Mach, ∃ slot, ∃ opcode, ∃ a, ∃ n, ∃ e, ∃ x, translate m slot opcode a n = .ok e x) ∧
    (∃ m : Mach, ∃ pk, customsReason m pk false = none ∧ pk.opcode ≠ 0x07) ∧
    (∃ m : Mach, ∃ pk, customsReason m pk false = none ∧ pk.opcode = 0x07) :=
  ⟨⟨(net act).m, 1, 1, 0x3FFFFFFE0, 32, wOut, 0x3FFFFFFE0, by decide +kernel⟩,
   ⟨adm.m, ({ pkt0 2 0x3FFFFFFE0 (zs 32) with subcode := 0 }), by decide +kernel⟩,
   ⟨adm.m, ({ pkt0 7 0x7F002000000 (zs 32) with subcode := 0 }), by decide +kernel⟩⟩

/-- What the clauses of `Obligations.MemoryOperations` suppose can be met. -/
theorem test_MemoryOperations_met :
    (∃ m : Mach, ∃ pk : Packet, ∃ m0, ∃ m1, m0 = portLines m (aliasRead m pk.addr) pk.length false ∧ m1 = (if pk.opcode = 0x01 then narrowLoad m0 (aliasRead m pk.addr) pk.length else m0) ∧ ((pk.opcode = 0x01 ∨ pk.opcode = 0x04)) ∧ fenced m pk.addr = false) ∧
    (∃ m : Mach, ∃ pk : Packet, ∃ m1, m1 = wrBytes (portLines m pk.addr pk.data.length true) pk.addr pk.data ∧ ((pk.opcode = 0x02 ∨ pk.opcode = 0x03)) ∧ fenced m pk.addr = false ∧ aliasOf m pk.addr = none) ∧
    (∃ m : Mach, ∃ pk : Packet, ∃ q, ∃ m1, m1 = aliasWrite (portLines m q.2 pk.data.length true) q.1 q.2 pk.data ∧ ((pk.opcode = 0x02 ∨ pk.opcode = 0x03)) ∧ fenced m pk.addr = false ∧ aliasOf m pk.addr = some q ∧ pk.poison = []) ∧
    (∃ a : Nat, isSp a = false) ∧
    (∃ m : Mach, ∃ a, ∃ fmt : Nat, isPoison m (granOf a) = false ∧ m.tier.regs = [] ∧ granSize a = 32 ∧ a % adderBytes fmt = 0) ∧
    (∃ m : Mach, ∃ a, isPoison m (granOf a) = true) ∧
    (∃ m : Mach, ∃ pk : Packet, ∃ n, pk.opcode = 0x07 ∧ msAt pk.addr = some n ∧ (getRgn m (n / 16384)).cordon = false) :=
  ⟨⟨run.m, (pkt0 4 0 []), _, _, rfl, rfl, by decide +kernel⟩,
   ⟨run.m, (pkt0 3 0 (zs 32)), _, rfl, by decide +kernel⟩,
   ⟨run.m, (pkt0 2 (spBase + 0xFFFE0) (zs 32)), (true, spBase + 0x1FFE0), _, rfl, by decide +kernel⟩,
   ⟨(spBase - 1), by decide +kernel⟩,
   ⟨run.m, 28, 0, by decide +kernel⟩,
   ⟨(onM run (fun m => { m with poison := [(0, true)] })).m, 31, by decide +kernel⟩,
   ⟨adm.m, (pkt0 7 0x7F00207FFF8 (zs 32)), 65535, by decide +kernel⟩⟩

/-- What the clauses of `Obligations.IdleTick` suppose can be met. -/
theorem test_IdleTick_met :
    (∃ s : State, s.pending = [] ∧ s.m.pwr.boot = .dark) ∧
    (∃ s : State, s.pending = [] ∧ s.m.pwr.boot ≠ .dark) ∧
    (∃ s : State, s.pending = [] ∧ s.m.pwr.boot ≠ .dark ∧ regionsOn s.m = false ∧ ((∀ e ∈ s.m.tier.ctls, e.2.copies = []))) :=
  ⟨⟨State.reset, by decide +kernel⟩,
   ⟨run, by decide +kernel⟩,
   ⟨(onR run (fun r => { r with oos := true })), by decide +kernel⟩⟩

/-- What the clauses of `Obligations.NvKept` suppose can be met. -/
theorem test_NvKept_met :
    (∃ s : State, ∃ t : State, step s = .next t ∧ NvOk s.nv) :=
  ⟨State.reset, (nextOf (step State.reset)), rfl, by decide +kernel⟩

/-- What the clauses of `Obligations.FuseWriters` suppose can be met. -/
theorem test_FuseWriters_met :
    (∃ c : Instr, ∃ s : State, ∃ t : State, exec c s = .next t ∧ writesNv c = false) ∧
    (∃ c : Instr, ∃ s : State, ∃ t : State, exec c s = .next t ∧ t.nv.fusedMin ≠ s.nv.fusedMin) ∧
    (∃ c : Instr, ∃ s : State, ∃ t : State, exec c s = .next t ∧ t.nv.returnCount ≠ s.nv.returnCount) ∧
    (∃ c : Instr, ∃ s : State, ∃ t : State, exec c s = .next t ∧ t.nv.lifecycle ≠ s.nv.lifecycle) ∧
    (∃ c : Instr, ∃ s : State, ∃ t : State, exec c s = .next t ∧ t.nv.owner ≠ s.nv.owner) ∧
    (∃ c : Instr, ∃ s : State, ∃ t : State, exec c s = .next t) :=
  ⟨⟨(.debugSessionExpiry), dbg, (nextOf (exec (.debugSessionExpiry) (dbg))), rfl, by decide +kernel⟩,
   ⟨(.fwCommit (mk 0x505 .board 0 [])), fwS, (nextOf (exec (.fwCommit (mk 0x505 .board 0 [])) (fwS))), rfl, by decide +kernel⟩,
   ⟨(.opDone 5), retS, (nextOf (exec (.opDone 5) (retS))), rfl, by decide +kernel⟩,
   ⟨(.opDone 5), retS, (nextOf (exec (.opDone 5) (retS))), rfl, by decide +kernel⟩,
   ⟨(.ownerEnrol true enrol), run, (nextOf (exec (.ownerEnrol true enrol) (run))), rfl, by decide +kernel⟩,
   ⟨(.opDone 5), retS, (nextOf (exec (.opDone 5) (retS))), rfl⟩⟩

/-- What the clauses of `Obligations.FusedMinimum` suppose can be met. -/
theorem test_FusedMinimum_met :
    (∃ s : State, ∃ r, ∃ a, Passes 0x0505 aB .none (lenIs 0) noResv r s ∧ slotIn s.nv .try_ = none ∧ slotIn s.nv .active = some a) ∧
    (∃ s : State, ∃ r, Passes 0x0505 aB .none (lenIs 0) noResv r s ∧ slotIn s.nv .try_ ≠ none) ∧
    (∃ c : Instr, ∃ s : State, ∃ t : State, exec c s = .next t) ∧
    (∃ nv, ∃ f, ∃ i, chooseSlot nv f = .run i) :=
  ⟨⟨fwS, (mk 0x0505 .board 0 ([])), 0, passes_of (by decide +kernel), by decide +kernel⟩,
   ⟨(onNv run (fun n => { n with slots := [{ fwEmpty with st := .active }, { fwEmpty with st := .try_ }] })), (mk 0x0505 .board 0 ([])), passes_of (by decide +kernel), by decide +kernel⟩,
   ⟨(.fwCommit (mk 0x505 .board 0 [])), fwS, (nextOf (exec (.fwCommit (mk 0x505 .board 0 [])) (fwS))), rfl⟩,
   ⟨nvReset, f0, 0, by decide +kernel⟩⟩

/-- What the clauses of `Obligations.MemoryLaws` suppose can be met. -/
theorem test_MemoryLaws_met :
    (∃ m : Mach, ∃ a, ∃ bs : List Byte, ((a < spBase → a + bs.length ≤ spBase)) ∧ ((∀ i, i < bs.length → isPoison m (granOf (a + i)) = false))) ∧
    (∃ m : Mach, ∃ g, ∃ a, ∃ bs : List Byte, g % granSize g = 0 ∧ g ≤ a ∧ a + bs.length ≤ g + granSize g ∧ 0 < bs.length ∧ bs.length < granSize g ∧ isPoison m g = true) ∧
    (∃ g, ∃ bs : List Byte, g % granSize g = 0 ∧ bs.length = granSize g) ∧
    (∃ m : Mach, MemOk m) :=
  ⟨⟨run.m, (spBase - 1), [1], by decide +kernel⟩,
   ⟨(onM run (fun m => { m with poison := [(0, true)] })).m, 0, 31, [1], by decide +kernel⟩,
   ⟨0, (zs 32), by decide +kernel⟩,
   ⟨run.m, by decide +kernel⟩⟩

/-- What the clauses of `Obligations.Arithmetic` suppose can be met. -/
theorem test_Arithmetic_met :
    (∃ f, ∃ b, (f = fp16 ∨ f = fp32 ∨ f = fp64) ∧ b < 2 ^ fmtWidth f ∧ decodeF f b ≠ .nan) ∧
    (∃ f, ∃ b, (f = fp16 ∨ f = fp32 ∨ f = fp64) ∧ decodeF f b = .nan) ∧
    (∃ f, ∃ m, ∃ e : Int, (f = fp16 ∨ f = fp32 ∨ f = fp64) ∧ 0 < m ∧ fmtEmax f < ilog2 m e) ∧
    (∃ a : Int, ∃ p : Int, -2 ^ 31 ≤ a + p ∧ a + p ≤ 2 ^ 31 - 1) ∧
    (∃ a : Int, ∃ p : Int, a + p < -2 ^ 31) ∧
    (∃ a : Int, ∃ p : Int, 2 ^ 31 - 1 < a + p) ∧
    (∃ a : Int, -2 ^ 31 ≤ a ∧ a ≤ 2 ^ 31 - 1) :=
  ⟨⟨fp64, 0x7FEFFFFFFFFFFFFF, by decide +kernel⟩,
   ⟨fp16, 0x7FFF, by decide +kernel⟩,
   ⟨fp16, 1, 16, by decide +kernel⟩,
   ⟨(2 ^ 31 - 1), 0, by decide +kernel⟩,
   ⟨(-2 ^ 31), -1, by decide +kernel⟩,
   ⟨(2 ^ 31 - 1), 1, by decide +kernel⟩,
   ⟨(2 ^ 31 - 1), by decide +kernel⟩⟩

/-- What the clauses of `Obligations.Generators` suppose can be met. -/
theorem test_Generators_met :
    (∃ g : W32, g ≠ 0) ∧
    (∃ g : W32, ∃ x : W32, ∃ y : W32, x = g ^^^ (g <<< 13) ∧ y = x ^^^ (x >>> 17)) ∧
    (∃ g : W32, ∃ h : W32, drawNext g = drawNext h) ∧
    (∃ l : Nat, ∃ k : Nat, l ≠ k) :=
  ⟨⟨1, by decide +kernel⟩,
   ⟨1, _, _, rfl, rfl⟩,
   ⟨1, 1, by decide +kernel⟩,
   ⟨0, 1, by decide +kernel⟩⟩

/-- What the clauses of `Obligations.GateChecks` suppose can be met. -/
theorem test_GateChecks_met :
    (∃ c, ∃ s : State, ∃ op, ∃ mask, ∃ r : Req, ∃ m, gateOf c = some (op, mask, r) ∧ frontGate s.nv s.m op r = some m) ∧
    (∃ c, ∃ s : State, ∃ op, ∃ mask, ∃ r : Req, ∃ b, checkPort s.m r.port op mask = .error b ∧ gateOf c = some (op, mask, r) ∧ frontGate s.nv s.m op r = none) ∧
    (∃ c, ∃ s : State, ∃ op, ∃ mask, ∃ r : Req, ∃ b, checkPort s.m r.port op mask = .ok () ∧ checkState s.nv s.m r.port op mask = .error b ∧ gateOf c = some (op, mask, r) ∧ frontGate s.nv s.m op r = none) ∧
    (∃ s : State, ∃ op, ∃ r : Req, op ≠ 0 ∧ frontGate s.nv s.m op r = none) ∧
    (∃ nv, ∃ m : Mach, ∃ r : Req, portOpen nv m r.port = true ∧ (getMbx m r.port).st = .busy) ∧
    (∃ nv, ∃ m : Mach, ∃ r : Req, portOpen nv m r.port = true ∧ (getMbx m r.port).st ≠ .busy ∧ (getMbx m r.port).st ≠ .restarting ∧ mustWait m r.port = false) ∧
    (∃ nv, ∃ m : Mach, ∃ op : Nat, ∃ r : Req, ∃ x, x = modMbx m r.port (fun b => { b with st := .busy, resp := [], inHand := some (heldBase + op, r) }) ∧ portOpen nv m r.port = true ∧ (getMbx m r.port).st ≠ .busy ∧ (getMbx m r.port).st ≠ .restarting ∧ mustWait m r.port = true) :=
  ⟨⟨(.statement (mk 0x301 .host 4097 [])), State.reset, 0x301, (aH + aB), (mk 0x301 .host 4097 []), State.reset.m, by decide +kernel⟩,
   ⟨(.statement (mk 0x301 .debug 4097 [])), dbg, 0x301, (aH + aB), (mk 0x301 .debug 4097 []), ({ status := 0x20, detail := 0 }), rfl, by decide +kernel⟩,
   ⟨(.statement (mk 0x301 .host 4097 [])), (onR act (fun r => { r with oos := true })), 0x301, (aH + aB), (mk 0x301 .host 4097 []), ({ status := 0x54, detail := 0 }), good_ok (by decide +kernel), rfl, by decide +kernel⟩,
   ⟨run, 0xFFFF, (mk 0xFFFF .host 0 []), by decide +kernel⟩,
   ⟨nvReset, (onM run (fun m => modMbx m .host (fun b => { b with st := .busy }))).m, (mk 0 .host 0 []), by decide +kernel⟩,
   ⟨nvReset, run.m, (mk 0 .host 0 []), by decide +kernel⟩,
   ⟨nvReset, (onS run (fun c => { c with mpHalted := true })).m, 0, (mk 0 .host 0 []), _, rfl, by decide +kernel⟩⟩

/-- What the clauses of `Obligations.EventRings` suppose can be met. -/
theorem test_EventRings_met :
    (∃ r : EvRing, ringRoom r = true) ∧
    (∃ r : EvRing, ∃ i, r.cap ∣ 2 ^ 32 ∧ ringRoom r = true ∧ 1 ≤ i ∧ i ≤ (r.head - r.ack).toNat) ∧
    (∃ r : EvRing, ringRoom r = false) ∧
    (∃ r : EvRing, r.cap < 2 ^ 32 ∧ (r.head - r.ack).toNat ≤ r.cap) ∧
    (∃ r : EvRing, r.lost ≠ 0 ∧ ringRoom r = true) ∧
    (∃ s : State, ∃ tag, ∃ o, ∃ q, s.m.mgmt.ops.find? (fun o => o.tag == tag) = some o ∧ o.outcome = some q ∧ ringRoom (if o.port = .host then s.m.mgmt.hostRing else s.m.mgmt.boardRing) = false) ∧
    (∃ m : Mach, ringRoom m.mgmt.hostRing = false) :=
  ⟨⟨({ evReset 256 with head := 255 }), by decide +kernel⟩,
   ⟨({ evReset 256 with head := 255 }), 255, by decide +kernel⟩,
   ⟨({ evReset 256 with head := 256 }), by decide +kernel⟩,
   ⟨({ evReset 256 with head := 256 }), by decide +kernel⟩,
   ⟨({ evReset 256 with lost := 1 }), by decide +kernel⟩,
   ⟨(onG run (fun g => { g with ops := [lop 0x103 1 (some (0, 0))], hostRing := { g.hostRing with head := 4096 } })), 5, (lop 0x103 1 (some (0, 0))), (0, 0), by decide +kernel⟩,
   ⟨(onG run (fun g => { g with hostRing := { g.hostRing with head := 4096 } })).m, by decide +kernel⟩⟩

/-- What the clauses of `Obligations.Handles` suppose can be met. -/
theorem test_Handles_met :
    (∃ m : Mach, ∃ c, freeSlot m = some c) ∧
    (∃ g, g < 4096) ∧
    (∃ m : Mach, ∃ c, c < 16 ∧ (getCtx m c).gen < 4096) :=
  ⟨⟨run.m, 0, by decide +kernel⟩,
   ⟨4095, by decide +kernel⟩,
   ⟨run.m, 15, by decide +kernel⟩⟩

/-- What the clauses of `Obligations.Teardown` suppose can be met. -/
theorem test_Teardown_met :
    (∃ m : Mach, ∃ c, ∃ trigger : Nat, ∃ x, x = startTeardown m c trigger ∧ (((getCtx m c).st = .active ∨ (getCtx m c).st = .parked))) ∧
    (∃ m : Mach, ∃ c, (getCtx m c).st ≠ .active ∧ (getCtx m c).st ≠ .parked) ∧
    (∃ h : Nat, h ≠ 0) :=
  ⟨⟨act.m, 1, 0, _, rfl, by decide +kernel⟩,
   ⟨run.m, 1, by decide +kernel⟩,
   ⟨4097, by decide +kernel⟩⟩

/-- What the clauses of `Obligations.MemoryFrame` suppose can be met. -/
theorem test_MemoryFrame_met :
    (∃ c : Instr, ∃ s : State, ∃ t : State, ((resumesMp c = true → s.m.rst.waiting = [])) ∧ exec c s = .next t ∧ keepsMem c = true) :=
  ⟨(.debugSessionExpiry), dbg, (nextOf (exec (.debugSessionExpiry) (dbg))), fun _ => rfl, rfl, by decide +kernel⟩


/-! ### Witnesses for what clauses suppose further on -/

/-- The four samples of the power loop, and the three temperatures of the thermal loop, that `Obligations.ClockLoops` tells apart. -/
theorem test_ClockLoops_cases :
    (let s := onP run (fun p => { p with stepAt := 1 }); chipRuns s.m = true ∧ s.m.pwr.capW < 3001 ∧ 2 ≤ min 100 (s.m.pwr.stepAt + 1) ∧ 200 < appliedMhz s.m.pwr) ∧
    (let s := onP run (fun p => { p with stepAt := 0 }); chipRuns s.m = true ∧ s.m.pwr.capW < 3001 ∧ min 100 (s.m.pwr.stepAt + 1) < 2) ∧
    (let s := onP run (fun p => { p with samples := List.replicate 99 0, upAt := 99, loopMhz := 675 }); chipRuns s.m = true ∧ 2909 ≤ s.m.pwr.capW ∧
      min 100 (s.m.pwr.upAt + 1) = 100 ∧ s.m.pwr.loopMhz < maxMhz s.m ∧ ((2909 :: s.m.pwr.samples).take 100).length = 100 ∧
      ∀ x ∈ (2909 :: s.m.pwr.samples).take 100, x * 100 < 97 * s.m.pwr.capW) ∧
    (chipRuns run.m = true ∧ 2910 ≤ run.m.pwr.capW ∧ min 100 (run.m.pwr.upAt + 1) < 100) ∧
    (let s := onP run (fun p => { p with hot := true }); chipRuns s.m = true ∧ s.m.pwr.hot = true) ∧
    (let s := onP run (fun p => { p with thermMhz := 675, dieMax := 89 }); chipRuns s.m = true ∧ s.m.pwr.hot = false ∧ s.m.pwr.dieMax < 90 ∧
      s.m.pwr.thermMhz < min s.m.pwr.limitMhz s.m.pwr.loopMhz) ∧
    (chipRuns run.m = true ∧ run.m.pwr.hot = false ∧ min run.m.pwr.limitMhz run.m.pwr.loopMhz ≤ run.m.pwr.thermMhz) := by decide +kernel

/-- Whether an operation with opcode `k` starts in block 0. -/
def vecMet (k : Nat) : Bool :=
  let op := { vop with opcode := k }
  let s := busy [.vector op]
  let w := rw0 [.vector op]
  (getBlk s.m 0).ve.running.isNone && turnOf (getBlk s.m 0) (hasVector s.m (getBlk s.m 0)) == some 1 && runningOn (getBlk s.m 0) 1 == some w &&
    nextItem s.m w isVector == some (0, .vector op) && goes (veStart 0 s.m w 0 op none)
/-- Each of the 27 opcodes of `Obligations.VectorOperations` can start. -/
theorem test_VectorOperations_opcodes :
    [0x01, 0x02, 0x03, 0x04, 0x05, 0x06, 0x07, 0x0B, 0x0D, 0x10, 0x11, 0x18, 0x19, 0x1A].all vecMet = true ∧
    [0x20, 0x21, 0x22, 0x23, 0x28, 0x29, 0x30, 0x31, 0x32, 0x38, 0x39, 0x40, 0x41].all vecMet = true := by decide +kernel

/-- A released request of each kind that may be performed (`Obligations.FabricTraffic`), and refusals with a reason of Table 10.4 and without. -/
theorem test_FabricTraffic_cases :
    ([1, 2, 3, 4, 5, 6, 7].all (fun op =>
      nextRequest (rel (net act) { pkt0 op 0 [] with cls := 0 }).m op == some (0, { pkt0 op 0 [] with cls := 0 }))) = true ∧
    (1 ≤ (pkt0 0x12 7 []).addr % 256 ∧ (pkt0 0x12 7 []).addr % 256 ≤ 7) ∧ (pkt0 0x12 8 []).addr % 256 > 7 := by decide +kernel

/-- A flit whose packets all have room, and one with a packet that has none (`Obligations.LinkEvents`). -/
theorem test_LinkEvents_cases :
    ([pkt0 1 0 []].foldlM arrivePk run.m).isSome = true ∧
    ([{ pkt0 1 0 [] with cls := 0, sequence := 1, src := 8191 }].foldlM arrivePk full.m).isNone = true ∧
    reorderTakes run.m { pkt0 1 0 [] with cls := 0, sequence := 1 } = true ∧
    reorderTakes full.m { pkt0 1 0 [] with cls := 0, sequence := 1, src := 8191 } = false := by decide +kernel

/-- A granule that is poison and one that is not, for the patrol of `Obligations.Upkeep`. -/
theorem test_Upkeep_cases :
    isPoison (onM (late run) (fun m => { m with poison := [(0, true)] })).m (31 / 32 * 32) = true ∧
    bktCovers (onM (late run) (fun m => { m with poison := [(0, true)] })).m 0 32 = true ∧ isPoison (late run).m 0 = false := by decide +kernel

/-! ### Ill-formed commands: one for each check of WellFormed, refused -/

/-- Every command of a list is refused by the check. -/
def allBad (l : List Instr) : Bool := l.all (fun c => !c.wf)

theorem test_wf_block : allBad [.waybillStart 1088, .barrier 1088 1, .premutarComplete 4096, .milestoneMulticast 0 1088] = true := by decide
theorem test_wf_stream : allBad [.waybillComplete 0 0, .arrayOp 0 4 none, .discard 0 0, .signc 0 4 none, .spAccess 0 0 0 4 0 4 none false [] []] = true := by decide
theorem test_wf_slot : allBad [.teardownEnd 16, .runStart 16 0, .runStart 0 16, .stepClose 16, .stall 99] = true := by decide
theorem test_wf_link : allBad [.replayTimeout 18, .portSilent 18, .laneRetrainComplete 18 3] = true := by decide
theorem test_wf_controller : allBad [.tierEccWriteback 12, .tierEccWriteback 32, .retirementCopyDone 15 0] = true := by decide
theorem test_wf_set : allBad [.cargoSetReady 4096, .swapDrained 4096, .channelUnitSend 4096] = true := by decide
theorem test_wf_reserved : allBad [.ctxCreate { mk 0x101 .host 0 [] with resv := [] }, .fwCommit { mk 0x505 .board 0 [] with resv := zs 9 }] = true := by decide
theorem test_wf_status : allBad [.status 0x0101 (mk 0x101 .host 0 []), .status 65536 (mk 0 .host 0 [])] = true := by decide +kernel
theorem test_wf_bar0 : allBad [.registerWrite 0x4000000 ⟨[0], 0⟩, .registerWrite 0x3FFFFFF ⟨zs 2, 0⟩] = true := by decide
theorem test_wf_round : allBad [.managementRound { r0 with margins := [(6, 0, 1)] }] = true := by decide
theorem test_wf_array : allBad [.reclaimBlockLeave 0 1024, .reclaimBlockLeave 16 0] = true := by decide
theorem test_wf_bank : allBad [.nonOwnerService 0 6 true 1 [] [], .spPatrolRead 0 6 false [] []] = true := by decide
theorem test_wf_ordinal : allBad [.completionRecord 0 4096, .msixUnmask 64, .supplyDroop 4, .alarmCondition 4, .laneFailure 0 4] = true := by decide
theorem test_wf_window : allBad [.orderedClose 64, .orderedShareClosed 64, .collectiveTrigger ⟨64, false⟩, .progressTimerExpiry 64] = true := by decide
theorem test_wf_milestone : allBad [.milestoneAdvance 65536 false, .controlFlit 0 true []] = true := by decide
theorem test_wf_good : [Instr.waybillStart 1087, .laneFailure 17 3, .msixUnmask 63, .status 0 (mk 0 .host 0 [])].all Instr.wf = true := by decide +kernel

/-! ### The spec's worked examples -/

/-- Chapter 2, the test vector after R68: the seeded state and three draws. -/
theorem test_generator :
    let g := laneSeed 0x0123456789ABCDEF 1 1 0
    let a := drawNext g
    let b := drawNext a
    let c := drawNext b
    g = 0x8C93C856 ∧ a = 0x46B721DA ∧ b = 0xF30A231C ∧ c = 0x5A56EDA8 ∧ [a, b, c].map drawOf = [0x46B, 0xF30, 0x5A5] := by decide +kernel

/-- Chapter 2, the same example: 1 + 1,365 × 2^-22 rounds down, up and down. -/
theorem test_stochastic :
    let v : Val := .fin false (2 ^ 22 + 1365) (-22) false
    [0x8C93C856, 0x46B721DA, 0xF30A231C].map (fun g : W32 => (roundF fp16 .stochastic g v).bits) = [0x3C00, 0x3C01, 0x3C00] := by decide +kernel

/-- Chapter 2, one SH16 cycle in bits: the products, the window and the accumulate. -/
theorem test_sh16_cycle :
    let ps := [(0x3E00, 0x4000), (0xBA00, 0x3C00), (0x1401, 0x0601), (0x4200, 0xB400)].map (fun q => cellProduct fp16 q.1 q.2)
    cyclePartial (some (-2)) ps = .fin false 0xC00000C0500 (-45) false ∧ accumF 0 (cyclePartial (some (-2)) ps) = 0x3EC00001 := by decide +kernel

/-- Chapter 2, the same example: the entry drains to 0.375 with either rounding and takes no draw that raises it. -/
theorem test_sh16_drain :
    drainScale 0x40000000 0x3F000000 0x3F800000 = some 0x3F800000 ∧ (roundF fp16 .rne 1 (drainVal 0x3EC00001 0x3F800000)).bits = 0x3600 ∧
      (roundF fp16 .stochastic 1 (drainVal 0x3EC00001 0x3F800000)).bits = 0x3600 := by decide +kernel

/-- Chapter 2, a long-haul dot product with s = 3 and K = 2: exponents, slices and the recombined sum. -/
theorem test_long_haul :
    let a1 : Val := .fin false (3 * 2 ^ 31 + 48 * 2 ^ 11 + 20 * 2 + 1) (-31) false
    let a2 : Val := .fin true 1 0 false
    let b1 : Val := .fin false 1 (-1) false
    let b2 : Val := .fin true (2 ^ 10 + 1) (-12) false
    sliceExp [a1, a2] = 2 ∧ sliceExp [b1, b2] = 0 ∧ [0, 1, 2].map (fun k => sliceOf 2 k a1) = [768, 12, 5] ∧
      [0, 1, 2].map (fun k => sliceOf 2 k a2) = [-256, 0, 0] ∧ [0, 1].map (fun k => sliceOf 0 k b2) = [-256, -256] ∧
      (let part := fun p q => sliceOf 2 p a1 * sliceOf 0 q b1 + sliceOf 2 p a2 * sliceOf 0 q b2
       recombine part 3 2 = rne fp64 (.fin false (7 * 2 ^ 27 + 70 * 2 ^ 11 + 5) (-29) false)) := by decide +kernel

/-- Chapter 14, CRC-32C over "123456789" (after R383). -/
theorem test_check_value :
    let g : CvCfg := { width := 32, poly := 0x1EDC6F41, init := 0xFFFFFFFF, reflectIn := true, reflectOut := true, invert := true }
    let nine := w1 [0x31, 0x32, 0x33, 0x34, 0x35, 0x36, 0x37, 0x38, 0x39]
    checkValue g nine = 0xE3069283 ∧ crc32c nine = 0xE3069283 := by decide +kernel

/-- Chapter 5, six indices against an extent of 1,000, under each mode. -/
theorem test_index_modes :
    [3, -1, 1000].map (selectRow 0 1000) = [.row 3 false, .fault, .fault] ∧ [3, -1, 1000].map (selectRow 1 1000) = [.row 3 false, .row 999 false, .fault] ∧
      [-1, 1000, -1001].map (selectRow 2 1000) = [.row 0 true, .row 999 true, .row 0 true] ∧
      [-1, 1000, -1001, 3].map (selectRow 3 1000) = [.none, .none, .none, .row 3 false] := by decide +kernel

/-- Chapter 4, a RING window over two banks of block 803: its first byte, how full it is, and where its accesses lie. -/
theorem test_ring_window :
    let w : Win := { enable := true, ring := true, ctx := 1, base := 62, size := 3, head := 5120, tail := 9216 }
    spAddr 803 (62 * 2048) = 0x4003231F000 ∧ winFill w = 4096 ∧ winFree w = 2048 ∧ winOff w 5120 0 = 0x20400 ∧ winOff w 5120 1024 = 0x1F000 ∧
      winMove w 5120 4096 = 9216 ∧ winOff w 9216 0 = 0x1FC00 := by decide +kernel

/-- Chapter 1, the map of region 2 at boot: logical array 700 stands on 2.190, and thirteen blocks are spare. -/
theorem test_block_map :
    let m := onM State.reset (fun m => { m with fuse := { m.fuse with bad := [561, 674] } })
    let r := bootRgn m.m [744] 2
    (tget noMap r.map 188).phys = 190 ∧ (tget noMap r.map 197).phys = 199 ∧ (tget noMap r.map 198).phys = 201 ∧ (tget noMap r.map 255).phys = 258 ∧
      r.spares = (List.range 13).map (259 + ·) ∧ r.absent = 0 := by decide +kernel

end Sys2Proof.Tests
end

