-- ==== Sys2Proof/Proofs/Generators.lean ====
section
/-! PROOF. The generators of the lanes (R66 to R68): each of a draw's three steps can be undone, so a draw never reaches zero; a seed is never zero; and an update of
one lane's generator is read back at that lane alone. -/

namespace Sys2Proof.Proofs
open Sys2Proof Sys2Proof.Machine

/-! ### A draw can be undone (R66) -/

/-- Each bit of `g ^^^ (g <<< k)` gives the bit of `g` there from one `k` places lower: the bits of `g` follow from the lowest upwards. -/
theorem xor_shiftLeft_injective {w k : Nat} (hk : 0 < k) : Function.Injective fun g : BitVec w => g ^^^ (g <<< k) := by
  intro g h hgh
  refine BitVec.eq_of_getLsbD_eq fun i hi => ?_
  induction i using Nat.strong_induction_on with
  | _ i ih =>
    have hbit := congrArg (BitVec.getLsbD · i) hgh
    rcases Nat.lt_or_ge i k with hlow | hhigh
    · simpa [hlow] using hbit
    · have hlower := ih (i - k) (by omega) (by omega)
      simpa only [BitVec.getLsbD_xor, BitVec.getLsbD_shiftLeft, hlower, Bool.xor_left_inj] using hbit

/-- Each bit of `g ^^^ (g >>> k)` gives the bit of `g` there from one `k` places higher: the bits of `g` follow from the highest downwards. -/
theorem xor_ushiftRight_injective {w k : Nat} (hk : 0 < k) : Function.Injective fun g : BitVec w => g ^^^ (g >>> k) := by
  intro g h hgh
  have from_top : ∀ n i, w ≤ i + n → g.getLsbD i = h.getLsbD i := by
    intro n
    induction n with
    | zero => intro i hi; rw [BitVec.getLsbD_of_ge g i hi, BitVec.getLsbD_of_ge h i hi]
    | succ n ih =>
      intro i hi
      have hbit := congrArg (BitVec.getLsbD · i) hgh
      have hhigher := ih (k + i) (by omega)
      simpa [hhigher] using hbit
  exact BitVec.eq_of_getLsbD_eq fun i _ => from_top w i (by omega)

theorem drawNext_injective : Function.Injective drawNext :=
  (xor_shiftLeft_injective (k := 5) (by decide)).comp
    ((xor_ushiftRight_injective (k := 17) (by decide)).comp (xor_shiftLeft_injective (k := 13) (by decide)))

/-- A draw takes zero to zero, so no other state can reach zero. -/
theorem drawNext_ne_zero {g : W32} (hg : g ≠ 0) : drawNext g ≠ 0 := by
  have hzero : drawNext 0 = 0 := by decide
  exact fun h => hg (drawNext_injective (h.trans hzero.symm))

theorem drawOf_eq_extractLsb' (g : W32) : drawOf g = (g.extractLsb' 20 12).toNat := by
  have hlt : g.toNat >>> 20 < 2 ^ 12 := by have := g.isLt; omega
  rw [BitVec.extractLsb'_toNat, Nat.mod_eq_of_lt hlt, drawOf]

/-! ### The generator of a lane (R67, R68) -/

/-- The two halves of a 64-bit word fold to 32 bits, so a fold that is not zero stays so as a state; zero is replaced (R67). -/
theorem laneSeed_ne_zero (seed step lane wb : Nat) : laneSeed seed step lane wb ≠ 0 := by
  unfold laneSeed
  extract_lets word m s
  split
  · decide
  next hs =>
    have hm : m < 2 ^ 64 := Nat.mod_lt _ (by decide)
    have hlt : s < 2 ^ 32 := Nat.xor_lt_two_pow (by omega) (Nat.mod_lt _ (by decide))
    intro h0
    have hfold : (BitVec.ofNat 32 s).toNat = 0 := congrArg BitVec.toNat h0
    exact hs (by rwa [BitVec.toNat_ofNat, Nat.mod_eq_of_lt hlt] at hfold)

theorem laneGen_tput (m : Mach) (p : Nat) (w : RunWb) (l k : Nat) (x : W32) :
    laneGen m p { w with gens := tput l x w.gens } k = if l = k then x else laneGen m p w k :=
  tget_tput ..

/-- Settles O55: a draw's three steps are injective and zero goes to zero, so no other state does; a lane's generator is one entry of a sparse table. -/
theorem generators : Obligations.Generators := by
  refine ⟨fun _ => drawNext_ne_zero, laneSeed_ne_zero, drawOf_eq_extractLsb', ?_, fun _ _ h => drawNext_injective h, ?_, ?_⟩
  · rintro g _ _ rfl rfl
    rfl
  · intro m p w l x
    rw [laneGen_tput, if_pos rfl]
  · intro m p w l k x hlk
    rw [laneGen_tput, if_neg hlk]

end Sys2Proof.Proofs
end

