-- ==== Sys2Proof/Proofs/Handles.lean ====
section
/-! PROOF. Slots, generations and handles (R204): a handle is taken apart into the slot and the generation it was made of, a creation leaves its slot ACTIVE with
the next generation, and a handle is live exactly where its slot exists with its generation. -/

namespace Sys2Proof.Proofs
open Sys2Proof Sys2Proof.Machine

/-! ### The lowest free slot (R207) -/

theorem freeSlot_eq_some_iff {m : Mach} {c : Nat} : freeSlot m = some c ↔
    c < 16 ∧ ((getCtx m c).st = .free ∨ (getCtx m c).st = .closed) ∧ ∀ d, d < c → (getCtx m d).st ≠ .free ∧ (getCtx m d).st ≠ .closed := by
  simp only [freeSlot, List.find?_range_eq_some, List.mem_range, Bool.or_eq_true, beq_iff_eq, Bool.not_eq_true', Bool.or_eq_false_iff, beq_eq_false_iff_ne]
  exact and_left_comm

/-! ### The generation of a slot -/

theorem nextGen_of_lt {g : Nat} (h : g < 4095) : nextGen g = g + 1 := if_neg (Nat.ne_of_lt h)

@[simp] theorem nextGen_last : nextGen 4095 = 1 := rfl

theorem nextGen_pos (g : Nat) : 1 ≤ nextGen g := by
  unfold nextGen
  split <;> omega

theorem nextGen_lt {g : Nat} (h : g < 4096) : nextGen g < 4096 := by
  unfold nextGen
  split <;> omega

/-! ### What a creation leaves in its slot -/

/-- Entering a block set changes blocks alone (R208). -/
@[simp] theorem getCtx_enterBlocks (m : Mach) (c : Nat) (ss : List ArrShare) (j : Nat) : getCtx (enterBlocks m c ss) j = getCtx m j := by
  refine foldl_keeps (P := fun x => getCtx x j = getCtx m j) (fun x s h => ?_) ss rfl
  split <;> exact h

section
variable (m : Mach) (c : Nat)

@[simp] theorem getCtx_giveMs (base n h j : Nat) : getCtx (giveMs m base n h) j = getCtx m j := rfl

@[simp] theorem getCtx_syncUnits (j : Nat) : getCtx (syncUnits m c) j = getCtx m j := rfl

@[simp] theorem getCtx_zeroHeld (j : Nat) : getCtx (zeroHeld m c) j = getCtx m j := rfl

variable (base seqBase : Nat) (p : CtxPar) (mem : (Nat × Nat) × List (Nat × Nat) × List (Nat × Nat))

theorem makeCtx_st : (getCtx (makeCtx m c base seqBase p mem) c).st = .active := by
  simp [makeCtx]

theorem makeCtx_gen : (getCtx (makeCtx m c base seqBase p mem) c).gen = nextGen (getCtx m c).gen := by
  simp [makeCtx]

/-- The handle a creation makes. -/
theorem handleOf_makeCtx : handleOf (makeCtx m c base seqBase p mem) c = c * 4096 + nextGen (getCtx m c).gen := by
  simp [handleOf, makeCtx_st, makeCtx_gen]

end

/-! ### Handles -/

/-- The slot is bits 15:12 of a handle and the generation bits 11:0. -/
theorem handleLive_iff {m : Mach} {c g : Nat} (hg : g < 4096) :
    handleLive m (c * 4096 + g) = true ↔ (getCtx m c).st ≠ .free ∧ (getCtx m c).gen = g ∧ c * 4096 + g ≠ 0 := by
  have hslot : (c * 4096 + g) / 4096 = c := by omega
  have hgen : (c * 4096 + g) % 4096 = g := by omega
  simp only [handleLive, hslot, hgen, Bool.and_eq_true, bne_iff_ne, beq_iff_eq, and_assoc]

@[simp] theorem handleLive_zero (m : Mach) : handleLive m 0 = false := Bool.and_false _

/-- Settles O58: a creation puts the next generation, 1 to 4,095, into the lowest free slot; a handle is live only with the generation its slot has now. -/
theorem handles : Obligations.Handles := by
  refine ⟨fun _ _ => freeSlot_eq_some_iff.mp, fun g hg => ⟨nextGen_pos g, nextGen_lt hg, nextGen_of_lt, fun h => h ▸ nextGen_last⟩, ?_, handleLive_zero, rfl, rfl⟩
  intro m c base seqBase p mem hc hold
  have hpos := nextGen_pos (getCtx m c).gen
  have hlt := nextGen_lt hold
  refine ⟨handleOf_makeCtx .., ?_, ?_, ?_, ?_⟩
  · rw [handleOf_makeCtx]
    omega
  · rw [handleOf_makeCtx]
    omega
  · rw [handleLive_iff hlt, makeCtx_st, makeCtx_gen]
    exact ⟨by decide, rfl, by omega⟩
  · intro hne
    rw [← Bool.not_eq_true, handleLive_iff hold, makeCtx_gen]
    rintro ⟨-, hgen, -⟩
    exact hne hgen.symm

end Sys2Proof.Proofs
end

