-- ==== Sys2Proof/Proofs/EventRings.lean ====
section
/-! PROOF. The event rings (R433, R434). A ring's records that are not acknowledged are those of the sequences after `ack`, up to `head`: `unacked` counts them. A record
put into a ring with room goes to the slot of the next sequence, which no unacknowledged one has; a full ring counts the event. -/

namespace Sys2Proof.Proofs
open Sys2Proof Sys2Proof.Machine

/-! ### The records of a ring -/

/-- How many records of a ring are not acknowledged. -/
abbrev unacked (r : EvRing) : Nat := (r.head - r.ack).toNat

theorem ringRoom_iff {r : EvRing} : ringRoom r = true ↔ unacked r < r.cap := decide_eq_true_iff

theorem ringEvent_of_room {r : EvRing} (h : ringRoom r = true) (cls : Nat) (e : Event) : ringEvent r cls e = ringPut r e := if_pos h

theorem ringEvent_of_full {r : EvRing} (h : ringRoom r = false) (cls : Nat) (e : Event) :
    ringEvent r cls e = { r with lost := r.lost + 1, dropped := modNth r.dropped (dropField cls) (fun x => satAdd x 1) } :=
  if_neg (Bool.eq_false_iff.mp h)

theorem tget_ringPut (r : EvRing) (e : Event) (k : Nat) : tget noEvent (ringPut r e).recs k =
    if (r.head + 1).toNat % r.cap = k then { e with seq := (r.head + 1).toNat } else tget noEvent r.recs k := tget_tset ..

/-! ### Slots (R433) -/

/-- Where the capacity divides 2^32, sequences in a row take slots in a row, also where they wrap. -/
theorem slot_add {cap : Nat} (hcap : cap ∣ 2 ^ 32) (a b : W32) : (a + b).toNat % cap = (a.toNat + b.toNat) % cap := by
  rw [BitVec.toNat_add, Nat.mod_mod_of_dvd _ hcap]

/-- The record after the newest is `unacked + 1` past the acknowledged one. -/
theorem slot_next {r : EvRing} (hcap : r.cap ∣ 2 ^ 32) : (r.head + 1).toNat % r.cap = (r.ack.toNat + (unacked r + 1)) % r.cap := by
  have hhead : r.head = r.ack + (r.head - r.ack) := by rw [BitVec.add_comm, BitVec.sub_add_cancel]
  have hslot := slot_add hcap r.ack (r.head - r.ack)
  rw [← hhead] at hslot
  rw [slot_add hcap, ← Nat.add_assoc, Nat.add_mod, hslot, ← Nat.add_mod]
  rfl

theorem slot_after_ack {r : EvRing} (hcap : r.cap ∣ 2 ^ 32) {i : Nat} (hi : i < 2 ^ 32) :
    (r.ack + BitVec.ofNat 32 i).toNat % r.cap = (r.ack.toNat + i) % r.cap := by
  rw [slot_add hcap, BitVec.toNat_ofNat, Nat.mod_eq_of_lt hi]

/-- In a ring with room the slot of the next record is that of no unacknowledged one: the two lie less than a whole turn apart. -/
theorem slot_next_ne_unacked {r : EvRing} (hcap : r.cap ∣ 2 ^ 32) (hroom : ringRoom r = true) {i : Nat} (h1 : 1 ≤ i) (hi : i ≤ unacked r) :
    (r.head + 1).toNat % r.cap ≠ (r.ack + BitVec.ofNat 32 i).toNat % r.cap := by
  rw [ringRoom_iff] at hroom
  have hlt : i < 2 ^ 32 := Nat.lt_of_le_of_lt hi (r.head - r.ack).isLt
  rw [slot_next hcap, slot_after_ack hcap hlt]
  intro heq
  have hturn : unacked r + 1 ≡ i [MOD r.cap] := Nat.ModEq.add_left_cancel' _ heq
  have hdvd : r.cap ∣ unacked r + 1 - i := (Nat.modEq_iff_dvd' (by omega)).mp hturn.symm
  have := Nat.le_of_dvd (by omega) hdvd
  omega

/-! ### No ring holds more than its capacity -/

theorem unacked_ringPut_le {r : EvRing} (hcap : r.cap < 2 ^ 32) (hroom : ringRoom r = true) (e : Event) : unacked (ringPut r e) ≤ r.cap := by
  rw [ringRoom_iff] at hroom
  have hput : (ringPut r e).head - (ringPut r e).ack = (r.head - r.ack) + 1 := by
    change r.head + 1 - r.ack = _
    bv_omega
  simp only [unacked] at hroom ⊢
  rw [hput]
  bv_omega

theorem unacked_ringEvent_le {r : EvRing} (hcap : r.cap < 2 ^ 32) (hr : unacked r ≤ r.cap) (cls : Nat) (e : Event) : unacked (ringEvent r cls e) ≤ r.cap := by
  cases hroom : ringRoom r
  · rw [ringEvent_of_full hroom]
    exact hr
  · rw [ringEvent_of_room hroom]
    exact unacked_ringPut_le hcap hroom e

/-- An acknowledgement that counts takes away from what is not acknowledged; any other leaves it. -/
theorem unacked_ringAck_le (r : EvRing) (q : W32) (whole : Bool) : unacked (ringAck r q whole) ≤ unacked r := by
  unfold ringAck
  split
  next h =>
    have hq : (q - r.ack).toNat ≤ (r.head - r.ack).toNat := of_decide_eq_true (Bool.and_eq_true_iff.mp h).2
    change (r.head - q).toNat ≤ (r.head - r.ack).toNat
    bv_omega
  · exact Nat.le_refl _

theorem flushLost_of_room {r : EvRing} (hlost : r.lost ≠ 0) (hroom : ringRoom r = true) (m : Mach) :
    flushLost m r = { ringPut r (overflowEvent m r) with lost := 0 } := if_pos (by simp [hlost, hroom])

theorem unacked_flushLost_le {r : EvRing} (hcap : r.cap < 2 ^ 32) (hr : unacked r ≤ r.cap) (m : Mach) : unacked (flushLost m r) ≤ r.cap := by
  unfold flushLost
  split
  next h => exact unacked_ringPut_le hcap (Bool.and_eq_true_iff.mp h).2 (overflowEvent m r)
  · exact hr

/-! ### Events and commands at a full ring -/

/-- The command of an outcome that is known waits for its OP_DONE while the ring of its port is full (R423). -/
theorem opDone_of_full {m : Mach} {tag : Nat} {o : LongOp} {q : Nat × Nat} (hfind : m.mgmt.ops.find? (fun o => o.tag == tag) = some o)
    (hout : o.outcome = some q) (hfull : ringRoom (if o.port = .host then m.mgmt.hostRing else m.mgmt.boardRing) = false) : opDone tag m = m := by
  simp [opDone, hfind, hout, hfull]

theorem opDoneRow_of_outcome {nv : NonVol} {m : Mach} {tag : Nat} {o : LongOp} (hfind : m.mgmt.ops.find? (fun o => o.tag == tag) = some o)
    (hout : o.outcome.isSome = true) : opDoneRow tag nv m = (nv, opDone tag m) := by
  simp [opDoneRow, hfind, hout]

theorem hostEvent_of_full {m : Mach} (hfull : ringRoom m.mgmt.hostRing = false) (cls : Nat) (e : Event) :
    hostEvent m cls e = { m with mgmt := { m.mgmt with hostRing := ringEvent m.mgmt.hostRing cls e } } := by
  simp [hostEvent, hfull]

/-- The head of a ring moves exactly where an event found room. -/
theorem ringEvent_head_eq_iff (r : EvRing) (cls : Nat) (e : Event) : (ringEvent r cls e).head = r.head ↔ ringRoom r = false := by
  cases hroom : ringRoom r
  · simp [ringEvent_of_full hroom]
  · have hmoves : (ringPut r e).head ≠ r.head := by
      change r.head + 1 ≠ r.head
      bv_omega
    simp [ringEvent_of_room hroom, hmoves]

theorem boardEvent_eq (m : Mach) (cls : Nat) (e : Event) : boardEvent m cls e = { m with mgmt := { m.mgmt with
    boardRing := ringEvent m.mgmt.boardRing cls e, ibi := if ringRoom m.mgmt.boardRing = true then satAdd m.mgmt.ibi 1 else m.mgmt.ibi } } := by
  cases hroom : ringRoom m.mgmt.boardRing <;> simp [boardEvent, putBoard, ringEvent_head_eq_iff, hroom]

/-- Settles O57: the slot a record is put into is that of no unacknowledged one, and a full ring changes its counts alone. -/
theorem eventRings : Obligations.EventRings := by
  refine ⟨?_, ?_, fun r cls e hfull => ringEvent_of_full hfull cls e, by decide, ?_, ?_, ?_, fun m cls e hfull => hostEvent_of_full hfull cls e,
    boardEvent_eq⟩
  · intro r cls e hroom
    exact ⟨ringEvent_of_room hroom cls e, rfl, by rw [tget_ringPut, if_pos rfl]⟩
  · intro r e i hcap hroom h1 hi
    rw [tget_ringPut, if_neg (slot_next_ne_unacked hcap hroom h1 hi)]
  · intro r q whole cls e m hcap hr
    exact ⟨unacked_ringEvent_le hcap hr cls e, (unacked_ringAck_le r q whole).trans hr, unacked_flushLost_le hcap hr m⟩
  · intro r m hlost hroom
    exact ⟨flushLost_of_room hlost hroom m, rfl, rfl⟩
  · intro s tag o q hfind hout hfull
    have hrow : opDoneRow tag s.nv s.m = (s.nv, s.m) := by
      rw [opDoneRow_of_outcome hfind (by simp [hout]), opDone_of_full hfind hout hfull]
    change runD (opDoneRow tag) s = .next s
    simp only [runD, hrow]

end Sys2Proof.Proofs
end

