-- ==== Sys2Proof/Proofs/FusedMinimum.lean ====
section
/-! PROOF. The fused minimum security version (R442). Every command but FW_COMMIT leaves it as it is, which is said once of each operation that touches fuses and flash;
FW_COMMIT raises it; and a management round performs such commands one after another (R419). -/

namespace Sys2Proof.Proofs
open Sys2Proof Sys2Proof.Machine

variable {nv : NonVol} {m : Mach}

/-! ### Alarms and authentication failures (R457 to R460) -/

@[simp] theorem eraseKeys_fusedMin (nv : NonVol) (m : Mach) : (eraseKeys nv m).1.fusedMin = nv.fusedMin := by
  unfold eraseKeys
  split <;> rfl

@[simp] theorem stopVerify_fusedMin (nv : NonVol) (m : Mach) : (stopVerify nv m).1.fusedMin = nv.fusedMin := by
  unfold stopVerify
  split <;> rfl

@[simp] theorem raiseAlarm_fusedMin (nv : NonVol) (m : Mach) (cond : Nat) : (raiseAlarm nv m cond).1.fusedMin = nv.fusedMin := by
  unfold raiseAlarm
  extract_lets level nv1 _ _ _ _ r
  have hr : r.1.fusedMin = nv.fusedMin := by
    unfold r
    split
    · rfl
    · exact stopVerify_fusedMin nv1 _
  split
  · exact hr
  · rw [eraseKeys_fusedMin, hr]

@[simp] theorem noteAuthFail_fusedMin (nv : NonVol) (m : Mach) : (noteAuthFail nv m).1.fusedMin = nv.fusedMin := by
  unfold noteAuthFail
  extract_lets old nv1
  split
  · exact raiseAlarm_fusedMin nv1 m 5
  · rfl

/-! ### Boots and resets (R407, R440) -/

@[simp] theorem takePolicy_fusedMin (nv : NonVol) : (takePolicy nv).fusedMin = nv.fusedMin := by
  unfold takePolicy
  split <;> rfl

@[simp] theorem settleSlots_fusedMin (nv : NonVol) (i : Nat) : (settleSlots nv i).fusedMin = nv.fusedMin := by
  unfold settleSlots
  split
  · split <;> rfl
  · rfl

@[simp] theorem failTry_fusedMin (nv : NonVol) : (failTry nv).fusedMin = nv.fusedMin := rfl

@[simp] theorem bringUp_fusedMin (nv : NonVol) (m : Mach) (f : BootFacts) : (bringUp nv m f).1.fusedMin = nv.fusedMin := by
  unfold bringUp
  split
  · exact settleSlots_fusedMin nv _
  · rfl
  · rfl

@[simp] theorem boot_fusedMin (nv : NonVol) (m : Mach) (f : BootFacts) (cold : Bool) : (boot nv m f cold).1.fusedMin = nv.fusedMin := by
  unfold boot
  extract_lets nv1 nv2 _ _ _ r1 r2
  have h2 : nv2.fusedMin = nv.fusedMin := by
    unfold nv2
    split <;> exact takePolicy_fusedMin nv
  have hr1 : r1.1.fusedMin = nv.fusedMin := by
    unfold r1
    split <;> simp [h2]
  have hr2 : r2.1.fusedMin = nv.fusedMin := by
    unfold r2
    split <;> simp [hr1]
  rw [bringUp_fusedMin, hr2]

@[simp] theorem resetComplete_fusedMin (dom : Nat) (f : BootFacts) (nv : NonVol) (m : Mach) : (resetComplete dom f nv m).1.fusedMin = nv.fusedMin := by
  unfold resetComplete
  split
  · rfl
  · split
    · rfl
    · dsimp only
      split
      · rfl
      · rfl
      · rfl
      · exact boot_fusedMin nv _ f false

@[simp] theorem rungExpiry_fusedMin (dom : Nat) (missed : List Nat) (nv : NonVol) (m : Mach) :
    (rungExpiry dom missed nv m).1.fusedMin = nv.fusedMin := by
  unfold rungExpiry
  split
  · dsimp only
    split <;> rfl
  · split
    · rfl
    · split
      · rfl
      · split
        · rfl
        · rfl
        · rfl
        · split <;> rfl

@[simp] theorem tryBootTimeout_fusedMin (f : BootFacts) (nv : NonVol) (m : Mach) : (tryBootTimeout f nv m).1.fusedMin = nv.fusedMin := by
  unfold tryBootTimeout
  split
  · rfl
  · exact bringUp_fusedMin (failTry nv) _ f

@[simp] theorem inputRise_fusedMin (f : BootFacts) (nv : NonVol) (m : Mach) : (inputRise f nv m).1.fusedMin = nv.fusedMin := by
  unfold inputRise
  split <;> simp

@[simp] theorem wake_fusedMin (cool : Bool) (f : BootFacts) (nv : NonVol) (m : Mach) : (wake cool f nv m).1.fusedMin = nv.fusedMin := by
  unfold wake
  split <;> simp

/-! ### Sensors, the round and the ends of long commands (R423, R446, R457, R461, R478) -/

@[simp] theorem thermalShutdown_fusedMin (nv : NonVol) (m : Mach) : (thermalShutdown nv m).1.fusedMin = nv.fusedMin := by
  unfold thermalShutdown
  split
  · rfl
  · dsimp only
    split <;> simp

@[simp] theorem alarmCondition_fusedMin (cond : Nat) (nv : NonVol) (m : Mach) : (alarmCondition cond nv m).1.fusedMin = nv.fusedMin := by
  unfold alarmCondition
  split <;> simp

@[simp] theorem fuseCheck_fusedMin (bad : Bool) (nv : NonVol) (m : Mach) : (fuseCheck bad nv m).1.fusedMin = nv.fusedMin := by
  unfold fuseCheck
  split
  · rfl
  · dsimp only
    split <;> simp

@[simp] theorem tamperLatch_fusedMin (nv : NonVol) (m : Mach) : (tamperLatch nv m).1.fusedMin = nv.fusedMin := by
  unfold tamperLatch
  split <;> rfl

@[simp] theorem managementRound_fusedMin (f : RoundFacts) (nv : NonVol) (m : Mach) : (managementRound f nv m).1.fusedMin = nv.fusedMin := by
  unfold managementRound
  split
  · rfl
  · dsimp only
    split
    · rfl
    · exact takePolicy_fusedMin nv

@[simp] theorem zeroiseDone_fusedMin (nv : NonVol) (m : Mach) (mode : Nat) : (zeroiseDone nv m mode).1.fusedMin = nv.fusedMin := by
  have howner : (if mode = 0 then nv else dropOwner nv).fusedMin = nv.fusedMin := by split <;> rfl
  unfold zeroiseDone
  dsimp only
  split <;> simp [howner]

@[simp] theorem moveDone_fusedMin (nv : NonVol) (m : Mach) (target : Nat) : (moveDone nv m target).1.fusedMin = nv.fusedMin := by
  unfold moveDone
  dsimp only
  split <;> simp

@[simp] theorem opDoneRow_fusedMin (tag : Nat) (nv : NonVol) (m : Mach) : (opDoneRow tag nv m).1.fusedMin = nv.fusedMin := by
  unfold opDoneRow
  split
  · rfl
  next o _ =>
    split_ifs
    · rfl
    · rfl
    · exact zeroiseDone_fusedMin nv _ o.subject
    · rfl
    · split
      · rfl
      · exact moveDone_fusedMin nv m o.subject

/-! ### Commands that may change what fuses and flash hold -/

/-- Whatever a command's body answers OK has a property of what fuses and flash hold. -/
def OkNv (P : NonVol → Prop) (k : K (NonVol × Done)) : Prop := ∀ d, k = .ok d → P d.1

section
variable {P : NonVol → Prop}

theorem okNv_ok {d : NonVol × Done} (h : P d.1) : OkNv P (.ok d) := by
  rintro _ ⟨⟩
  exact h

theorem okNv_pure {d : NonVol × Done} (h : P d.1) : OkNv P (pure d) := okNv_ok h

theorem okNv_error (b : Bad) : OkNv P (.error b) := fun _ h => nomatch h

/-- A check before the rest of a body only takes answers away. -/
theorem okNv_bind {α : Type} {k : K α} {f : α → K (NonVol × Done)} (h : ∀ a, OkNv P (f a)) : OkNv P (k >>= f) := by
  cases k with
  | ok a => exact h a
  | error b => exact okNv_error b

/-- A check that takes one of two forms before the rest of a body. -/
theorem okNv_ite_bind {α : Type} {c : Prop} [Decidable c] {k l : K α} {f : α → K (NonVol × Done)} (h : ∀ a, OkNv P (f a)) :
    OkNv P (if c then k >>= f else l >>= f) := by
  split <;> exact okNv_bind h

/-- A failed authentication is counted and answered all the same (R458). -/
theorem okNv_checked {k : K Unit} {next : K (NonVol × Done)} (hfail : P (noteAuthFail nv m).1) (hnext : OkNv P next) : OkNv P (checked nv m k next) := by
  unfold checked
  split
  · exact hnext
  · unfold authFailed
    split
    · exact okNv_ok hfail
    · exact okNv_error _

/-- A request leaves what fuses and flash hold, or what its body answers of them. -/
theorem knaobNv_of {opcode mask : Nat} {u : HandleUse} {lenOk : List Byte → Bool} {resv : List Byte → List (Nat × Nat)}
    {body : NonVol → Mach → Nat → Req → K (NonVol × Done)} {r : Req} (hkeep : P nv) (hbody : OkNv P (body nv m (slotOf r) r)) :
    P (knaobNv opcode mask u lenOk resv body r nv m).1 := by
  unfold knaobNv
  split
  · exact hkeep
  · split
    next d heq =>
      have hok : OkNv P (do checkReq m opcode mask lenOk resv r; withHandle (checkObj nv m opcode mask u r) (body nv m (slotOf r) r)) := by
        refine okNv_bind fun _ => ?_
        unfold withHandle
        split
        · exact hbody
        · exact okNv_error _
        · exact okNv_error _
      exact hok d heq
    · exact hkeep

end

/-! ### Firmware, owner, policy, debug and lifecycle (R441, R445, R453, R454, R456, R461) -/

/-- What fuses and flash hold has the fused minimum that `nv` has. -/
abbrev SameMin (nv x : NonVol) : Prop := x.fusedMin = nv.fusedMin

theorem okNv_checked_sameMin {k : K Unit} {next : K (NonVol × Done)} (hnext : OkNv (SameMin nv) next) : OkNv (SameMin nv) (checked nv m k next) :=
  okNv_checked (noteAuthFail_fusedMin nv m) hnext

@[simp] theorem fwStage_fusedMin (r : Req) (nv : NonVol) (m : Mach) : (fwStage r nv m).1.fusedMin = nv.fusedMin := by
  refine knaobNv_of (P := SameMin nv) rfl ?_
  repeat refine okNv_bind fun _ => ?_
  exact okNv_pure rfl

@[simp] theorem fwVerify_fusedMin (sig : Bool) (r : Req) (nv : NonVol) (m : Mach) : (fwVerify sig r nv m).1.fusedMin = nv.fusedMin := by
  refine knaobNv_of (P := SameMin nv) rfl ?_
  repeat refine okNv_bind fun _ => ?_
  refine okNv_pure ?_
  dsimp only
  split
  · refine (noteAuthFail_fusedMin ..).trans ?_
    split <;> rfl
  · split <;> rfl

@[simp] theorem fwActivate_fusedMin (r : Req) (nv : NonVol) (m : Mach) : (fwActivate r nv m).1.fusedMin = nv.fusedMin := by
  refine knaobNv_of (P := SameMin nv) rfl ?_
  repeat refine okNv_bind fun _ => ?_
  exact okNv_pure rfl

@[simp] theorem ownerEnrol_fusedMin (sig : Bool) (r : Req) (nv : NonVol) (m : Mach) : (ownerEnrol sig r nv m).1.fusedMin = nv.fusedMin := by
  refine knaobNv_of (P := SameMin nv) rfl ?_
  repeat refine okNv_bind fun _ => ?_
  refine okNv_checked_sameMin (okNv_ok ?_)
  dsimp only
  split <;> rfl

@[simp] theorem policySet_fusedMin (sig : Bool) (r : Req) (nv : NonVol) (m : Mach) : (policySet sig r nv m).1.fusedMin = nv.fusedMin := by
  refine knaobNv_of (P := SameMin nv) rfl (okNv_bind fun _ => ?_)
  dsimp only
  split
  all_goals
    repeat refine okNv_bind fun _ => ?_
    exact okNv_checked_sameMin (okNv_ok rfl)

@[simp] theorem debugUnlock_fusedMin (sig : Bool) (r : Req) (nv : NonVol) (m : Mach) : (debugUnlock sig r nv m).1.fusedMin = nv.fusedMin := by
  refine knaobNv_of (P := SameMin nv) rfl ?_
  repeat refine okNv_bind fun _ => ?_
  exact okNv_checked_sameMin (okNv_ok rfl)

@[simp] theorem zeroise_fusedMin (sig : Bool) (r : Req) (nv : NonVol) (m : Mach) : (zeroise sig r nv m).1.fusedMin = nv.fusedMin := by
  refine knaobNv_of (P := SameMin nv) rfl (okNv_ite_bind fun _ => okNv_bind fun _ => okNv_ite_bind fun _ => ?_)
  repeat refine okNv_bind fun _ => ?_
  exact okNv_checked_sameMin (okNv_ok rfl)

@[simp] theorem lifecycleSet_fusedMin (sig : Bool) (r : Req) (nv : NonVol) (m : Mach) : (lifecycleSet sig r nv m).1.fusedMin = nv.fusedMin := by
  refine knaobNv_of (P := SameMin nv) rfl (okNv_ite_bind fun _ => okNv_bind fun _ => okNv_ite_bind fun _ => ?_)
  repeat refine okNv_bind fun _ => ?_
  exact okNv_checked_sameMin (okNv_ok rfl)

/-! ### FW_COMMIT (R442) -/

/-- What FW_COMMIT makes of the fused minimum where slot `a` is ACTIVE. -/
abbrev raisedMin (nv : NonVol) (a : Nat) : W32 :=
  if nv.fusedMin < (nv.slots.getD a fwEmpty).secVer then (nv.slots.getD a fwEmpty).secVer else nv.fusedMin

theorem le_raisedMin (nv : NonVol) (a : Nat) : nv.fusedMin ≤ raisedMin nv a := by
  unfold raisedMin
  split
  next h => exact BitVec.le_of_lt h
  · exact BitVec.le_refl _

theorem fwCommit_fusedMin_le (r : Req) (nv : NonVol) (m : Mach) : nv.fusedMin ≤ (fwCommit r nv m).1.fusedMin := by
  refine knaobNv_of (P := fun x => nv.fusedMin ≤ x.fusedMin) (BitVec.le_refl _) (okNv_bind fun _ => ?_)
  split
  · exact okNv_error _
  · exact okNv_pure (le_raisedMin nv _)

theorem exec_fwCommit {s : State} {r : Req} {a : Nat} (h : Passes 0x0505 aB .none (lenIs 0) noResv r s) (htry : slotIn s.nv .try_ = none)
    (hact : slotIn s.nv .active = some a) : exec (.fwCommit r) s =
      .next { answered s 0x0505 r s.m 0 (leBytes 4 (raisedMin s.nv a).toNat) with nv := { s.nv with fusedMin := raisedMin s.nv a } } :=
  knaobNv_next h (by simp only [htry, hact, Option.isNone_none, must_true, ok_bind]; rfl)

/-- As `knaobNv_ok`, for a command that refuses. -/
theorem knaobNv_body_error {opcode mask : Nat} {u : HandleUse} {lenOk : List Byte → Bool} {resv : List Byte → List (Nat × Nat)} {r : Req} {s : State}
    {body : NonVol → Mach → Nat → Req → K (NonVol × Done)} {b : Bad} (h : Passes opcode mask u lenOk resv r s)
    (hb : body s.nv s.m (slotOf r) r = .error b) : knaobNv opcode mask u lenOk resv body r s.nv s.m = (s.nv, refuse s.m opcode r b) := by
  obtain ⟨hfront, hreq, hobj⟩ := h
  simp only [knaobNv, hfront, hreq, hobj, hb, withHandle, ok_bind]

theorem exec_fwCommit_of_try {s : State} {r : Req} (h : Passes 0x0505 aB .none (lenIs 0) noResv r s) (htry : slotIn s.nv .try_ ≠ none) :
    exec (.fwCommit r) s = .next { s with m := refuse s.m 0x0505 r { status := 0x45, detail := 0 } } := by
  have hsome : (slotIn s.nv .try_).isNone = false := Option.isNone_eq_false_iff.mpr (Option.isSome_iff_ne_none.mpr htry)
  have hrow : fwCommit r s.nv s.m = (s.nv, refuse s.m 0x0505 r { status := 0x45, detail := 0 }) :=
    knaobNv_body_error h (by simp only [hsome, must_false, error_bind])
  change runD (fwCommit r) s = _
  simp only [runD, hrow]

/-! ### The slot that boots (R440, R442) -/

theorem mayBoot_iff {nv : NonVol} {x : FwSlot} : mayBoot nv x = true ↔ nv.fusedMin ≤ x.secVer := decide_eq_true_iff

/-- A slot that is run is the one tried, and passes. -/
theorem run_of_passes {ok : Bool} {x : FwSlot} {k i : Nat} {other : Chosen} (hother : other ≠ .run i)
    (h : (if ok && mayBoot nv x then Chosen.run k else other) = .run i) : k = i ∧ mayBoot nv x = true := by
  split at h
  next hboots => exact ⟨Chosen.run.inj h, (Bool.and_eq_true_iff.mp hboots).2⟩
  · exact absurd h hother

theorem mayBoot_of_chooseSlot {nv : NonVol} {f : BootFacts} {i : Nat} (h : chooseSlot nv f = .run i) : ∃ x, nv.slots[i]? = some x ∧ mayBoot nv x = true := by
  unfold chooseSlot at h
  split at h
  · split at h
    next x hslot =>
      obtain ⟨rfl, hboots⟩ := run_of_passes (by simp) h
      exact ⟨x, hslot, hboots⟩
    · cases h
  · split at h
    · split at h
      next x hslot =>
        obtain ⟨rfl, hboots⟩ := run_of_passes (by simp) h
        exact ⟨x, hslot, hboots⟩
      · cases h
    · cases h

/-! ### Rounds and the other commands -/

/-- A request that waited does as its command does. -/
theorem runCmd_fusedMin_le (opcode : Nat) (r : Req) (f : CmdFacts) (nv : NonVol) (m : Mach) : nv.fusedMin ≤ (runCmd opcode r f nv m).1.fusedMin := by
  unfold runCmd
  split <;> simp [fwCommit_fusedMin_le]

theorem serveMailboxes_fusedMin_le (nv : NonVol) (m : Mach) (ps : List Port) (fs : List CmdFacts) :
    nv.fusedMin ≤ (serveMailboxes nv m ps fs).1.fusedMin := by
  induction ps generalizing nv m fs with
  | nil => exact BitVec.le_refl _
  | cons p ps ih =>
    unfold serveMailboxes
    split
    · exact BitVec.le_refl _
    · split
      · exact BitVec.le_refl _
      · exact BitVec.le_trans (runCmd_fusedMin_le ..) (ih ..)

theorem fullRound_fusedMin_le (f : RoundFacts) (nv : NonVol) (m : Mach) : nv.fusedMin ≤ (fullRound f nv m).1.fusedMin := by
  have h := serveMailboxes_fusedMin_le (managementRound f nv m).1 (managementRound f nv m).2 (managementRound f nv m).2.mgmt.accepted f.cmds
  rwa [managementRound_fusedMin] at h

/-- A command outside `writesNv` changes the module alone. -/
theorem exec_nv_eq {c : Instr} {s t : State} (hc : writesNv c = false) (h : exec c s = .next t) : t.nv = s.nv := by
  cases c
  case fwStage | fwVerify | fwActivate | fwCommit | tryBootTimeout | ownerEnrol | policySet | debugUnlock | zeroise | lifecycleSet | opDone
    | inputPowerRise | wake | thermalShutdown | alarmCondition | fuseIntegrityCheck | managementRound | resetComplete | rungWatchdogExpiry
    | tamperLatchSet => cases hc
  all_goals
    cases h
    rfl

theorem exec_fusedMin_le {c : Instr} {s t : State} (h : exec c s = .next t) : s.nv.fusedMin ≤ t.nv.fusedMin := by
  cases hc : writesNv c
  · rw [exec_nv_eq hc h]
    exact BitVec.le_refl _
  · cases c
    case fwCommit r =>
      cases h
      exact fwCommit_fusedMin_le r s.nv s.m
    case managementRound f =>
      cases h
      exact fullRound_fusedMin_le f s.nv s.m
    case fwStage | fwVerify | fwActivate | tryBootTimeout | ownerEnrol | policySet | debugUnlock | zeroise | lifecycleSet | opDone | inputPowerRise
      | wake | thermalShutdown | alarmCondition | fuseIntegrityCheck | resetComplete | rungWatchdogExpiry | tamperLatchSet =>
      cases h
      simp
    all_goals cases hc

/-- Settles O52: no operation but FW_COMMIT's touches the fused minimum, which takes the larger of two values, and a slot that boots has passed `mayBoot`. -/
theorem fusedMinimum : Obligations.FusedMinimum := by
  refine ⟨?_, fun s r => exec_fwCommit_of_try, fun c s t => exec_fusedMin_le, ?_⟩
  · intro s r a h htry hact
    exact ⟨_, exec_fwCommit h htry hact, rfl⟩
  · intro nv f i h
    obtain ⟨x, hslot, hboots⟩ := mayBoot_of_chooseSlot h
    exact ⟨x, hslot, mayBoot_iff.mp hboots⟩

end Sys2Proof.Proofs
end
-- ==== Sys2Proof/Proofs/NonVolatile.lean ====
section
/-! PROOF. What fuses and flash hold (R439, R444, R446, R453, R454, R460). One relation says what an operation may change of it; it holds of every operation but
the end of a lifecycle transition, which writes the fuses, and composes along boots, alarms and management rounds. -/

namespace Sys2Proof.Proofs
open Sys2Proof Sys2Proof.Machine

variable {nv a b c : NonVol} {m : Mach}

/-! ### What an operation may change -/

/-- The policies in force and in wait are legal (Table 17.6). -/
def PoliciesOk (nv : NonVol) : Prop := PolicyOk nv.policy ∧ ∀ p, nv.nextPolicy = some p → PolicyOk p

/-- From `a` to `b` nothing legal becomes illegal, no lifecycle is entered but ERASED, the latch stays set, and the return count and the identity stay. -/
structure KeepsFuses (a b : NonVol) : Prop where
  slots : b.slots.length = a.slots.length
  policies : PoliciesOk a → PoliciesOk b
  lifecycle : b.lifecycle = a.lifecycle ∨ b.lifecycle = 3
  returnCount : b.returnCount = a.returnCount
  keyLatch : a.keyLatch = true → b.keyLatch = true
  identity : b.idKey = a.idKey ∧ b.chain = a.chain ∧ b.keyHeld = a.keyHeld

/-- As `KeepsFuses`, and the owner stays. -/
structure KeepsOwner (a b : NonVol) : Prop extends KeepsFuses a b where
  owner : b.owner = a.owner

theorem KeepsFuses.trans (h : KeepsFuses a b) (k : KeepsFuses b c) : KeepsFuses a c where
  slots := k.slots.trans h.slots
  policies := k.policies ∘ h.policies
  lifecycle := by
    rcases k.lifecycle with hc | hc
    · rw [hc]
      exact h.lifecycle
    · exact .inr hc
  returnCount := k.returnCount.trans h.returnCount
  keyLatch := k.keyLatch ∘ h.keyLatch
  identity := by
    obtain ⟨hid, hchain, hheld⟩ := h.identity
    obtain ⟨kid, kchain, kheld⟩ := k.identity
    exact ⟨kid.trans hid, kchain.trans hchain, kheld.trans hheld⟩

theorem KeepsOwner.trans (h : KeepsOwner a b) (k : KeepsOwner b c) : KeepsOwner a c :=
  ⟨h.toKeepsFuses.trans k.toKeepsFuses, k.owner.trans h.owner⟩

/-- A change of the slots, as many as before, and of the records of alarms and failures. -/
theorem keepsOwner_of_slots {slots : List FwSlot} (h : slots.length = a.slots.length) (alarms : List W64) (fails : List Nat) (total : W32) (tamper : Bool) :
    KeepsOwner a { a with slots := slots, alarms := alarms, fails := fails, failTotal := total, tamper := tamper } :=
  ⟨⟨h, id, .inl rfl, rfl, id, rfl, rfl, rfl⟩, rfl⟩

@[simp] theorem KeepsOwner.refl (a : NonVol) : KeepsOwner a a := keepsOwner_of_slots rfl a.alarms a.fails a.failTotal a.tamper

@[simp] theorem KeepsFuses.refl (a : NonVol) : KeepsFuses a a := (KeepsOwner.refl a).toKeepsFuses

theorem keepsFuses_fusedMin (v : W32) : KeepsOwner a { a with fusedMin := v } := ⟨⟨rfl, id, .inl rfl, rfl, id, rfl, rfl, rfl⟩, rfl⟩

theorem policyOk_default : PolicyOk policyDefault := by decide

theorem keepsFuses_dropOwner (nv : NonVol) : KeepsFuses nv (dropOwner nv) :=
  ⟨rfl, fun _ => ⟨policyOk_default, fun _ h => nomatch h⟩, .inl rfl, rfl, id, rfl, rfl, rfl⟩

/-! ### Slots -/

@[simp] theorem length_modNth {α : Type} (l : List α) (i : Nat) (f : α → α) : (modNth l i f).length = l.length := by
  induction l generalizing i with
  | nil => rfl
  | cons x l ih => cases i <;> simp [modNth, ih]

@[simp] theorem length_setNth {α : Type} (l : List α) (i : Nat) (x : α) : (setNth l i x).length = l.length := by
  induction l generalizing i with
  | nil => rfl
  | cons y l ih => cases i <;> simp [setNth, ih]

/-! ### Alarms and authentication failures (R457 to R460) -/

@[simp] theorem eraseKeys_keeps (nv : NonVol) (m : Mach) : KeepsOwner nv (eraseKeys nv m).1 := by
  unfold eraseKeys
  split
  · exact .refl nv
  · exact ⟨⟨rfl, id, .inr rfl, rfl, fun _ => rfl, rfl, rfl, rfl⟩, rfl⟩

@[simp] theorem stopVerify_keeps (nv : NonVol) (m : Mach) : KeepsOwner nv (stopVerify nv m).1 := by
  unfold stopVerify
  split
  · refine keepsOwner_of_slots ?_ ..
    split <;> simp
  · exact .refl nv

@[simp] theorem raiseAlarm_keeps (nv : NonVol) (m : Mach) (cond : Nat) : KeepsOwner nv (raiseAlarm nv m cond).1 := by
  unfold raiseAlarm
  extract_lets level nv1 _ _ _ _ r
  have hcount : KeepsOwner nv nv1 := keepsOwner_of_slots rfl ..
  have hr : KeepsOwner nv r.1 := by
    unfold r
    split
    · exact hcount
    · exact hcount.trans (stopVerify_keeps ..)
  split
  · exact hr
  · exact hr.trans (eraseKeys_keeps ..)

@[simp] theorem noteAuthFail_keeps (nv : NonVol) (m : Mach) : KeepsOwner nv (noteAuthFail nv m).1 := by
  unfold noteAuthFail
  extract_lets old nv1
  have hcount : KeepsOwner nv nv1 := keepsOwner_of_slots rfl ..
  split
  · exact hcount.trans (raiseAlarm_keeps ..)
  · exact hcount

/-! ### Boots and resets (R407, R440) -/

@[simp] theorem takePolicy_keeps (nv : NonVol) : KeepsOwner nv (takePolicy nv) := by
  unfold takePolicy
  split
  next p hp => exact ⟨⟨rfl, fun ⟨_, hnext⟩ => ⟨hnext p hp, fun _ h => nomatch h⟩, .inl rfl, rfl, id, rfl, rfl, rfl⟩, rfl⟩
  · exact .refl nv

@[simp] theorem settleSlots_keeps (nv : NonVol) (i : Nat) : KeepsOwner nv (settleSlots nv i) := by
  unfold settleSlots
  split
  · split
    · exact keepsOwner_of_slots (by simp) ..
    · exact .refl nv
  · exact .refl nv

@[simp] theorem failTry_keeps (nv : NonVol) : KeepsOwner nv (failTry nv) := keepsOwner_of_slots (List.length_map _) ..

@[simp] theorem bringUp_keeps (nv : NonVol) (m : Mach) (f : BootFacts) : KeepsOwner nv (bringUp nv m f).1 := by
  unfold bringUp
  split
  · exact settleSlots_keeps nv _
  · exact .refl nv
  · exact .refl nv

@[simp] theorem boot_keeps (nv : NonVol) (m : Mach) (f : BootFacts) (cold : Bool) : KeepsOwner nv (boot nv m f cold).1 := by
  unfold boot
  extract_lets nv1 nv2 _ _ _ r1 r2
  have h2 : KeepsOwner nv nv2 := by
    unfold nv2
    split
    · exact (takePolicy_keeps nv).trans ⟨⟨rfl, id, .inr rfl, rfl, id, rfl, rfl, rfl⟩, rfl⟩
    · exact takePolicy_keeps nv
  have hr1 : KeepsOwner nv r1.1 := by
    unfold r1
    split
    · exact (h2.trans (keepsOwner_of_slots rfl ..)).trans (raiseAlarm_keeps ..)
    · exact h2
  have hr2 : KeepsOwner nv r2.1 := by
    unfold r2
    split
    · exact hr1.trans (raiseAlarm_keeps ..)
    · exact hr1
  exact hr2.trans (bringUp_keeps ..)

@[simp] theorem resetComplete_keeps (dom : Nat) (f : BootFacts) (nv : NonVol) (m : Mach) : KeepsOwner nv (resetComplete dom f nv m).1 := by
  unfold resetComplete
  split
  · exact .refl nv
  · split
    · exact .refl nv
    · dsimp only
      split
      · exact .refl nv
      · exact .refl nv
      · exact .refl nv
      · exact boot_keeps nv _ f false

@[simp] theorem rungExpiry_keeps (dom : Nat) (missed : List Nat) (nv : NonVol) (m : Mach) : KeepsOwner nv (rungExpiry dom missed nv m).1 := by
  unfold rungExpiry
  split
  · dsimp only
    split <;> exact .refl nv
  · split
    · exact .refl nv
    · split
      · exact .refl nv
      · split
        · exact .refl nv
        · exact .refl nv
        · exact .refl nv
        · split
          · exact failTry_keeps nv
          · exact .refl nv

@[simp] theorem tryBootTimeout_keeps (f : BootFacts) (nv : NonVol) (m : Mach) : KeepsOwner nv (tryBootTimeout f nv m).1 := by
  unfold tryBootTimeout
  split
  · exact .refl nv
  · exact (failTry_keeps nv).trans (bringUp_keeps ..)

@[simp] theorem inputRise_keeps (f : BootFacts) (nv : NonVol) (m : Mach) : KeepsOwner nv (inputRise f nv m).1 := by
  unfold inputRise
  split
  · exact boot_keeps ..
  · exact .refl nv

@[simp] theorem wake_keeps (cool : Bool) (f : BootFacts) (nv : NonVol) (m : Mach) : KeepsOwner nv (wake cool f nv m).1 := by
  unfold wake
  split
  · exact boot_keeps ..
  · exact .refl nv

/-! ### Sensors, the round and the ends of long commands (R423, R446, R457, R461, R478) -/

@[simp] theorem thermalShutdown_keeps (nv : NonVol) (m : Mach) : KeepsOwner nv (thermalShutdown nv m).1 := by
  unfold thermalShutdown
  split
  · exact .refl nv
  · dsimp only
    split
    · exact raiseAlarm_keeps ..
    · exact .refl nv

@[simp] theorem alarmCondition_keeps (cond : Nat) (nv : NonVol) (m : Mach) : KeepsOwner nv (alarmCondition cond nv m).1 := by
  unfold alarmCondition
  split
  · exact raiseAlarm_keeps ..
  · exact .refl nv

@[simp] theorem fuseCheck_keeps (bad : Bool) (nv : NonVol) (m : Mach) : KeepsOwner nv (fuseCheck bad nv m).1 := by
  unfold fuseCheck
  split
  · exact .refl nv
  · dsimp only
    split
    · exact raiseAlarm_keeps ..
    · exact .refl nv

@[simp] theorem tamperLatch_keeps (nv : NonVol) (m : Mach) : KeepsOwner nv (tamperLatch nv m).1 := by
  unfold tamperLatch
  split
  · exact keepsOwner_of_slots rfl ..
  · exact .refl nv

@[simp] theorem managementRound_keeps (f : RoundFacts) (nv : NonVol) (m : Mach) : KeepsOwner nv (managementRound f nv m).1 := by
  unfold managementRound
  split
  · exact .refl nv
  · dsimp only
    split
    · exact .refl nv
    · exact takePolicy_keeps nv

theorem zeroiseDone_keeps (nv : NonVol) (m : Mach) (mode : Nat) : KeepsFuses nv (zeroiseDone nv m mode).1 := by
  have howner : KeepsFuses nv (if mode = 0 then nv else dropOwner nv) := by
    split
    · exact .refl nv
    · exact keepsFuses_dropOwner nv
  unfold zeroiseDone
  dsimp only
  split
  · exact howner.trans (eraseKeys_keeps ..).toKeepsFuses
  · exact howner

/-- Without mode ERASE a zeroise writes no fuse. -/
theorem zeroiseDone_lifecycle (nv : NonVol) (m : Mach) {mode : Nat} (h : mode ≠ 2) : (zeroiseDone nv m mode).1.lifecycle = nv.lifecycle := by
  unfold zeroiseDone
  dsimp only
  rw [if_neg h]
  split <;> rfl

/-- The transitions of Table 17.1 begin and end in no state but MANUFACTURE, PRODUCTION and RETURN. -/
theorem lifecycleMove_ok {target : Nat} {u : Unit} (h : lifecycleMove nv target = .ok u) : nv.lifecycle ≤ 2 ∧ target ≤ 2 := by
  unfold lifecycleMove at h
  split at h
  next hl => rw [hl]; omega
  next hl => rw [hl]; omega
  next hl => rw [hl]; omega
  · cases h

/-- What a transition makes of fuses and flash: what a zeroise leaves, with the new lifecycle and the return counted. -/
theorem moveDone_eq (nv : NonVol) (m : Mach) (target : Nat) : ∃ z, KeepsFuses nv z ∧ z.lifecycle = nv.lifecycle ∧
    (moveDone nv m target).1 = { z with lifecycle := target, returnCount := if target = 2 then min 3 (nv.returnCount + 1) else nv.returnCount } := by
  unfold moveDone
  split
  · exact ⟨nv, .refl nv, rfl, rfl⟩
  · have hz := zeroiseDone_keeps nv m (if target = 2 then 1 else 0)
    exact ⟨_, hz, zeroiseDone_lifecycle nv m (by split <;> decide), by rw [← hz.returnCount]⟩

/-- The end of a long command keeps fuses and flash, or writes what a transition writes. -/
theorem opDoneRow_cases (tag : Nat) (nv : NonVol) (m : Mach) : KeepsFuses nv (opDoneRow tag nv m).1 ∨
    ∃ target, nv.lifecycle ≤ 2 ∧ target ≤ 2 ∧ (opDoneRow tag nv m).1 = (moveDone nv m target).1 := by
  unfold opDoneRow
  split
  · exact .inl (.refl nv)
  next o _ =>
    split_ifs
    · exact .inl (.refl nv)
    · exact .inl (.refl nv)
    · exact .inl (zeroiseDone_keeps nv _ o.subject)
    · exact .inl (.refl nv)
    · split
      · exact .inl (.refl nv)
      next hmove =>
        obtain ⟨hfrom, hto⟩ := lifecycleMove_ok hmove
        exact .inr ⟨o.subject, hfrom, hto, rfl⟩

/-! ### Firmware, owner, policy, debug and lifecycle (R441, R445, R453, R454, R456, R461) -/

theorem okNv_checked_keepsOwner {k : K Unit} {next : K (NonVol × Done)} (hnext : OkNv (KeepsOwner nv) next) : OkNv (KeepsOwner nv) (checked nv m k next) :=
  okNv_checked (noteAuthFail_keeps nv m) hnext

@[simp] theorem fwStage_keeps (r : Req) (nv : NonVol) (m : Mach) : KeepsOwner nv (fwStage r nv m).1 := by
  refine knaobNv_of (P := KeepsOwner nv) (.refl nv) ?_
  repeat refine okNv_bind fun _ => ?_
  exact okNv_pure (keepsOwner_of_slots (length_setNth ..) ..)

@[simp] theorem fwVerify_keeps (sig : Bool) (r : Req) (nv : NonVol) (m : Mach) : KeepsOwner nv (fwVerify sig r nv m).1 := by
  refine knaobNv_of (P := KeepsOwner nv) (.refl nv) ?_
  repeat refine okNv_bind fun _ => ?_
  refine okNv_pure ?_
  dsimp only
  split
  · refine KeepsOwner.trans ?_ (noteAuthFail_keeps ..)
    split
    · exact keepsOwner_of_slots (length_setNth ..) ..
    · exact .refl nv
  · split
    · exact keepsOwner_of_slots (length_setNth ..) ..
    · exact .refl nv

@[simp] theorem fwActivate_keeps (r : Req) (nv : NonVol) (m : Mach) : KeepsOwner nv (fwActivate r nv m).1 := by
  refine knaobNv_of (P := KeepsOwner nv) (.refl nv) ?_
  repeat refine okNv_bind fun _ => ?_
  exact okNv_pure (keepsOwner_of_slots (length_modNth ..) ..)

@[simp] theorem fwCommit_keeps (r : Req) (nv : NonVol) (m : Mach) : KeepsOwner nv (fwCommit r nv m).1 := by
  refine knaobNv_of (P := KeepsOwner nv) (.refl nv) (okNv_bind fun _ => ?_)
  split
  · exact okNv_error _
  · exact okNv_pure (keepsFuses_fusedMin _)

theorem ownerEnrol_keeps (sig : Bool) (r : Req) (nv : NonVol) (m : Mach) : KeepsFuses nv (ownerEnrol sig r nv m).1 := by
  refine knaobNv_of (P := KeepsFuses nv) (.refl nv) ?_
  repeat refine okNv_bind fun _ => ?_
  refine okNv_checked (noteAuthFail_keeps nv m).toKeepsFuses (okNv_ok ?_)
  dsimp only
  split
  · exact ⟨rfl, fun _ => ⟨policyOk_default, fun _ h => nomatch h⟩, .inl rfl, rfl, id, rfl, rfl, rfl⟩
  · exact ⟨rfl, id, .inl rfl, rfl, id, rfl, rfl, rfl⟩

/-- The policy a POLICY_SET blob spells (Table 17.6). -/
def policyIn (r : Req) : Policy :=
  { seq := BitVec.ofNat 32 (pf r 8 4), flags := pf r 28 1, levels := (List.range 7).map (fun i => pf r (32 + i) 1), authLimit := pf r 40 2,
    authWindowH := pf r 42 2, blob := r.payload }

/-- A blob without a level out of range has none below its floor or above 3. -/
theorem levels_of_badLevel {r : Req} (h : badLevel r.payload = none) {i : Nat} (hi : i < 7) :
    nthN levelFloors i ≤ nthN (policyIn r).levels i ∧ nthN (policyIn r).levels i ≤ 3 := by
  have hat : nthN (policyIn r).levels i = recNat r.payload (32 + i) 1 := by simp [policyIn, nthN, List.getD, hi, pf]
  have hin := List.find?_eq_none.mp h i (List.mem_range.mpr hi)
  simp only [Bool.or_eq_true, decide_eq_true_eq] at hin
  omega

theorem policyIn_ok {r : Req} (hflags : pf r 28 1 < 4) (hlevels : badLevel r.payload = none) (hlimit : 4 ≤ pf r 40 2 ∧ pf r 40 2 ≤ 1024)
    (hwindow : 1 ≤ pf r 42 2 ∧ pf r 42 2 ≤ 168) : PolicyOk (policyIn r) :=
  ⟨by simp [policyIn], fun _ => levels_of_badLevel hlevels, hflags, hlimit.1, hlimit.2, hwindow.1, hwindow.2⟩

/-- The rest of a body after a check has a property where the check's outcome gives it. -/
theorem okNv_must {P : NonVol → Prop} {q : Bool} {status detail : Nat} {f : Unit → K (NonVol × Done)} (h : q = true → OkNv P (f ())) :
    OkNv P (must q status detail >>= f) := by
  cases q
  · exact okNv_error _
  · exact h rfl

@[simp] theorem policySet_keeps (sig : Bool) (r : Req) (nv : NonVol) (m : Mach) : KeepsOwner nv (policySet sig r nv m).1 := by
  refine knaobNv_of (P := KeepsOwner nv) (.refl nv) (okNv_must fun hflags => ?_)
  dsimp only
  split
  · exact okNv_error _
  next hlevels =>
    refine okNv_must fun hlimit => okNv_must fun hwindow => ?_
    repeat refine okNv_bind fun _ => ?_
    simp only [Bool.and_eq_true, decide_eq_true_eq] at hflags hlimit hwindow
    refine okNv_checked_keepsOwner (okNv_ok ⟨⟨rfl, fun ⟨hnow, _⟩ => ⟨hnow, ?_⟩, .inl rfl, rfl, id, rfl, rfl, rfl⟩, rfl⟩)
    rintro p ⟨⟩
    exact policyIn_ok hflags hlevels hlimit hwindow

@[simp] theorem debugUnlock_keeps (sig : Bool) (r : Req) (nv : NonVol) (m : Mach) : KeepsOwner nv (debugUnlock sig r nv m).1 := by
  refine knaobNv_of (P := KeepsOwner nv) (.refl nv) ?_
  repeat refine okNv_bind fun _ => ?_
  exact okNv_checked_keepsOwner (okNv_ok (.refl nv))

@[simp] theorem zeroise_keeps (sig : Bool) (r : Req) (nv : NonVol) (m : Mach) : KeepsOwner nv (zeroise sig r nv m).1 := by
  refine knaobNv_of (P := KeepsOwner nv) (.refl nv) (okNv_ite_bind fun _ => okNv_bind fun _ => okNv_ite_bind fun _ => ?_)
  repeat refine okNv_bind fun _ => ?_
  exact okNv_checked_keepsOwner (okNv_ok (.refl nv))

@[simp] theorem lifecycleSet_keeps (sig : Bool) (r : Req) (nv : NonVol) (m : Mach) : KeepsOwner nv (lifecycleSet sig r nv m).1 := by
  refine knaobNv_of (P := KeepsOwner nv) (.refl nv) (okNv_ite_bind fun _ => okNv_bind fun _ => okNv_ite_bind fun _ => ?_)
  repeat refine okNv_bind fun _ => ?_
  exact okNv_checked_keepsOwner (okNv_ok (.refl nv))

/-! ### Rounds (R419) -/

/-- A request that waited does as its command does. -/
theorem runCmd_keeps (opcode : Nat) (r : Req) (f : CmdFacts) (nv : NonVol) (m : Mach) : KeepsFuses nv (runCmd opcode r f nv m).1 := by
  unfold runCmd
  split <;> simp [ownerEnrol_keeps, KeepsOwner.toKeepsFuses]

theorem serveMailboxes_keeps (nv : NonVol) (m : Mach) (ps : List Port) (fs : List CmdFacts) : KeepsFuses nv (serveMailboxes nv m ps fs).1 := by
  induction ps generalizing nv m fs with
  | nil => exact .refl nv
  | cons p ps ih =>
    unfold serveMailboxes
    split
    · exact .refl nv
    · split
      · exact .refl nv
      · exact (runCmd_keeps ..).trans (ih ..)

theorem fullRound_keeps (f : RoundFacts) (nv : NonVol) (m : Mach) : KeepsFuses nv (fullRound f nv m).1 :=
  (managementRound_keeps f nv m).toKeepsFuses.trans (serveMailboxes_keeps ..)

/-! Neither events nor what a round measures bring a request in or take one out. -/

@[simp] theorem hostEvent_accepted (m : Mach) (cls : Nat) (e : Event) : (hostEvent m cls e).mgmt.accepted = m.mgmt.accepted := by
  unfold hostEvent
  dsimp only
  split
  · rw [signal_frame]
  · rfl

@[simp] theorem report_accepted (m : Mach) (code cls unit : Nat) (ctx : Option Nat) (contexts subject : Nat) (d : List Byte) :
    (report m code cls unit ctx contexts subject d).mgmt.accepted = m.mgmt.accepted := by
  have hlog : (logRec m code cls unit 0 0 ctx d).mgmt.accepted = m.mgmt.accepted := by rw [logRec_frame]
  have hboard : ∀ x e, (boardEvent x cls e).mgmt.accepted = x.mgmt.accepted := fun _ _ => rfl
  unfold report
  dsimp only
  split <;> split <;> simp only [hboard, hostEvent_accepted, hlog]

@[simp] theorem upkeep_accepted (m : Mach) : (upkeep m).mgmt.accepted = m.mgmt.accepted := by
  unfold upkeep
  dsimp only
  split <;> rfl

@[simp] theorem takeTemps_accepted (m : Mach) (f : RoundFacts) : (takeTemps m f).mgmt.accepted = m.mgmt.accepted := by
  refine foldl_keeps (P := fun x => x.mgmt.accepted = m.mgmt.accepted) (fun x q hx => ?_) _ rfl
  split <;> exact hx

@[simp] theorem noteMargin_accepted (m : Mach) (quantity unit : Nat) (x : Int) : (noteMargin m quantity unit x).mgmt.accepted = m.mgmt.accepted := by
  unfold noteMargin
  extract_lets
  split
  · exact report_accepted ..
  · rfl

@[simp] theorem energyRound_accepted (m : Mach) (f : RoundFacts) : (energyRound m f).mgmt.accepted = m.mgmt.accepted := by
  unfold energyRound
  dsimp only
  refine foldl_keeps (P := fun x => x.mgmt.accepted = m.mgmt.accepted) (fun x c hx => ?_) _ rfl
  dsimp only [syncUnits]
  split <;> exact hx

theorem managementRound_accepted (f : RoundFacts) (nv : NonVol) (m : Mach) : (managementRound f nv m).2.mgmt.accepted = m.mgmt.accepted := by
  unfold managementRound
  split
  · rfl
  · dsimp only
    split
    · rfl
    · simp only [capture, captureHeld, scoreRound, energyRound_accepted]
      refine foldl_keeps (P := fun x => x.mgmt.accepted = m.mgmt.accepted) (fun x q hx => ?_) f.margins ?_
      · exact (noteMargin_accepted ..).trans hx
      · rw [takeTemps_accepted, upkeep_accepted]

/-- Where no request waits, a round is no more than its measurements. -/
theorem fullRound_of_none {m : Mach} (h : m.mgmt.accepted = []) (f : RoundFacts) (nv : NonVol) : fullRound f nv m = managementRound f nv m := by
  have hnone := (managementRound_accepted f nv m).trans h
  have heq : fullRound f nv m = serveMailboxes (managementRound f nv m).1 (managementRound f nv m).2 (managementRound f nv m).2.mgmt.accepted f.cmds := by
    unfold fullRound
    rfl
  rw [heq, hnone]
  unfold serveMailboxes
  rfl

/-! ### Every command -/

/-- Every command keeps fuses and flash but the end of a long command. -/
theorem exec_keepsFuses {c : Instr} {s t : State} (hc : ∀ tag, c ≠ .opDone tag) (h : exec c s = .next t) : KeepsFuses s.nv t.nv := by
  cases hw : writesNv c
  · rw [exec_nv_eq hw h]
    exact .refl _
  · cases c
    case opDone tag => exact absurd rfl (hc tag)
    case ownerEnrol sig r =>
      cases h
      exact ownerEnrol_keeps ..
    case managementRound f =>
      cases h
      exact fullRound_keeps ..
    case fwStage | fwVerify | fwActivate | fwCommit | tryBootTimeout | policySet | debugUnlock | zeroise | lifecycleSet | inputPowerRise
      | wake | thermalShutdown | alarmCondition | fuseIntegrityCheck | resetComplete | rungWatchdogExpiry | tamperLatchSet =>
      cases h
      refine KeepsOwner.toKeepsFuses ?_
      simp
    all_goals cases hw

/-- The owner changes by an enrolment, the end of a long command, or a round that performs a waiting request. -/
theorem exec_owner {c : Instr} {s t : State} (h : exec c s = .next t) (hne : t.nv.owner ≠ s.nv.owner) :
    (∃ sig r, c = .ownerEnrol sig r) ∨ (∃ tag, c = .opDone tag) ∨ (s.m.mgmt.accepted ≠ [] ∧ ∃ f, c = .managementRound f) := by
  cases hw : writesNv c
  · exact absurd (congrArg NonVol.owner (exec_nv_eq hw h)) hne
  · cases c
    case ownerEnrol sig r => exact .inl ⟨sig, r, rfl⟩
    case opDone tag => exact .inr (.inl ⟨tag, rfl⟩)
    case managementRound f =>
      refine .inr (.inr ⟨fun hnone => hne ?_, f, rfl⟩)
      cases h
      change (fullRound f s.nv s.m).1.owner = _
      rw [fullRound_of_none hnone]
      exact (managementRound_keeps ..).owner
    case fwStage | fwVerify | fwActivate | fwCommit | tryBootTimeout | policySet | debugUnlock | zeroise | lifecycleSet | inputPowerRise
      | wake | thermalShutdown | alarmCondition | fuseIntegrityCheck | resetComplete | rungWatchdogExpiry | tamperLatchSet =>
      cases h
      refine absurd (KeepsOwner.owner ?_) hne
      simp
    all_goals cases hw

/-- The fused minimum changes by FW_COMMIT, or a round that performs a waiting request. -/
theorem exec_fusedMin {c : Instr} {s t : State} (h : exec c s = .next t) (hne : t.nv.fusedMin ≠ s.nv.fusedMin) :
    (∃ r, c = .fwCommit r) ∨ (s.m.mgmt.accepted ≠ [] ∧ ∃ f, c = .managementRound f) := by
  cases hw : writesNv c
  · exact absurd (congrArg NonVol.fusedMin (exec_nv_eq hw h)) hne
  · cases c
    case fwCommit r => exact .inl ⟨r, rfl⟩
    case managementRound f =>
      refine .inr ⟨fun hnone => hne ?_, f, rfl⟩
      cases h
      change (fullRound f s.nv s.m).1.fusedMin = _
      rw [fullRound_of_none hnone, managementRound_fusedMin]
    case fwStage | fwVerify | fwActivate | tryBootTimeout | ownerEnrol | policySet | debugUnlock | zeroise | lifecycleSet | opDone | inputPowerRise
      | wake | thermalShutdown | alarmCondition | fuseIntegrityCheck | resetComplete | rungWatchdogExpiry | tamperLatchSet =>
      cases h
      refine absurd ?_ hne
      simp
    all_goals cases hw

/-! ### Legal values and what is never undone -/

theorem nvOk_iff : NvOk nv ↔ nv.lifecycle ≤ 3 ∧ nv.returnCount ≤ 3 ∧ nv.slots.length = 2 ∧ PoliciesOk nv := Iff.rfl

theorem KeepsFuses.nvOk (h : KeepsFuses a b) (ha : NvOk a) : NvOk b := by
  rw [nvOk_iff] at ha ⊢
  obtain ⟨hlife, hret, hslots, hpol⟩ := ha
  exact ⟨by have := h.lifecycle; omega, h.returnCount ▸ hret, h.slots.trans hslots, h.policies hpol⟩

/-- What KeepsFuses says of the fuses, the minimum apart. -/
theorem KeepsFuses.grows (h : KeepsFuses a b) (hmin : a.fusedMin ≤ b.fusedMin) : NvGrows a b :=
  ⟨hmin, fun h3 => by have := h.lifecycle; omega, h.returnCount.ge, h.keyLatch⟩

theorem moveDone_nvOk {target : Nat} (hto : target ≤ 2) (h : NvOk nv) : NvOk (moveDone nv m target).1 := by
  obtain ⟨z, hz, -, heq⟩ := moveDone_eq nv m target
  obtain ⟨-, hret, hslots, hpol⟩ := nvOk_iff.mp h
  rw [heq, nvOk_iff]
  refine ⟨Nat.le_succ_of_le hto, ?_, hz.slots.trans hslots, hz.policies hpol⟩
  dsimp only
  split <;> omega

/-- A transition begins in a state other than ERASED, and counts its return. -/
theorem moveDone_grows {target : Nat} (hfrom : nv.lifecycle ≤ 2) (h : NvOk nv) : NvGrows nv (moveDone nv m target).1 := by
  have hmin := moveDone_fusedMin nv m target
  obtain ⟨z, hz, -, heq⟩ := moveDone_eq nv m target
  obtain ⟨-, hret, -⟩ := nvOk_iff.mp h
  refine ⟨hmin ▸ BitVec.le_refl _, fun _ => by omega, ?_, ?_⟩ <;> rw [heq]
  · dsimp only
    split <;> omega
  · exact hz.keyLatch

theorem exec_nvKept {c : Instr} {s t : State} (hok : NvOk s.nv) (h : exec c s = .next t) : NvOk t.nv ∧ NvGrows s.nv t.nv := by
  have hmin := exec_fusedMin_le h
  by_cases hc : ∃ tag, c = .opDone tag
  · obtain ⟨tag, rfl⟩ := hc
    cases h
    rcases opDoneRow_cases tag s.nv s.m with hk | ⟨target, hfrom, hto, heq⟩
    · exact ⟨hk.nvOk hok, hk.grows hmin⟩
    · change NvOk (opDoneRow tag s.nv s.m).1 ∧ NvGrows s.nv (opDoneRow tag s.nv s.m).1
      rw [heq]
      exact ⟨moveDone_nvOk hto hok, moveDone_grows hfrom hok⟩
  · have hk := exec_keepsFuses (fun tag hop => hc ⟨tag, hop⟩) h
    exact ⟨hk.nvOk hok, hk.grows hmin⟩

/-- Settles O50: every command keeps legal values and what is fused, and a tick touches neither fuses nor flash. -/
theorem nvKept : Obligations.NvKept := by
  intro s t hok h
  unfold step at h
  split at h
  · cases h
    exact ⟨hok, (KeepsFuses.refl s.nv).grows (BitVec.le_refl _)⟩
  next c cs _ => exact exec_nvKept (s := { s with pending := cs }) hok h

theorem opDoneRow_identity (tag : Nat) (nv : NonVol) (m : Mach) :
    (opDoneRow tag nv m).1.idKey = nv.idKey ∧ (opDoneRow tag nv m).1.chain = nv.chain ∧ (opDoneRow tag nv m).1.keyHeld = nv.keyHeld := by
  rcases opDoneRow_cases tag nv m with hk | ⟨target, -, -, heq⟩
  · exact hk.identity
  · obtain ⟨z, hz, -, hmove⟩ := moveDone_eq nv m target
    rw [heq, hmove]
    exact hz.identity

theorem exec_identity {c : Instr} {s t : State} (h : exec c s = .next t) :
    t.nv.idKey = s.nv.idKey ∧ t.nv.chain = s.nv.chain ∧ t.nv.keyHeld = s.nv.keyHeld := by
  by_cases hc : ∃ tag, c = .opDone tag
  · obtain ⟨tag, rfl⟩ := hc
    cases h
    exact opDoneRow_identity tag s.nv s.m
  · exact (exec_keepsFuses (fun tag hop => hc ⟨tag, hop⟩) h).identity

/-- Settles O51: what an operation may change of fuses and flash, and the one that writes the lifecycle and the return count. -/
theorem fuseWriters : Obligations.FuseWriters := by
  refine ⟨fun c s t => exec_nv_eq, fun c s t => exec_fusedMin, fun c s t h hne => ?_, fun c s t h hne => ?_, fun c s t => exec_owner, fun c s t => exec_identity⟩
  · by_contra hc
    exact hne (exec_keepsFuses (fun tag hop => hc ⟨tag, hop⟩) h).returnCount
  · by_cases hc : ∃ tag, c = .opDone tag
    · exact .inr hc
    · exact .inl ((exec_keepsFuses (fun tag hop => hc ⟨tag, hop⟩) h).lifecycle.resolve_left hne)

end Sys2Proof.Proofs
end
-- ==== Sys2Proof/Proofs/Step.lean ====
section
/-! PROOF. One step of the machine, the idle tick, and the state right after reset. -/

namespace Sys2Proof.Proofs
open Sys2Proof Sys2Proof.Machine

/-! ### Steps -/

/-- Every command answers a next state with the queue as it was. -/
theorem exec_next (c : Instr) (s : State) : ∃ t, exec c s = .next t ∧ t.pending = s.pending := by
  cases c <;> exact ⟨_, rfl, rfl⟩

theorem step_cons (c : Instr) (cs : List Instr) (s : State) : step { s with pending := c :: cs } = exec c { s with pending := cs } := rfl

theorem step_of_idle {s : State} (h : s.pending = []) : step s = .next { s with m := tick s.m } := by
  unfold step
  rw [h]

theorem step_next (s : State) : ∃ t, step s = .next t ∧ t.pending = s.pending.tail := by
  obtain ⟨nv, m, _ | ⟨c, cs⟩⟩ := s
  · exact ⟨_, rfl, rfl⟩
  · exact exec_next c ⟨nv, m, cs⟩

/-- Settles O46: a step takes the front command from the queue, and no command touches the queue. -/
theorem stepRunsFront : Obligations.StepRunsFront := ⟨fun _ _ => rfl, exec_next, step_next⟩

/-! ### The idle tick -/

/-- A module in standby with one page copy due at package 0 and a full bucket. -/
def copyDue : State :=
  { State.reset with m := { State.reset.m with
      pwr := { State.reset.m.pwr with boot := .standby }
      tier := { State.reset.m.tier with ctls := [(16, { ctlReset with copies := [0], bkt := { level := 10000 * ctlCap, since := 0 } })] } } }

@[simp] theorem retirePage_mgmt (m : Mach) (k page : Nat) : (retirePage m k page).mgmt = m.mgmt := by
  unfold retirePage
  dsimp only
  split <;> rfl

/-- The bytes of each page copied are counted as background work (R387, R397). -/
theorem bgUnits_le_copyPages (m : Mach) (k fuel : Nat) : m.mgmt.bgUnits ≤ (copyPages m k fuel).mgmt.bgUnits := by
  induction fuel generalizing m with
  | zero => exact Nat.le_refl _
  | succ fuel ih =>
    unfold copyPages
    split
    · exact Nat.le_refl _
    · split_ifs
      · exact Nat.le_refl _
      · exact Nat.le_refl _
      · refine Nat.le_trans ?_ (ih _)
        simp only [modCtl_mgmt, retirePage_mgmt, drawBkt, bgWork]
        exact Nat.le_add_right ..

/-- A copy that finds a spare page and that the bucket covers is made first. -/
theorem bgUnits_lt_copyPages {m : Mach} {k page fuel : Nat} {rest : List Nat} (hcopies : (getCtl m k).copies = page :: rest)
    (hspare : (getCtl m k).spareFree ≠ 0) (hcovers : bktCovers m k copyBytes = true) : m.mgmt.bgUnits < (copyPages m k (fuel + 1)).mgmt.bgUnits := by
  unfold copyPages
  simp only [hcopies, hspare, hcovers, if_false, Bool.not_true, Bool.false_eq_true]
  refine Nat.lt_of_lt_of_le ?_ (bgUnits_le_copyPages ..)
  simp only [modCtl_mgmt, retirePage_mgmt, drawBkt, bgWork]
  refine Nat.lt_add_of_pos_right ?_
  split <;> decide

theorem copyPages_pwr (m : Mach) (k fuel : Nat) : (copyPages m k fuel).pwr = m.pwr := by
  have hretire : ∀ x page, (retirePage x k page).pwr = x.pwr := by
    intro x page
    unfold retirePage
    dsimp only
    split <;> rfl
  induction fuel generalizing m with
  | zero => rfl
  | succ fuel ih =>
    unfold copyPages
    split
    · rfl
    · split_ifs
      · rfl
      · rfl
      · simp only [ih, modCtl_pwr, hretire, drawBkt, bgWork]

theorem regionsOn_of_standby {m : Mach} (h : m.pwr.boot = .standby) : regionsOn m = false := by
  simp only [regionsOn, h]
  rfl

/-- `copyDue` once the time has moved. -/
def copyDueNow : Mach := { copyDue.m with time := { copyDue.m.time with counter := 1 } }

/-- In standby a tick makes the copy and charges no block. -/
theorem tick_copyDue : tick copyDue.m = copyPages copyDueNow 16 64 := by
  change (if _ then copyDue.m else if regionsOn (copyPages copyDueNow 16 64) && _ then _ else copyPages copyDueNow 16 64) = _
  rw [if_neg (by decide), regionsOn_of_standby (congrArg PwrS.boot (copyPages_pwr ..)), Bool.false_and, if_neg Bool.false_ne_true]

theorem bgUnits_tick_copyDue : 0 < (tick copyDue.m).mgmt.bgUnits := by
  rw [tick_copyDue]
  exact bgUnits_lt_copyPages (m := copyDueNow) (k := 16) (page := 0) (rest := []) rfl (by decide) (by decide)

/-- Refutes O47: a tick that makes a page copy its bucket covers (R387) also adds to the round's count of background work, which is none of its counts of cycles. -/
theorem not_idleTick : ¬ Obligations.IdleTick := by
  unfold Obligations.IdleTick
  rintro ⟨-, hmoves, -⟩
  obtain ⟨t, hstep, -, -, -, -, -, hmgmt, -⟩ := hmoves copyDue rfl (by decide)
  rw [step_of_idle rfl] at hstep
  cases hstep
  have hwork : (tick copyDue.m).mgmt.bgUnits = 0 := congrArg MgmtS.bgUnits hmgmt
  exact absurd hwork (Nat.ne_of_gt bgUnits_tick_copyDue)

/-! ### Reset -/

theorem tget_nil {α : Type} (d : α) (k : Nat) : tget d [] k = d := rfl

theorem getMbx_reset (p : Port) : getMbx machReset p = mbxReset := by cases p <;> rfl

/-- Settles O48: at reset every table is empty, and what it holds is the default of its kind. -/
theorem resetValues : Obligations.ResetValues := by
  refine ⟨rfl, fun _ => ⟨rfl, rfl⟩, fun _ => ⟨rfl, rfl, rfl⟩, fun _ _ => rfl, fun _ _ => rfl, fun p => ?_, fun _ => ⟨rfl, rfl⟩, rfl, rfl, rfl, rfl, rfl, rfl,
    rfl, rfl, rfl, rfl, rfl, rfl, rfl, rfl, fun _ => ⟨rfl, rfl⟩⟩
  simp only [State.reset, getMbx_reset]
  exact ⟨rfl, rfl, rfl⟩

theorem nvOk_reset : NvOk nvReset := by decide

/-- Settles O49: the values at reset meet each invariant. -/
theorem safeAtReset : Obligations.SafeAtReset := by
  refine ⟨nvOk_reset, memWf_reset, rfl, ?_, ?_, rfl⟩ <;> decide

end Sys2Proof.Proofs
end
-- ==== Sys2Proof/Proofs/HealthScore.lean ====
section
/-! PROOF. The health score (R390, R391). Seven bounded penalties take at most the whole of 1,000, and publishing is stated once by its five outcomes. -/

namespace Sys2Proof.Proofs
open Sys2Proof Sys2Proof.Machine

/-! ### The raw score (R390) -/

theorem penalties_length (m : Mach) : (penalties m).length = 7 := rfl

/-- The largest penalties of Table 14.9 add up to 1,000. -/
theorem penalties_sum_le (m : Mach) : (penalties m).foldl (· + ·) 0 ≤ 1000 := by
  unfold penalties
  extract_lets
  simp only [List.foldl_cons, List.foldl_nil]
  omega

theorem scoreRound_health (m : Mach) : (scoreRound m).health =
    publish { m.health with raw := 1000 - (penalties m).foldl (· + ·) 0, terms := penalties m } (1000 - (penalties m).foldl (· + ·) 0) (now m) := rfl

/-! ### The published score (R391) -/

/-- Publishing moves the published score, the time of its change and what it noted of a time above, nothing else. -/
theorem publish_frame (h : HealthS) (raw t : Nat) : publish h raw t =
    { h with published := (publish h raw t).published, changed := (publish h raw t).changed, above := (publish h raw t).above, low := (publish h raw t).low } := by
  unfold publish
  split
  · dsimp only
    split <;> rfl
  · split
    · dsimp only
      split <;> rfl
    · rfl

/-- The lowest raw score noted while above is not below the published one: the premise of publishing. -/
abbrev LowNoted (h : HealthS) : Prop := h.above ≠ none → h.published ≤ h.low

/-- Below the published score publishing falls, by at most 100, once an hour has passed. -/
theorem publish_of_lt {h : HealthS} {raw : Nat} (hlt : raw < h.published) (t : Nat) : (publish h raw t).above = none ∧
    ((3600 * 1000000000 ≤ t - h.changed ∧ (publish h raw t).changed = t ∧ (publish h raw t).published = max raw (h.published - 100)) ∨
      (publish h raw t).published = h.published) := by
  unfold publish
  rw [if_pos hlt]
  dsimp only
  split
  next hour => exact ⟨rfl, .inl ⟨hour, rfl, rfl⟩⟩
  · exact ⟨rfl, .inr rfl⟩

/-- Above it publishing rises, by at most 100 and to no more than the lowest raw score noted, once 24 h above and an hour have passed. -/
theorem publish_of_gt {h : HealthS} {raw : Nat} (hgt : h.published < raw) (hlow : LowNoted h) (t : Nat) : ∃ low, h.published ≤ low ∧ low ≤ raw ∧
    (publish h raw t).low = low ∧
    ((3600 * 1000000000 ≤ t - h.changed ∧ (publish h raw t).changed = t ∧ (publish h raw t).published = min low (h.published + 100) ∧
        ∃ start, h.above = some start ∧ 24 * hourNs ≤ t - start) ∨
      (publish h raw t).published = h.published) := by
  unfold publish
  rw [if_neg (by omega), if_pos hgt]
  dsimp only
  cases habove : h.above with
  | none =>
    refine ⟨raw, Nat.le_of_lt hgt, Nat.le_refl _, ?_⟩
    split
    next hdue =>
      simp only [Option.getD_none, Nat.sub_self, Bool.and_eq_true, decide_eq_true_eq] at hdue
      exact absurd hdue.1 (by decide)
    · exact ⟨rfl, .inr rfl⟩
  | some start =>
    have hnoted : h.published ≤ h.low := hlow (by simp [habove])
    refine ⟨min h.low raw, by omega, by omega, ?_⟩
    split
    next hdue =>
      simp only [Bool.and_eq_true, decide_eq_true_eq] at hdue
      exact ⟨rfl, .inl ⟨hdue.2, rfl, rfl, start, rfl, hdue.1⟩⟩
    · exact ⟨rfl, .inr rfl⟩

theorem publish_of_eq (h : HealthS) (t : Nat) : publish h h.published t = { h with above := none } := by
  unfold publish
  rw [if_neg (Nat.lt_irrefl _), if_neg (Nat.lt_irrefl _)]

/-- What publishing keeps and how it moves, in each of its outcomes. -/
theorem publish_moves (h : HealthS) (raw t : Nat) (hlow : LowNoted h) :
    (publish h raw t).published ≤ h.published + 100 ∧ h.published ≤ (publish h raw t).published + 100 ∧
    ((publish h raw t).published ≠ h.published → 3600 * 1000000000 ≤ t - h.changed ∧ (publish h raw t).changed = t) ∧
    (raw ≤ h.published → raw ≤ (publish h raw t).published ∧ (publish h raw t).published ≤ h.published) ∧
    (h.published ≤ raw → h.published ≤ (publish h raw t).published ∧ (publish h raw t).published ≤ raw) ∧
    (h.published < (publish h raw t).published → ∃ start, h.above = some start ∧ 24 * hourNs ≤ t - start) ∧ LowNoted (publish h raw t) := by
  rcases Nat.lt_trichotomy raw h.published with hlt | heq | hgt
  · obtain ⟨hnone, ⟨hour, hchanged, hpub⟩ | hpub⟩ := publish_of_lt hlt t
    · exact ⟨by omega, by omega, fun _ => ⟨hour, hchanged⟩, fun _ => by omega, fun _ => by omega, fun _ => by omega, fun habove => absurd hnone habove⟩
    · exact ⟨by omega, by omega, fun hne => absurd hpub hne, fun _ => by omega, fun _ => by omega, fun _ => by omega, fun habove => absurd hnone habove⟩
  · subst heq
    rw [publish_of_eq]
    exact ⟨Nat.le_add_right .., Nat.le_add_right .., fun hne => absurd rfl hne, fun _ => ⟨Nat.le_refl _, Nat.le_refl _⟩,
      fun _ => ⟨Nat.le_refl _, Nat.le_refl _⟩, fun hlt => absurd hlt (Nat.lt_irrefl _), fun habove => absurd rfl habove⟩
  · obtain ⟨low, hpl, hlr, hl, ⟨hour, hchanged, hpub, hday⟩ | hpub⟩ := publish_of_gt hgt hlow t
    · exact ⟨by omega, by omega, fun _ => ⟨hour, hchanged⟩, fun _ => by omega, fun _ => by omega, fun _ => hday, fun _ => by omega⟩
    · exact ⟨by omega, by omega, fun hne => absurd hpub hne, fun _ => by omega, fun _ => by omega, fun _ => by omega, fun _ => by omega⟩

/-- Settles O32: what the penalties add up to, how publishing moves, and that a boot keeps what was noted above or drops it. -/
theorem healthScore : Obligations.HealthScore := by
  refine ⟨fun m => ?_, publish_moves, fun m cold hlow => ?_⟩
  · have hsum := penalties_sum_le m
    rw [scoreRound_health, publish_frame]
    exact ⟨by dsimp only; omega, penalties_length m, rfl⟩
  · cases cold
    · exact hlow
    · exact fun habove => absurd rfl habove

end Sys2Proof.Proofs
end
-- ==== Sys2Proof/Proofs/Customs.lean ====
section
/-! PROOF. What a translation admits (R167). A page of a slot's pool stands for an entry of one 2 MiB segment, whatever the page's size. -/

namespace Sys2Proof.Proofs
open Sys2Proof Sys2Proof.Machine

/-- A context in slot 1 whose pool has one near page of 4 MiB. -/
def largePage : Mach :=
  setCtx machReset 1 { ctxReset with st := .active, gen := 1, par := { ctxReset.par with kvNear := 1, pageBytes := 2 ^ 22 } }

/-- The entry that stands for its page. -/
def largeEntry : WayEnt := poolEntry largePage 1 false (pageVirt largePage 1 (0, 0)) (pageAddr (getCtx largePage 1) (0, 0))

theorem poolPages_largePage : poolPages (getCtx largePage 1) = [(0, 0)] := rfl

theorem outEntry_largePage : outEntry largePage 1 (pageVirt largePage 1 (0, 0)) (2 ^ 22) = some largeEntry := by
  have hpage : (getCtx largePage 1).par.pageBytes = 2 ^ 22 := rfl
  have hcovers : (decide (pageVirt largePage 1 (0, 0) ≤ pageVirt largePage 1 (0, 0)) &&
      decide (pageVirt largePage 1 (0, 0) + 2 ^ 22 ≤ pageVirt largePage 1 (0, 0) + (getCtx largePage 1).par.pageBytes)) = true := by simp [hpage]
  change poolOut largePage 1 _ _ = _
  unfold poolOut
  simp only [poolPages_largePage, List.find?_cons, hcovers, Option.map_some]
  rfl

theorem translate_largePage : Machine.translate largePage 1 0x01 (pageVirt largePage 1 (0, 0)) (2 ^ 22) =
    .ok largeEntry (largeEntry.target + (pageVirt largePage 1 (0, 0) - largeEntry.base)) := by
  unfold Machine.translate
  simp only [outEntry_largePage]
  rfl

theorem not_wayCovers_largePage : wayCovers largeEntry (pageVirt largePage 1 (0, 0)) (2 ^ 22) ≠ true := by
  have hbase : largeEntry.base = pageVirt largePage 1 (0, 0) := rfl
  have hseg : segBytes largeEntry.size = 2 ^ 21 := rfl
  intro hcovers
  simp only [wayCovers, hbase, hseg, Bool.and_eq_true, decide_eq_true_eq] at hcovers
  omega

/-- Refutes O44: in a slot whose pages are larger than 2 MiB, which no creation grants but the statement does not exclude, a translation of a whole page succeeds by an
entry of 2 MiB, which does not cover it. -/
theorem not_customsAdmits : ¬ Obligations.CustomsAdmits := by
  unfold Obligations.CustomsAdmits
  rintro ⟨htranslate, -⟩
  exact not_wayCovers_largePage (htranslate _ _ _ _ _ _ _ translate_largePage).1

end Sys2Proof.Proofs
end
-- ==== Sys2Proof/Proofs/Power.lean ====
section
/-! PROOF. Power, reset and service commands. A request that passes its shared checks is answered with what its command's body makes of the module; a body's own checks are
met one after another. -/

namespace Sys2Proof.Proofs
open Sys2Proof Sys2Proof.Machine

/-! ### The checks of a body -/

/-- A check that is met goes on to the rest. -/
theorem must_then {α : Type} {b : Bool} {status detail : Nat} {f : Unit → K α} {x : K α} (hb : b = true) (hf : f () = x) :
    (must b status detail >>= f) = x := by
  subst hb
  exact hf

theorem and_true {p q : Bool} (hp : p = true) (hq : q = true) : (p && q) = true := Bool.and_eq_true_iff.mpr ⟨hp, hq⟩

theorem or_true_left {p q : Bool} (hp : p = true) : (p || q) = true := Bool.or_eq_true_iff.mpr (.inl hp)

theorem or_true_right {p q : Bool} (hq : q = true) : (p || q) = true := Bool.or_eq_true_iff.mpr (.inr hq)

theorem not_of_false {p : Bool} (hp : p = false) : (!p) = true := by rw [hp]; rfl

/-- A field within bounds. -/
theorem in_bounds {x lo hi : Nat} (hlo : lo ≤ x) (hhi : x ≤ hi) : (decide (lo ≤ x) && decide (x ≤ hi)) = true :=
  and_true (decide_eq_true hlo) (decide_eq_true hhi)

/-! ### What the commands do -/

variable {s : State} {r : Req}

theorem exec_powerState_of {m : Mach} {p : Nat} (h : Passes 0x0403 aB .none (lenIs 4) (resvAt [(1, 3)]) r s) (hp : pf r 0 1 = p) (hon : p ≠ 1) (hle : p ≤ 4)
    (hoos : s.m.rst.oos = true → 3 ≤ p) (hne : p ≠ s.m.pwr.st) (hmay : mayEnter s.m p = true)
    (hm : m = endOp (newOp s.m r.port 0x0403 p).1 (newOp s.m r.port 0x0403 p).2 0 0) :
    exec (.powerState r) s = .next (answered s 0x0403 r (if p < 4 then enterState m p else enterP4 m) (newOp s.m r.port 0x0403 p).2 []) := by
  subst hm
  refine knaob_next h ?_
  have hst : (if pf r 0 1 = 1 then 0 else pf r 0 1) = p := by rw [hp, if_neg hon]
  dsimp only
  rw [hst]
  refine must_then (decide_eq_true hle) (must_then ?_ (must_then (or_true_right hmay) ?_))
  · cases hout : s.m.rst.oos
    · rfl
    · exact decide_eq_true (hoos hout)
  · have hother : ¬ p = (endOp (newOp s.m r.port 0x0403 p).1 (newOp s.m r.port 0x0403 p).2 0 0).pwr.st := hne
    rw [if_neg hother]
    rfl

/-- What the capability is computed from a record in flash leaves. -/
theorem capability_flashWrite (m : Mach) (kind : Nat) : capability (flashWrite m kind) = capability m := by
  unfold flashWrite
  dsimp only
  split <;> rfl

/-- A retired channel leaves the threshold of its controller and of every other as it is. -/
theorem retireChan_threshold (m : Mach) (k ch : Nat) (fresh : Bool) (j : Nat) : (getCtl (retireChan m k ch fresh) j).threshold = (getCtl m j).threshold := by
  unfold retireChan
  dsimp only
  split_ifs <;> simp only [getCtl_modCtl] <;> split <;> rfl

theorem setThreshold_threshold (m : Mach) (k t j : Nat) :
    (getCtl (setThreshold m k t) j).threshold = if k = j then BitVec.ofNat 32 t else (getCtl m j).threshold := by
  unfold setThreshold
  refine foldl_keeps (P := fun x => (getCtl x j).threshold = if k = j then BitVec.ofNat 32 t else (getCtl m j).threshold) (fun x ch hx => ?_) _ ?_
  · split
    · exact (retireChan_threshold ..).trans hx
    · exact hx
  · rw [getCtl_modCtl]
    split <;> rfl

/-- RETIRE_THRESHOLD sets the threshold of the controllers it goes through, and of no other. -/
theorem foldl_setThreshold (t j : Nat) (ks : List Nat) (m : Mach) :
    (getCtl (ks.foldl (fun m k => setThreshold m k t) m) j).threshold = if j ∈ ks then BitVec.ofNat 32 t else (getCtl m j).threshold := by
  induction ks generalizing m with
  | nil => rfl
  | cons k ks ih =>
    rw [List.foldl_cons, ih, setThreshold_threshold]
    by_cases hj : j ∈ ks
    · simp [hj]
    · simp [hj, eq_comm]

/-- Settles O1: each command's body past its checks. -/
theorem powerAndService : Obligations.PowerAndService := by
  refine ⟨?_, ?_, ?_, ?_, ?_, ?_, ?_, ?_, ?_, ?_, ?_⟩
  · intro s r h hcap
    exact knaob_next h (must_then (decide_eq_true hcap) rfl)
  · intro s r h hlow hstep
    exact knaob_next h (must_then (and_true (decide_eq_true hlow) (beq_iff_eq.mpr hstep)) rfl)
  · intro s r h hon hle hoos hne hmay
    rw [exec_powerState_of h rfl hon (Nat.le_succ_of_le hle) hoos hne hmay rfl, if_pos (Nat.lt_succ_of_le hle)]
  · intro s r h hp hne hmay
    rw [exec_powerState_of h hp (by decide) (Nat.le_refl _) (fun _ => by decide) hne.symm hmay rfl, if_neg (Nat.lt_irrefl _)]
  · intro s r h hrung hunit
    change recNat r.payload 0 1 = 5 at hrung
    change unitExists (recNat r.payload 2 4) = true at hunit
    refine knaob_next h ?_
    dsimp only
    simp only [hrung]
    exact must_then rfl (must_then (and_true hunit rfl) (must_then rfl (must_then rfl (must_then rfl (must_then rfl rfl)))))
  · intro s r h ht1 ht2 hw1 hw2
    exact ⟨_, rfl, knaob_next h (must_then (in_bounds ht1 ht2) (must_then (in_bounds hw1 hw2) rfl))⟩
  · intro s r h hoos
    exact ⟨_, rfl, knaob_next h (must_then hoos rfl)⟩
  · intro s r h hf hoos
    refine knaob_next h (must_then (decide_eq_true hf) ?_)
    have hstays : (flashWrite { s.m with health := { s.m.health with floor := recNat r.payload 0 1 } } 0).rst.oos = true := by
      rw [flashWrite_frame]
      exact hoos
    have hcap : capability (flashWrite { s.m with health := { s.m.health with floor := recNat r.payload 0 1 } } 0) = capability s.m := by
      rw [capability_flashWrite]
      rfl
    simp only [hstays, if_true, hcap]
    rfl
  · intro s r h hf hoos
    refine ⟨_, rfl, knaob_next h (must_then (decide_eq_true hf) ?_)⟩
    have hstays : (flashWrite { s.m with health := { s.m.health with floor := recNat r.payload 0 1 } } 0).rst.oos = false := by
      rw [flashWrite_frame]
      exact hoos
    simp only [hstays, Bool.false_eq_true, if_false]
    rfl
  · intro s r h he1 he2 hs1 hs2
    exact knaob_next h (must_then (in_bounds he1 he2) (must_then (in_bounds hs1 hs2) rfl))
  · intro s r h ht1 ht2
    refine ⟨_, knaob_next h (must_then (in_bounds ht1 ht2) rfl), rfl, fun k hk => ?_, fun k hk => ?_⟩
    · rw [foldl_setThreshold, if_pos (List.mem_range.mpr hk)]
    · rw [foldl_setThreshold, if_neg (by simpa using hk)]

end Sys2Proof.Proofs
end
-- ==== Sys2Proof/Proofs/ReadCommands.lean ====
section
/-! PROOF. The reading commands (R398, R406, R414, R427, R439, R448, R465): each body ends in an answer of what it reads. -/

namespace Sys2Proof.Proofs
open Sys2Proof Sys2Proof.Machine

variable {s : State} {r : Req}

/-! ### FW_QUERY (R439) -/

@[simp] theorem leBytes_length (k n : Nat) : (leBytes k n).length = k := by
  induction k generalizing n with
  | zero => rfl
  | succ k ih => rw [leBytes, List.length_cons, ih]

@[simp] theorem length_padTo (n : Nat) (bs : List Byte) : (padTo n bs).length = n := Tests.padTo_length n bs

/-- A slot as FW_QUERY shows it. -/
def slotBytes (x : FwSlot) : List Byte :=
  leBytes 1 (fwCode x.st) ++ leBytes 3 0 ++ leBytes 8 x.version.toNat ++ leBytes 4 x.secVer.toNat ++ padTo 64 x.digest

/-- What FW_QUERY answers. -/
def fwAnswer (nv : NonVol) : List Byte :=
  slotBytes (nv.slots.getD 0 fwEmpty) ++ slotBytes (nv.slots.getD 1 fwEmpty) ++ leBytes 1 ((slotIn nv .active).getD 0) ++ leBytes 3 0 ++
    leBytes 4 nv.fusedMin.toNat

theorem fwAnswer_length (nv : NonVol) : (fwAnswer nv).length = 168 := by
  simp [fwAnswer, slotBytes]

theorem fwAnswer_getLast? (nv : NonVol) : (fwAnswer nv).getLast? = (leBytes 4 nv.fusedMin.toNat).getLast? :=
  List.getLast?_append_of_ne_nil _ (List.cons_ne_nil _ _)

/-! ### LOG_READ and DUMP_READ (R406, R414) -/

/-- One record that the flash copy is read for. -/
theorem logRead_bad {m : Mach} {n : Nat} (hlog : (logAt m n).isSome = true) : ([n].filter fun i => has [n] i && (logAt m i).isSome) = [n] := by
  simp [has, hlog]

/-- As `knaob_next`, for a command whose body also reads what fuses and flash hold. -/
theorem knaob_next_of {opcode mask : Nat} {u : HandleUse} {lenOk : List Byte → Bool} {resv : List Byte → List (Nat × Nat)} {f : NonVol → Mach → Mach}
    {body : Mach → Nat → Req → K Done} {m : Mach} {tag : Nat} {p : List Byte} (hf : f s.nv s.m = knaob opcode mask u lenOk resv body r s.nv s.m)
    (h : Passes opcode mask u lenOk resv r s) (hb : body s.m (slotOf r) r = .ok { m := m, payload := p, tag := tag, status := 0, busy := false }) :
    runK f s = .next (answered s opcode r m tag p) := by
  rw [runK, hf]
  exact knaob_next h hb

/-- Whether a dump is the newest the module keeps. -/
def isNewest (m : Mach) (num : Nat) : Bool := match m.mgmt.dumps.getLast? with | some e => e.num == num | none => false

theorem isNewest_of {m : Mach} {num : Nat} (h : m.mgmt.dumps.getLast?.map (·.num) = some num) : isNewest m num = true := by
  obtain ⟨e, he, hnum⟩ := Option.map_eq_some_iff.mp h
  simp only [isNewest, he, hnum, beq_self_eq_true]

/-- A dump is answered from the strongbox where it is the newest and reads well there, and else from the near tier where that copy is not poisoned. -/
theorem exec_dumpRead {d : Dump} {q : StrongboxReq} {m : Mach} (h : Passes 0x0303 (aH + aB + aD) .none (lenIs 12) noResv q.req s)
    (hfind : s.m.mgmt.dumps.find? (fun d => d.num == pf q.req 0 4) = some d) (hn : pf q.req 8 4 ≤ 4064)
    (hend : pf q.req 4 4 + pf q.req 8 4 ≤ 256 + 1024 * d.units.length)
    (hok : (isNewest s.m (pf q.req 0 4) && !has q.bad (pf q.req 0 4)) = true ∨ rdPoison s.m (dumpSlot (pf q.req 0 4) + pf q.req 4 4) (pf q.req 8 4) = false)
    (hm : m = if (isNewest s.m (pf q.req 0 4) && has q.bad (pf q.req 0 4)) = true then noteStrongbox s.m else s.m) :
    exec (.dumpRead q) s = .next (answered s 0x0303 q.req m 0 (dumpBytes d (pf q.req 4 4) (pf q.req 8 4))) := by
  subst hm
  refine knaob_next h ?_
  have hread : ((isNewest s.m (pf q.req 0 4) && !has q.bad (pf q.req 0 4)) || !rdPoison s.m (dumpSlot (pf q.req 0 4) + pf q.req 4 4) (pf q.req 8 4)) = true :=
    hok.elim or_true_left fun hgood => or_true_right (not_of_false hgood)
  have hoff : pf q.req 4 4 ≤ 256 + 1024 * d.units.length := Nat.le_trans (Nat.le_add_right ..) hend
  simp only [pf] at hfind
  simp only [hfind]
  exact must_then (decide_eq_true hoff) (must_then (and_true (decide_eq_true hn) (decide_eq_true hend)) (must_then hread rfl))

/-- Settles O2: the bodies of the reading commands past their checks. -/
theorem readCommands : Obligations.ReadCommands := by
  refine ⟨?_, ?_, ?_, ?_, ?_, ?_, ?_, ?_, ?_, ?_, ?_, ?_, ?_, ?_⟩
  · intro s r h
    exact knaob_next_of (if_pos rfl) h rfl
  · intro s r h
    exact knaob_next_of rfl h rfl
  · intro s r h
    exact ⟨fwAnswer s.nv, fwAnswer_length s.nv, knaob_next_of rfl h rfl, fwAnswer_getLast? s.nv, rfl⟩
  · intro s r h
    exact knaob_next_of rfl h rfl
  · intro s r h hn
    exact knaob_next_of rfl h (must_then (decide_eq_true hn) rfl)
  · intro s r h
    exact knaob_next_of rfl h rfl
  · intro s r h hlow hhigh
    refine knaob_next h (must_then (in_bounds hlow hhigh) ?_)
    simp [okay, has, pf, List.filterMap_map]
    rfl
  · intro s r n h hone hn hlog
    refine knaob_next h (must_then (in_bounds hone.ge (hone.le.trans (by decide))) ?_)
    change recNat r.payload 8 4 = 1 at hone
    change n = recNat r.payload 0 8 at hn
    subst hn
    have hcopy := logRead_bad hlog
    simp only [hone, List.range_one, List.map_cons, List.map_nil, Nat.add_zero, hcopy]
    cases hc : logCopy s.m (recNat r.payload 0 8) <;> simp [has, hc, okay]
    all_goals rfl
  · intro s r d h hfind hn hend hok
    exact exec_dumpRead h hfind hn hend (hok.imp_left fun hlast => and_true (isNewest_of hlast) rfl) (if_neg (by simp [has])).symm
  · intro s r d h hfind hn hend hlast hok
    exact exec_dumpRead h hfind hn hend (.inr hok) (if_pos (and_true (isNewest_of hlast) (by simp [has]))).symm
  · intro s r p h hcls hix hslot hphys
    refine knaob_next h ?_
    have hlt : pf r 0 1 < 4 := Nat.lt_succ_of_le hcls
    simp only [hlt, if_true]
    refine must_then (decide_eq_true (Nat.le_succ_of_le (Nat.le_succ_of_le hcls))) (must_then (decide_eq_true hix) (must_then (decide_eq_true hslot) ?_))
    simp only [hphys]
    rfl
  · intro s r h
    exact knaob_next_of rfl h rfl
  · intro s r h hoff hlow hhigh hend
    exact knaob_next h (must_then (decide_eq_true hoff) (must_then (and_true (in_bounds hlow hhigh) (decide_eq_true hend)) rfl))
  · intro s r k e h hne hdir hsize haddr hfind
    refine knaob_next h (must_then (or_true_left (bne_iff_ne.mpr hne)) (must_then (decide_eq_true hdir) (must_then (decide_eq_true hsize) (must_then haddr ?_))))
    have hzero : (r.handle == 0) = false := beq_eq_false_iff_ne.mpr hne
    simp only [hzero, Bool.or_false, hfind]
    rfl

end Sys2Proof.Proofs
end
-- ==== Sys2Proof/Proofs/HostPlane.lean ====
section
/-! PROOF. The registers as host, board and caravaneer write them (R15, R124, R201, R418, R432, R433). A write in BAR0 is its bytes', beside the acknowledgement registers it touches. -/

namespace Sys2Proof.Proofs
open Sys2Proof Sys2Proof.Machine

variable {s : State} {m : Mach}

/-! ### Acknowledgements (R433) -/

theorem ringAck_whole {r : EvRing} {q : W32} (h : (q - r.ack).toNat ≤ (r.head - r.ack).toNat) : ringAck r q true = { r with ack := q } :=
  if_pos (decide_eq_true h)

theorem ringAck_bad {r : EvRing} {q : W32} {whole : Bool} (h : whole = false ∨ (r.head - r.ack).toNat < (q - r.ack).toNat) :
    ringAck r q whole = { r with ackBad := satAdd r.ackBad 1 } := by
  refine if_neg ?_
  rw [Bool.and_eq_true, decide_eq_true_eq]
  rintro ⟨hwhole, hle⟩
  rcases h with hpart | hlt
  · exact absurd hwhole (by simp [hpart])
  · omega

theorem flushLost_of_none {r : EvRing} (h : r.lost = 0) (m : Mach) : flushLost m r = r := if_neg (by simp [h])

theorem ringAck_lost (r : EvRing) (q : W32) (whole : Bool) : (ringAck r q whole).lost = r.lost := by
  unfold ringAck
  split <;> rfl

/-- With no event lost, an acknowledgement moves the ring alone. -/
theorem mpEvtAck_of_none {v : Nat} {whole : Bool} (hlink : m.pcie.linkUp = true) (hlost : m.mgmt.hostRing.lost = 0) :
    mpEvtAck v whole m = { m with mgmt := { m.mgmt with hostRing := ringAck m.mgmt.hostRing (BitVec.ofNat 32 v) whole } } := by
  have hflush : flushLost m (ringAck m.mgmt.hostRing (BitVec.ofNat 32 v) whole) = ringAck m.mgmt.hostRing (BitVec.ofNat 32 v) whole :=
    flushLost_of_none ((ringAck_lost ..).trans hlost) m
  unfold mpEvtAck
  rw [hlink]
  dsimp only
  rw [hflush, if_pos rfl]
  rfl

/-- With events lost and room made for the record of them, the record is put and signalled. -/
theorem mpEvtAck_of_lost {v : Nat} {r : EvRing} (hlink : m.pcie.linkUp = true) (hlost : m.mgmt.hostRing.lost ≠ 0)
    (hr : ringAck m.mgmt.hostRing (BitVec.ofNat 32 v) true = r) (hroom : ringRoom r = true) :
    mpEvtAck v true m = signal { m with mgmt := { m.mgmt with hostRing := { ringPut r (overflowEvent m r) with lost := 0 } } } 1 := by
  have hput : (ringPut r (overflowEvent m r)).head ≠ r.head := by
    change r.head + 1 ≠ r.head
    bv_omega
  unfold mpEvtAck
  rw [hlink, hr]
  dsimp only
  rw [flushLost_of_room (by rw [← hr, ringAck_lost]; exact hlost) hroom, if_neg hput]
  rfl

/-! ### Writes in BAR0 (R15) -/

/-- A write that touches no slot's register acknowledges events at most. -/
theorem ackWrite_of_noCr {a : Nat} {data : List Byte} (hcr : ∀ c, c < 16 → touches a data.length (0x1400000 + 16 * c) = false) (m : Mach) :
    ackWrite a data m = if touches a data.length 0x2028 = true then mpEvtAck (leNat data % 2 ^ 32) (a == 0x2028 && data.length == 4) m else m := by
  have hfold : ∀ cs : List Nat, (∀ c ∈ cs, c < 16) → cs.foldl (fun m c => if touches a data.length (0x1400000 + 16 * c) then
      chpCrAck c (leNat data % 2 ^ 32) (a == 0x1400000 + 16 * c && data.length == 4) m else m) m = m := by
    intro cs hcs
    induction cs with
    | nil => rfl
    | cons c cs ih =>
      rw [List.foldl_cons, hcr c (hcs c (List.mem_cons_self ..)), if_neg Bool.false_ne_true]
      exact ih fun d hd => hcs d (List.mem_cons_of_mem _ hd)
  unfold ackWrite
  dsimp only
  rw [hfold _ fun c hc => List.mem_range.mp hc]

/-- A write that touches no acknowledgement register acknowledges nothing. -/
theorem ackWrite_of_none {a : Nat} {data : List Byte} (hcr : ∀ c, c < 16 → touches a data.length (0x1400000 + 16 * c) = false)
    (hevt : touches a data.length 0x2028 = false) : ackWrite a data m = m := by
  rw [ackWrite_of_noCr hcr, hevt, if_neg Bool.false_ne_true]

theorem touches_eq_false {a n b : Nat} (h : a + n ≤ b ∨ b + 4 ≤ a) : touches a n b = false := by
  rw [← Bool.not_eq_true]
  simp only [touches, Bool.and_eq_true, decide_eq_true_eq]
  omega

/-- The bytes of a write that change nothing each change nothing together. -/
theorem foldl_bar0Byte_of_inert {a : Nat} (data : List Byte) (i : Nat) (h : ∀ k b, i ≤ k → k < i + data.length → bar0Byte m (a + k) b = m) :
    (data.zipIdx i).foldl (fun m q => bar0Byte m (a + q.2) q.1) m = m := by
  induction data generalizing i with
  | nil => rfl
  | cons b data ih =>
    rw [List.zipIdx_cons, List.foldl_cons, h i b (Nat.le_refl _) (by simp)]
    exact ih (i + 1) fun k c hk hlt => h k c (by omega) (by rw [List.length_cons]; omega)

/-- Where BAR0 keeps what is written by bytes: the request area, the MSI-X table and the intake slots. -/
abbrev keepsByte (a : Nat) : Prop := a < 0x1000 ∨ (0x4000 ≤ a ∧ a < 0x4400) ∨ (0x2000000 ≤ a ∧ a < 0x2200000)

theorem bar0Byte_of_readOnly {a : Nat} (h : ¬ keepsByte a) (b : Byte) : bar0Byte m a b = m := by
  unfold bar0Byte
  rw [if_neg (by omega), if_neg (by simp only [Bool.and_eq_true, decide_eq_true_eq]; omega),
    if_neg (by simp only [Bool.and_eq_true, decide_eq_true_eq]; omega)]

/-- A write of the host that is no submit. -/
theorem registerWrite_host {a : Nat} {data : List Byte} (ha : a < 0x7F000000000) (hlink : m.pcie.linkUp = true) (hsubmit : a ≠ 0x2008 ∨ data.length ≠ 4)
    (sets : W32) : registerWrite a data sets m = data.zipIdx.foldl (fun m q => bar0Byte m (a + q.2) q.1) (ackWrite a data m) := by
  unfold registerWrite
  rw [if_neg (by omega), hlink, Bool.not_true, if_neg Bool.false_ne_true, if_neg]
  simp only [Bool.and_eq_true, decide_eq_true_eq]
  omega

theorem registerWrite_readOnly {a : Nat} {data : List Byte} (hlink : m.pcie.linkUp = true)
    (h : (0x1000 ≤ a ∧ a + data.length ≤ 0x2008) ∨ (0x200C ≤ a ∧ a + data.length ≤ 0x2028) ∨ (0x202C ≤ a ∧ a + data.length ≤ 0x4000) ∨
      (0x4400 ≤ a ∧ a + data.length ≤ 0x1400000) ∨ (0x1400100 ≤ a ∧ a + data.length ≤ 0x2000000) ∨ (0x2200000 ≤ a ∧ a < 0x7F000000000)) (sets : W32) :
    registerWrite a data sets m = m := by
  rw [registerWrite_host (by omega) hlink (by omega)]
  have hack : ackWrite a data m = m := ackWrite_of_none (fun c hc => touches_eq_false (by omega)) (touches_eq_false (by omega))
  rw [hack]
  exact foldl_bar0Byte_of_inert data 0 fun k b _ hk => bar0Byte_of_readOnly (by omega) b

/-- Bytes written into the request area are kept there. -/
theorem foldl_bar0Byte_reqArea (data : List Byte) (i a : Nat) (h : a + i + data.length ≤ 0x1000) (m : Mach) :
    ∃ area, (data.zipIdx i).foldl (fun m q => bar0Byte m (a + q.2) q.1) m = { m with mgmt := { m.mgmt with reqArea := area } } ∧
      ∀ x, tget 0 area x = if a + i ≤ x ∧ x < a + i + data.length then data.getD (x - (a + i)) 0 else tget 0 m.mgmt.reqArea x := by
  induction data generalizing i m with
  | nil => exact ⟨m.mgmt.reqArea, rfl, fun x => by rw [if_neg (by simp)]⟩
  | cons b data ih =>
    rw [List.length_cons] at h
    have hbyte : bar0Byte m (a + i) b = { m with mgmt := { m.mgmt with reqArea := tset 0 m.mgmt.reqArea (a + i) b } } := if_pos (by omega)
    obtain ⟨area, hfold, hget⟩ := ih (i + 1) (by omega) (bar0Byte m (a + i) b)
    rw [List.zipIdx_cons, List.foldl_cons, hfold, hbyte]
    refine ⟨area, rfl, fun x => ?_⟩
    rw [hget, hbyte]
    dsimp only
    rw [tget_tset, List.length_cons]
    by_cases hx : a + i = x
    · subst hx
      simp
    · by_cases hin : a + (i + 1) ≤ x ∧ x < a + (i + 1) + data.length
      · obtain ⟨k, hk⟩ : ∃ k, x - (a + i) = k + 1 := ⟨x - (a + i) - 1, by omega⟩
        rw [if_pos hin, if_pos (by omega), hk, List.getD_cons_succ]
        congr 1
        omega
      · rw [if_neg hin, if_neg hx, if_neg (by omega)]

/-- Setting the mask bit of a vector. -/
theorem getLsbD_or_bit (x : W64) {v k : Nat} (hk : k < 64) : (x ||| BitVec.ofNat 64 (1 <<< v)).getLsbD k = (decide (k = v) || x.getLsbD k) := by
  rw [BitVec.getLsbD_or, BitVec.getLsbD_ofNat, Nat.one_shiftLeft, Nat.testBit_two_pow, Bool.or_comm]
  simp [hk, eq_comm]

/-- A fold that acts at one element alone acts there once. -/
theorem foldl_ite_eq (f : Mach → Mach) (c : Nat) {l : List Nat} (hnodup : l.Nodup) (hc : c ∈ l) (m : Mach) :
    l.foldl (fun m d => if d = c then f m else m) m = f m := by
  have hnone : ∀ l : List Nat, c ∉ l → ∀ m, l.foldl (fun m d => if d = c then f m else m) m = m := by
    intro l
    induction l with
    | nil => exact fun _ _ => rfl
    | cons d l ih =>
      intro hout m
      rw [List.foldl_cons, if_neg fun h : d = c => hout (h ▸ List.mem_cons_self ..)]
      exact ih (fun h => hout (List.mem_cons_of_mem _ h)) m
  induction l with
  | nil => cases hc
  | cons d l ih =>
    obtain ⟨hd, hl⟩ := List.nodup_cons.mp hnodup
    rw [List.foldl_cons]
    by_cases h : d = c
    · subst h
      rw [if_pos rfl, hnone l hd]
    · rw [if_neg h]
      exact ih hl ((List.mem_cons.mp hc).resolve_left (Ne.symm h))

theorem touches_eq_true {a n b : Nat} (h : a < b + 4 ∧ b < a + n) : touches a n b = true := and_true (decide_eq_true h.1) (decide_eq_true h.2)

/-- A write of the acknowledgement register of one context slot acknowledges that slot's records. -/
theorem ackWrite_chpCr {c : Nat} (hc : c < 16) {data : List Byte} (hlen : data.length = 4) (m : Mach) :
    ackWrite (0x1400000 + 16 * c) data m = chpCrAck c (leNat data % 2 ^ 32) true m := by
  have hother : ∀ d, d ≠ c → touches (0x1400000 + 16 * c) data.length (0x1400000 + 16 * d) = false := fun d hd => touches_eq_false (by omega)
  have hown : touches (0x1400000 + 16 * c) data.length (0x1400000 + 16 * c) = true := touches_eq_true (by omega)
  have hevt : touches (0x1400000 + 16 * c) data.length 0x2028 = false := touches_eq_false (by omega)
  unfold ackWrite
  dsimp only
  rw [hevt, if_neg Bool.false_ne_true, ← foldl_ite_eq (chpCrAck c (leNat data % 2 ^ 32) true) c List.nodup_range (List.mem_range.mpr hc) m]
  refine List.foldl_ext _ _ _ fun m d _ => ?_
  by_cases hd : d = c
  · subst hd
    rw [hown, if_pos rfl, if_pos rfl, beq_self_eq_true, hlen]
    rfl
  · rw [hother d hd, if_neg Bool.false_ne_true, if_neg hd]

/-- A write of the event ring's acknowledgement register acknowledges events. -/
theorem ackWrite_mpEvt {data : List Byte} (hlen : data.length = 4) (m : Mach) : ackWrite 0x2028 data m = mpEvtAck (leNat data % 2 ^ 32) true m := by
  rw [ackWrite_of_noCr fun c _ => touches_eq_false (by omega), if_pos (touches_eq_true (by omega)), hlen]
  rfl

/-! ### Unmasking, submits and the maintenance path (R124, R418, R432) -/

theorem unmask_of_masked {v : Nat} (hmask : m.mgmt.msixMask.getLsbD v = true) : unmask m v = { m with mgmt := { m.mgmt with
    msixMask := m.mgmt.msixMask &&& ~~~BitVec.ofNat 64 (1 <<< v),
    msixPend := if m.mgmt.msixPend.getLsbD v = true then m.mgmt.msixPend &&& ~~~BitVec.ofNat 64 (1 <<< v) else m.mgmt.msixPend,
    msgs := if m.mgmt.msixPend.getLsbD v = true then m.mgmt.msgs ++ [v] else m.mgmt.msgs } } := by
  unfold unmask
  simp only [hmask, Bool.not_true, Bool.false_eq_true, if_false]
  split <;> rfl

theorem msixUnmask_of_linked {v : Nat} (hlink : m.pcie.linkUp = true) (hv : v < 64) : msixUnmask v m = unmask m v := by
  refine if_neg ?_
  rw [hlink, Bool.not_true, Bool.false_or, decide_eq_true_eq]
  omega

theorem registerWrite_submit {data : List Byte} (hlink : m.pcie.linkUp = true) (hlen : data.length = 4) (sets : W32) :
    registerWrite 0x2008 data sets m = submit m := by
  unfold registerWrite
  rw [if_neg (by decide), hlink, Bool.not_true, if_neg Bool.false_ne_true, if_pos (and_true (decide_eq_true rfl) (decide_eq_true hlen))]

/-- A write of 4 bytes at offset `o` of the window of block `p`, as the maintenance path takes it. -/
theorem registerWrite_maint {a p o : Nat} {data : List Byte} (ha : a = 0x7F010000000 + 0x10000 * p + o) (hp : p < 1088) (ho : o < 0x10000)
    (hstop : mpStopped m = false) (hon : regionsOn m = true) (hlen : data.length = 4) (sets : W32) : registerWrite a data sets m =
      if o = 0x1010 then modSp m p (fun s => clearSpEcc s (BitVec.ofNat 32 (leNat data)) sets)
      else if o = 0x1008 ∧ fld (leNat data) 0 3 < 6 then
        modSp m p (fun s => { s with aliasOn := tbit (leNat data) 3, aliasBank := fld (leNat data) 0 3, aliasCtx := fld (leNat data) 4 4 })
      else if 0x1100 ≤ o ∧ o < 0x1200 ∧ o % 16 = 0 then
        modBlk m p (fun b => modWin b ((o - 0x1100) / 16) (fun _ => winOf (leNat data) (winPtr (getWin (getBlk m p) ((o - 0x1100) / 16)))))
      else m := by
  have hblk : (a - 0x7F010000000) / 0x10000 = p := by omega
  have hoff : (a - 0x7F010000000) % 0x10000 = o := by omega
  have hlow : decide (a < 0x7F010000000) = false := decide_eq_false (by omega)
  have hmax : decide (1088 ≤ p) = false := decide_eq_false (by omega)
  unfold registerWrite
  rw [if_pos (by omega)]
  unfold maintWrite
  simp only [hblk, hoff, hlow, hmax, hstop, hon, hlen, Bool.not_true, Bool.or_self, Bool.false_eq_true, if_false, decide_true, Bool.and_true,
    Bool.and_eq_true, decide_eq_true_eq, and_assoc]
  simp

/-- A byte that masks a vector. -/
theorem msixByte_mask {off v : Nat} {b : Byte} (hvec : off / 16 = v) (hword : off % 16 = 12) (hb : b.getLsbD 0 = true) :
    msixByte m off b = { m with mgmt := { m.mgmt with
      msixEntries := tset 0 m.mgmt.msixEntries off (b &&& 0xFE), msixMask := m.mgmt.msixMask ||| BitVec.ofNat 64 (1 <<< v) } } := by
  unfold msixByte
  simp only [hvec, hword, hb, bne_self_eq_false, Bool.false_eq_true, if_false, if_true]

theorem bar0Byte_msix {a off : Nat} (ha : a = 0x4000 + off) (hoff : off < 0x400) (b : Byte) : bar0Byte m a b = msixByte m off b := by
  have hsub : a - 0x4000 = off := by omega
  unfold bar0Byte
  rw [if_neg (by omega), if_pos (and_true (decide_eq_true (by omega)) (decide_eq_true (by omega))), hsub]

/-- Settles O3: acknowledgements, unmasking, and each place of BAR0 and of the maintenance path that a write may be at. -/
theorem hostPlane : Obligations.HostPlane := by
  refine ⟨?_, ?_, ?_, ?_, ?_, ?_, ?_, ?_, ?_, ?_, ?_, ?_, ?_, ?_, ?_⟩
  · intro s v hlink hlost hin
    rw [← ringAck_whole hin, ← mpEvtAck_of_none hlink hlost]
    rfl
  · intro s v whole hlink hlost hbad
    rw [← ringAck_bad hbad, ← mpEvtAck_of_none hlink hlost]
    rfl
  · intro s v r hlink hlost hin hr hroom
    rw [← mpEvtAck_of_lost hlink hlost ((ringAck_whole hin).trans hr.symm) hroom]
    rfl
  · intro s v hlink hv hmask hpend
    change Host.Outcome.next { s with m := msixUnmask v s.m } = _
    rw [msixUnmask_of_linked hlink hv, unmask_of_masked hmask, if_pos hpend, if_pos hpend]
  · intro s v hlink hv hmask hpend
    change Host.Outcome.next { s with m := msixUnmask v s.m } = _
    rw [msixUnmask_of_linked hlink hv, unmask_of_masked hmask, hpend, if_neg Bool.false_ne_true, if_neg Bool.false_ne_true]
  · intro s a data sets hlink hend
    have hack : ackWrite a data s.m = s.m := ackWrite_of_none (fun c hc => touches_eq_false (by omega)) (touches_eq_false (by omega))
    obtain ⟨area, hfold, hget⟩ := foldl_bar0Byte_reqArea data 0 a (by omega) s.m
    refine ⟨{ s with m := { s.m with mgmt := { s.m.mgmt with reqArea := area } } }, ?_, rfl, hget⟩
    change Host.Outcome.next { s with m := registerWrite a data sets s.m } = _
    rw [registerWrite_host (by omega) hlink (by omega), hack, hfold]
  · intro s v b sets hlink hv hb
    have hack : ackWrite (0x4000 + 16 * v + 12) [b] s.m = s.m := ackWrite_of_none (fun c hc => touches_eq_false (by simp; omega)) (touches_eq_false (by simp; omega))
    have hwrite : registerWrite (0x4000 + 16 * v + 12) [b] sets s.m = bar0Byte s.m (0x4000 + 16 * v + 12) b := by
      rw [registerWrite_host (by omega) hlink (by omega), hack]
      rfl
    rw [bar0Byte_msix (Nat.add_assoc ..) (by omega), msixByte_mask (v := v) (by omega) (by omega) hb] at hwrite
    have hexec : exec (.registerWrite (0x4000 + 16 * v + 12) ⟨[b], sets⟩) s = .next { s with m := registerWrite (0x4000 + 16 * v + 12) [b] sets s.m } := rfl
    rw [hwrite] at hexec
    exact ⟨_, hexec, rfl, fun k hk => getLsbD_or_bit _ hk⟩
  · intro s a data sets hlink h
    change Host.Outcome.next { s with m := registerWrite a data sets s.m } = _
    rw [registerWrite_readOnly hlink h]
  · intro s data sets q hlink hlen hq hst hboot hfence
    refine ⟨_, rfl, ?_⟩
    change Host.Outcome.next { s with m := registerWrite 0x2008 data sets s.m } = _
    have hrun : (decide (s.m.pwr.boot = .running) && !chipFenced s.m) = true := and_true (decide_eq_true hboot) (not_of_false hfence)
    rw [registerWrite_submit hlink hlen, hq]
    unfold submit
    rcases hst with hst | hst <;> simp only [hst, hrun, if_true] <;> rfl
  · intro s data sets hlink hlen hst
    change Host.Outcome.next { s with m := registerWrite 0x2008 data sets s.m } = _
    rw [registerWrite_submit hlink hlen]
    unfold submit
    simp only [hst]
  · intro s c data sets hlink hc hlen
    change Host.Outcome.next { s with m := registerWrite (0x1400000 + 16 * c) data sets s.m } = _
    rw [registerWrite_host (by omega) hlink (by omega), ackWrite_chpCr hc hlen]
    rw [foldl_bar0Byte_of_inert data 0 fun k b _ hk => bar0Byte_of_readOnly (by omega) b]
  · intro s data sets hlink hlen
    change Host.Outcome.next { s with m := registerWrite 0x2028 data sets s.m } = _
    rw [registerWrite_host (by omega) hlink (by omega), ackWrite_mpEvt hlen]
    rw [foldl_bar0Byte_of_inert data 0 fun k b _ hk => bar0Byte_of_readOnly (by omega) b]
  · intro s p data sets hp hstop hon hlen
    change Host.Outcome.next { s with m := registerWrite (0x7F010000000 + 0x10000 * p + 0x1010) data sets s.m } = _
    rw [registerWrite_maint rfl hp (by decide) hstop hon hlen, if_pos rfl]
    rfl
  · intro s p n data sets hp hn hstop hon hlen
    change Host.Outcome.next { s with m := registerWrite (0x7F010000000 + 0x10000 * p + 0x1100 + 16 * n) data sets s.m } = _
    have hix : (0x1100 + 16 * n - 0x1100) / 16 = n := by omega
    rw [registerWrite_maint (Nat.add_assoc ..) hp (by omega) hstop hon hlen, if_neg (by omega), if_neg (by omega), if_pos (by omega), hix]
  · intro s r h
    exact knaob_next h rfl

end Sys2Proof.Proofs
end
-- ==== Sys2Proof/Proofs/ClearCommands.lean ====
section
/-! PROOF. The commands that clear flags (R15, R267, R296, R430). -/

namespace Sys2Proof.Proofs
open Sys2Proof Sys2Proof.Machine

/-- Settles O4: each body past its checks; the targets of FLAGS_CLEAR are one watch, or one block. -/
theorem clearCommands : Obligations.ClearCommands := by
  refine ⟨?_, ?_, ?_, ?_⟩
  · intro s r sets h hbits htier hunit
    exact knaob_next h (must_then (decide_eq_true hbits) (must_then (decide_eq_true htier) (must_then (decide_eq_true hunit) rfl)))
  · intro s r sets h hbits
    exact knaob_next h (must_then (decide_eq_true hbits) rfl)
  · intro s r sets h hcls hbits hix hopen hown
    refine knaob_next h ?_
    dsimp only
    rw [hcls]
    exact must_then (decide_eq_true hbits) (must_then rfl (must_then (decide_eq_true hix)
      (must_then (and_true (bne_iff_ne.mpr hopen) (beq_iff_eq.mpr hown)) rfl)))
  · intro s r sets p h hcls hix hbits htargets
    have hin : decide (pf r 0 1 < 4) = true := decide_eq_true (by omega)
    have hne : (pf r 0 1 != 3) = true := bne_iff_ne.mpr (by omega)
    refine knaob_next h (must_then (decide_eq_true hbits) (must_then (decide_eq_true (by omega)) ?_))
    dsimp only
    rw [if_pos (by omega)]
    refine must_then (or_true_left (decide_eq_true hix)) ?_
    rw [htargets, if_neg (by omega)]
    refine must_then (or_true_right rfl) (must_then (or_true_left hne) ?_)
    have hraced : ∀ x : W32, 0 ||| x = x := fun _ => BitVec.zero_or
    simp only [List.foldl_cons, List.foldl_nil, hraced]
    rfl

end Sys2Proof.Proofs
end
-- ==== Sys2Proof/Proofs/FirmwareOwner.lean ====
section
/-! PROOF. Firmware (R439 to R442), the owner and its policy (R453, R454), zeroise and lifecycle transitions (R445, R446, R461). -/

namespace Sys2Proof.Proofs
open Sys2Proof Sys2Proof.Machine

variable {s : State} {r : Req} {nv : NonVol} {m : Mach}

/-- What a command does that may change what fuses and flash hold, from its row. -/
theorem runD_of {f : NonVol → Mach → NonVol × Mach} {q : NonVol × Mach} (hf : f s.nv s.m = q) : runD f s = .next { s with nv := q.1, m := q.2 } := by
  rw [runD, hf]

theorem checked_ok {k : K Unit} {next : K (NonVol × Done)} (h : k = .ok ()) : checked nv m k next = next := by
  rw [h]
  rfl

/-- A step of a body that answers. -/
theorem ok_then {α β : Type} {k : K α} {f : α → K β} {a : α} {x : K β} (hk : k = .ok a) (hf : f a = x) : (k >>= f) = x := by
  subst hk
  exact hf

/-- A step that only one case has. -/
theorem ite_ok_then {α : Type} {c : Prop} [Decidable c] {k : K Unit} {f : Unit → K α} {x : K α} (hk : c → k = .ok ()) (hf : f () = x) :
    (if c then k >>= f else (.ok () : K Unit) >>= f) = x := by
  split
  next hc => exact ok_then (hk hc) hf
  · exact hf

/-- As `ite_ok_then`, where the other case has the step. -/
theorem ite_not_ok_then {α : Type} {c : Prop} [Decidable c] {k : K Unit} {f : Unit → K α} {x : K α} (hk : ¬ c → k = .ok ()) (hf : f () = x) :
    (if c then (.ok () : K Unit) >>= f else k >>= f) = x := by
  split
  · exact hf
  next hc => exact ok_then (hk hc) hf

/-! ### Firmware -/

/-- Settles O5: each body past its checks. -/
theorem firmwareCommands : Obligations.FirmwareCommands := by
  refine ⟨?_, ?_, ?_, ?_, ?_, ?_⟩
  · intro s r h hoff hn hver
    refine knaobNv_next h ?_
    dsimp only
    rw [hoff]
    exact must_then (decide_eq_true (by omega)) (must_then (decide_eq_true hn) (must_then (not_of_false hver) (must_then rfl rfl)))
  · intro s r f h hoff hf hst hn hend hver
    subst hf
    refine knaobNv_next h (must_then (decide_eq_true hend) (must_then (decide_eq_true hn) (must_then (not_of_false hver)
      (must_then (or_true_right (beq_iff_eq.mpr hst)) ?_))))
    dsimp only
    rw [if_neg hoff]
    rfl
  · intro s r sig f h hp hf hst hver hgood hh
    subst hf
    refine knaobNv_next hp (must_then (not_of_false hver) (must_then (beq_iff_eq.mpr hst) ?_))
    dsimp only
    rw [hgood, if_pos rfl, if_neg (by decide), ← hh]
    rfl
  · intro s r h hflag hst hver
    exact knaobNv_next h (must_then (decide_eq_true hflag) (must_then (and_true (beq_iff_eq.mpr hst) (not_of_false hver)) rfl))
  · intro s r a h htry hact
    exact ⟨_, rfl, exec_fwCommit h htry hact⟩
  · intro s f g hboot hg
    subst hg
    have htrying : (s.m.pwr.boot != .trying) = false := by rw [hboot]; rfl
    change runD (tryBootTimeout f) s = _
    unfold runD tryBootTimeout
    rw [htrying]
    rfl

/-! ### Owner, policy, zeroise and lifecycle -/

/-- A token that passes has its reserved fields zero and its other fields in range. -/
theorem checkToken_ok {bs : List Byte} {kind value off : Nat} {sig : Bool} (h : checkToken nv m bs kind value off sig = .ok ()) :
    resvToken bs kind off = .ok () ∧ rangeToken bs kind value off = .ok () := by
  unfold checkToken at h
  cases hresv : resvToken bs kind off with
  | error b => rw [hresv] at h; cases h
  | ok _ =>
    cases hrange : rangeToken bs kind value off with
    | error b => rw [hresv, hrange] at h; cases h
    | ok _ => exact ⟨rfl, rfl⟩

theorem lifecycleMove_zero_one (hl : nv.lifecycle = 0) (hkey : nv.keyHeld = true) (hchain : nv.chain ≠ []) : lifecycleMove nv 1 = .ok () := by
  unfold lifecycleMove
  rw [hl]
  exact must_of (and_true hkey (by simpa using hchain)) ..

theorem lifecycleMove_one_two (hl : nv.lifecycle = 1) : lifecycleMove nv 2 = .ok () := by
  simp only [lifecycleMove, hl]

theorem lifecycleMove_two_one (hl : nv.lifecycle = 2) : lifecycleMove nv 1 = must (nv.returnCount < 3) 0x45 0 := by
  simp only [lifecycleMove, hl]

/-- Settles O6: each body past its checks, and Table 17.1. -/
theorem ownerAndLifecycle : Obligations.OwnerAndLifecycle := by
  refine ⟨?_, ?_, ?_, ?_, ?_, ?_⟩
  · intro s r sig h hmode hlife howner hkey hexp
    refine knaobNv_next h ?_
    simp only [hmode, howner]
    exact must_then rfl (must_then (decide_eq_true hkey) (must_then (beq_iff_eq.mpr hexp) (must_then (beq_iff_eq.mpr hlife) (must_then rfl (must_then rfl
      (checked_ok rfl))))))
  · intro s r h hmode hlife howner hkey hexp
    have hsome : s.nv.owner.isSome = true := Option.isSome_iff_ne_none.mpr howner
    refine knaobNv_next h ?_
    simp only [hmode]
    exact must_then rfl (must_then (decide_eq_true hkey) (must_then (beq_iff_eq.mpr hexp) (must_then (beq_iff_eq.mpr hlife) (must_then rfl (must_then hsome
      (checked_ok rfl))))))
  · intro s r h hflags hlevels hlim1 hlim2 hwin1 hwin2 hmagic hver hserial howner hseq
    have hsome : s.nv.owner.isSome = true := Option.isSome_iff_ne_none.mpr howner
    have hfor : (recZero r.payload 12 16 || (r.payload.drop 12).take 16 == padTo 16 s.m.fuse.serial) = true :=
      hserial.elim or_true_left fun heq => or_true_right (beq_iff_eq.mpr heq)
    refine knaobNv_next h (must_then (decide_eq_true hflags) ?_)
    simp only [hlevels]
    exact must_then (in_bounds hlim1 hlim2) (must_then (in_bounds hwin1 hwin2) (must_then (beq_iff_eq.mpr hmagic) (must_then (beq_iff_eq.mpr hver)
      (must_then hfor (must_then hsome (must_then (decide_eq_true hseq) (checked_ok rfl)))))))
  · intro s r sig signed m0 m1 q hsigned h hmode hserial hfree htoken hm0 hm1 hq
    obtain ⟨m2, hm2⟩ : ∃ m2, m2 = teardownAll { q.1 with sec := { q.1.sec with zeroise := some { mode := pf r 0 1, tag := q.2 } } } 0 := ⟨_, rfl⟩
    have hgo : (pf r 0 1 == 2 || s.m.sec.zeroise.isNone) = true :=
      hfree.elim (fun he => or_true_left (beq_iff_eq.mpr he)) fun hn => or_true_right (by rw [hn]; rfl)
    have hchecked : (if (recNat r.payload 0 1 == 2 && tbit s.nv.policy.flags 1) = true then checkToken s.nv s.m (r.payload.drop 20) 3 0 20 sig else .ok ()) = .ok () := by
      split
      next hs => exact htoken (hsigned.trans hs)
      · rfl
    have hrow : zeroise sig r s.nv s.m = (s.nv, respond m2 0x0606 r 0 q.2 [] true) := by
      unfold zeroise
      rw [← finish_longOk]
      refine knaobNv_ok h (d := (s.nv, longOk m2 q.2)) ?_
      refine (ite_ok_then (fun hs => (checkToken_ok (htoken (hsigned.trans hs))).1) (must_then (decide_eq_true hmode)
        (ite_ok_then (fun hs => (checkToken_ok (htoken (hsigned.trans hs))).2) (must_then (beq_iff_eq.mpr hserial) (must_then hgo ((checked_ok hchecked).trans ?_))))))
      rw [hsigned] at hm0
      extract_lets u v q' z
      have hu : u = m0 := hm0.symm
      rw [← hu] at hm1
      have hv : v = m1 := hm1.symm
      have hq' : q' = q := (congrArg (newOp · r.port 0x0606 (pf r 0 1)) hv).trans hq.symm
      rw [hm2, ← hq']
    change runD (zeroise sig r) s = _
    rw [runD_of hrow, hm2]
  · intro s r sig tok m0 q h hmode hfree hmoving hmove hpower htok htoken hm0 hq
    obtain ⟨m2, hm2⟩ : ∃ m2, m2 = if s.nv.lifecycle = 0 then q.1 else teardownAll q.1 0 := ⟨_, rfl⟩
    have hidle : (s.m.sec.zeroise.isNone && !moving s.m) = true := and_true (by rw [hfree]; rfl) (not_of_false hmoving)
    have hmay : (s.nv.lifecycle == 0 || s.m.pwr.st != 3) = true := hpower.elim (fun he => or_true_left (beq_iff_eq.mpr he)) fun hn => or_true_right (bne_iff_ne.mpr hn)
    have hpass : ¬ tok.isEmpty = true → checkToken s.nv s.m tok 2 (pf r 0 1) 4 sig = .ok () := fun hne => htoken fun he => hne (List.isEmpty_iff.mpr he)
    have hchecked : (if tok.isEmpty = true then (.ok () : K Unit) else checkToken s.nv s.m tok 2 (pf r 0 1) 4 sig) = .ok () := by
      split
      · rfl
      next hne => exact hpass hne
    have hrow : lifecycleSet sig r s.nv s.m = (s.nv, respond m2 0x0607 r 0 q.2 [] true) := by
      unfold lifecycleSet
      rw [← finish_longOk]
      refine knaobNv_ok h (d := (s.nv, longOk m2 q.2)) ?_
      dsimp only
      rw [← htok]
      refine ite_not_ok_then (fun hne => (checkToken_ok (hpass hne)).1) (must_then (decide_eq_true hmode) (ite_not_ok_then
        (fun hne => (checkToken_ok (hpass hne)).2) (must_then hidle (ok_then hmove (must_then hmay ((checked_ok hchecked).trans ?_))))))
      subst hm2 hq hm0
      simp only [List.isEmpty_iff]
    change runD (lifecycleSet sig r) s = _
    rw [runD_of hrow, hm2]
  · exact fun nv => ⟨lifecycleMove_zero_one, lifecycleMove_one_two, fun hl hcount => (lifecycleMove_two_one hl).trans (must_of (decide_eq_true hcount) ..),
      fun hl hcount => by rw [lifecycleMove_two_one hl, decide_eq_false (Nat.not_lt.mpr hcount), must_false]⟩

end Sys2Proof.Proofs
end
-- ==== Sys2Proof/Proofs/Teardown.lean ====
section
/-! PROOF. What the shared operations under a teardown leave as it was, and what a teardown takes (R213). -/

namespace Sys2Proof.Proofs
open Sys2Proof Sys2Proof.Machine

/-- The parts of the machine no operation on contexts, blocks, memory or the fabric changes. -/
def steady (m : Mach) : SecS × RstS × PwrS × TimeS × FuseS × HealthS × PcieS × Tbl Rgn × List LogRec :=
  (m.sec, m.rst, m.pwr, m.time, m.fuse, m.health, m.pcie, m.rgns, m.mgmt.flashLog)

/-- The state, generation and serving state of every context slot. -/
def life (m : Mach) (c : Nat) : CtxSt × Nat × ServSt := ((getCtx m c).st, (getCtx m c).gen, (getCtx m c).sv)

/-- What the operations a teardown shares with the rest of the model keep: `steady` and `life`. -/
def kept (m : Mach) := (steady m, life m)

variable {m : Mach}

theorem kept_of_ctxs {a b : Mach} (hs : steady b = steady a) (hc : b.ctxs = a.ctxs) : kept b = kept a := by
  have hl : life b = life a := by funext c; simp only [life, getCtx, hc]
  exact Prod.ext hs hl

theorem kept_of_life {a b : Mach} (hs : steady b = steady a) (hc : ∀ c, life b c = life a c) : kept b = kept a :=
  Prod.ext hs (funext hc)

theorem kept_foldl {β : Type} {f : Mach → β → Mach} (hf : ∀ m x, kept (f m x) = kept m) (l : List β) (m : Mach) : kept (l.foldl f m) = kept m :=
  foldl_keeps (P := fun k => kept k = kept m) (fun _ x h => (hf _ x).trans h) l rfl

theorem steady_foldl {β : Type} {f : Mach → β → Mach} (hf : ∀ m x, steady (f m x) = steady m) (l : List β) (m : Mach) : steady (l.foldl f m) = steady m :=
  foldl_keeps (P := fun k => steady k = steady m) (fun _ x h => (hf _ x).trans h) l rfl

theorem kept_ite {c : Prop} [Decidable c] {a b : Mach} (ha : kept a = kept m) (hb : kept b = kept m) : kept (if c then a else b) = kept m := by
  split
  · exact ha
  · exact hb

theorem kept_modCtx (c : Nat) {f : Ctx → Ctx} (hf : ∀ x, (f x).st = x.st ∧ (f x).gen = x.gen ∧ (f x).sv = x.sv) : kept (modCtx m c f) = kept m := by
  refine kept_of_life rfl fun j => ?_
  obtain ⟨h1, h2, h3⟩ := hf (getCtx m j)
  simp only [life, getCtx_modCtx]
  split
  next hj => subst hj; rw [h1, h2, h3]
  · rfl

/-! ### Events, accounting and memory -/

theorem kept_of_mgmt {a b : Mach} (h : b = { a with mgmt := b.mgmt }) (hf : b.mgmt.flashLog = a.mgmt.flashLog) : kept b = kept a := by
  have hs : steady b = steady { a with mgmt := b.mgmt } := congrArg steady h
  have hc : b.ctxs = a.ctxs := by rw [h]
  refine kept_of_ctxs (hs.trans ?_) hc
  simp only [steady, hf]

theorem signal_flashLog (v : Nat) : (signal m v).mgmt.flashLog = m.mgmt.flashLog := by
  unfold signal
  split <;> rfl

theorem logRec_flashLog (code cls unit dump flags : Nat) (ctx : Option Nat) (d : List Byte) :
    (logRec m code cls unit dump flags ctx d).mgmt.flashLog = m.mgmt.flashLog := by
  unfold logRec
  dsimp only
  split <;> rfl

theorem hostEvent_flashLog (cls : Nat) (e : Event) : (hostEvent m cls e).mgmt.flashLog = m.mgmt.flashLog := by
  unfold hostEvent
  dsimp only
  split
  · exact signal_flashLog 1
  · rfl

theorem report_flashLog (code cls unit : Nat) (ctx : Option Nat) (contexts subject : Nat) (d : List Byte) :
    (report m code cls unit ctx contexts subject d).mgmt.flashLog = m.mgmt.flashLog := by
  unfold report
  extract_lets m1 e m2
  have h1 : m1.mgmt.flashLog = m.mgmt.flashLog := logRec_flashLog ..
  have h2 : m2.mgmt.flashLog = m.mgmt.flashLog := by
    unfold m2
    split
    · exact (hostEvent_flashLog ..).trans h1
    · exact h1
  split
  · exact h2
  · exact h2

@[simp] theorem kept_signal (v : Nat) : kept (signal m v) = kept m := kept_of_mgmt (by rw [signal_frame]) (signal_flashLog v)
@[simp] theorem kept_report (code cls unit : Nat) (ctx : Option Nat) (contexts subject : Nat) (d : List Byte) :
    kept (report m code cls unit ctx contexts subject d) = kept m := kept_of_mgmt (report_frame ..) (report_flashLog ..)
@[simp] theorem kept_reportCtx (code unit c subject : Nat) (d : List Byte) : kept (reportCtx m code unit c subject d) = kept m := kept_report ..
@[simp] theorem kept_freeStep (n : Nat) : kept (freeStep m n) = kept m := rfl
@[simp] theorem kept_modBlk (p : Nat) (f : Blk → Blk) : kept (modBlk m p f) = kept m := rfl
@[simp] theorem kept_modCtl (k : Nat) (f : Ctl → Ctl) : kept (modCtl m k f) = kept m := rfl
@[simp] theorem kept_modMs (n : Nat) (f : Milestone → Milestone) : kept (modMs m n f) = kept m := rfl
@[simp] theorem kept_modConv (n : Nat) (f : ConvSlot → ConvSlot) : kept (modConv m n f) = kept m := rfl
@[simp] theorem kept_modChan (n : Nat) (f : Chan → Chan) : kept (modChan m n f) = kept m := rfl
@[simp] theorem kept_setPoison (g : Nat) (on : Bool) : kept (setPoison m g on) = kept m := rfl
@[simp] theorem kept_endWb (p stream code : Nat) : kept (endWb m p stream code) = kept m := rfl

@[simp] theorem kept_modMan (c k : Nat) (f : ManSt → ManSt) : kept (modMan m c k f) = kept m := kept_modCtx _ fun _ => ⟨rfl, rfl, rfl⟩

@[simp] theorem kept_acctAdd (c i k : Nat) : kept (acctAdd m c i k) = kept m := by
  unfold acctAdd
  exact kept_ite rfl (kept_modCtx _ fun _ => ⟨rfl, rfl, rfl⟩)

@[simp] theorem kept_acctTier (c a n : Nat) (write : Bool) : kept (acctTier m c a n write) = kept m := by
  unfold acctTier
  split
  · exact kept_acctAdd ..
  · rfl

@[simp] theorem kept_acctReq (c : Nat) (pk : Packet) : kept (acctReq m c pk) = kept m := by
  unfold acctReq; dsimp only; split <;> simp

@[simp] theorem kept_dropNarrow (a n : Nat) : kept (dropNarrow m a n) = kept m := by
  unfold dropNarrow; split <;> rfl

theorem tget_map {α : Type} (d : α) (t : Tbl α) (f : α → α) (hd : f d = d) (k : Nat) : tget d (t.map fun e => (e.1, f e.2)) k = f (tget d t k) := by
  induction t with
  | nil => exact hd.symm
  | cons e t ih =>
    simp only [List.map_cons, tget]
    split
    · rfl
    · exact ih

@[simp] theorem kept_markDirty (a n : Nat) : kept (markDirty m a n) = kept m := by
  unfold markDirty
  dsimp only
  split
  · exact kept_dropNarrow a n
  · refine Eq.trans (kept_of_life (a := dropNarrow m a n) rfl fun c => ?_) (kept_dropNarrow a n)
    simp only [life, getCtx]
    rw [tget_map ctxReset _ (fun x => { x with el := { x.el with src := x.el.src.map (fun s => dirtySrc s a n) } }) rfl]

@[simp] theorem kept_wrGran (g a : Nat) (bs : List Byte) : kept (wrGran m g a bs) = kept m := by
  unfold wrGran
  exact kept_ite rfl (kept_ite rfl rfl)

@[simp] theorem kept_wrBytes (a : Nat) (bs : List Byte) : kept (wrBytes m a bs) = kept m :=
  (kept_foldl (fun _ _ => kept_wrGran ..) _ _).trans (kept_markDirty ..)

@[simp] theorem kept_wrPoison (a n : Nat) : kept (wrPoison m a n) = kept m :=
  (kept_foldl (f := fun m g => setPoison m g true) (fun _ _ => rfl) _ _).trans (kept_markDirty ..)

@[simp] theorem kept_zeroRange (a n : Nat) : kept (zeroRange m a n) = kept m := by
  unfold zeroRange
  exact kept_markDirty a n

@[simp] theorem kept_aliasWrite (clear : Bool) (a : Nat) (bs : List Byte) : kept (aliasWrite m clear a bs) = kept m := by
  refine kept_foldl (fun m g => ?_) _ _
  exact kept_ite rfl (kept_wrBytes ..)

@[simp] theorem kept_countSat (a : Nat) : kept (countSat m a) = kept m := by
  unfold countSat; split <;> rfl

@[simp] theorem kept_adderElem (a fmt : Nat) (isMax poisoned : Bool) (v : Nat) : kept (adderElem m a fmt isMax poisoned v).1 = kept m := by
  unfold adderElem
  dsimp only
  split
  · simp
  · split
    · simp
    · dsimp only
      split <;> simp

@[simp] theorem kept_accumElem (a fmt : Nat) (isMax poisoned : Bool) (key v : Nat) : kept (accumElem m a fmt isMax poisoned key v).1 = kept m := by
  unfold accumElem
  split
  · exact kept_adderElem ..
  · dsimp only
    split
    · exact kept_adderElem ..
    · exact (kept_wrBytes ..).trans (kept_dropNarrow ..)

@[simp] theorem kept_advanceAt (n amount : Nat) : kept (advanceAt m n amount) = kept m := by
  unfold advanceAt; split <;> rfl

/-! ### Bank ports -/

@[simp] theorem kept_serveReq (p : Nat) (r : BankReq) : kept (serveReq m p r) = kept m := by
  unfold serveReq
  split
  · exact kept_ite rfl rfl
  · dsimp only
    split
    · exact kept_aliasWrite ..
    · exact kept_wrBytes ..

@[simp] theorem kept_countWaited (p bank : Nat) : kept (countWaited m p bank) = kept m := rfl

@[simp] theorem kept_flushPort (p bank : Nat) (write : Bool) : kept (flushPort m p bank write) = kept m := by
  unfold flushPort
  exact kept_ite rfl (kept_foldl (fun _ _ => (kept_countWaited ..).trans (kept_serveReq ..)) _ _)

@[simp] theorem kept_portAccess (p master off n : Nat) (write : Bool) : kept (portAccess m p master off n write) = kept m := by
  unfold portAccess
  refine kept_ite rfl ((kept_foldl (fun m i => ?_) _ _).trans (kept_ite rfl rfl))
  exact kept_ite rfl (kept_ite rfl (kept_flushPort ..))

@[simp] theorem kept_portLines (a n : Nat) (write : Bool) : kept (portLines m a n write) = kept m := by
  unfold portLines portAt
  exact kept_ite rfl (kept_portAccess ..)

/-! ### Requests of the fabric -/

@[simp] theorem kept_narrowLoad (a n : Nat) : kept (narrowLoad m a n) = kept m := by
  refine kept_foldl (fun m g => ?_) _ _
  split
  · rfl
  · exact kept_ite rfl rfl

theorem kept_foldl_fst {β γ : Type} {f : Mach × γ → β → Mach × γ} (hf : ∀ q x, kept (f q x).1 = kept q.1) (l : List β) (q : Mach × γ) :
    kept (l.foldl f q).1 = kept q.1 := by
  induction l generalizing q with
  | nil => rfl
  | cons x l ih => exact (ih _).trans (hf q x)

@[simp] theorem kept_performReq (pk : Packet) : kept (performReq m pk).1 = kept m := by
  unfold performReq
  split
  · rfl
  · split
    · split
      · exact (kept_foldl (fun _ _ => kept_wrPoison ..) _ _).trans ((kept_aliasWrite ..).trans (kept_portLines ..))
      · exact (kept_foldl (fun _ _ => kept_wrPoison ..) _ _).trans ((kept_wrBytes ..).trans (kept_portLines ..))
    · split
      · exact (kept_foldl (fun _ _ => kept_wrPoison ..) _ _).trans ((kept_aliasWrite ..).trans (kept_portLines ..))
      · exact (kept_foldl (fun _ _ => kept_wrPoison ..) _ _).trans ((kept_wrBytes ..).trans (kept_portLines ..))
    · exact kept_ite ((kept_narrowLoad ..).trans (kept_portLines ..)) (kept_portLines ..)
    · exact kept_ite ((kept_narrowLoad ..).trans (kept_portLines ..)) (kept_portLines ..)
    · refine kept_foldl_fst (fun q e => ?_) _ _
      exact kept_accumElem ..
    · dsimp only
      split
      · refine kept_ite (kept_dropNarrow ..) (kept_ite ?_ (kept_ite ?_ (kept_dropNarrow ..)))
        · exact (kept_wrPoison ..).trans (kept_dropNarrow ..)
        · exact (kept_wrBytes ..).trans (kept_dropNarrow ..)
      · exact kept_foldl (fun _ _ => kept_adderElem ..) _ _
    · split
      · exact kept_advanceAt ..
      · rfl
    · rfl

@[simp] theorem kept_ownNack (pk : Packet) (r : Nat) : kept (ownNack m pk r) = kept m :=
  kept_modCtx (m := countCustoms m pk r) _ fun _ => ⟨rfl, rfl, rfl⟩

/-- Whatever machine an access answers is `kept` as `m`. -/
def AccessKeeps (m : Mach) : Access → Prop
  | .fault _ => True
  | .nack a _ => kept a = kept m
  | .done a _ => kept a = kept m
  | .sent a _ => kept a = kept m

theorem fabAccess_keeps (ref : ItemRef) (holder : Holder) (opcode subcode virt len : Nat) (data : List Byte) (poison : List Nat) (relaxed keyed : Bool) :
    AccessKeeps m (fabAccess m ref holder opcode subcode virt len data poison relaxed keyed) := by
  unfold fabAccess
  split
  · exact trivial
  · dsimp only
    split
    · exact kept_ownNack ..
    · split
      · exact (kept_performReq _).trans (kept_acctReq ..)
      · exact kept_acctAdd ..

theorem fabMerge_keeps (ref : ItemRef) (h : Holder) (va : Nat) (data : List Byte) (poison : Bool) : AccessKeeps m (fabMerge m ref h va data poison) := by
  have hk := fabAccess_keeps (m := m) ref h 0x01 0 (va / 32 * 32) 32 [] [] false false
  unfold fabMerge
  split
  next a tag heq => rw [heq] at hk; exact hk
  · exact hk

theorem AccessKeeps.ite {c : Prop} [Decidable c] {x y : Access} (hx : AccessKeeps m x) (hy : AccessKeeps m y) : AccessKeeps m (if c then x else y) := by
  split
  · exact hx
  · exact hy

theorem AccessKeeps.nack {x : Access} (hx : AccessKeeps m x) {a : Mach} {r : Nat} (h : x = .nack a r) : kept a = kept m := by subst h; exact hx
theorem AccessKeeps.done {x : Access} (hx : AccessKeeps m x) {a : Mach} {pk : Packet} (h : x = .done a pk) : kept a = kept m := by subst h; exact hx
theorem AccessKeeps.sent {x : Access} (hx : AccessKeeps m x) {a : Mach} {tag : Nat} (h : x = .sent a tag) : kept a = kept m := by subst h; exact hx

/-- The machine a piecewise access answers. -/
def resMach : FabRes → Mach
  | .bad m _ => m
  | .ok m _ _ _ => m

theorem kept_fabWrite (ref : ItemRef) (h : Holder) (a : Nat) (bs : List Byte) (poison : List Nat) :
    kept (resMach (fabWrite m ref h a bs poison)) = kept m := by
  unfold fabWrite
  generalize fabPieces m ref.ctx a bs.length = l
  suffices hgen : ∀ (l : List (Nat × Nat)) (x : FabRes), kept (resMach x) = kept m → kept (resMach (l.foldl _ x)) = kept m from hgen l _ rfl
  intro l
  induction l with
  | nil => exact fun _ hx => hx
  | cons q l ih =>
    intro x hx
    refine ih _ ?_
    cases x with
    | bad b k => exact hx
    | ok b d p out =>
      have hx' : kept b = kept m := hx
      dsimp only
      split
      · exact hx'
      next h => exact ((AccessKeeps.ite (fabMerge_keeps ..) (fabAccess_keeps ..)).nack h).trans hx'
      next h => exact ((AccessKeeps.ite (fabMerge_keeps ..) (fabAccess_keeps ..)).done h).trans hx'
      next h => exact ((AccessKeeps.ite (fabMerge_keeps ..) (fabAccess_keeps ..)).sent h).trans hx'

/-! ### Blocks, manifests and convoys -/

@[simp] theorem kept_answerReqs (p : Nat) (gone : BankReq → Bool) (code : Nat) : kept (answerReqs m p gone code) = kept m :=
  (kept_foldl (f := fun m (r : BankReq) => if r.stream = 0 then m else endWb m p r.stream code) (fun _ _ => kept_ite rfl rfl) _ _).trans (kept_modBlk ..)

@[simp] theorem kept_clearBlk (c p : Nat) : kept (clearBlk m c p) = kept m := (kept_modBlk ..).trans (kept_answerReqs ..)

@[simp] theorem kept_releaseHolder (c p : Nat) : kept (releaseHolder m c p) = kept m := rfl

@[simp] theorem kept_zeroBanks (p mask : Nat) : kept (zeroBanks m p mask) = kept m :=
  kept_foldl (fun _ _ => kept_ite (kept_zeroRange ..) rfl) _ _

@[simp] theorem kept_leaveBlocks (c : Nat) : kept (leaveBlocks m c) = kept m := by
  refine kept_foldl (fun m s => ?_) _ _
  split
  · exact (kept_zeroBanks ..).trans ((kept_releaseHolder ..).trans (kept_clearBlk ..))
  · rfl

@[simp] theorem kept_discardLeft (c k p : Nat) : kept (discardLeft m c k p) = kept m := by
  unfold discardLeft
  split
  · exact kept_ite rfl rfl
  · rfl

@[simp] theorem kept_haltMan (c k code wb : Nat) : kept (haltMan m c k code wb) = kept m := by
  unfold haltMan
  split
  · rfl
  · exact kept_ite rfl ((kept_foldl (fun _ _ => kept_discardLeft ..) _ _).trans (kept_modMan ..))

@[simp] theorem kept_haltWaiters (c : Nat) (rels : List Nat) (code : Nat) : kept (haltWaiters m c rels code) = kept m := by
  refine kept_foldl (fun m k => ?_) _ _
  split
  · exact kept_ite (kept_haltMan ..) rfl
  · rfl

@[simp] theorem kept_freeRecv (slot a n : Nat) : kept (freeRecv m slot a n) = kept m := by
  refine kept_foldl (fun m q => ?_) _ _
  split
  · exact kept_ite ((kept_freeStep _).trans (kept_wrBytes ..)) rfl
  · rfl

@[simp] theorem kept_sendPk (pk : Packet) : kept (sendPk m pk) = kept m := by
  unfold sendPk; dsimp only; split <;> rfl

@[simp] theorem kept_setConvFlag (n i : Nat) : kept (setConvFlag m n i) = kept m := rfl

@[simp] theorem kept_abortConv (n : Nat) (self : Bool) (reason origin op : Nat) (ranks : List Nat) :
    kept (abortConv m n self reason origin op ranks) = kept m := by
  unfold abortConv
  extract_lets s c m1 m2 word m3 m4 m5
  have h1 : kept m1 = kept m := by
    unfold m1
    split
    · split
      · exact kept_freeRecv ..
      · rfl
    · rfl
  have h3 : kept m3 = kept m := (kept_setConvFlag ..).trans ((kept_foldl (fun _ _ => kept_sendPk _) _ _).trans h1)
  have h4 : kept m4 = kept m := by
    refine kept_ite (Eq.trans (kept_modCtx _ fun _ => ?_) h3) h3
    exact ⟨rfl, rfl, rfl⟩
  have h5 : kept m5 = kept m := (kept_reportCtx ..).trans h4
  exact kept_ite h5 ((kept_haltWaiters ..).trans h5)

@[simp] theorem kept_originAbort (n reason : Nat) : kept (originAbort m n reason) = kept m := kept_abortConv ..

/-! ### Channels and ranges -/

@[simp] theorem kept_endStalled (c p w : Nat) : kept (endStalled m c p w) = kept m := by
  unfold endStalled
  extract_lets b m1
  have h1 : kept m1 = kept m := by
    unfold m1
    split
    · refine kept_ite ?_ rfl
      split
      · split
        · exact kept_ite rfl rfl
        · rfl
      · rfl
    · rfl
  split
  · exact kept_ite h1 h1
  · exact h1

@[simp] theorem kept_closeWindow (c array w : Nat) : kept (closeWindow m c array w) = kept m := by
  unfold closeWindow
  split
  · rfl
  · exact kept_endStalled ..

@[simp] theorem kept_closeChannel (n : Nat) (tell : Bool) : kept (closeChannel m n tell) = kept m := by
  unfold closeChannel
  extract_lets ch slot close both m1 m2
  have hclose : ∀ (k : Mach) a b, kept (close k a b) = kept k := fun k a b => (kept_acctAdd ..).trans (kept_sendPk _)
  have hend : ∀ (k : Mach) a w x y, kept (if (tell && !both) = true then close (closeWindow k slot a w) x y else closeWindow k slot a w) = kept k :=
    fun k a w x y => kept_ite ((hclose ..).trans (kept_closeWindow ..)) (kept_closeWindow ..)
  have h1 : kept m1 = kept m := by
    unfold m1
    split
    · exact hend ..
    · rfl
  have h2 : kept m2 = kept m := by
    unfold m2
    split
    · exact (hend ..).trans h1
    · exact h1
  exact kept_ite rfl h2

/-! ### The end of records, entries and sets -/

@[simp] theorem kept_fillRec (c q code flags wb startNs step : Nat) : kept (fillRec m c q code flags wb startNs step) = kept m :=
  kept_modCtx _ fun _ => ⟨rfl, rfl, rfl⟩

@[simp] theorem kept_endRecords (c : Nat) : kept (endRecords m c) = kept m := by
  unfold endRecords
  extract_lets pend runs wbs flagsOf m1 m2 m3
  have h1 : kept m1 = kept m := by
    refine kept_foldl (fun m w => ?_) _ _
    split
    · exact kept_fillRec ..
    · rfl
  have h2 : kept m2 = kept m := by
    refine Eq.trans (kept_foldl (fun m e => ?_) _ _) h1
    exact kept_fillRec ..
  have h3 : kept m3 = kept m := by
    refine Eq.trans (kept_modCtx _ fun _ => ?_) h2
    exact ⟨rfl, rfl, rfl⟩
  exact kept_ite ((kept_signal _).trans h3) h3

@[simp] theorem kept_endOp (tag status result : Nat) : kept (endOp m tag status result) = kept m := rfl

@[simp] theorem kept_leaveCargo (c : Nat) : kept (leaveCargo m c) = kept m := by
  refine kept_foldl (fun m e => ?_) _ _
  extract_lets r m1
  have h1 : kept m1 = kept m := by
    unfold m1
    split
    · exact kept_ite rfl rfl
    · rfl
  exact h1

@[simp] theorem kept_freezeMs (h : Nat) : kept (freezeMs m h) = kept m := rfl
@[simp] theorem kept_endRuns (c : Nat) : kept (endRuns m c) = kept m := rfl

@[simp] theorem kept_modCargo (k : Nat) (f : CargoSet → CargoSet) : kept (modCargo m k f) = kept m := rfl

@[simp] theorem kept_countSets (c : Nat) (up : Bool) : kept (countSets m c up) = kept m := kept_foldl (fun _ _ => kept_modCargo ..) _ _

theorem steady_of_kept {a b : Mach} (h : kept b = kept a) : steady b = steady a := congrArg Prod.fst h
theorem life_of_kept {a b : Mach} (h : kept b = kept a) (c : Nat) : life b c = life a c := congrFun (congrArg Prod.snd h) c

/-! ### A teardown, in its two halves -/

/-- What a teardown takes from the fabric, the tiers, the twins and the assayer (Table 8.3). -/
def takeFabric (m : Mach) (c h : Nat) : Mach :=
  let f := m.fab
  let left := fun (k : Packet) => k.srcSlot != c || (k.cls != 0 && !(k.cls == 2 && (k.opcode == 0x38 || k.opcode == 0x39)))
  { m with
    fab := { f with waymap := f.waymap.filter (fun e => e.2.owner != h), out := f.out.filter (fun o => o.ctx != c),
                    merges := f.merges.filter (fun g => f.out.any (fun o => o.tag == g.tag && o.ctx != c)),
                    txq := f.txq.filter left, again := f.again.filter left },
    tier := { m.tier with wins := m.tier.wins.filter (fun e => match e.2 with | some w => w.ctx != c | none => false),
                          regs := m.tier.regs.filter (fun r => r.ref.ctx != c) },
    twins := m.twins.filter (fun e => match e.2 with | some r => r.ctx != h | none => false),
    ass := { m.ass with stopped := m.ass.stopped.filter (fun q => q.1 != c) } }

/-- What is left of a slot when its teardown has taken its manifests, memory and serving. -/
def takenCtx (x : Ctx) : Ctx :=
  { x with
    mans := [], memory := [], poolNear := [], poolFar := [],
    el := { x.el with park := none, reclaim := none, reshard := none, src := none, restore := none },
    sv := { x.sv with conf := none, switches := [], bindings := [] } }

/-- The work of a slot ends: its records, runs, blocks and entries. -/
def endWork (m : Mach) (c : Nat) : Mach :=
  let h := handleOf m c
  let was := (getCtx m c).st
  let m := modCtx m c (fun x => { x with st := .teardown })
  let m := freezeMs m h
  let m := endRuns (endRecords m c) c
  let m := if was = .active then leaveBlocks m c else m
  endEntries m c

/-- The convoys and channels of a handle are aborted and closed, and its memory enters ZEROING. -/
def endTraffic (m : Mach) (c h : Nat) : Mach :=
  let convs := (m.conv.slots.filter (fun e => e.2.st == 2 && e.2.rc.ctx == h)).map (·.1)
  let m := convs.foldl (fun m n => originAbort m n 7) m
  let chans := (m.conv.chans.filter (fun e => e.2.ctx == h && (e.2.send.isSome || e.2.recv.isSome))).map (·.1)
  let m := chans.foldl (fun m n => closeChannel m n true) m
  startZeroing m (mappedRanges m h ++ (getCtx m c).memory)

/-- The cargo sets let a slot go. -/
def endCargo (m : Mach) (c : Nat) (was : CtxSt) : Mach := leaveCargo (if was = .active then countSets m c false else m) c

theorem startTeardown_eq {m : Mach} {c : Nat} (h : (getCtx m c).st = .active ∨ (getCtx m c).st = .parked) (trigger : Nat) :
    startTeardown m c trigger =
      reportCtx (endOps (modCtx (endCargo (takeFabric (endTraffic (endWork m c) c (handleOf m c)) c (handleOf m c)) c
        (getCtx m c).st) c takenCtx) c ctxOps 0x50) 0x200D (unitCtx c (handleOf m c)) c 0 (leBytes 2 trigger) := by
  have hlive : ¬ ((getCtx m c).st != .active && (getCtx m c).st != .parked) = true := by
    rcases h with h | h <;> rw [h] <;> decide
  unfold startTeardown
  extract_lets x h was m1 m2 m3 m4 m5 convs m6 chans m7 m8 f left tier ass m9 m10 m11 m12
  rw [if_neg hlive]
  have e5 : endWork m c = m5 := rfl
  have e8 : endTraffic m5 c h = m8 := rfl
  have e9 : takeFabric m8 c h = m9 := rfl
  have e10 : endCargo m9 c was = m10 := rfl
  rw [e5, e8, e9, e10]
  rfl

theorem startTeardown_of_not_live {m : Mach} {c : Nat} (h1 : (getCtx m c).st ≠ .active) (h2 : (getCtx m c).st ≠ .parked) (trigger : Nat) :
    startTeardown m c trigger = m := by
  unfold startTeardown
  exact if_pos (by simp [h1, h2])

@[simp] theorem kept_takeFabric (c h : Nat) : kept (takeFabric m c h) = kept m := rfl

@[simp] theorem kept_endTraffic (c h : Nat) : kept (endTraffic m c h) = kept m :=
  (kept_foldl (fun _ _ => kept_closeChannel ..) _ _).trans (kept_foldl (fun _ _ => kept_originAbort ..) _ _)

theorem steady_takeFabric (c h : Nat) : steady (takeFabric m c h) = steady m := rfl
theorem steady_modCtx (c : Nat) (f : Ctx → Ctx) : steady (modCtx m c f) = steady m := rfl
theorem steady_endOps (c : Nat) (codes : List Nat) (status : Nat) : steady (endOps m c codes status) = steady m := rfl

@[simp] theorem kept_endCargo (c : Nat) (was : CtxSt) : kept (endCargo m c was) = kept m :=
  (kept_leaveCargo c).trans (kept_ite (kept_countSets ..) rfl)

theorem kept_writeOut (c : Nat) (e : SeqEnt) (st code : Nat) : kept (writeOut m c e st code) = kept m := by
  have h := kept_fabWrite (m := m) (unitRef c) (.sequence c) e.outAddr
    (outHeader e.tally st code e.flags e.generated e.tag (stampNow m (some c) (stepOf m c) 2 (getCtx m c).layout)) []
  unfold writeOut
  dsimp only
  split
  next heq => rw [heq] at h; exact h
  next heq => rw [heq] at h; exact h

/-- Ending the entries of a slot empties its table of them and keeps the rest of `kept`. -/
theorem life_endEntries (c d : Nat) :
    life (endEntries m c) d = if c = d then ((life m d).1, (life m d).2.1, { (life m d).2.2 with entries := [] }) else life m d := by
  have hk : kept ((getCtx m c).sv.entries.foldl (fun m e => if e.2.st = .free then m else writeOut m c e.2 3 cTeardown) m) = kept m :=
    kept_foldl (fun _ _ => kept_ite rfl (kept_writeOut ..)) _ _
  rw [← life_of_kept hk d]
  simp only [endEntries, life, getCtx_modCtx]
  split
  next h => subst h; rfl
  · rfl

theorem steady_endEntries (c : Nat) : steady (endEntries m c) = steady m :=
  Eq.trans (b := steady ((getCtx m c).sv.entries.foldl (fun m e => if e.2.st = .free then m else writeOut m c e.2 3 cTeardown) m)) rfl
    (steady_of_kept (kept_foldl (fun _ _ => kept_ite rfl (kept_writeOut ..)) _ _))

/-- What ends before the entries do keeps `kept` of the slot in TEARDOWN. -/
theorem kept_endBlocks (was : CtxSt) (h c : Nat) :
    kept (if was = .active then leaveBlocks (endRuns (endRecords (freezeMs m h) c) c) c else endRuns (endRecords (freezeMs m h) c) c) = kept m := by
  have hr : kept (endRuns (endRecords (freezeMs m h) c) c) = kept m := (kept_endRuns c).trans ((kept_endRecords c).trans (kept_freezeMs h))
  exact kept_ite ((kept_leaveBlocks c).trans hr) hr

/-- The work that ends leaves the slot in TEARDOWN without entries, and other slots as they were. -/
theorem life_endWork (c d : Nat) :
    life (endWork m c) d = if c = d then (.teardown, (getCtx m d).gen, { (getCtx m d).sv with entries := [] }) else life m d := by
  have hk := life_of_kept (kept_endBlocks (m := modCtx m c (fun x => { x with st := .teardown })) (getCtx m c).st (handleOf m c) c) d
  refine (life_endEntries c d).trans ?_
  rw [hk]
  simp only [life, getCtx_modCtx]
  split
  next h => subst h; rfl
  · rfl

theorem steady_endWork (c : Nat) : steady (endWork m c) = steady m :=
  (steady_endEntries c).trans ((steady_of_kept (kept_endBlocks (m := modCtx m c (fun x => { x with st := .teardown })) (getCtx m c).st (handleOf m c) c)).trans rfl)

/-- A teardown changes nothing of the machine's power, security, time, resets and regions. -/
theorem steady_startTeardown (c trigger : Nat) : steady (startTeardown m c trigger) = steady m := by
  by_cases h : (getCtx m c).st = .active ∨ (getCtx m c).st = .parked
  · rw [startTeardown_eq h]
    refine (steady_of_kept (kept_reportCtx ..)).trans ?_
    refine (steady_endOps ..).trans ((steady_modCtx ..).trans ((steady_of_kept (kept_endCargo ..)).trans ?_))
    exact (steady_takeFabric ..).trans ((steady_of_kept (kept_endTraffic ..)).trans (steady_endWork c))
  · rw [startTeardown_of_not_live (fun h1 => h (.inl h1)) (fun h2 => h (.inr h2))]

theorem steady_teardownAll (trigger : Nat) : steady (teardownAll m trigger) = steady m := steady_foldl (fun _ _ => steady_startTeardown ..) _ _

/-! ### What a teardown takes -/

theorem reportCtx_frame (code unit c subject : Nat) (d : List Byte) :
    reportCtx m code unit c subject d = { m with mgmt := (reportCtx m code unit c subject d).mgmt } := report_frame ..

/-- The fabric and the tiers. -/
theorem endCargo_fab_tier (c : Nat) (was : CtxSt) : (endCargo m c was).fab = m.fab ∧ (endCargo m c was).tier = m.tier := by
  have hcount : (if was = .active then countSets m c false else m).fab = m.fab ∧ (if was = .active then countSets m c false else m).tier = m.tier := by
    split
    · exact foldl_keeps (P := fun k => k.fab = m.fab ∧ k.tier = m.tier) (f := fun m n => modCargo m n _) (fun _ _ h => h) _ ⟨rfl, rfl⟩
    · exact ⟨rfl, rfl⟩
  refine foldl_keeps (P := fun k => k.fab = m.fab ∧ k.tier = m.tier) (fun k e h => ?_) _ hcount
  extract_lets r k1
  have h1 : k1.fab = k.fab ∧ k1.tier = k.tier := by
    unfold k1
    split
    · split <;> exact ⟨rfl, rfl⟩
    · exact ⟨rfl, rfl⟩
  exact ⟨h1.1.trans h.1, h1.2.trans h.2⟩

/-- A cargo set without the slot `c`. -/
def Unbound (c : Nat) (g : CargoSet) : Prop := has g.bound c = false

theorem has_filter_ne (l : List Nat) (c : Nat) : has (l.filter (· != c)) c = false := by
  simp [has]

/-- One set without the slot, and the ranges that enter ZEROING (R367). -/
def leaveSet (c : Nat) (s : CargoSet) : CargoSet × List (Nat × Nat) :=
  let bound := s.bound.filter (· != c)
  if s.keeper != c && !has s.bound c then (s, []) else
    match bound with
    | [] => if s.keeper = c || has s.bound c then (cargoReset, s.pages.map (fun a => (a, 2048))) else (s, [])
    | d :: ds => ({ s with bound := bound, keeper := if s.keeper = c then ds.foldl min d else s.keeper }, ([] : List (Nat × Nat)))

theorem unbound_leaveSet (c : Nat) (s : CargoSet) : Unbound c (leaveSet c s).1 := by
  unfold leaveSet
  dsimp only
  split
  next h => exact (Bool.not_eq_true' _).mp (Bool.and_eq_true_iff.mp h).2
  next h =>
    split
    · split
      · rfl
      next h2 =>
        simp only [Bool.or_eq_true, decide_eq_true_eq, not_or, Bool.not_eq_true] at h2
        exact h2.2
    next d ds heq => exact heq ▸ has_filter_ne s.bound c

/-- The step of `leaveCargo` over one entry of the table. -/
def leaveEntry (c : Nat) (m : Mach) (e : Nat × CargoSet) : Mach :=
  let m := match e.2.tag with
    | some t => if (leaveSet c e.2).1 = cargoReset then endOp m t 0x50 0 else m
    | none => m
  startZeroing { m with cargo := tset cargoReset m.cargo e.1 (leaveSet c e.2).1 } (leaveSet c e.2).2

theorem leaveCargo_eq (m : Mach) (c : Nat) : leaveCargo m c = m.cargo.foldl (leaveEntry c) m := rfl

theorem getCargo_leaveEntry (c : Nat) (e : Nat × CargoSet) (k : Nat) :
    getCargo (leaveEntry c m e) k = if e.1 = k then (leaveSet c e.2).1 else getCargo m k := by
  have hsame : ∀ a : Mach, a.cargo = m.cargo →
      getCargo (startZeroing { a with cargo := tset cargoReset a.cargo e.1 (leaveSet c e.2).1 } (leaveSet c e.2).2) k =
        if e.1 = k then (leaveSet c e.2).1 else getCargo m k := fun a ha => by
    simp only [getCargo, startZeroing, tget_tset, ha]
  unfold leaveEntry
  refine hsame _ ?_
  split
  · split <;> rfl
  · rfl

/-- Over a list that names every set still bound, no set stays bound. -/
theorem unbound_foldl_leaveEntry (c : Nat) (l : List (Nat × CargoSet)) {m : Mach} (h : ∀ k, k ∉ l.map (·.1) → Unbound c (getCargo m k)) (k : Nat) :
    Unbound c (getCargo (l.foldl (leaveEntry c) m) k) := by
  induction l generalizing m with
  | nil => exact h k List.not_mem_nil
  | cons e l ih =>
    refine ih fun j hj => ?_
    rw [getCargo_leaveEntry]
    split
    · exact unbound_leaveSet c e.2
    next hne =>
      refine h j fun hmem => ?_
      rcases List.mem_cons.mp hmem with rfl | hmem
      · exact hne rfl
      · exact hj hmem

theorem tget_of_not_mem {α : Type} (d : α) (t : Tbl α) (k : Nat) (h : k ∉ t.map (·.1)) : tget d t k = d := by
  induction t with
  | nil => rfl
  | cons e t ih =>
    simp only [List.map_cons, List.mem_cons, not_or] at h
    exact (if_neg fun he => h.1 he.symm).trans (ih h.2)

/-- A set the slot leaves is no longer bound to it. -/
theorem unbound_leaveCargo (c k : Nat) : Unbound c (getCargo (leaveCargo m c) k) := by
  rw [leaveCargo_eq]
  refine unbound_foldl_leaveEntry c m.cargo (fun j hj => ?_) k
  rw [getCargo, tget_of_not_mem cargoReset m.cargo j hj]
  rfl

theorem getMs_freezeMs {h : Nat} (hh : h ≠ 0) (n : Nat) :
    getMs (freezeMs m h) n = if (getMs m n).owner = h then { getMs m n with frozen := true } else getMs m n := by
  have hmap : (freezeMs m h).ms = m.ms.map fun e => (e.1, if e.2.owner = h then { e.2 with frozen := true } else e.2) := by
    refine List.map_congr_left fun e _ => ?_
    split
    · rfl
    · rfl
  rw [getMs, hmap]
  exact tget_map noMs m.ms (fun x => if x.owner = h then { x with frozen := true } else x) (if_neg fun he => hh he.symm) n

/-- Settles O59: what the teardown's second half takes, with `startTeardown_eq`; a slot that is not in use is left alone. -/
theorem teardown : Obligations.Teardown := by
  refine ⟨?_, fun m c trigger h1 h2 => startTeardown_of_not_live h1 h2 trigger, ?_⟩
  · intro m c trigger x hlive hx
    rw [startTeardown_eq hlive, reportCtx_frame] at hx
    obtain ⟨k, hk⟩ : ∃ k, k = endCargo (takeFabric (endTraffic (endWork m c) c (handleOf m c)) c (handleOf m c)) c (getCtx m c).st := ⟨_, rfl⟩
    rw [← hk] at hx
    have hctx : getCtx x c = takenCtx (getCtx k c) := by rw [hx]; exact (getCtx_modCtx _ c takenCtx c).trans (if_pos rfl)
    have hlife : life k c = (.teardown, (getCtx m c).gen, { (getCtx m c).sv with entries := [] }) := by
      rw [hk]
      exact (life_of_kept ((kept_endCargo ..).trans ((kept_takeFabric ..).trans (kept_endTraffic ..))) c).trans ((life_endWork c c).trans (if_pos rfl))
    obtain ⟨hst, hgen, hsv⟩ : (getCtx k c).st = .teardown ∧ (getCtx k c).gen = (getCtx m c).gen ∧ (getCtx k c).sv = { (getCtx m c).sv with entries := [] } := by
      simpa [life] using hlife
    obtain ⟨hfab, htier⟩ := endCargo_fab_tier (m := takeFabric (endTraffic (endWork m c) c (handleOf m c)) c (handleOf m c)) c (getCtx m c).st
    rw [← hk] at hfab htier
    have hxfab : x.fab = k.fab := by rw [hx]; rfl
    have hxtier : x.tier = k.tier := by rw [hx]; rfl
    have hxcargo : x.cargo = k.cargo := by rw [hx]; rfl
    rw [hctx, hxfab, hxtier, hfab, htier]
    refine ⟨hst, hgen, rfl, rfl, rfl, congrArg ServSt.entries hsv, rfl, rfl, ?_, ?_, ?_, ?_⟩
    · intro e he
      exact bne_iff_ne.mp (List.mem_filter.mp he).2
    · intro o ho
      exact bne_iff_ne.mp (List.mem_filter.mp ho).2
    · intro e he w hw
      have hkeep := (List.mem_filter.mp he).2
      rw [hw] at hkeep
      exact bne_iff_ne.mp hkeep
    · intro j
      have hub := unbound_leaveCargo (m := if (getCtx m c).st = .active then countSets (takeFabric (endTraffic (endWork m c) c (handleOf m c)) c (handleOf m c)) c false
        else takeFabric (endTraffic (endWork m c) c (handleOf m c)) c (handleOf m c)) c j
      simp only [getCargo, hxcargo, hk]
      exact hub
  · exact fun m h n hh => getMs_freezeMs hh n

end Sys2Proof.Proofs
end
-- ==== Sys2Proof/Proofs/DebugLong.lean ====
section
/-! PROOF. Debug sessions (R452, R456) and the ends of long commands (R423, R446, R461). -/

namespace Sys2Proof.Proofs
open Sys2Proof Sys2Proof.Machine

variable {m : Mach}

/-! ### What waits for the caravaneer leaves the machine's core alone -/

/-- What neither a teardown nor the substitution of a spare changes, even where it takes the module out of service. -/
def core (m : Mach) : SecS × PwrS × TimeS × FuseS × List LogRec × List RstJob × Bool × Option Nat × Bool :=
  (m.sec, m.pwr, m.time, m.fuse, m.mgmt.flashLog, m.rst.jobs, m.rst.restarting, m.rst.restartAt, m.rst.inReset)

theorem core_of_steady {a b : Mach} (h : steady b = steady a) : core b = core a :=
  congrArg (fun q : SecS × RstS × PwrS × TimeS × FuseS × HealthS × PcieS × Tbl Rgn × List LogRec =>
    (q.1, q.2.2.1, q.2.2.2.1, q.2.2.2.2.1, q.2.2.2.2.2.2.2.2, q.2.1.jobs, q.2.1.restarting, q.2.1.restartAt, q.2.1.inReset)) h

theorem core_of_kept {a b : Mach} (h : kept b = kept a) : core b = core a := core_of_steady (steady_of_kept h)

theorem core_startTeardown (c trigger : Nat) : core (startTeardown m c trigger) = core m := core_of_steady (steady_startTeardown c trigger)

theorem core_askTeardownAll (trigger : Nat) : core (askTeardownAll m trigger) = core m := by
  refine foldl_keeps (P := fun k => core k = core m) (fun k c h => Eq.trans ?_ h) _ rfl
  unfold askTeardown
  split
  · unfold waitForMp
    split <;> rfl
  · exact core_startTeardown ..

theorem core_report (code cls unit : Nat) (ctx : Option Nat) (contexts subject : Nat) (d : List Byte) :
    core (report m code cls unit ctx contexts subject d) = core m := core_of_kept (kept_report ..)

theorem core_flashWrite (kind : Nat) : core (flashWrite m kind) = core m := by
  unfold flashWrite
  dsimp only
  split <;> rfl

theorem core_gateRegions : core (holdLinks (gateRegions m)) = core m := rfl
theorem core_faultLow (low : Bool) : core { m with pcie := { m.pcie with faultLow := low } } = core m := rfl

theorem core_goOut (reason : Nat) : core (goOut m reason) = core m := by
  unfold goOut
  split
  · rfl
  · exact (core_report ..).trans ((core_flashWrite ..).trans ((core_faultLow ..).trans ((core_gateRegions ..).trans (core_askTeardownAll ..))))

theorem core_compareFloor (loss : Bool) : core (compareFloor m loss) = core m := by
  unfold compareFloor
  dsimp only
  split
  · exact core_goOut 2
  · split
    · exact core_report ..
    · rfl

theorem core_spareIn (q r : Nat) (x : Rgn) : core (zeroBlkHeld q (modBlk (setRgn m r x) q freshBlk)) = core m := rfl

theorem core_substitute (p : Nat) : core (substitute m p).1 = core m := by
  unfold substitute
  extract_lets m1
  have h1 : core m1 = core m := core_of_kept (kept_answerReqs ..)
  have hz : ∀ q, core (zeroRange m1 (spAddr q 0) 0x100000) = core m := fun q => (core_of_kept (kept_zeroRange ..)).trans h1
  clear_value m1
  split
  · exact h1
  · extract_lets r
    split
    · exact (core_spareIn ..).trans (hz _)
    · exact h1

theorem core_reports {β : Type} (f : Mach → β → Mach) (hf : ∀ m x, core (f m x) = core m) (l : List β) : core (l.foldl f m) = core m :=
  foldl_keeps (P := fun k => core k = core m) (fun _ x h => (hf _ x).trans h) l rfl

theorem core_substituteFor (p : Nat) (cs : List Nat) : core (substituteFor m p cs) = core m := by
  have hr : ∀ k code unit c subject d, core (reportCtx k code unit c subject d) = core k := fun _ _ _ _ _ _ => core_report ..
  unfold substituteFor
  dsimp only
  split
  · exact (core_reports _ (fun _ _ => hr ..) cs).trans (core_substitute p)
  · exact (core_compareFloor true).trans ((core_reports _ (fun _ _ => hr ..) cs).trans (core_substitute p))
  · exact core_substitute p

theorem core_mpTask (t : MpTask) : core (mpTask m t) = core m := by
  cases t with
  | substitute p cs => exact core_substituteFor p cs
  | teardown c trigger => exact core_startTeardown c trigger

theorem core_resumeMp : core (resumeMp m) = core m := by
  unfold resumeMp
  split
  · rfl
  · exact core_reports _ (fun _ _ => core_mpTask _) _

theorem resumeMp_of_empty (h : m.rst.waiting = []) : resumeMp m = m := by
  have hsame : ({ m with rst := { m.rst with waiting := [] } } : Mach) = m := by rw [← h]
  unfold resumeMp
  rw [h, hsame]
  exact ite_self m

theorem tget_mem {α : Type} (d : α) (t : Tbl α) (k : Nat) : tget d t k = d ∨ ∃ e ∈ t, e.2 = tget d t k := by
  induction t with
  | nil => exact .inl rfl
  | cons e t ih =>
    simp only [tget]
    split
    · exact .inr ⟨e, List.mem_cons_self, rfl⟩
    · exact ih.imp id fun ⟨x, hx, hv⟩ => ⟨x, List.mem_cons_of_mem e hx, hv⟩

/-- The machine without its debug session, every block going on. -/
def sessionless (m : Mach) : Mach :=
  let blks := (m.blocks.map (fun e => (e.1, { e.2 with halted := false }))).filter (fun e => e.2 != blkReset)
  { m with sec := { m.sec with session := none, mpHalted := false }, blocks := blks }

theorem endSession_eq (hs : m.sec.session ≠ none) : endSession m = resumeMp (sessionless m) :=
  if_neg fun h => hs (Option.isNone_iff_eq_none.mp h)

theorem not_halted_sessionless (p : Nat) : (getBlk (sessionless m) p).halted = false := by
  rcases tget_mem blkReset (sessionless m).blocks p with h | ⟨e, he, hv⟩
  · exact congrArg Blk.halted h
  · obtain ⟨x, -, rfl⟩ := List.mem_map.mp (List.mem_filter.mp he).1
    exact (congrArg Blk.halted hv).symm

/-- A session that ends while nothing waits for the caravaneer lets every block go on. -/
theorem endSession_of_idle (hs : m.sec.session ≠ none) (hw : m.rst.waiting = []) :
    (endSession m).sec = { m.sec with session := none, mpHalted := false } ∧ ∀ p, (getBlk (endSession m) p).halted = false := by
  rw [endSession_eq hs, resumeMp_of_empty (m := sessionless m) hw]
  exact ⟨rfl, not_halted_sessionless⟩

theorem endSession_session : (endSession m).sec.session = none := by
  by_cases hs : m.sec.session = none
  · rw [endSession, if_pos (Option.isNone_iff_eq_none.mpr hs), hs]
  · rw [endSession_eq hs]
    exact congrArg (fun q => q.1.session) (core_resumeMp (m := sessionless m))

theorem debugExpiry_of_due {q : Session} {n : Nat} (hs : m.sec.session = some q) (hq : q.ends = some n) (hn : n ≤ m.time.round.toNat) :
    debugExpiry m = endSession m := by
  simp only [debugExpiry, hs, Option.bind_some, hq, if_pos hn]

theorem debugExpiry_of_running (h : ∀ q, m.sec.session = some q → ∀ n, q.ends = some n → m.time.round.toNat < n) : debugExpiry m = m := by
  unfold debugExpiry
  split
  next n hb =>
    obtain ⟨q, hq, hn⟩ := Option.bind_eq_some_iff.mp hb
    exact if_neg (Nat.not_le.mpr (h q hq n hn))
  · rfl

/-- Settles O7: each command past its checks; no task that waits for the caravaneer touches the session. -/
theorem debugCommands : Obligations.DebugCommands := by
  refine ⟨?_, ?_, ?_, ?_, ?_⟩
  · intro s r sig h hst htok
    refine ⟨_, rfl, ?_⟩
    obtain ⟨hresv, hrange⟩ := checkToken_ok htok
    exact knaobNv_next h (ok_then hresv (ok_then hrange (must_then (decide_eq_true hst) ((checked_ok htok).trans rfl))))
  · exact fun s r h => ⟨knaob_next h rfl, endSession_session⟩
  · intro s q n hs hq hn
    change Host.Outcome.next { s with m := debugExpiry s.m } = _
    rw [debugExpiry_of_due hs hq hn]
  · intro s h
    change Host.Outcome.next { s with m := debugExpiry s.m } = _
    rw [debugExpiry_of_running h]
  · exact fun s hs hw => endSession_of_idle hs hw

/-! ### OP_DONE -/

variable {nv : NonVol} {tag : Nat} {o : LongOp}

theorem opDoneRow_absent (h : m.mgmt.ops.find? (fun o => o.tag == tag) = none) : opDoneRow tag nv m = (nv, m) := by
  simp only [opDoneRow, h]

theorem opDoneRow_zeroise (h : m.mgmt.ops.find? (fun o => o.tag == tag) = some o) (hq : o.outcome = none) (hop : o.opcode = 0x0606) (hdown : allDown m = true) :
    opDoneRow tag nv m = ((zeroiseDone nv { m with sec := { m.sec with zeroise := none } } o.subject).1,
      opDone tag (endOp (zeroiseDone nv { m with sec := { m.sec with zeroise := none } } o.subject).2 tag 0 0)) := by
  simp only [opDoneRow, h, hq, hop, hdown]
  rfl

/-- The move out of PRODUCTION to RMA, its checks past. -/
theorem opDoneRow_return (h : m.mgmt.ops.find? (fun o => o.tag == tag) = some o) (hq : o.outcome = none) (hop : o.opcode = 0x0607) (hdown : allDown m = true)
    (hlife : nv.lifecycle = 1) (hsub : o.subject = 2) :
    opDoneRow tag nv m = ((moveDone nv m o.subject).1, startReset (opDone tag (endOp (moveDone nv m o.subject).2 tag 0 0)) 5 (unitChip 0) 0 true false none) := by
  have hmove : lifecycleMove nv o.subject = .ok () := hsub ▸ lifecycleMove_one_two hlife
  simp only [opDoneRow, h, hq, hop, hdown, hlife, hmove]
  rfl

theorem opDone_host (h : m.mgmt.ops.find? (fun o => o.tag == tag) = some o) {q : Nat × Nat} (hq : o.outcome = some q) (hp : o.port = .host)
    (hroom : ringRoom m.mgmt.hostRing = true) :
    opDone tag m = hostEvent { m with mgmt := { m.mgmt with ops := m.mgmt.ops.filter (fun o => o.tag != tag) } } clsInfo
      { seq := 0, code := 1, contexts := (opCtx o).foldl (fun _ c => 2 ^ c) 0, subject := 0, unit := o.tag,
        detail := leBytes 2 o.opcode ++ leBytes 1 q.1 ++ leBytes 1 0 ++ leBytes 8 q.2 ++ leBytes 4 0, stamp := stampNow m (opCtx o).head? none 0 0 } := by
  have hran : (if (decide (o.opcode = 0x0804) && o.outcome.isNone && !o.waits.any (fun t => m.fab.out.any (fun q => q.tag == t))) = true then some (0, 0)
      else o.outcome) = some q := by
    rw [hq]
    exact if_neg (by simp)
  simp only [opDone, h, hran, hp, hroom, if_true, Bool.not_true, Bool.false_eq_true, if_false]

/-- Settles O8: the branches of `opDoneRow`, the table of ends. -/
theorem longCommandEnds : Obligations.LongCommandEnds := by
  refine ⟨?_, ?_, ?_, ?_⟩
  · intro s tag o q hfind hout hport hroom
    change runD (opDoneRow tag) s = _
    rw [runD_of (opDoneRow_of_outcome hfind (hout ▸ rfl)), opDone_host hfind hout hport hroom]
  · intro s tag o hfind hout hop hdown
    refine ⟨_, rfl, ?_⟩
    change runD (opDoneRow tag) s = _
    rw [runD_of (opDoneRow_zeroise hfind hout hop hdown)]
  · intro s tag o hfind hout hop hdown hlife hsub
    change ∃ t, runD (opDoneRow tag) s = _ ∧ _
    refine ⟨_, runD_of (opDoneRow_return hfind hout hop hdown hlife hsub), rfl, ?_⟩
    simp [moveDone, zeroiseDone, dropOwner, hlife, hsub]
  · intro s tag hfind
    change runD (opDoneRow tag) s = _
    rw [runD_of (opDoneRow_absent hfind)]

end Sys2Proof.Proofs
end
-- ==== Sys2Proof/Proofs/Rounds.lean ====
section
/-! PROOF. Management rounds (R32, R38, R391, R454) and what the vector bodies write (R130 to R133). -/

namespace Sys2Proof.Proofs
open Sys2Proof Sys2Proof.Machine

variable {m : Mach} {nv : NonVol} {s : State}

/-! ### Management rounds -/

theorem not_mpStopped (hr : m.rst.restarting = false) (hh : m.sec.mpHalted = false) : mpStopped m = false := by
  rw [mpStopped, hr, hh, Bool.or_false]

theorem mpStopped_of (h : m.rst.restarting = true ∨ m.sec.mpHalted = true) : mpStopped m = true := by
  rcases h with h | h <;> simp [mpStopped, h]

/-- A round while the management island stands only counts itself. -/
theorem managementRound_of_stopped (hruns : chipRuns m = true) (hstop : mpStopped m = true) (f : RoundFacts) :
    managementRound f nv m = (nv, { m with time := { m.time with round := satAdd m.time.round 1 } }) := by
  unfold managementRound
  rw [if_neg (by simp [hruns])]
  exact if_pos hstop

theorem managementRound_of_running (hruns : chipRuns m = true) (hgo : mpStopped m = false) (f : RoundFacts) :
    managementRound f nv m = (takePolicy nv, capture (scoreRound (energyRound (f.margins.foldl (fun m q => noteMargin m q.1 q.2.1 q.2.2)
      (takeTemps (upkeep { m with time := { m.time with round := satAdd m.time.round 1 } }) f)) f))) := by
  unfold managementRound
  rw [if_neg (by simp [hruns])]
  exact if_neg (Bool.eq_false_iff.mp hgo)

/-- A caravaneer that stands takes no accepted request. -/
theorem serveMailboxes_of_stopped (h : mpStopped m = true) (ps : List Port) (fs : List CmdFacts) : serveMailboxes nv m ps fs = (nv, m) := by
  cases ps with
  | nil => unfold serveMailboxes; rfl
  | cons p ps =>
    unfold serveMailboxes
    rw [if_pos]
    simp [mayTake, h]

theorem fullRound_of_stopped (hruns : chipRuns m = true) (hstop : mpStopped m = true) (f : RoundFacts) :
    fullRound f nv m = (nv, { m with time := { m.time with round := satAdd m.time.round 1 } }) := by
  unfold fullRound
  rw [managementRound_of_stopped hruns hstop]
  exact serveMailboxes_of_stopped (m := { m with time := { m.time with round := satAdd m.time.round 1 } }) hstop ..

/-- Settles O31: a running round without requests is its measurements; a stopped one is its count. -/
theorem managementRounds : Obligations.ManagementRounds := by
  refine ⟨?_, ?_, ?_⟩
  · intro s f m hruns hr hh hacc hm
    change runD (fullRound f) s = _
    rw [runD_of ((fullRound_of_none hacc f s.nv).trans (managementRound_of_running hruns (not_mpStopped hr hh) f)), ← hm]
  · intro s f hruns hstop
    change runD (fullRound f) s = _
    rw [runD_of (fullRound_of_stopped hruns (mpStopped_of hstop) f)]
  · intro s hruns
    change Host.Outcome.next { s with m := healthSave s.m } = _
    rw [healthSave, if_neg (by simp [hruns])]

/-! ### Element-wise results -/

/-- Rounding to nearest gives the same pattern whatever the generator holds. -/
theorem roundF_rne_bits (f : Fmt) (g h : W32) (v : Val) : (roundF f .rne g v).bits = (roundF f .rne h v).bits := by
  unfold roundF
  cases v with
  | nan => rfl
  | inf neg => rfl
  | fin neg m e more =>
    simp only [apply_ite Rounded.bits]

theorem floatToInt_rne (w : Nat) (g h : W32) (v : Val) : (floatToInt w .rne g v).1 = (floatToInt w .rne h v).1 := by
  cases v <;> rfl

theorem storeFloat_rne (fmt : Nat) (g h : W32) (v : Val) : (storeFloat fmt .rne g v).1 = (storeFloat fmt .rne h v).1 := by
  unfold storeFloat
  split
  · exact floatToInt_rne ..
  · exact roundF_rne_bits ..

theorem storeInt_rne (fmt : Nat) (g h : W32) (v : Int) : (storeInt fmt .rne g v).1 = (storeInt fmt .rne h v).1 := by
  unfold storeInt
  split
  · rfl
  · exact roundF_rne_bits ..

variable {a : VArgs}

theorem elemWise_rne (h : opMode a.op = .rne) (fmt e : Nat) (g g' : W32) : (elemWise a fmt e g).1 = (elemWise a fmt e g').1 := by
  unfold elemWise
  rw [h]
  dsimp only
  split
  · exact storeInt_rne ..
  · exact storeFloat_rne ..

theorem mapDraw_succ (h : opMode a.op ≠ .stochastic) (wide : Bool) (n : Nat) (f : Nat → W32 → Nat × W32 × Bool) :
    (mapDraw a wide (n + 1) f).1 = (mapDraw a wide n f).1 ++ [(f n (laneGen a.m a.p (mapDraw a wide n f).2.2 (vecLane wide n))).1] ∧
      (mapDraw a wide (n + 1) f).2.2 = (mapDraw a wide n f).2.2 := by
  unfold mapDraw
  rw [List.range_succ, List.foldl_append]
  exact ⟨rfl, if_neg h⟩

/-- With round to nearest no generator moves, and each element is `f`'s. -/
theorem mapDraw_rne (h : opMode a.op = .rne) (wide : Bool) (n : Nat) (f : Nat → W32 → Nat × W32 × Bool)
    (hf : ∀ e g g', (f e g).1 = (f e g').1) :
    (mapDraw a wide n f).1 = (List.range n).map (fun e => (f e 0).1) ∧ (mapDraw a wide n f).2.2 = a.w := by
  have hmode : opMode a.op ≠ .stochastic := by rw [h]; decide
  induction n with
  | zero => exact ⟨rfl, rfl⟩
  | succ n ih =>
    obtain ⟨h1, h2⟩ := ih
    obtain ⟨hs1, hs2⟩ := mapDraw_succ hmode wide n f
    rw [hs1, hs2, List.range_succ, List.map_append, h1]
    exact ⟨by rw [hf n _ 0]; rfl, h2⟩

theorem cutCode_of {e code n : Nat} (h : a.cut = some (e, code)) (he : e < n) : cutCode a n = code := by
  simp only [cutCode, h, if_pos he]

theorem upTo_of {e code n : Nat} (h : a.cut = some (e, code)) (he : e < n) : upTo a n = e := by
  simp only [upTo, h]
  exact Nat.min_eq_right he.le

/-- Settles O36: round to nearest draws nothing, so each element is its operands' result. -/
theorem vectorResults : Obligations.VectorResults := by
  refine ⟨?_, ?_, ?_⟩
  · intro a hmode
    obtain ⟨h1, h2⟩ := mapDraw_rne hmode (vWork a == 1) (upTo a (outS a 0).n) (elemWise a (outS a 0).fmt) fun e g g' => elemWise_rne hmode _ e g g'
    exact ⟨congrArg (putElems a.m a.p (outS a 0)) h1, h2⟩
  · exact fun a => rfl
  · exact fun a e code hcut he => ⟨cutCode_of hcut he, cutCode_of hcut he, upTo_of hcut he⟩

end Sys2Proof.Proofs
end
-- ==== Sys2Proof/Proofs/Arithmetic.lean ====
section
/-! PROOF. Rounding, saturation and exactness (R64, R65, R70, R71). -/

namespace Sys2Proof.Proofs
open Sys2Proof Sys2Proof.Machine

/-! ### Rounding a value that is exact in its format -/

variable {f : Fmt}

/-- A magnitude on the format's grid, below its top, rounds to itself in either mode. -/
theorem roundF_exact {m : Nat} {e : Int} (hm : m ≠ 0) (htop : ilog2 m e ≤ fmtEmax f) (hgrid : max (ilog2 m e - (f.fbits : Int)) (fmtEmin f) ≤ e)
    (mode : RMode) (g : W32) (neg : Bool) :
    roundF f mode g (.fin neg m e false) =
      { bits := fmtSign f neg + (m <<< (e - max (ilog2 m e - (f.fbits : Int)) (fmtEmin f)).toNat +
          ((max (ilog2 m e - (f.fbits : Int)) (fmtEmin f) - fmtEmin f).toNat <<< f.fbits)), gen := g, inexact := false } := by
  have hz : ¬ (decide (m = 0) && !false) = true := by simp [hm]
  simp only [roundF, if_neg hz, Bool.false_eq_true, if_false, Nat.shiftLeft_zero, if_neg hm, Int.natCast_zero, Int.sub_zero, if_neg (Int.not_lt.mpr htop),
    if_pos hgrid]
  cases mode <;> rfl

theorem roundF_top {m : Nat} {e : Int} (hm : 0 < m) (htop : fmtEmax f < ilog2 m e) (mode : RMode) (g : W32) (neg : Bool) :
    roundF f mode g (.fin neg m e false) = { bits := fmtSign f neg + fmtInf f, gen := g, inexact := true } := by
  have hm : m ≠ 0 := Nat.pos_iff_ne_zero.mp hm
  have hz : ¬ (decide (m = 0) && !false) = true := by simp [hm]
  simp only [roundF, if_neg hz, Bool.false_eq_true, if_false, Nat.shiftLeft_zero, if_neg hm, Int.natCast_zero, Int.sub_zero, if_pos htop]

/-- The sign, exponent and fraction fields make up a pattern. -/
theorem fields_eq {b : Nat} (hb : b < 2 ^ fmtWidth f) :
    b = fmtSign f (tbit b (f.ebits + f.fbits)) + (fld b 0 f.fbits + fld b f.fbits f.ebits <<< f.fbits) := by
  have hpow : 2 ^ fmtWidth f = 2 ^ f.fbits * 2 ^ f.ebits * 2 := by rw [fmtWidth, Nat.pow_add, Nat.pow_add]; ring
  have hsplit : b = b % 2 ^ f.fbits + (b / 2 ^ f.fbits % 2 ^ f.ebits + b / 2 ^ f.fbits / 2 ^ f.ebits * 2 ^ f.ebits) * 2 ^ f.fbits := by
    rw [Nat.mod_add_div' (b / 2 ^ f.fbits), Nat.mod_add_div']
  have htop : b / 2 ^ f.fbits / 2 ^ f.ebits < 2 := by
    rw [Nat.div_div_eq_div_mul]
    exact Nat.div_lt_of_lt_mul (hpow ▸ hb)
  have hsign : b2n (tbit b (f.ebits + f.fbits)) = b / 2 ^ f.fbits / 2 ^ f.ebits := by
    rw [tbit, Nat.testBit_eq_decide_div_mod_eq, Nat.add_comm f.ebits, Nat.pow_add, ← Nat.div_div_eq_div_mul, Nat.mod_eq_of_lt htop, b2n]
    generalize b / 2 ^ f.fbits / 2 ^ f.ebits = q at htop
    rcases Nat.le_one_iff_eq_zero_or_eq_one.mp (Nat.lt_succ_iff.mp htop) with rfl | rfl <;> rfl
  simp only [fmtSign, hsign, fld, Nat.shiftLeft_eq, Nat.shiftRight_eq_div_pow, Nat.pow_zero, Nat.div_one]
  rw [Nat.pow_add]
  conv_lhs => rw [hsplit]
  ring

theorem bounds_of (hf : f = fp16 ∨ f = fp32 ∨ f = fp64) : 1 ≤ f.ebits ∧ (f.fbits : Int) + fmtEmin f ≤ fmtEmax f := by
  rcases hf with rfl | rfl | rfl <;> decide

theorem ilog2_normal {k fr : Nat} (h : fr < 2 ^ k) (e : Int) : ilog2 (2 ^ k + fr) e = k + e := by
  have hlog : (2 ^ k + fr).log2 = k := (Nat.log2_eq_iff (by have := Nat.two_pow_pos k; omega)).mpr ⟨Nat.le_add_right .., by rw [Nat.pow_succ]; omega⟩
  change ((2 ^ k + fr).log2 : Int) + e = k + e
  rw [hlog]

theorem ilog2_lt {k fr : Nat} (h0 : fr ≠ 0) (h : fr < 2 ^ k) (e : Int) : ilog2 fr e < k + e := by
  have hlog : fr.log2 < k := (Nat.log2_lt h0).mpr h
  change (fr.log2 : Int) + e < k + e
  omega

/-- A subnormal's fraction is its pattern. -/
theorem roundF_subnormal {fr : Nat} (h0 : fr ≠ 0) (h : fr < 2 ^ f.fbits) (hrange : (f.fbits : Int) + fmtEmin f ≤ fmtEmax f) (mode : RMode) (g : W32) (neg : Bool) :
    roundF f mode g (.fin neg fr (fmtEmin f) false) = { bits := fmtSign f neg + fr, gen := g, inexact := false } := by
  have hlog := ilog2_lt h0 h (fmtEmin f)
  have hu : max (ilog2 fr (fmtEmin f) - (f.fbits : Int)) (fmtEmin f) = fmtEmin f := max_eq_right (by omega)
  rw [roundF_exact h0 (by omega) (by rw [hu]), hu]
  simp

/-- A normal's exponent and fraction make up its pattern. -/
theorem roundF_normal {fr ex : Nat} (h : fr < 2 ^ f.fbits) (h0 : ex ≠ 0) (hrange : (f.fbits : Int) + (fmtEmin f + ex - 1) ≤ fmtEmax f) (mode : RMode) (g : W32)
    (neg : Bool) :
    roundF f mode g (.fin neg (2 ^ f.fbits + fr) (fmtEmin f + ex - 1) false) =
      { bits := fmtSign f neg + (fr + ex <<< f.fbits), gen := g, inexact := false } := by
  have hm : 2 ^ f.fbits + fr ≠ 0 := by have := Nat.two_pow_pos f.fbits; omega
  have hlog := ilog2_normal h (fmtEmin f + ex - 1)
  have hu : max (ilog2 (2 ^ f.fbits + fr) (fmtEmin f + ex - 1) - (f.fbits : Int)) (fmtEmin f) = fmtEmin f + ex - 1 := by
    rw [hlog]
    omega
  have hsteps : (fmtEmin f + (ex : Int) - 1 - fmtEmin f).toNat = ex - 1 := by omega
  rw [roundF_exact hm (by rw [hlog]; exact hrange) (by rw [hu]), hu, hsteps]
  obtain ⟨k, rfl⟩ : ∃ k, ex = k + 1 := ⟨ex - 1, by omega⟩
  simp only [Int.sub_self, Int.toNat_zero, Nat.add_sub_cancel, Nat.shiftLeft_eq]
  congr 1
  ring

/-- A pattern of the format rounds back to itself. -/
theorem roundF_decodeF (hf : f = fp16 ∨ f = fp32 ∨ f = fp64) {b : Nat} (hb : b < 2 ^ fmtWidth f) (hnan : decodeF f b ≠ .nan) (mode : RMode) (g : W32) :
    roundF f mode g (decodeF f b) = { bits := b, gen := g, inexact := false } := by
  obtain ⟨hebits, hsub⟩ := bounds_of hf
  have hfields := fields_eq hb
  have hfr : fld b 0 f.fbits < 2 ^ f.fbits := Nat.mod_lt _ (Nat.two_pow_pos _)
  have hex : fld b f.fbits f.ebits < 2 ^ f.ebits := Nat.mod_lt _ (Nat.two_pow_pos _)
  unfold decodeF at hnan ⊢
  dsimp only at hnan ⊢
  generalize tbit b (f.ebits + f.fbits) = neg at *
  generalize fld b 0 f.fbits = fr at *
  generalize fld b f.fbits f.ebits = ex at *
  split at hnan
  next hmax =>
    split at hnan
    next h0 =>
      rw [if_pos hmax, if_pos h0, hfields, h0, hmax]
      simp only [roundF, fmtInf, Nat.zero_add]
    · exact absurd rfl hnan
  next hmax =>
    rw [if_neg hmax]
    split at hnan
    next he =>
      rw [if_pos he, hfields, he, Nat.zero_shiftLeft, Nat.add_zero]
      by_cases h0 : fr = 0
      · rw [h0]
        rfl
      · exact roundF_subnormal h0 hfr hsub mode g neg
    next he =>
      rw [if_neg he, hfields]
      refine roundF_normal hfr he ?_ mode g neg
      have hpow : 2 ^ f.ebits = 2 * 2 ^ (f.ebits - 1) := by rw [← Nat.pow_succ', Nat.succ_eq_add_one, Nat.sub_add_cancel hebits]
      simp only [fmtEmin, fmtEmax]
      generalize 2 ^ (f.ebits - 1) = k at *
      omega


/-! ### Generators and not-a-number -/

/-- The generator after a rounding: untouched to nearest, drawn at most once otherwise. -/
theorem roundF_gen (f : Fmt) (g : W32) (v : Val) :
    (roundF f .rne g v).gen = g ∧ ((roundF f .stochastic g v).gen = g ∨ (roundF f .stochastic g v).gen = drawNext g) := by
  cases v with
  | nan => exact ⟨rfl, .inl rfl⟩
  | inf neg => exact ⟨rfl, .inl rfl⟩
  | fin neg m e more =>
    simp only [roundF]
    split
    · exact ⟨rfl, .inl rfl⟩
    generalize (if more = true then 16 + f.fbits else 0) = up
    generalize (if m <<< up = 0 then fmtEmin f - 64 else ilog2 (m <<< up) (e - (up : Int))) = top
    split
    · exact ⟨rfl, .inl rfl⟩
    split
    · refine ⟨rfl, ?_⟩
      dsimp only
      split
      · exact .inr rfl
      · exact .inl rfl
    · refine ⟨rfl, ?_⟩
      split
      · exact .inl rfl
      · exact .inr rfl

/-! ### Integers -/

theorem signed_unsign {w : Nat} (hw : 0 < w) {a : Int} (hlo : -2 ^ (w - 1) ≤ a) (hhi : a < 2 ^ (w - 1)) : signed (unsign a w) w = a := by
  obtain ⟨k, rfl⟩ : ∃ k, w = k + 1 := ⟨w - 1, by omega⟩
  have hpow : (2 : Int) ^ (k + 1) = 2 * 2 ^ k := pow_succ' 2 k
  have hcast : ((2 ^ (k + 1) : Nat) : Int) = 2 ^ (k + 1) := by push_cast; rfl
  have hcastk : ((2 ^ k : Nat) : Int) = 2 ^ k := by push_cast; rfl
  have hnn : 0 ≤ a % 2 ^ (k + 1) := Int.emod_nonneg _ (by positivity)
  have hlt : a % 2 ^ (k + 1) < 2 ^ (k + 1) := Int.emod_lt_of_pos _ (by positivity)
  simp only [signed, unsign, Nat.add_sub_cancel] at *
  have hmod : (a % 2 ^ (k + 1)).toNat % 2 ^ (k + 1) = (a % 2 ^ (k + 1)).toNat := Nat.mod_eq_of_lt (by omega)
  rw [hmod]
  by_cases hneg : a < 0
  · have hval : a % 2 ^ (k + 1) = a + 2 ^ (k + 1) := by
      rw [← Int.add_emod_right, Int.emod_eq_of_lt (by omega) (by omega)]
    rw [if_neg (by omega)]
    omega
  · have hval : a % 2 ^ (k + 1) = a := Int.emod_eq_of_lt (by omega) (by omega)
    rw [if_pos (by omega)]
    omega

/-- Settles O54: a decoded pattern is on its format's grid, so no rounding case applies to it. -/
theorem arithmetic : Obligations.Arithmetic := by
  refine ⟨?_, ?_, ?_, ?_, ?_, ?_, ?_, ?_, ?_⟩
  · exact fun f b hf hb hnan => ⟨congrArg Rounded.bits (roundF_decodeF hf hb hnan .rne 0), fun g => roundF_decodeF hf hb hnan .stochastic g⟩
  · intro f b mode g hf hnan
    rw [hnan]
    rfl
  · exact fun f mode g neg m e _ hm htop => roundF_top hm htop mode g neg
  · exact roundF_gen
  · exact fun a p hlo hhi => (if_neg (Int.not_lt.mpr hlo)).trans (if_neg (Int.not_lt.mpr hhi))
  · exact fun a p h => if_pos h
  · exact fun a p h => (if_neg (show ¬ a + p < -2 ^ 31 by omega)).trans (if_pos h)
  · exact fun a p => rfl
  · intro a hlo hhi
    have h32 : drainInt 32 a = (unsign a 32, false) := (if_neg (by omega)).trans (if_neg (by omega))
    rw [h32]
    refine ⟨signed_unsign (by decide) hlo (by omega), rfl, ?_⟩
    by_cases hunder : a < -32768
    · rw [show drainInt 16 a = (unsign (-2 ^ 15) 16, true) from if_pos (by omega), signed_unsign (by decide) (by decide) (by decide)]
      exact ⟨by omega, iff_of_true rfl (.inl hunder)⟩
    by_cases hover : 32767 < a
    · rw [show drainInt 16 a = (unsign (2 ^ 15 - 1) 16, true) from (if_neg (by omega)).trans (if_pos (by omega)),
        signed_unsign (by decide) (by decide) (by decide)]
      exact ⟨by omega, iff_of_true rfl (.inr hover)⟩
    · rw [show drainInt 16 a = (unsign a 16, false) from (if_neg (by omega)).trans (if_neg (by omega)), signed_unsign (by decide) (by omega) (by omega)]
      exact ⟨by omega, iff_of_false Bool.false_ne_true (not_or.mpr ⟨hunder, hover⟩)⟩

end Sys2Proof.Proofs
end
-- ==== Sys2Proof/Proofs/GateChecks.lean ====
section
/-! PROOF. What a refused request meets first (R421): a field out of range comes before a refusal for the module's state. -/

namespace Sys2Proof.Proofs
open Sys2Proof Sys2Proof.Machine

variable {opcode mask : Nat} {u : HandleUse} {lenOk : List Byte → Bool} {resv : List Byte → List (Nat × Nat)} {r : Req} {s : State}

/-- A field out of range is answered first, whatever check of the module's state fails as well. -/
theorem knaob_field {body : Mach → Nat → Req → K Done} {b e : Bad} (h1 : frontGate s.nv s.m opcode r = none)
    (h2 : checkReq s.m opcode mask lenOk resv r = .ok ()) (h3 : checkObj s.nv s.m opcode mask u r = .error b)
    (hb : body s.m (slotOf r) r = .error e) (he : e.status = 0x35) :
    knaob opcode mask u lenOk resv body r s.nv s.m = refuse s.m opcode r e := by
  have hb' : body s.m (r.handle.toNat / 4096) r = .error e := hb
  simp only [knaob, h1, h2, h3, ok_bind, hb', withHandle, he]
  rfl

theorem getD_modNth {α : Type} (d : α) (f : α → α) (l : List α) (i : Nat) (h : i < l.length) : (modNth l i f).getD i d = f (l.getD i d) := by
  induction l generalizing i with
  | nil => exact absurd h (Nat.not_lt_zero i)
  | cons x l ih =>
    cases i with
    | zero => rfl
    | succ i => simpa [modNth] using ih i (Nat.lt_of_succ_lt_succ h)

theorem getMbx_modMbx {m : Mach} {p : Port} (h : m.mgmt.mbx.length = 4) (f : Mbx → Mbx) : getMbx (modMbx m p f) p = f (getMbx m p) :=
  getD_modNth mbxReset f m.mgmt.mbx (portIx p) (by rw [h]; cases p <;> decide)

theorem status_refuse {m : Mach} (h : m.mgmt.mbx.length = 4) (op : Nat) (r : Req) (b : Bad) : (getMbx (refuse m op r b) r.port).status = b.status := by
  unfold refuse respond
  extract_lets old b1 word bytes b2 m1
  have h1 : (getMbx m1 r.port).status = b.status := congrArg Mbx.status (getMbx_modMbx h fun _ => b2)
  split
  · rw [signal_frame]
    exact h1
  · exact h1

/-! ### A request out of range in an erased module -/

/-- An ERASED module that runs. -/
def erasedState : State := { nv := { nvReset with lifecycle := 3 }, m := { machReset with pwr := { pwrReset with boot := .running } }, pending := [] }

/-- A POWER_CAP of 0 W, out of range (Table 16.5), its trailer right but for its own field. -/
def lowCapBare : Req := { port := .board, tally := 1, handle := 0, len := 4, resv := List.replicate 8 0, payload := List.replicate 4 0, crc := 0 }

def lowCap : Req := { lowCapBare with crc := BitVec.ofNat 32 (crc32c (reqBytes 0x0401 lowCapBare)) }

theorem frontGate_lowCap : frontGate erasedState.nv erasedState.m 0x0401 lowCap = none :=
  Option.isNone_iff_eq_none.mp (by decide +kernel)

theorem checkState_lowCap : checkState erasedState.nv erasedState.m lowCap.port 0x0401 aB = .error { status := 0x63, detail := 0 } := rfl

theorem exec_lowCap : exec (.powerCap lowCap) erasedState =
    .next { erasedState with m := refuse erasedState.m 0x0401 lowCap { status := 0x35, detail := 0 } } := by
  have hrow : powerCap lowCap erasedState.nv erasedState.m = refuse erasedState.m 0x0401 lowCap { status := 0x35, detail := 0 } :=
    knaob_field frontGate_lowCap rfl (b := { status := 0x63, detail := 0 }) rfl rfl rfl
  change Host.Outcome.next { erasedState with m := powerCap lowCap erasedState.nv erasedState.m } = _
  rw [hrow]

/-- Refutes O56: its third clause lets only a length or a reserved field come before a refusal for the module's state, where a field out of range (0x35) does as well. -/
theorem not_gateChecks : ¬ Obligations.GateChecks := by
  unfold Obligations.GateChecks
  rintro ⟨-, -, hstate, -⟩
  obtain ⟨d, hd, hexec⟩ := hstate (.powerCap lowCap) erasedState 0x0401 aB lowCap _ rfl frontGate_lowCap rfl checkState_lowCap
  have hm : refuse erasedState.m 0x0401 lowCap { status := 0x35, detail := 0 } = refuse erasedState.m 0x0401 lowCap d := by
    have := exec_lowCap.symm.trans hexec
    injection this with h
    exact congrArg State.m h
  have hstatus : d.status = 0x35 := by
    rw [← status_refuse (m := erasedState.m) rfl 0x0401 lowCap d, ← hm]
    exact status_refuse rfl 0x0401 lowCap _
  rcases hd with rfl | h33 | h34
  · cases hstatus
  · cases hstatus.symm.trans h33
  · cases hstatus.symm.trans h34

end Sys2Proof.Proofs
end
-- ==== Sys2Proof/Proofs/MemoryLaws.lean ====
section
/-! PROOF. Reads after writes, poison and zeroing (R101, R237, R253), and what an admitted memory operation does (R237, R254, R404). -/

namespace Sys2Proof.Proofs
open Sys2Proof Sys2Proof.Machine

variable {m : Mach}

/-! ### Poison -/

@[simp] theorem dropNarrow_poison (m : Mach) (a n : Nat) : (dropNarrow m a n).poison = m.poison := by
  unfold dropNarrow; split <;> rfl

@[simp] theorem dropNarrow_mem (m : Mach) (a n : Nat) : (dropNarrow m a n).mem = m.mem := by
  unfold dropNarrow; split <;> rfl

@[simp] theorem markDirty_poison (m : Mach) (a n : Nat) : (markDirty m a n).poison = m.poison := by
  unfold markDirty
  dsimp only
  split
  · exact dropNarrow_poison m a n
  · exact dropNarrow_poison m a n

theorem isPoison_setPoison (g : Nat) (on : Bool) (x : Nat) : isPoison (setPoison m g on) x = if g = x then on else isPoison m x := tget_tset ..

/-- Writing a granule poisons none. -/
theorem isPoison_wrGran (g a : Nat) (bs : List Byte) {x : Nat} (h : isPoison (wrGran m g a bs) x = true) : isPoison m x = true := by
  unfold wrGran at h
  split at h
  · have h' : isPoison (setPoison m g false) x = true := h
    rw [isPoison_setPoison] at h'
    split at h'
    · cases h'
    · exact h'
  · split at h <;> exact h

/-- Poisoning granules one after another poisons those, and no other. -/
theorem isPoison_foldl_setPoison (l : List Nat) (m : Mach) (x : Nat) :
    isPoison (l.foldl (fun m g => setPoison m g true) m) x = (isPoison m x || has l x) := by
  induction l generalizing m with
  | nil => simp [has]
  | cons g l ih =>
    rw [List.foldl_cons, ih, isPoison_setPoison]
    by_cases hg : g = x
    · simp [hg, has]
    · simp [has, beq_eq_false_iff_ne.mpr hg, if_neg hg]

theorem isPoison_wrPoison (a n x : Nat) : isPoison (wrPoison m a n) x = (isPoison m x || has (granules a n) x) := by
  refine (isPoison_foldl_setPoison (granules a n) (markDirty m a n) x).trans ?_
  rw [isPoison, markDirty_poison]
  rfl

theorem isPoison_zeroRange (a n x : Nat) : isPoison (zeroRange m a n) x = if a ≤ x ∧ x < a + n then false else isPoison m x := by
  have h := tget_filter false m.poison (fun i => decide (i < a) || decide (a + n ≤ i)) x
  simp only [Bool.or_eq_true, decide_eq_true_eq] at h
  simp only [isPoison, zeroRange, markDirty_poison]
  refine h.trans ?_
  by_cases hx : a ≤ x ∧ x < a + n
  · rw [if_pos hx, if_neg (by omega)]
  · rw [if_neg hx, if_pos (by omega)]

/-! ### Granules -/

theorem granSize_pos (a : Nat) : 0 < granSize a := by
  unfold granSize; split <;> decide

/-- A range does not cross from the tiers into the scratchpads. -/
def OneSide (a n : Nat) : Prop := a < spBase → a + n ≤ spBase

/-- Within a range on one side, granules have the size of its first. -/
theorem granSize_eq {a n x : Nat} (h : OneSide a n) (hx : a / granSize a * granSize a ≤ x) (hn : x < a + n) : granSize x = granSize a := by
  have hbase : spBase = 0x40000000000 := rfl
  unfold granSize at hx ⊢
  by_cases ha : spBase ≤ a
  · rw [if_pos ha] at hx ⊢
    rw [if_pos (by omega)]
  · have := h (by omega)
    rw [if_neg ha] at hx ⊢
    rw [if_neg (by omega)]

theorem granOf_eq {a n x : Nat} (h : OneSide a n) (hx : a ≤ x) (hn : x < a + n) : granOf x = x / granSize a * granSize a := by
  rw [granOf, granSize_eq h ((Nat.div_mul_le_self ..).trans hx) hn]

/-- The bytes of a write up to the address `b`, over the memory before it. -/
def WrittenTo (mem : List Host.Cell) (a : Nat) (bs : List Byte) (b : Nat) (mem' : List Host.Cell) : Prop :=
  ∀ x, memByte mem' x = if a ≤ x ∧ x < a + bs.length ∧ x < b then bs.getD (x - a) 0 else memByte mem x

/-- A part of a write goes to memory unless its granule is poisoned and it does not cover it. -/
theorem wrGran_mem {g : Nat} (h : isPoison m g = false) (a : Nat) (bs : List Byte) : (wrGran m g a bs).mem = memPutAll m.mem a bs := by
  unfold wrGran
  split
  · rfl
  · rw [if_neg (by rw [h]; decide)]

/-- The bytes of a write that lie in the granule of size `size` at `g`. -/
theorem memByte_part (mem : List Host.Cell) {a : Nat} {bs : List Byte} {g size : Nat} (h1 : g < a + bs.length) (h2 : a < g + size) (x : Nat) :
    memByte (memPutAll mem (partOf a bs g size).1 (partOf a bs g size).2) x =
      if max a g ≤ x ∧ x < min (a + bs.length) (g + size) then bs.getD (x - a) 0 else memByte mem x := by
  have hlen : ((bs.drop (max a g - a)).take (min (a + bs.length) (g + size) - max a g)).length = min (a + bs.length) (g + size) - max a g := by
    rw [List.length_take, List.length_drop]
    omega
  rw [memByte_memPutAll]
  simp only [partOf, hlen]
  by_cases hx : max a g ≤ x ∧ x < min (a + bs.length) (g + size)
  · rw [if_pos (by omega), if_pos hx]
    have hsum : max a g - a + (x - max a g) = x - a := by omega
    simp only [List.getD_eq_getElem?_getD, List.getElem?_take, List.getElem?_drop, hsum]
    rw [if_pos (by omega)]
  · rw [if_neg (by omega), if_neg hx]

/-- One granule further: its bytes are written, and no granule is poisoned by it. -/
theorem writtenTo_step {mem : List Host.Cell} {k : Mach} {a : Nat} {bs : List Byte} {g size : Nat} (h1 : g < a + bs.length) (h2 : a < g + size)
    (hk : WrittenTo mem a bs g k.mem) (hp : isPoison k g = false) :
    WrittenTo mem a bs (g + size) (wrGran k g (partOf a bs g size).1 (partOf a bs g size).2).mem := by
  intro x
  rw [wrGran_mem hp, memByte_part k.mem h1 h2, hk x]
  by_cases hx : max a g ≤ x ∧ x < min (a + bs.length) (g + size)
  · rw [if_pos hx, if_pos (by omega)]
  · rw [if_neg hx]
    by_cases hold : a ≤ x ∧ x < a + bs.length ∧ x < g
    · rw [if_pos hold, if_pos (by omega)]
    · rw [if_neg hold, if_neg (by omega)]

/-- The step of `wrBytes` over one granule. -/
def wrPart (a : Nat) (bs : List Byte) (m : Mach) (g : Nat) : Mach := wrGran m g (partOf a bs g (granSize g)).1 (partOf a bs g (granSize g)).2

theorem wrBytes_eq (m : Mach) (a : Nat) (bs : List Byte) : wrBytes m a bs = (granules a bs.length).foldl (wrPart a bs) (markDirty m a bs.length) := rfl

theorem isPoison_foldl_wrPart (a : Nat) (bs : List Byte) (l : List Nat) {m : Mach} {x : Nat} (h : isPoison (l.foldl (wrPart a bs) m) x = true) :
    isPoison m x = true := by
  induction l generalizing m with
  | nil => exact h
  | cons g l ih => exact isPoison_wrGran _ _ _ (ih h)

/-- The first `k` granules of a write that meets no poison. -/
theorem writtenTo_foldl {a : Nat} {bs : List Byte} (hside : OneSide a bs.length) (hpoison : ∀ i, i < bs.length → isPoison m (granOf (a + i)) = false)
    (hlen : 0 < bs.length) (k : Nat) (hk : k ≤ (a + bs.length - 1) / granSize a - a / granSize a + 1) :
    WrittenTo m.mem a bs ((a / granSize a + k) * granSize a)
      (((List.range k).map fun i => (a / granSize a + i) * granSize a).foldl (wrPart a bs) (markDirty m a bs.length)).mem := by
  have hpos := granSize_pos a
  induction k with
  | zero =>
    intro x
    have := Nat.div_mul_le_self a (granSize a)
    simp only [List.range_zero, List.map_nil, List.foldl_nil, markDirty_mem, Nat.add_zero]
    rw [if_neg (by omega)]
  | succ k ih =>
    have hstart := Nat.div_mul_le_self a (granSize a)
    have hend := Nat.div_mul_le_self (a + bs.length - 1) (granSize a)
    have hnext : a < a / granSize a * granSize a + granSize a := by
      have := Nat.div_add_mod' a (granSize a)
      have := Nat.mod_lt a hpos
      omega
    have hmono : a / granSize a ≤ (a + bs.length - 1) / granSize a := Nat.div_le_div_right (by omega)
    have hle : (a / granSize a + k) * granSize a ≤ (a + bs.length - 1) / granSize a * granSize a := Nat.mul_le_mul_right _ (by omega)
    have hge : a / granSize a * granSize a ≤ (a / granSize a + k) * granSize a := Nat.mul_le_mul_right _ (by omega)
    have hg : (a / granSize a + k) * granSize a < a + bs.length := by omega
    have hsize : granSize ((a / granSize a + k) * granSize a) = granSize a := granSize_eq hside hge hg
    obtain ⟨y, hy1, hy2, hy3⟩ : ∃ y, a ≤ y ∧ y < a + bs.length ∧ y / granSize a = a / granSize a + k := by
      refine ⟨max a ((a / granSize a + k) * granSize a), le_max_left .., by omega, ?_⟩
      rcases Nat.eq_zero_or_pos k with rfl | hkpos
      · rw [Nat.add_zero, max_eq_left hstart]
      · have : (a / granSize a + 1) * granSize a ≤ (a / granSize a + k) * granSize a := Nat.mul_le_mul_right _ (by omega)
        rw [Nat.add_mul, Nat.one_mul] at this
        rw [max_eq_right (by omega), Nat.mul_div_cancel _ hpos]
    have hfree : isPoison m ((a / granSize a + k) * granSize a) = false := by
      have := hpoison (y - a) (by omega)
      rwa [Nat.add_sub_cancel' hy1, granOf_eq hside hy1 hy2, hy3] at this
    rw [List.range_succ, List.map_append, List.foldl_append]
    have hstep := writtenTo_step hg (by omega : a < (a / granSize a + k) * granSize a + granSize a) (ih (by omega))
      (Bool.eq_false_iff.mpr fun hp => by
        have hwas := isPoison_foldl_wrPart a bs _ hp
        rw [isPoison, markDirty_poison] at hwas
        exact Bool.false_ne_true (hfree.symm.trans hwas))
    rw [← Nat.add_assoc, Nat.add_mul (a / granSize a + k), Nat.one_mul]
    simp only [List.map_cons, List.map_nil, List.foldl_cons, List.foldl_nil, wrPart, hsize]
    exact hstep

/-- A write that meets no poison stores its bytes and nothing else. -/
theorem memByte_wrBytes {a : Nat} {bs : List Byte} (hside : OneSide a bs.length) (hpoison : ∀ i, i < bs.length → isPoison m (granOf (a + i)) = false) (x : Nat) :
    memByte (wrBytes m a bs).mem x = if a ≤ x ∧ x < a + bs.length then bs.getD (x - a) 0 else memByte m.mem x := by
  rw [wrBytes_eq]
  by_cases hlen : bs.length = 0
  · rw [if_neg (by omega), granules, if_pos hlen, List.foldl_nil, markDirty_mem]
  · have hall := writtenTo_foldl hside hpoison (Nat.pos_iff_ne_zero.mpr hlen) _ le_rfl x
    have hend : a + bs.length ≤ (a / granSize a + ((a + bs.length - 1) / granSize a - a / granSize a + 1)) * granSize a := by
      have hmono : a / granSize a ≤ (a + bs.length - 1) / granSize a := Nat.div_le_div_right (by omega)
      have hq : a / granSize a + ((a + bs.length - 1) / granSize a - a / granSize a + 1) = (a + bs.length - 1) / granSize a + 1 := by omega
      have := Nat.div_add_mod' (a + bs.length - 1) (granSize a)
      have := Nat.mod_lt (a + bs.length - 1) (granSize_pos a)
      rw [hq, Nat.add_mul, Nat.one_mul]
      omega
    rw [granules, if_neg hlen]
    refine hall.trans ?_
    by_cases hx : a ≤ x ∧ x < a + bs.length
    · rw [if_pos (by omega), if_pos hx]
    · rw [if_neg (by omega), if_neg hx]

/-! ### One granule -/

/-- A write inside one granule meets that granule alone. -/
theorem granules_inside {g a n : Nat} (hg : g % granSize g = 0) (h1 : g ≤ a) (h2 : a + n ≤ g + granSize g) (hn : 0 < n) : granules a n = [g] := by
  have hsize : granSize a = granSize g := by
    have hbase : spBase = 0x40000000000 := rfl
    unfold granSize at hg h2 ⊢
    by_cases hs : spBase ≤ g
    · rw [if_pos hs, if_pos (by omega)]
    · rw [if_neg hs] at hg h2 ⊢
      rw [if_neg (by omega)]
  have hpos := granSize_pos g
  obtain ⟨q, hq⟩ : ∃ q, g = q * granSize g := ⟨g / granSize g, (Nat.div_mul_cancel (Nat.dvd_of_mod_eq_zero hg)).symm⟩
  generalize granSize g = w at *
  have hdiv : ∀ x, g ≤ x → x < g + w → x / w = q := fun x hx1 hx2 =>
    Nat.div_eq_of_lt_le (by omega) (by rw [Nat.succ_mul]; omega)
  rw [granules, if_neg (by omega), hsize]
  dsimp only
  rw [hdiv a h1 (by omega), hdiv (a + n - 1) (by omega) (by omega), Nat.sub_self]
  simp [hq.symm]

theorem partOf_inside {g a : Nat} {bs : List Byte} {w : Nat} (h1 : g ≤ a) (h2 : a + bs.length ≤ g + w) : partOf a bs g w = (a, bs) := by
  simp only [partOf, max_eq_left h1, min_eq_left h2, Nat.sub_self, List.drop_zero, Nat.add_sub_cancel_left, List.take_length]

theorem wrBytes_inside {g a : Nat} {bs : List Byte} (hg : g % granSize g = 0) (h1 : g ≤ a) (h2 : a + bs.length ≤ g + granSize g) (hn : 0 < bs.length) :
    wrBytes m a bs = wrGran (markDirty m a bs.length) g a bs := by
  rw [wrBytes_eq, granules_inside hg h1 h2 hn, List.foldl_cons, List.foldl_nil, wrPart, partOf_inside h1 h2]

/-- A write of part of a poisoned granule is not merged into it. -/
theorem wrBytes_poisoned {g a : Nat} {bs : List Byte} (hg : g % granSize g = 0) (h1 : g ≤ a) (h2 : a + bs.length ≤ g + granSize g) (hn : 0 < bs.length)
    (hpart : bs.length < granSize g) (hp : isPoison m g = true) : wrBytes m a bs = markDirty m a bs.length := by
  rw [wrBytes_inside hg h1 h2 hn, wrGran, if_neg (by omega), if_pos]
  rw [isPoison, markDirty_poison]
  exact hp

/-- A write of a whole granule ends its poison. -/
theorem wrBytes_whole {g : Nat} {bs : List Byte} (hg : g % granSize g = 0) (hlen : bs.length = granSize g) :
    isPoison (wrBytes m g bs) g = false ∧ ∀ i, i < granSize g → memByte (wrBytes m g bs).mem (g + i) = bs.getD i 0 := by
  have hpos := granSize_pos g
  rw [wrBytes_inside hg le_rfl (by omega) (by omega), wrGran, if_pos hlen]
  refine ⟨(isPoison_setPoison g false g).trans (if_pos rfl), fun i hi => ?_⟩
  change memByte (memPutAll _ g bs) (g + i) = _
  rw [memByte_memPutAll, if_pos (by omega), Nat.add_sub_cancel_left]

/-- Settles O53: a write goes granule by granule, and each granule is whole, merged or refused. -/
theorem memoryLaws : Obligations.MemoryLaws := by
  refine ⟨?_, ?_, ?_, ?_, ?_, ?_⟩
  · exact fun m a bs hside hpoison x => memByte_wrBytes hside hpoison x
  · exact fun m g a bs hg h1 h2 hn hpart hp => wrBytes_poisoned hg h1 h2 hn hpart hp
  · exact fun m g bs hg hlen => wrBytes_whole hg hlen
  · intro m a n x
    refine ⟨(memByte_zeroRange m a n x).trans ?_, isPoison_zeroRange a n x⟩
    by_cases hx : a ≤ x ∧ x < a + n
    · rw [if_pos hx, if_neg (by omega)]
    · rw [if_neg hx, if_pos (by omega)]
  · exact fun m a n => ⟨wrPoison_mem m a n, isPoison_wrPoison a n⟩
  · exact fun m a bs clear n h => ⟨memWf_wrBytes h a bs, memWf_aliasWrite h clear a bs, memWf_zeroRange h a n, memWf_wrPoison h a n, memWf_gateRegions h⟩

end Sys2Proof.Proofs
end
-- ==== Sys2Proof/Proofs/MemoryOps.lean ====
section
/-! PROOF. What an admitted memory operation does (R119, R181, R237, R253, R254, R290, R404). -/

namespace Sys2Proof.Proofs
open Sys2Proof Sys2Proof.Machine

variable {m : Mach}

/-! ### Requests -/

theorem performReq_read {pk : Packet} (hop : pk.opcode = 0x01 ∨ pk.opcode = 0x04) (hf : fenced m pk.addr = false) {m0 m1 : Mach}
    (h0 : m0 = portLines m (aliasRead m pk.addr) pk.length false) (h1 : m1 = if pk.opcode = 0x01 then narrowLoad m0 (aliasRead m pk.addr) pk.length else m0) :
    performReq m pk = (m1, mkResp pk 0x10 (rdBytes m1 (aliasRead m pk.addr) pk.length) (poisonMask m1 (aliasRead m pk.addr) pk.length) 0 false) := by
  subst h1 h0
  rcases hop with h | h
  · simp only [performReq, hf, Bool.and_false, Bool.false_eq_true, if_false, h]
  · simp only [performReq, hf, Bool.and_false, Bool.false_eq_true, if_false, h]

theorem performReq_write {pk : Packet} (hop : pk.opcode = 0x02 ∨ pk.opcode = 0x03) (hf : fenced m pk.addr = false) (ha : aliasOf m pk.addr = none) {m1 : Mach}
    (h1 : m1 = wrBytes (portLines m pk.addr pk.data.length true) pk.addr pk.data) :
    performReq m pk = (pk.poison.foldl (fun m i => wrPoison m (pk.addr + 32 * i) (min 32 (pk.data.length - 32 * i))) m1, mkResp pk 0x11 [] [] 0 false) := by
  subst h1
  rcases hop with h | h
  · simp only [performReq, hf, Bool.and_false, Bool.false_eq_true, if_false, h, ha]
  · simp only [performReq, hf, Bool.and_false, Bool.false_eq_true, if_false, h, ha]

theorem performReq_aliasWrite {pk : Packet} (hop : pk.opcode = 0x02 ∨ pk.opcode = 0x03) (hf : fenced m pk.addr = false) {q : Bool × Nat}
    (ha : aliasOf m pk.addr = some q) (hp : pk.poison = []) :
    performReq m pk = (aliasWrite (portLines m q.2 pk.data.length true) q.1 q.2 pk.data, mkResp pk 0x11 [] [] 0 false) := by
  rcases hop with h | h
  · simp only [performReq, hf, Bool.and_false, Bool.false_eq_true, if_false, h, ha, hp, List.foldl_nil]
  · simp only [performReq, hf, Bool.and_false, Bool.false_eq_true, if_false, h, ha, hp, List.foldl_nil]

theorem performReq_advance {pk : Packet} (hop : pk.opcode = 0x07) {n : Nat} (hn : msAt pk.addr = some n) (hc : (getRgn m (n / 16384)).cordon = false) :
    performReq m pk = (modMs m n (fun x => { x with value := wrapAdd x.value (recNat pk.data 0 4) }), mkResp pk 0x11 [] [] 0 false) := by
  have hgo : ¬ (pk.opcode != 0x07 && fenced m pk.addr) = true := by rw [hop]; exact Bool.false_ne_true
  rw [performReq, if_neg hgo]
  simp only [hop, hn, advanceAt, hc, Bool.false_eq_true, if_false]

/-! ### The adders -/

theorem adderBytes_dvd (fmt : Nat) : adderBytes fmt ∣ 32 := by
  unfold adderBytes
  split
  · decide
  · split
    · decide
    · split <;> decide

theorem adderBytes_pos (fmt : Nat) : 0 < adderBytes fmt := Nat.pos_of_dvd_of_pos (adderBytes_dvd fmt) (by decide)

theorem leNat_leBytes (n v : Nat) : leNat (leBytes n v) = v % 2 ^ (8 * n) := by
  induction n generalizing v with
  | zero => simp [leNat, leBytes, Nat.mod_one]
  | succ n ih =>
    have hsplit : v % 2 ^ (8 * (n + 1)) = v % 256 + 256 * (v / 256 % 2 ^ (8 * n)) := by
      rw [Nat.mul_succ, Nat.pow_add, Nat.mul_comm (2 ^ (8 * n)), show 2 ^ 8 = 256 from rfl, Nat.mod_mul]
    rw [leBytes, leNat, ih, BitVec.toNat_ofNat, hsplit]

/-- Without regions under repair a byte is read where it stands. -/
theorem rdByte_of_noRegs (h : m.tier.regs = []) (a : Nat) : rdByte m a = memByte m.mem a := by
  simp only [rdByte, readSource, h, List.find?_nil]

theorem rdBytes_congr {a b : Mach} (ha : a.tier.regs = []) (hb : b.tier.regs = []) (hm : a.mem = b.mem) (x n : Nat) : rdBytes a x n = rdBytes b x n := by
  simp only [rdBytes, rdByte_of_noRegs ha, rdByte_of_noRegs hb, hm]

@[simp] theorem dropNarrow_regs (m : Mach) (a n : Nat) : (dropNarrow m a n).tier.regs = m.tier.regs := by
  unfold dropNarrow; split <;> rfl

theorem markDirty_regs (m : Mach) (a n : Nat) : (markDirty m a n).tier.regs = m.tier.regs := by
  unfold markDirty
  dsimp only
  split
  · exact dropNarrow_regs m a n
  · exact dropNarrow_regs m a n

theorem wrBytes_regs (m : Mach) (a : Nat) (bs : List Byte) : (wrBytes m a bs).tier.regs = m.tier.regs := by
  refine foldl_keeps (P := fun k => k.tier.regs = m.tier.regs) (fun k g h => ?_) _ (markDirty_regs ..)
  dsimp only [wrGran]
  split
  · exact h
  · split <;> exact h

theorem countSat_frame (m : Mach) (a : Nat) : (countSat m a).mem = m.mem ∧ (countSat m a).poison = m.poison ∧ (countSat m a).tier.regs = m.tier.regs := by
  unfold countSat; split <;> exact ⟨rfl, rfl, rfl⟩

/-- What was written reads back. -/
theorem rdBytes_of_written {bs : List Byte} (hregs : m.tier.regs = []) {a : Nat} (hm : ∀ i, i < bs.length → memByte m.mem (a + i) = bs.getD i 0) :
    rdBytes m a bs.length = bs := by
  refine List.ext_getElem (by simp [rdBytes]) fun i h1 h2 => ?_
  simp only [rdBytes, List.getElem_map, List.getElem_range, rdByte_of_noRegs hregs, hm i h2, List.getD_eq_getElem _ _ h2]

/-- The adder stores what it makes of the old element, where no poison stands. -/
theorem rdNat_adderElem {a fmt : Nat} {isMax : Bool} {v : Nat} (hp : isPoison m (granOf a) = false) (hregs : m.tier.regs = []) (hsize : granSize a = 32)
    (halign : a % adderBytes fmt = 0) :
    rdNat (adderElem m a fmt isMax false v).1 a (adderBytes fmt) = (adderOp fmt isMax (rdNat m a (adderBytes fmt)) v).1 % 2 ^ (8 * adderBytes fmt) := by
  have hold : rdNat (dropNarrow m a (adderBytes fmt)) a (adderBytes fmt) = rdNat m a (adderBytes fmt) :=
    congrArg leNat (rdBytes_congr ((dropNarrow_regs ..).trans hregs) hregs (dropNarrow_mem ..) a _)
  have hfree : ¬ isPoison (dropNarrow m a (adderBytes fmt)) (granOf a) = true := by
    rw [isPoison, dropNarrow_poison]
    exact Bool.eq_false_iff.mp hp
  unfold adderElem
  simp only [Bool.false_eq_true, if_false, if_neg hfree, hold]
  generalize adderOp fmt isMax (rdNat m a (adderBytes fmt)) v = res
  have hlen := leBytes_length (adderBytes fmt) res.1
  have hbelow : a < spBase := by
    by_contra hge
    rw [granSize, if_pos (Nat.not_lt.mp hge)] at hsize
    cases hsize
  have hside : OneSide a (leBytes (adderBytes fmt) res.1).length := fun _ => by
    obtain ⟨q, hq⟩ := (adderBytes_dvd fmt).trans (by decide : 32 ∣ spBase)
    obtain ⟨k, hk⟩ := Nat.dvd_of_mod_eq_zero halign
    rw [hq, hk] at hbelow
    rw [hlen, hq, hk, ← Nat.mul_succ]
    exact Nat.mul_le_mul_left _ (Nat.lt_of_mul_lt_mul_left hbelow)
  have hinside : ∀ i, i < adderBytes fmt → granOf (a + i) = granOf a := fun i hi => by
    rw [granOf_eq hside (Nat.le_add_right a i) (by omega), granOf, hsize]
    obtain ⟨q, hq⟩ := adderBytes_dvd fmt
    obtain ⟨k, hk⟩ := Nat.dvd_of_mod_eq_zero halign
    have h1 : a % 32 + i < 32 := by
      rw [hq, hk, Nat.mul_mod_mul_left]
      have hkq : k % q < q := Nat.mod_lt k (Nat.pos_of_ne_zero fun h0 => by rw [h0] at hq; cases hq)
      calc adderBytes fmt * (k % q) + i < adderBytes fmt * (k % q) + adderBytes fmt := by omega
        _ = adderBytes fmt * (k % q + 1) := (Nat.mul_succ ..).symm
        _ ≤ adderBytes fmt * q := Nat.mul_le_mul_left _ hkq
    omega
  have hmem : ∀ i, i < (leBytes (adderBytes fmt) res.1).length →
      memByte (wrBytes (dropNarrow m a (adderBytes fmt)) a (leBytes (adderBytes fmt) res.1)).mem (a + i) = (leBytes (adderBytes fmt) res.1).getD i 0 := by
    intro i hi
    rw [memByte_wrBytes hside (fun j hj => by rw [hinside j (hlen ▸ hj)]; exact Bool.eq_false_iff.mpr hfree), if_pos (by omega), Nat.add_sub_cancel_left]
  have hback : rdBytes (if res.2 = true then countSat (wrBytes (dropNarrow m a (adderBytes fmt)) a (leBytes (adderBytes fmt) res.1)) a
      else wrBytes (dropNarrow m a (adderBytes fmt)) a (leBytes (adderBytes fmt) res.1)) a (leBytes (adderBytes fmt) res.1).length =
        leBytes (adderBytes fmt) res.1 := by
    obtain ⟨hc1, -, hc3⟩ := countSat_frame (wrBytes (dropNarrow m a (adderBytes fmt)) a (leBytes (adderBytes fmt) res.1)) a
    have hr := (wrBytes_regs (dropNarrow m a (adderBytes fmt)) a (leBytes (adderBytes fmt) res.1)).trans ((dropNarrow_regs ..).trans hregs)
    split
    · exact rdBytes_of_written (hc3.trans hr) fun i hi => hc1 ▸ hmem i hi
    · exact rdBytes_of_written hr hmem
  rw [hlen] at hback
  rw [rdNat, hback, leNat_leBytes]

theorem adderElem_poisoned (a fmt : Nat) (isMax : Bool) (v : Nat) :
    isPoison (adderElem m a fmt isMax true v).1 (granOf a) = true ∧ (adderElem m a fmt isMax true v).1.mem = m.mem := by
  have hin : has (granules (granOf a) 1) (granOf a) = true := by
    have hdvd : granOf a % granSize a = 0 := Nat.mul_mod_left ..
    have hsize : granSize (granOf a) = granSize a := granSize_eq (n := 1) (fun h => h) le_rfl (Nat.lt_succ_of_le (Nat.div_mul_le_self ..))
    have hpos := granSize_pos a
    rw [granules_inside (g := granOf a) (by rw [hsize]; exact hdvd) le_rfl (by rw [hsize]; omega) Nat.one_pos]
    simp [has]
  refine ⟨?_, (wrPoison_mem _ _ _).trans (dropNarrow_mem ..)⟩
  refine (isPoison_wrPoison (m := dropNarrow m a (adderBytes fmt)) (granOf a) 1 (granOf a)).trans ?_
  rw [hin, Bool.or_true]

theorem adderElem_refused {a fmt : Nat} {isMax : Bool} {v : Nat} (hp : isPoison m (granOf a) = true) :
    adderElem m a fmt isMax false v = (dropNarrow m a (adderBytes fmt), false) := by
  have hstay : isPoison (dropNarrow m a (adderBytes fmt)) (granOf a) = true := by
    rw [isPoison, dropNarrow_poison]
    exact hp
  simp only [adderElem, Bool.false_eq_true, if_false, if_pos hstay]

/-- A sum cut to `w` bits in two's complement, and whether it was cut (R254). -/
def cutSum (w : Nat) (x : Int) : Nat × Bool :=
  if x < -2 ^ (w - 1) then (unsign (-2 ^ (w - 1)) w, true) else if 2 ^ (w - 1) - 1 < x then (unsign (2 ^ (w - 1) - 1) w, true) else (unsign x w, false)

theorem cutSum_of_cut {w : Nat} (hw : w = 32 ∨ w = 64) {x : Int} (h : (cutSum w x).2 = true) :
    (cutSum w x).1 = 2 ^ (w - 1) ∨ (cutSum w x).1 = 2 ^ (w - 1) - 1 := by
  unfold cutSum at h ⊢
  split at h
  next hlo =>
    rw [if_pos hlo]
    rcases hw with rfl | rfl <;> exact .inl rfl
  next hlo =>
    rw [if_neg hlo]
    split at h
    next hhi =>
      rw [if_pos hhi]
      rcases hw with rfl | rfl <;> exact .inr rfl
    · cases h

/-- An integer adder saturates at a bound of its width. -/
theorem adderOp_saturated {w : Bool} {a b : Nat} (h : (adderOp (if w then 3 else 2) false a b).2 = true) :
    (adderOp (if w then 3 else 2) false a b).1 = 2 ^ ((if w then 64 else 32) - 1) ∨ (adderOp (if w then 3 else 2) false a b).1 = 2 ^ ((if w then 64 else 32) - 1) - 1 := by
  cases w
  · exact cutSum_of_cut (w := 32) (x := signed a 32 + signed b 32) (.inl rfl) h
  · exact cutSum_of_cut (w := 64) (x := signed a 64 + signed b 64) (.inr rfl) h

/-- Settles O45: the arms of `performReq`, and the adder's three cases. -/
theorem memoryOperations : Obligations.MemoryOperations := by
  refine ⟨?_, ?_, ?_, ?_, ?_, ?_, ?_, ?_, ?_⟩
  · exact fun m pk m0 m1 hop hf h0 h1 => performReq_read hop hf h0 h1
  · exact fun m pk m1 hop hf ha h1 => performReq_write hop hf ha h1
  · exact fun m pk q m1 hop hf ha hp h1 => h1 ▸ performReq_aliasWrite hop hf ha hp
  · intro m a n w ha
    rw [portLines, portAt, ha]
    rfl
  · exact fun m a fmt isMax v hp hregs hsize halign => rdNat_adderElem hp hregs hsize halign
  · exact fun m a fmt isMax v => adderElem_poisoned a fmt isMax v
  · exact fun m a fmt isMax v hp => adderElem_refused hp
  · exact fun m pk n hop hn hc => performReq_advance hop hn hc
  · exact fun w a b h => adderOp_saturated h

end Sys2Proof.Proofs
end
-- ==== Sys2Proof/Proofs/MemoryFrame.lean ====
section
/-! PROOF. The frame of memory (R13): what the shared operations and the bodies of commands leave of it. -/

namespace Sys2Proof.Proofs
open Sys2Proof Sys2Proof.Machine

/-- The bytes and the poison of memory. -/
def store (m : Mach) : List Host.Cell × Tbl Bool := (m.mem, m.poison)

variable {m : Mach}

theorem store_foldl {β : Type} {f : Mach → β → Mach} (hf : ∀ m x, store (f m x) = store m) (l : List β) (m : Mach) : store (l.foldl f m) = store m :=
  foldl_keeps (P := fun k => store k = store m) (fun _ x h => (hf _ x).trans h) l rfl

theorem store_ite {c : Prop} [Decidable c] {a b : Mach} (ha : store a = store m) (hb : store b = store m) : store (if c then a else b) = store m := by
  split
  · exact ha
  · exact hb

/-! ### Shared operations -/

theorem store_of_mgmt {a b : Mach} (h : b = { a with mgmt := b.mgmt }) : store b = store a := by rw [h]; rfl

theorem store_signal (v : Nat) : store (signal m v) = store m := by rw [signal_frame]; rfl
theorem store_logRec (code cls unit dump flags : Nat) (ctx : Option Nat) (d : List Byte) : store (logRec m code cls unit dump flags ctx d) = store m := by
  unfold logRec
  dsimp only
  split <;> rfl
theorem store_report (code cls unit : Nat) (ctx : Option Nat) (contexts subject : Nat) (d : List Byte) :
    store (report m code cls unit ctx contexts subject d) = store m := store_of_mgmt (report_frame ..)
theorem store_flashWrite (kind : Nat) : store (flashWrite m kind) = store m := by
  unfold flashWrite
  dsimp only
  split <;> rfl

theorem store_respond (opcode : Nat) (r : Req) (status tag : Nat) (payload : List Byte) (moves : Bool) :
    store (respond m opcode r status tag payload moves) = store m := by
  unfold respond
  exact store_ite (store_signal 0) rfl

theorem respond_rst (opcode : Nat) (r : Req) (status tag : Nat) (payload : List Byte) (moves : Bool) : (respond m opcode r status tag payload moves).rst = m.rst := by
  unfold respond
  dsimp only
  split
  · rw [signal_frame]; rfl
  · rfl

theorem report_rst {code cls unit : Nat} {ctx : Option Nat} {contexts subject : Nat} {d : List Byte} :
    (report m code cls unit ctx contexts subject d).rst = m.rst := by
  rw [report_frame]

theorem store_respondAgain (r : Req) : store (respondAgain m r) = store m := by
  unfold respondAgain
  exact store_ite (store_signal 0) rfl

theorem store_frontGate {nv : NonVol} {opcode : Nat} {r : Req} {m' : Mach} (h : frontGate nv m opcode r = some m') : store m' = store m := by
  unfold frontGate at h
  dsimp only at h
  split at h
  · cases h; rfl
  split at h
  · cases h
    unfold restartAnswer
    exact store_ite rfl rfl
  split at h
  · cases h; rfl
  split at h
  · cases h; rfl
  split at h
  · cases h; exact store_respond ..
  split at h
  · cases h; exact store_respondAgain r
  split at h
  · cases h; exact store_respond ..
  · cases h

theorem store_finish (opcode : Nat) (r : Req) (d : Done) : store (finish opcode r d) = store d.m := by
  unfold finish
  exact store_ite rfl (store_respond ..)

/-! ### Bodies of Knaob commands -/

/-- Whatever a body answers has memory as in `m`. -/
def Stores (m : Mach) (x : K Done) : Prop := ∀ d, x = .ok d → store d.m = store m

theorem stores_error (e : Bad) : Stores m (.error e) := fun _ h => nomatch h

theorem stores_ok {d : Done} (h : store d.m = store m) : Stores m (.ok d) := fun _ hd => by cases hd; exact h

theorem stores_bind {α : Type} {x : K α} {f : α → K Done} (h : ∀ a, Stores m (f a)) : Stores m (x >>= f) := by
  cases x with
  | error e => exact stores_error e
  | ok a => exact h a

theorem stores_withHandle {h : K Unit} {x : K Done} (hx : Stores m x) : Stores m (withHandle h x) := by
  cases h with
  | ok _ => exact hx
  | error e => cases x <;> exact stores_error _

theorem store_knaob {opcode mask : Nat} {u : HandleUse} {lenOk : List Byte → Bool} {resv : List Byte → List (Nat × Nat)} {body : Mach → Nat → Req → K Done}
    {r : Req} {nv : NonVol} (h : Stores m (body m (r.handle.toNat / 4096) r)) : store (knaob opcode mask u lenOk resv body r nv m) = store m := by
  unfold knaob
  split
  next hf => exact store_frontGate hf
  · split
    next d hd => exact (store_finish ..).trans (stores_bind (fun _ => stores_withHandle h) d hd)
    · exact store_respond ..

/-- As `Stores`, for a body that may change what fuses and flash hold. -/
def StoresNv (m : Mach) (x : K (NonVol × Done)) : Prop := ∀ d, x = .ok d → store d.2.m = store m

theorem storesNv_error (e : Bad) : StoresNv m (.error e) := fun _ h => nomatch h

theorem storesNv_ok {d : NonVol × Done} (h : store d.2.m = store m) : StoresNv m (.ok d) := fun _ hd => by cases hd; exact h

theorem storesNv_bind {α : Type} {x : K α} {f : α → K (NonVol × Done)} (h : ∀ a, StoresNv m (f a)) : StoresNv m (x >>= f) := by
  cases x with
  | error e => exact storesNv_error e
  | ok a => exact h a

theorem storesNv_withHandle {h : K Unit} {x : K (NonVol × Done)} (hx : StoresNv m x) : StoresNv m (withHandle h x) := by
  cases h with
  | ok _ => exact hx
  | error e => cases x <;> exact storesNv_error _

theorem store_knaobNv {opcode mask : Nat} {u : HandleUse} {lenOk : List Byte → Bool} {resv : List Byte → List (Nat × Nat)}
    {body : NonVol → Mach → Nat → Req → K (NonVol × Done)} {r : Req} {nv : NonVol} (h : StoresNv m (body nv m (r.handle.toNat / 4096) r)) :
    store (knaobNv opcode mask u lenOk resv body r nv m).2 = store m := by
  unfold knaobNv
  split
  next hf => exact store_frontGate hf
  · split
    next d hd => exact (store_finish ..).trans (storesNv_bind (fun _ => storesNv_withHandle h) d hd)
    · exact store_respond ..

/-! ### Events -/

variable {nv : NonVol}

theorem store_linkDown (k : Nat) : store (linkDown m k) = store m := by
  unfold linkDown
  exact store_ite rfl (store_report ..)

theorem store_replayLink (k : Nat) : store (replayLink m k) = store m := by
  unfold replayLink
  exact store_ite rfl (store_ite (store_linkDown k) rfl)

theorem store_applySum (s : TileSum) : store (applySum m s) = store m := by
  unfold applySum
  exact store_ite rfl rfl

theorem store_notePatrol (set i w : Nat) : store (notePatrol set i m w) = store m := by
  unfold notePatrol
  exact store_ite rfl ((store_logRec ..).trans (store_ite rfl rfl))

theorem store_noteMargin (quantity unit : Nat) (x : Int) : store (noteMargin m quantity unit x) = store m := by
  unfold noteMargin
  exact store_ite (store_report ..) rfl

theorem store_retireChan (k ch : Nat) (fresh : Bool) : store (retireChan m k ch fresh) = store m := by
  unfold retireChan
  exact store_ite rfl (store_ite (store_ite rfl rfl) (store_ite rfl rfl))

theorem store_setThreshold (k t : Nat) : store (setThreshold m k t) = store m := by
  refine (store_foldl (fun m ch => ?_) _ _).trans rfl
  exact store_ite (store_retireChan ..) rfl

/-- Ending a session for which nothing waits. -/
theorem store_endSession (hw : m.rst.waiting = []) : store (endSession m) = store m := by
  by_cases hs : m.sec.session = none
  · rw [endSession, if_pos (Option.isNone_iff_eq_none.mpr hs)]
  · rw [endSession_eq hs, resumeMp_of_empty (m := sessionless m) hw]
    rfl

theorem store_mpEvtAck (value : Nat) (whole : Bool) : store (mpEvtAck value whole m) = store m := by
  unfold mpEvtAck
  exact store_ite rfl (store_ite rfl (store_signal 1))

theorem store_unmask (v : Nat) : store (unmask m v) = store m := by
  unfold unmask
  exact store_ite rfl (store_ite rfl rfl)

theorem store_laneFailure (k lane : Nat) : store (laneFailure k lane m) = store m := by
  unfold laneFailure
  refine store_ite rfl (store_ite ((store_linkDown k).trans ?_) ?_)
  · exact store_report (m := modLink m k (fun x => { x with lanes := delNat lane x.lanes, failed := insNat lane x.failed, retraining := true })) ..
  · exact store_report (m := modLink m k (fun x => { x with lanes := delNat lane x.lanes, failed := insNat lane x.failed, retraining := true })) ..

theorem store_unreach (k dst opcode sequence tag : Nat) : store (unreach k dst opcode sequence tag m) = store m := by
  unfold unreach
  refine store_ite rfl ?_
  extract_lets f
  split
  · rfl
  · split <;> rfl

theorem store_challenge (board : Bool) (slot what : Nat) : store (challenge board slot what nv m) = store m := by
  unfold challenge
  exact store_ite rfl (store_ite rfl (store_ite rfl (store_ite rfl rfl)))

theorem store_getMeasurements (board signed : Bool) (slot op : Nat) : store (getMeasurements board signed slot op nv m) = store m := by
  unfold getMeasurements
  exact store_ite rfl (store_ite rfl (store_ite rfl (store_ite rfl rfl)))

theorem store_powerSample (w : Nat) : store (powerSample w m) = store m := by
  unfold powerSample
  exact store_ite rfl (store_ite rfl rfl)

theorem store_endOfRunMarker : store (endOfRunMarker m) = store m := by
  unfold endOfRunMarker
  split
  · rfl
  · exact (store_foldl (fun _ _ => store_applySum _) _ _).trans rfl

theorem store_tamperLatch : store (tamperLatch nv m).2 = store m := by
  unfold tamperLatch
  split <;> rfl

theorem store_debugExpiry (hw : m.rst.waiting = []) : store (debugExpiry m) = store m := by
  unfold debugExpiry
  split
  · exact store_ite (store_endSession hw) rfl
  · rfl

theorem store_assayerSummary : store (assayerSummary m) = store m := by
  unfold assayerSummary
  split
  · rfl
  · exact store_applySum _

theorem store_closeTimeout (c : Nat) : store (closeTimeout c m) = store m := by
  unfold closeTimeout
  refine store_ite rfl ?_
  split <;> rfl

theorem store_copyDone (k ns : Nat) : store (copyDone k ns m) = store m := by
  unfold copyDone
  split
  · rfl
  · exact store_report ..

theorem store_orderedDone (n : Nat) : store (orderedDone n m) = store m := by
  unfold orderedDone
  split
  · rfl
  · exact store_ite rfl rfl

theorem store_linkRetrain (k : Nat) (lanes : List Nat) : store (linkRetrain k lanes m) = store m := by
  unfold linkRetrain
  exact store_ite rfl (store_ite rfl (store_report ..))

theorem store_countCustoms (pk : Packet) (r : Nat) : store (countCustoms m pk r) = store m := rfl

theorem store_holeExpiry (src slot : Nat) : store (holeExpiry src slot m) = store m := by
  unfold holeExpiry
  exact store_ite rfl (store_foldl (fun _ _ => store_countCustoms ..) _ _)

/-- A restart of the island with nothing waiting for the caravaneer. -/
theorem store_mpRestartDone (hw : m.rst.waiting = []) : store (mpRestartDone m) = store m := by
  unfold mpRestartDone
  refine store_ite rfl ?_
  extract_lets rst m1 hands fresh mg1 m2 mg2 m3 m4
  have h4 : store m4 = store m ∧ m4.rst.waiting = [] :=
    foldl_keeps (P := fun k => store k = store m ∧ k.rst.waiting = []) (fun k q h => ⟨(store_respond ..).trans h.1, (respond_rst ..).symm ▸ h.2⟩) _ ⟨rfl, hw⟩
  rw [resumeMp_of_empty (report_rst.symm ▸ h4.2)]
  exact (store_report ..).trans h4.1

/-- The commands of `keepsMem`, each a query, a register or an event that stores nothing. -/
theorem store_exec {c : Instr} {s : State} (hc : keepsMem c = true) (hw : resumesMp c = true → s.m.rst.waiting = []) :
    ∃ nv m, exec c s = .next { s with nv := nv, m := m } ∧ store m = store s.m := by
  cases c
  case status op r =>
    refine ⟨_, _, rfl, ?_⟩
    unfold statusCmd
    refine store_ite (store_knaob (stores_ok rfl)) ?_
    split
    next hf => exact store_frontGate hf
    · exact store_respond ..
  case watchOpen | watchClose | cargoSeal | seqRead | boardEvents | powerCap | clockLimit | powerQuery | fwQuery | lifecycleQuery | certRead | eccClear | healthQuery
      | moduleIdSet | waymapUnmap | respTimeoutSet | convoyRemove | customsClear | cargoSwap =>
    refine ⟨_, _, rfl, store_knaob ?_⟩
    repeat refine stores_bind fun _ => ?_
    exact stores_ok rfl
  case wdtSet r =>
    refine ⟨_, _, rfl, store_knaob (stores_bind fun _ => stores_bind fun _ => stores_ok ?_)⟩
    dsimp only [okay]
    exact (store_flashWrite 0).trans rfl
  case retireThreshold r =>
    refine ⟨_, _, rfl, store_knaob (stores_bind fun _ => stores_ok ?_)⟩
    dsimp only [okay]
    exact store_foldl (fun _ _ => store_setThreshold ..) _ _
  case debugLock r => exact ⟨_, _, rfl, store_knaob (stores_ok (store_endSession (hw rfl)))⟩
  case logRead q =>
    refine ⟨_, _, rfl, store_knaob (stores_bind fun _ => stores_ok ?_)⟩
    exact store_foldl (f := fun m (_ : Nat) => noteStrongbox m) (fun _ _ => store_logRec ..) _ _
  case dumpRead q =>
    refine ⟨_, _, rfl, store_knaob ?_⟩
    dsimp only
    split
    · exact stores_error _
    · exact stores_bind fun _ => stores_bind fun _ => stores_bind fun _ => stores_ok (store_ite (store_logRec ..) rfl)
  case counterRead r =>
    refine ⟨_, _, rfl, store_knaob (stores_bind fun _ => stores_bind fun _ => stores_bind fun _ => ?_)⟩
    dsimp only
    split
    · split
      · exact stores_error _
      · exact stores_ok rfl
    · split <;> exact stores_ok rfl
  case waymapMap r =>
    refine ⟨_, _, rfl, store_knaob ?_⟩
    repeat refine stores_bind fun _ => ?_
    extract_lets mk
    split
    · exact stores_error _
    · exact stores_ok rfl
  case waymapRead r =>
    refine ⟨_, _, rfl, store_knaob ?_⟩
    repeat refine stores_bind fun _ => ?_
    extract_lets base mine
    split <;> exact stores_ok rfl
  case orderedOpen r =>
    refine ⟨_, _, rfl, store_knaob ?_⟩
    repeat refine stores_bind fun _ => ?_
    split
    · refine stores_bind fun _ => stores_bind fun _ => ?_
      split
      · exact stores_error _
      · exact stores_ok rfl
    · exact stores_error _
  case fwStage r =>
    refine ⟨_, _, rfl, store_knaobNv ?_⟩
    repeat refine storesNv_bind fun _ => ?_
    exact storesNv_ok rfl
  case fwCommit r =>
    refine ⟨_, _, rfl, store_knaobNv (storesNv_bind fun _ => ?_)⟩
    split
    · exact storesNv_error _
    · exact storesNv_ok rfl
  case mpEvtAck value whole => exact ⟨_, _, rfl, store_mpEvtAck value whole⟩
  case msixUnmask v => exact ⟨_, _, rfl, store_ite rfl (store_unmask v)⟩
  case perst | spEccWriteback | tierEccWriteback | reachRestore => exact ⟨_, _, rfl, rfl⟩
  case fastTrip | getVersion | keyProg | kSetGo | controlFlit | collectionUnitTimeout => exact ⟨_, _, rfl, store_ite rfl rfl⟩
  case thermalStep => exact ⟨_, _, rfl, store_ite rfl (store_ite rfl (store_ite rfl rfl))⟩
  case powerLoopSample w => exact ⟨_, _, rfl, store_powerSample w⟩
  case supplyDroop r => exact ⟨_, _, rfl, store_ite rfl (store_logRec ..)⟩
  case getCapabilities | getDigests => exact ⟨_, _, rfl, store_ite rfl (store_ite rfl rfl)⟩
  case negotiateAlgorithms | getCertificate => exact ⟨_, _, rfl, store_ite rfl (store_ite rfl (store_ite rfl rfl))⟩
  case challenge board slot what => exact ⟨_, _, rfl, store_challenge board slot what⟩
  case getMeasurements board signed slot op => exact ⟨_, _, rfl, store_getMeasurements board signed slot op⟩
  case healthScoreSave => exact ⟨_, _, rfl, store_ite rfl (store_flashWrite 0)⟩
  case tamperLatchSet => exact ⟨_, _, rfl, store_tamperLatch⟩
  case debugSessionExpiry => exact ⟨_, _, rfl, store_debugExpiry (hw rfl)⟩
  case assayerSummary => exact ⟨_, _, rfl, store_assayerSummary⟩
  case endOfRunMarker => exact ⟨_, _, rfl, store_endOfRunMarker⟩
  case closeTimeout c => exact ⟨_, _, rfl, store_closeTimeout c⟩
  case retirementCopyDone k ns => exact ⟨_, _, rfl, store_copyDone k ns⟩
  case refreshEvaluation k hot => exact ⟨_, _, rfl, store_ite rfl (store_ite rfl (store_ite rfl rfl))⟩
  case orderedShareClosed n => exact ⟨_, _, rfl, store_orderedDone n⟩
  case periodicCalibration k ch d => exact ⟨_, _, rfl, store_ite rfl (store_noteMargin ..)⟩
  case waymapPatrol single double =>
    exact ⟨_, _, rfl, (store_foldl (fun _ _ => store_notePatrol ..) double _).trans (store_foldl (fun _ _ => store_notePatrol ..) single _)⟩
  case replayTimeout k => exact ⟨_, _, rfl, store_ite (store_replayLink k) rfl⟩
  case laneFailure k lane => exact ⟨_, _, rfl, store_laneFailure k lane⟩
  case laneRetrainComplete k ns => exact ⟨_, _, rfl, store_ite rfl (store_report ..)⟩
  case portSilent k => exact ⟨_, _, rfl, store_ite (store_linkDown k) rfl⟩
  case linkRetrainAttempt k lanes => exact ⟨_, _, rfl, store_linkRetrain k lanes⟩
  case unreach k dst opcode sequence tag => exact ⟨_, _, rfl, store_unreach k dst opcode sequence tag⟩
  case reorderHoleExpiry src slot => exact ⟨_, _, rfl, store_holeExpiry src slot⟩
  case mpRestartDone => exact ⟨_, _, rfl, store_mpRestartDone (hw rfl)⟩
  all_goals cases hc

/-- Settles O60: `store_exec`; what memory reads as follows from its bytes and the regions under repair. -/
theorem memoryFrame : Obligations.MemoryFrame := by
  intro c s t hc hw hexec
  obtain ⟨nv, m, h, hs⟩ := store_exec hc hw
  rw [h] at hexec
  injection hexec with ht
  subst ht
  obtain ⟨hmem, hpoison⟩ := Prod.mk.inj hs
  refine ⟨hmem, hpoison, fun a n hregs => ?_⟩
  simp only [rdBytes, rdByte, readSource]
  rw [hmem, hregs]

end Sys2Proof.Proofs
end
-- ==== Sys2Proof/Proofs/InputPower.lean ====
section
/-! PROOF. Input power, WAKE# and PERST# (R467, R468, R470, R471), and the loops of the array clock (R473, R474, R477, R478). -/

namespace Sys2Proof.Proofs
open Sys2Proof Sys2Proof.Machine

variable {m : Mach} {nv : NonVol}

/-! ### Ending a session keeps the core, but for the session -/

theorem core_sessionless : core (sessionless m) = ({ m.sec with session := none, mpHalted := false }, (core m).2) := rfl

theorem core_endSession : (core (endSession m)).2 = (core m).2 := by
  by_cases hs : m.sec.session = none
  · rw [endSession, if_pos (Option.isNone_iff_eq_none.mpr hs)]
  · rw [endSession_eq hs, core_resumeMp]
    rfl

theorem pwr_endSession : (endSession m).pwr = m.pwr := congrArg (fun q => q.1) core_endSession
theorem time_endSession : (endSession m).time = m.time := congrArg (fun q => q.2.1) core_endSession
theorem flashLog_endSession : (endSession m).mgmt.flashLog = m.mgmt.flashLog := congrArg (fun q => q.2.2.2.1) core_endSession

/-! ### P4 -/

theorem flashLog_flashWrite (kind : Nat) : (flashWrite m kind).mgmt.flashLog = m.mgmt.flashLog := by
  unfold flashWrite
  dsimp only
  split <;> rfl

theorem pwr_flashWrite (kind : Nat) : (flashWrite m kind).pwr = m.pwr := by
  unfold flashWrite
  dsimp only
  split <;> rfl

theorem time_flashWrite (kind : Nat) : (flashWrite m kind).time = m.time := by
  unfold flashWrite
  dsimp only
  split <;> rfl

theorem flashLog_chargeDown : (chargeDown m).mgmt.flashLog = m.mgmt.flashLog := by
  unfold chargeDown
  split <;> rfl

theorem flashLog_clearForBoot (cold : Bool) : (clearForBoot m cold).mgmt.flashLog = m.mgmt.flashLog := rfl

theorem flashLog_darken : (darken m).mgmt.flashLog = m.mgmt.flashLog := by
  unfold darken clearForBoot bootMgmt
  dsimp only
  rw [flashLog_flashWrite, flashLog_chargeDown]

/-- Only the always-on domain outlives P4. -/
theorem darken_eq (m : Mach) : (darken m).time = m.time ∧ (darken m).pwr.boot = .standby ∧ (darken m).pwr.st = 4 ∧ (darken m).pwr.inputLow = m.pwr.inputLow ∧
    (darken m).ctxs = [] ∧ (darken m).mem = [] ∧ (darken m).mgmt.flashLog = m.mgmt.flashLog := by
  refine ⟨?_, rfl, rfl, ?_, rfl, rfl, flashLog_darken⟩ <;> unfold darken <;> dsimp only

theorem enterP4_eq (m : Mach) : (enterP4 m).time = m.time ∧ (enterP4 m).pwr.boot = .standby ∧ (enterP4 m).pwr.st = 4 ∧ (enterP4 m).pwr.inputLow = m.pwr.inputLow ∧
    (enterP4 m).ctxs = [] ∧ (enterP4 m).mem = [] ∧ (enterP4 m).mgmt.flashLog = m.mgmt.flashLog := by
  obtain ⟨h1, h2, h3, h4, h5, h6, h7⟩ := darken_eq (endSession m)
  exact ⟨h1.trans time_endSession, h2, h3, h4.trans (congrArg PwrS.inputLow pwr_endSession), h5, h6, h7.trans flashLog_endSession⟩

theorem not_inP4_of_running (h : m.pwr.boot = .running) : inP4 m = false := by
  rw [inP4, h]
  rfl

/-- The record an undervoltage leaves in flash is its own. -/
theorem logRec_undervoltage (code unit : Nat) :
    (tget noLog (logRec m code clsDevice unit 0 0 none []).mgmt.log (m.mgmt.logHead.toNat % 65536)).cls = clsDevice := by
  unfold logRec
  dsimp only
  rw [if_neg (by decide : ¬ clsDevice = clsCorrected)]
  dsimp only
  rw [tget_tset, if_pos rfl]

/-- What an undervoltage of the running module leaves. -/
theorem inputLow_eq (hb : m.pwr.boot = .running) (hr : m.rst.inReset = false) : ∃ r, r.cls = clsDevice ∧ (inputLow m).pwr.boot = .standby ∧ (inputLow m).pwr.st = 4 ∧
    (inputLow m).pwr.inputLow = true ∧ (inputLow m).time.counter = m.time.counter ∧ (inputLow m).ctxs = [] ∧ (inputLow m).mem = [] ∧
    (inputLow m).mgmt.flashLog = m.mgmt.flashLog ++ [r] := by
  have h1 : ¬ (m.pwr.boot == .dark) = true := by rw [hb]; decide
  have h2 : ¬ (inP4 m || m.rst.inReset) = true := by rw [not_inP4_of_running hb, hr]; decide
  refine ⟨_, logRec_undervoltage (m := m) (Config.logCode 5) (unitChip 5), ?_⟩
  unfold inputLow
  rw [if_neg h1, if_neg h2]
  extract_lets n m1 r
  have hl : m1.mgmt.flashLog = m.mgmt.flashLog := logRec_flashLog ..
  have ht : m1.time = m.time := by
    unfold m1 logRec
    dsimp only
    split <;> rfl
  generalize hX : flashWrite _ 2 = x
  have hlow : x.pwr.inputLow = true := by rw [← hX, pwr_flashWrite]
  have htime : x.time = m.time := by rw [← hX, time_flashWrite]; exact ht
  have hlog : x.mgmt.flashLog = m.mgmt.flashLog ++ [r] := by rw [← hX, flashLog_flashWrite, ← hl]
  obtain ⟨e1, e2, e3, e4, e5, e6, e7⟩ := enterP4_eq x
  exact ⟨e2, e3, e4.trans hlow, by rw [e1, htime], e5, e6, e7.trans hlog⟩

/-- Settles O26: P4 is `darken`, and a boot is `boot`. -/
theorem inputPower : Obligations.InputPower := by
  refine ⟨?_, ?_, ?_, ?_, ?_, ?_, ?_, ?_, ?_⟩
  · intro s f h
    have hgo : (s.m.pwr.boot == .dark || inP4 s.m) = true := by rcases h with h | h <;> simp [h]
    exact ⟨_, runD_of (f := inputRise f) (if_pos hgo), rfl, Prod.mk.eta⟩
  · intro s f hp hl hh
    have hgo : (inP4 s.m && !s.m.pwr.inputLow && (false || !s.m.pwr.hotLatch)) = true := by rw [hp, hl, hh]; rfl
    exact ⟨_, runD_of (f := wake _ f) (if_pos hgo), rfl, Prod.mk.eta⟩
  · intro s f hp hl
    have hgo : (inP4 s.m && !s.m.pwr.inputLow && (true || !s.m.pwr.hotLatch)) = true := by rw [hp, hl]; rfl
    exact ⟨_, runD_of (f := wake _ f) (if_pos hgo), rfl, Prod.mk.eta⟩
  · intro s f hp hh
    have hstop : ¬ (inP4 s.m && !s.m.pwr.inputLow && (false || !s.m.pwr.hotLatch)) = true := by rw [hh]; simp
    exact runD_of (f := wake false f) (if_neg hstop)
  · intro s hb _ hr
    obtain ⟨r, hcls, h1, h2, h3, h4, h5, h6, h7⟩ := inputLow_eq (m := s.m) hb hr
    exact ⟨_, r, rfl, rfl, rfl, h1, h2, h3, h4, h5, h6, h7, hcls⟩
  · exact fun s => ⟨_, rfl, rfl, rfl, rfl, rfl, rfl, rfl, rfl, rfl⟩
  · exact fun s => ⟨_, _, rfl, rfl, rfl⟩
  · intro s hb hf
    have hup : (!false && s.m.pwr.boot == .running && !chipFenced s.m) = true := by rw [hb, hf]; rfl
    change Host.Outcome.next { s with m := perst false s.m } = _
    simp only [perst, hup, if_true]
  · exact fun s => rfl

end Sys2Proof.Proofs
end
-- ==== Sys2Proof/Proofs/ClockLoops.lean ====
section
/-! PROOF. The loops that move the array clock, and thermal shutdown (R473, R474, R477, R478). -/

namespace Sys2Proof.Proofs
open Sys2Proof Sys2Proof.Machine

variable {m : Mach} {nv : NonVol}

/-! ### Steps of the clock -/

theorem stepDown_mod (f : Nat) : stepDown f % 25 = 0 := by
  unfold stepDown
  rcases Nat.le_total 200 ((f - 1) / 25 * 25) with h | h
  · rw [max_eq_right h]; omega
  · rw [max_eq_left h]

theorem stepDown_bounds {f : Nat} (h : 200 < f) : stepDown f < f ∧ f ≤ stepDown f + 25 := by
  unfold stepDown
  omega

theorem stepUp_bounds {top f : Nat} (h : f < top) : f < stepUp top f ∧ stepUp top f ≤ top ∧ stepUp top f ≤ f + 25 := by
  unfold stepUp
  omega

theorem le_stepsDown {n f : Nat} (h : 200 ≤ f) : 200 ≤ stepsDown n f := by
  induction n generalizing f with
  | zero => exact h
  | succ n ih => exact ih (le_max_left ..)

theorem stepsDown_eq {n f : Nat} (hf : f % 25 = 0) (h : 200 + 25 * n ≤ f) : stepsDown n f = f - 25 * n := by
  induction n generalizing f with
  | zero => rfl
  | succ n ih =>
    have hstep : stepDown f = f - 25 := by unfold stepDown; omega
    rw [stepsDown, hstep, ih (by omega) (by omega)]
    omega

/-! ### The power loop -/

/-- A sample as it is kept. -/
def sampled (p : PwrS) (w : Nat) : PwrS := { p with samples := (w :: p.samples).take 100, stepAt := min 100 (p.stepAt + 1), upAt := min 100 (p.upAt + 1) }

/-- Whether a hundred samples stood below 97 % of the cap. -/
def underCap (p : PwrS) (cap : Nat) : Bool :=
  p.samples.length == 100 && p.samples.all (fun x => x * 100 < 97 * cap) && p.samples.foldl (· + ·) 0 * 100 < 97 * cap * 100

/-- What the loop makes of a sample. -/
def loopStep (top w : Nat) (p : PwrS) : PwrS :=
  if p.capW < w then
    if 2 ≤ p.stepAt && 200 < appliedMhz p then { p with loopMhz := stepDown (appliedMhz p), stepAt := 0 } else p
  else if underCap p p.capW && p.upAt = 100 && p.loopMhz < top then { p with loopMhz := stepUp top p.loopMhz, upAt := 0 }
  else p

theorem powerSample_of_running (hr : chipRuns m = true) (hs : mpStopped m = false) (w : Nat) :
    powerSample w m = { m with pwr := { loopStep (maxMhz m) w (sampled m.pwr w) with
      capUnmet := decide (m.pwr.capW < w) && appliedMhz (loopStep (maxMhz m) w (sampled m.pwr w)) == 200 } } := by
  unfold powerSample
  rw [if_neg (by simp [hr])]
  dsimp only
  rw [if_neg (by simp [hs])]
  rfl

theorem loopStep_down {top w : Nat} {p : PwrS} (h : p.capW < w) (h2 : 2 ≤ p.stepAt) (hf : 200 < appliedMhz p) :
    loopStep top w p = { p with loopMhz := stepDown (appliedMhz p), stepAt := 0 } := by
  rw [loopStep, if_pos h, if_pos (by simp [h2, hf])]

theorem loopStep_above {top w : Nat} {p : PwrS} (h : p.capW < w) (hno : p.stepAt < 2 ∨ appliedMhz p ≤ 200) : loopStep top w p = p := by
  rw [loopStep, if_pos h, if_neg]
  simp only [Bool.and_eq_true, decide_eq_true_eq]
  omega

theorem loopStep_up {top w : Nat} {p : PwrS} (h : w ≤ p.capW) (hu : underCap p p.capW = true) (h100 : p.upAt = 100) (ht : p.loopMhz < top) :
    loopStep top w p = { p with loopMhz := stepUp top p.loopMhz, upAt := 0 } := by
  rw [loopStep, if_neg (Nat.not_lt.mpr h), if_pos (by simp [hu, h100, ht])]

theorem loopStep_hold {top w : Nat} {p : PwrS} (h : w ≤ p.capW) (hno : underCap p p.capW = false ∨ p.upAt < 100 ∨ top ≤ p.loopMhz) : loopStep top w p = p := by
  rw [loopStep, if_neg (Nat.not_lt.mpr h), if_neg]
  simp only [Bool.and_eq_true, decide_eq_true_eq, not_and, Nat.not_lt]
  rintro ⟨hu, h100⟩
  rcases hno with hno | hno | hno
  · rw [hno] at hu; cases hu
  · omega
  · exact hno

theorem foldl_add_le {b : Nat} (l : List Nat) (a : Nat) (h : ∀ x ∈ l, x * 100 < b) : l.foldl (· + ·) a * 100 + l.length ≤ a * 100 + b * l.length := by
  induction l generalizing a with
  | nil => exact le_rfl
  | cons x l ih =>
    have hx := h x List.mem_cons_self
    have hl := ih (a + x) fun y hy => h y (List.mem_cons_of_mem x hy)
    rw [List.foldl_cons, List.length_cons, Nat.mul_add_one b]
    omega

theorem underCap_of {p : PwrS} {cap : Nat} (hlen : p.samples.length = 100) (h : ∀ x ∈ p.samples, x * 100 < 97 * cap) : underCap p cap = true := by
  have hsum := foldl_add_le p.samples 0 h
  rw [hlen] at hsum
  simp only [underCap, hlen, Bool.and_eq_true, decide_eq_true_eq, List.all_eq_true]
  exact ⟨⟨rfl, h⟩, by omega⟩

theorem not_underCap {p : PwrS} {cap : Nat} (h : p.samples.length < 100 ∨ ∃ x ∈ p.samples, 97 * cap ≤ x * 100) : underCap p cap = false := by
  refine Bool.eq_false_iff.mpr fun hu => ?_
  simp only [underCap, Bool.and_eq_true, decide_eq_true_eq, List.all_eq_true, beq_iff_eq] at hu
  obtain ⟨⟨hlen, hall⟩, -⟩ := hu
  rcases h with h | ⟨x, hx, hle⟩
  · omega
  · exact absurd (hall x hx) (Nat.not_lt.mpr hle)

/-! ### Thermal steps and shutdown -/

theorem chipRuns_mpGo (hr : chipRuns m = true) (hs : mpStopped m = false) : ¬ (!chipRuns m || mpStopped m) = true := by
  rw [hr, hs]
  exact Bool.false_ne_true

theorem chipStands (h : chipRuns m = false ∨ mpStopped m = true) : (!chipRuns m || mpStopped m) = true := by
  rcases h with h | h <;> simp [h]

theorem thermalStep_hot (hr : chipRuns m = true) (hs : mpStopped m = false) (hh : m.pwr.hot = true) :
    thermalStep m = { m with pwr := { m.pwr with thermMhz := stepDown (appliedMhz m.pwr) } } := by
  rw [thermalStep, if_neg (chipRuns_mpGo hr hs)]
  exact if_pos hh

theorem thermalStep_up (hr : chipRuns m = true) (hs : mpStopped m = false) (hh : m.pwr.hot = false) (hd : m.pwr.dieMax < 90)
    (hm : m.pwr.thermMhz < min m.pwr.limitMhz m.pwr.loopMhz) :
    thermalStep m = { m with pwr := { m.pwr with thermMhz := stepUp (maxMhz m) m.pwr.thermMhz } } := by
  rw [thermalStep, if_neg (chipRuns_mpGo hr hs)]
  exact (if_neg (Bool.eq_false_iff.mp hh)).trans (if_pos (by simp only [Bool.and_eq_true, decide_eq_true_eq]; exact ⟨hd, hm⟩))

theorem thermalStep_hold (hr : chipRuns m = true) (hs : mpStopped m = false) (hh : m.pwr.hot = false)
    (hno : 90 ≤ m.pwr.dieMax ∨ min m.pwr.limitMhz m.pwr.loopMhz ≤ m.pwr.thermMhz) : thermalStep m = m := by
  rw [thermalStep, if_neg (chipRuns_mpGo hr hs)]
  refine (if_neg (Bool.eq_false_iff.mp hh)).trans (if_neg ?_)
  simp only [Bool.and_eq_true, decide_eq_true_eq, not_and]
  omega

theorem thermalShutdown_of {q : NonVol × Mach} {n : Mach} (hb : m.pwr.boot ≠ .dark) (hp : inP4 m = false) (hr : m.rst.inReset = false)
    (hq : q = if alarmArmed m = true then raiseAlarm nv m 3 else (nv, m))
    (hn : n = enterP4 (teardownAll (if q.2.health.downSince = none then { q.2 with health := { q.2.health with downSince := some (now q.2) } } else q.2) 0x4001)) :
    thermalShutdown nv m = (q.1, { n with pwr := { n.pwr with hotLatch := true }, pcie := { n.pcie with faultLow := true } }) := by
  have hgo : ¬ (m.pwr.boot == .dark || inP4 m || m.rst.inReset) = true := by rw [hp, hr]; simpa using hb
  rw [hn, hq, thermalShutdown, if_neg hgo]
  simp only [Option.isNone_iff_eq_none]

theorem thermalShutdown_armed (hb : m.pwr.boot ≠ .dark) (hp : inP4 m = false) (hr : m.rst.inReset = false) (ha : alarmArmed m = true) :
    ∃ x, thermalShutdown nv m = ((raiseAlarm nv m 3).1,
      { enterP4 x with pwr := { (enterP4 x).pwr with hotLatch := true }, pcie := { (enterP4 x).pcie with faultLow := true } }) :=
  ⟨_, thermalShutdown_of hb hp hr (if_pos ha).symm rfl⟩

theorem stopVerify_alarms : (stopVerify nv m).1.alarms = nv.alarms := by
  unfold stopVerify
  split <;> rfl

theorem eraseKeys_alarms : (eraseKeys nv m).1.alarms = nv.alarms := by
  unfold eraseKeys
  split <;> rfl

/-- An alarm counts its condition and no other; stopping what verifies and erasing keys leave the counts alone. -/
theorem raiseAlarm_alarms (cond : Nat) : (raiseAlarm nv m cond).1.alarms = modNth nv.alarms cond (fun x => satAdd x 1) := by
  unfold raiseAlarm
  extract_lets level nv1 sec m1 m2 sec2 r
  have hr : r.1.alarms = nv1.alarms := by
    unfold r
    split
    · rfl
    · exact stopVerify_alarms
  split
  · exact hr
  · exact eraseKeys_alarms.trans hr

/-- Settles O27: each loop is one step of `loopStep` or of `thermalStep`; a shutdown enters P4. -/
theorem clockLoops : Obligations.ClockLoops := by
  refine ⟨?_, ?_, ?_, ?_, ?_, ?_, ?_, ?_, ?_, ?_, ?_, ?_, ?_, ?_⟩
  · intro s w p hr hs hp
    have hsample : exec (.powerLoopSample w) s = .next { s with m := { s.m with pwr := { loopStep (maxMhz s.m) w p with
        capUnmet := decide (s.m.pwr.capW < w) && appliedMhz (loopStep (maxMhz s.m) w p) == 200 } } } := by
      change Host.Outcome.next { s with m := powerSample w s.m } = _
      rw [powerSample_of_running hr hs, hp]
      rfl
    have hcap : p.capW = s.m.pwr.capW := by rw [hp]
    have hloop : p.loopMhz = s.m.pwr.loopMhz := by rw [hp]
    have happ : appliedMhz p = appliedMhz s.m.pwr := by rw [hp]; rfl
    refine ⟨?_, ?_, ?_, ?_⟩
    · intro h h2 hf
      rw [hsample, loopStep_down (hcap ▸ h) h2 (happ ▸ hf), decide_eq_true h, happ]
      rfl
    · intro h hno
      rw [hsample, loopStep_above (hcap ▸ h) (happ ▸ hno), decide_eq_true h, happ]
      rfl
    · intro h h100 ht hlen hall
      rw [hsample, loopStep_up (hcap ▸ h) (underCap_of hlen (hcap ▸ hall)) h100 (hloop ▸ ht), decide_eq_false (Nat.not_lt.mpr h), hloop]
      rfl
    · intro h hno
      have hhold : underCap p p.capW = false ∨ p.upAt < 100 ∨ maxMhz s.m ≤ p.loopMhz := by
        rcases hno with hno | hno | hno | hno
        · exact .inr (.inl hno)
        · exact .inr (.inr (hloop ▸ hno))
        · exact .inl (not_underCap (.inl hno))
        · exact .inl (not_underCap (.inr (hcap ▸ hno)))
      rw [hsample, loopStep_hold (hcap ▸ h) hhold, decide_eq_false (Nat.not_lt.mpr h)]
      rfl
  · intro s hr hs
    change Host.Outcome.next { s with m := fastTrip s.m } = _
    rw [fastTrip, if_neg (chipRuns_mpGo hr hs)]
  · intro s w hr
    change Host.Outcome.next { s with m := powerSample w s.m } = _
    rw [powerSample, if_pos (by simp [hr])]
  · intro s w hr hs
    change Host.Outcome.next { s with m := powerSample w s.m } = _
    rw [powerSample, if_neg (by simp [hr])]
    dsimp only
    rw [if_pos hs]
  · exact fun n f => ⟨le_stepsDown (f := stepDown f) (le_max_left ..), (stepsDown_eq (by omega) le_rfl).trans (by omega)⟩
  · exact fun n f hf h => stepsDown_eq hf h
  · intro s hr hs
    refine ⟨fun hh => ?_, fun hh hd hm => ?_, fun hh hno => ?_⟩
    · exact congrArg (fun m => Host.Outcome.next { s with m := m }) (thermalStep_hot hr hs hh)
    · exact congrArg (fun m => Host.Outcome.next { s with m := m }) (thermalStep_up hr hs hh hd hm)
    · exact congrArg (fun m => Host.Outcome.next { s with m := m }) (thermalStep_hold hr hs hh hno)
  · intro s hno
    have hthermal : thermalStep s.m = s.m := by rw [thermalStep, if_pos (chipStands hno)]
    have htrip : fastTrip s.m = s.m := by rw [fastTrip, if_pos (chipStands hno)]
    refine ⟨?_, ?_⟩
    · change Host.Outcome.next { s with m := thermalStep s.m } = _
      rw [hthermal]
    · change Host.Outcome.next { s with m := fastTrip s.m } = _
      rw [htrip]
  · intro s q m n hb hp hr hq hm hn
    subst hm
    exact runD_of (thermalShutdown_of hb hp hr hq hn)
  · intro s h
    refine runD_of (f := thermalShutdown) (if_pos ?_)
    rcases h with h | h | h <;> simp [h]
  · intro m
    obtain ⟨-, h1, h2, -, h3, h4, -⟩ := enterP4_eq m
    exact ⟨h2, h1, h3, h4⟩
  · intro s hb hst hr
    have harmed : alarmArmed s.m = true := by simp [alarmArmed, hb, hst, hr]
    obtain ⟨x, hx⟩ := thermalShutdown_armed (nv := s.nv) (by rw [hb]; decide) (not_inP4_of_running hb) hr harmed
    obtain ⟨-, h1, h2, -, h3, -, -⟩ := enterP4_eq x
    exact ⟨_, runD_of hx, rfl, raiseAlarm_alarms 3, h1, h2, rfl, rfl, h3⟩
  · exact fun f => ⟨stepDown_mod f, le_max_left .., stepDown_bounds⟩
  · exact fun top f h => stepUp_bounds h

end Sys2Proof.Proofs
end
-- ==== Sys2Proof/Proofs/Detections.lean ====
section
/-! PROOF. What each detection leads to (R374, R377, R409, R410). -/

namespace Sys2Proof.Proofs
open Sys2Proof Sys2Proof.Machine

variable {m : Mach} {s : State}

/-- A step of the module alone, given what it makes of the module. -/
theorem next_of {f : Mach → Mach} {m : Mach} (h : f s.m = m) : runM f s = .next { s with m := m } := by
  rw [runM, h]

/-! ### The restart of the management island -/

theorem chipFenced_of_runs (h : chipRuns m = true) : chipFenced m = false := by
  simp only [chipRuns, Bool.and_eq_true, Bool.not_eq_true'] at h
  exact h.2

/-- Whether a restart is the second within the hour (R409). -/
theorem startRestart_again {cause t : Nat} (hr : m.rst.restarting = false) (hf : chipFenced m = false) (ht : m.rst.restartAt = some t)
    (hin : now m - t < 3600 * 1000000000) : startRestart m cause = startReset m 5 (unitChip 5) 0x1006 false true none := by
  rw [startRestart, if_neg (by rw [hr, hf]; decide)]
  simp only [ht, decide_eq_true hin, if_true]

theorem startRestart_first {cause : Nat} (hr : m.rst.restarting = false) (hf : chipFenced m = false)
    (ht : ∀ t, m.rst.restartAt = some t → 3600 * 1000000000 ≤ now m - t) :
    ∃ k, k = endSession { m with rst := { m.rst with restarting := true, restartAt := some (now m), restartCause := cause } } ∧
      startRestart m cause = { k with mgmt := { k.mgmt with accepted := [], mbx := k.mgmt.mbx.map (fun b => { b with st := .restarting }) } } := by
  refine ⟨_, rfl, ?_⟩
  rw [startRestart, if_neg (by rw [hr, hf]; decide)]
  split
  next t heq => rw [if_neg (by simpa using ht t heq)]
  next => rfl

/-! ### The end of the restart -/

/-- The long commands and the mailboxes. -/
def hands (m : Mach) : List LongOp × List Mbx := (m.mgmt.ops, m.mgmt.mbx)

theorem hands_signal (v : Nat) : hands (signal m v) = hands m := by
  unfold signal
  split <;> rfl

theorem hands_hostEvent (cls : Nat) (e : Event) : hands (hostEvent m cls e) = hands m := by
  unfold hostEvent
  dsimp only
  split
  · exact hands_signal 1
  · rfl

theorem hands_logRec (code cls unit dump flags : Nat) (ctx : Option Nat) (d : List Byte) : hands (logRec m code cls unit dump flags ctx d) = hands m := by
  unfold logRec
  dsimp only
  split <;> rfl

theorem hands_boardEvent (cls : Nat) (e : Event) : hands (boardEvent m cls e) = hands m := rfl

theorem hands_report (code cls unit : Nat) (ctx : Option Nat) (contexts subject : Nat) (d : List Byte) :
    hands (report m code cls unit ctx contexts subject d) = hands m := by
  unfold report
  extract_lets m1 e m2
  have h2 : hands m2 = hands m := by
    unfold m2
    split
    · exact (hands_hostEvent ..).trans (hands_logRec ..)
    · exact hands_logRec ..
  split
  · exact (hands_boardEvent ..).trans h2
  · exact h2

theorem ops_respond (opcode : Nat) (r : Req) (status tag : Nat) (payload : List Byte) (moves : Bool) :
    (respond m opcode r status tag payload moves).mgmt.ops = m.mgmt.ops := by
  unfold respond
  dsimp only
  split
  · exact congrArg Prod.fst (hands_signal 0)
  · rfl

/-- A mailbox as a restart leaves it. -/
def restartedMbx (b : Mbx) : Mbx := { b with st := .idle, accepted := false, tally := 0, kept := [], keptStatus := 0, inHand := none }

/-- A long command as a restart leaves it. -/
def restartedOp (o : LongOp) : LongOp := if o.outcome.isNone then { o with outcome := some (0x53, 0) } else o

theorem restartedOp_outcome (o : LongOp) : (restartedOp o).outcome ≠ none := by
  unfold restartedOp
  split
  · exact Option.some_ne_none _
  next h => exact fun hn => h (Option.isNone_iff_eq_none.mpr hn)

/-- The end of a restart for which nothing waits: every long command has its outcome, and the mailboxes start anew. -/
theorem mpRestartDone_hands (hr : m.rst.restarting = true) (hw : m.rst.waiting = []) :
    (mpRestartDone m).rst.restarting = false ∧ (mpRestartDone m).mgmt.ops = m.mgmt.ops.map restartedOp ∧
      ((∀ p, (getMbx m p).inHand = none) → (mpRestartDone m).mgmt.mbx = m.mgmt.mbx.map restartedMbx) := by
  unfold mpRestartDone
  rw [if_neg (by rw [hr]; decide)]
  extract_lets rst m1 held fresh mg1 m2 mg2 m3 m4
  have h4 : m4.rst = { m.rst with restarting := false } ∧ m4.mgmt.ops = m.mgmt.ops.map restartedOp :=
    foldl_keeps (P := fun k => k.rst = { m.rst with restarting := false } ∧ k.mgmt.ops = m.mgmt.ops.map restartedOp)
      (fun k q h => ⟨(respond_rst ..).trans h.1, (ops_respond ..).trans h.2⟩) _ ⟨rfl, rfl⟩
  have hmbx : (∀ p, (getMbx m p).inHand = none) → m4.mgmt.mbx = m.mgmt.mbx.map restartedMbx := fun hnone => by
    have hheld : held = [] := by
      have hp : ∀ p, (getMbx m1 p).inHand = none := hnone
      simp only [held, List.filterMap_cons, hp, List.filterMap_nil]
    unfold m4
    rw [hheld]
    rfl
  rw [resumeMp_of_empty (by rw [report_rst, h4.1]; exact hw)]
  have hreport := hands_report (m := m4) 0x1006 clsCorrected (unitChip 5) none 0 0 (leBytes 1 (Config.mpCause m4.rst.restartCause))
  refine ⟨by rw [report_rst, h4.1], ?_, fun hnone => ?_⟩
  · exact (congrArg Prod.fst hreport).trans h4.2
  · exact (congrArg Prod.snd hreport).trans (hmbx hnone)

theorem getMbx_restarted {l : List Mbx} (h : m.mgmt.mbx = l.map restartedMbx) (p : Port) : (getMbx m p).st = .idle ∧ (getMbx m p).accepted = false := by
  rw [getMbx, h, List.getD_eq_getElem?_getD, List.getElem?_map]
  cases l[portIx p]? <;> exact ⟨rfl, rfl⟩

/-- Settles O28, clause by clause: what a detection leads to is the row's own branch, and the end of a restart leaves what `mpRestartDone_hands` says. -/
theorem detections : Obligations.Detections := by
  refine ⟨?_, ?_, ?_, ?_, ?_, ?_, ?_, ?_, ?_, ?_, ?_, ?_, ?_⟩
  · exact fun s r hon hr => next_of (if_neg (by simp [hon, hr]))
  · exact fun s hr => next_of (if_neg (by simp [hr]))
  · exact fun s k hon hk => next_of (if_neg (by simp [hon, hk]))
  · intro s k hr hk
    rcases hk with rfl | rfl | rfl | rfl <;> exact next_of (if_neg (by simp [hr]))
  · exact fun s k hk hst => next_of (if_neg (by simp [hk, hst]))
  · intro s u hon hkind hix hsub
    refine next_of ?_
    simp only [duplicateMismatch, hkind]
    exact if_neg (by rcases hsub with h | h <;> simp [hon, hix, h])
  · intro s u hon hkind hix h1 h3
    refine next_of ?_
    simp only [duplicateMismatch, hkind]
    rw [if_neg (by simp [hon]; omega), if_neg (by omega)]
  · intro s u hr hkind hsub
    refine next_of ?_
    simp only [duplicateMismatch, hkind]
    exact if_neg (by simp [hr]; omega)
  · intro s hr hrest ht
    obtain ⟨k, hk, hstart⟩ := startRestart_first (m := noteMismatch s.m) (cause := 0) hrest (chipFenced_of_runs hr) ht
    have hrow : lockstepMismatch s.m = _ := (if_neg (by simp [hr, hrest])).trans hstart
    have hcore := hk ▸ core_endSession (m := { noteMismatch s.m with rst := { s.m.rst with restarting := true, restartAt := some (now s.m), restartCause := 0 } })
    refine ⟨_, next_of hrow, rfl, ?_, ?_, ?_, ?_, ?_⟩
    · exact congrArg (fun q => q.2.2.2.2.2.1) hcore
    · exact congrArg (fun q => q.2.2.2.2.2.2.1) hcore
    · exact congrArg (fun q : SecS => q.session) (rfl : k.sec = k.sec) ▸ hk ▸ endSession_session
    · exact congrArg (fun q => q.2.2.2.2.1) hcore
    · intro b hb
      obtain ⟨x, -, rfl⟩ := List.mem_map.mp hb
      rfl
  · intro s t hr hrest ht hin
    refine next_of ?_
    rw [lockstepMismatch, if_neg (by simp [hr, hrest])]
    exact startRestart_again (m := noteMismatch s.m) hrest (chipFenced_of_runs hr) ht hin
  · exact fun s hrest => next_of (if_neg (by simp [hrest]))
  · exact fun m c trigger => ⟨fun hs hf => if_pos (by rw [hs, hf]; rfl), fun hs => ⟨if_neg (by simp [hs]), if_neg (by simp [hs])⟩⟩
  · intro s hrest hw
    obtain ⟨hr, hops, hmbx⟩ := mpRestartDone_hands hrest hw
    refine ⟨_, rfl, rfl, hr, ?_, fun hnone p => getMbx_restarted (hmbx hnone) p⟩
    intro o ho
    have ho' : o ∈ (mpRestartDone s.m).mgmt.ops := ho
    rw [hops] at ho'
    obtain ⟨x, -, rfl⟩ := List.mem_map.mp ho'
    exact restartedOp_outcome x

end Sys2Proof.Proofs
end

