-- ==== Sys2Proof/Proofs/SecurityEvents.lean ====
section

/-! PROOF. Alarms, and the debug session that a level 2 alarm ends. The island that a D2 session halted runs again with the end of that session, so that a teardown
which waited for it starts: a level 2 alarm need not leave the contexts alone. -/

namespace Sys2Proof.Proofs

open Sys2Proof Sys2Proof.Machine

/-- A module whose island a D2 session halted while the context of slot 0 is ACTIVE and its teardown waits for the island. -/
def heldTeardown : Mach := { machReset with
  ctxs := [(0, { ctxReset with st := .active })]
  sec := { machReset.sec with session := some { level := 2, scope := 0xFF, ends := none }, mpHalted := true }
  rst := { machReset.rst with waiting := [.teardown 0 0x1006] } }

/-- Fuses and flash whose policy gives alarm condition 0 level 2. -/
def levelTwo : NonVol := { nvReset with policy := { nvReset.policy with levels := [2, 2, 2, 2, 2] } }

/-- The alarm ends the session, with it the halt of the island, and the waiting teardown starts. -/
theorem levelTwo_starts_teardown : (tget ctxReset (raiseAlarm levelTwo heldTeardown 0).2.ctxs 0).st = .teardown := by decide

/-- Refutes O29: its clause of level 2 says that the contexts stay as they are. -/
theorem not_securityEvents : ¬ Obligations.SecurityEvents := by
  rintro ⟨-, -, -, -, -, -, -, -, -, -, hraise⟩
  obtain ⟨-, -, -, -, htwo, -⟩ := hraise levelTwo heldTeardown 0 2 rfl
  obtain ⟨-, -, -, hctxs⟩ := htwo rfl
  have hactive : (tget ctxReset (raiseAlarm levelTwo heldTeardown 0).2.ctxs 0).st = .active := congrArg (fun t => (tget ctxReset t 0).st) hctxs
  rw [levelTwo_starts_teardown] at hactive
  exact absurd hactive (by decide)

end Sys2Proof.Proofs

end

