-- ==== Sys2Proof/Proofs/Attestation.lean ====
section

/-! PROOF. The SPDM responder: each request, past its checks, is answered by one message on its port. -/

namespace Sys2Proof.Proofs

open Sys2Proof Sys2Proof.Machine

theorem length_freeBytes (m : Mach) (n : Nat) : (freeBytes m n).length = n := by rw [freeBytes, List.length_map, List.length_range]

/-- A stretch of free bytes within the ones drawn has the length asked for. -/
theorem length_freeBytes_part (m : Mach) {n k off : Nat} (h : off + k ≤ n) : (((freeBytes m n).drop off).take k).length = k := by
  rw [List.length_take, List.length_drop, length_freeBytes]
  omega

theorem spdmOf_setSpdm (m : Mach) (b : Bool) (q : Spdm) : spdmOf (setSpdm m b q) b = q := by cases b <;> rfl

theorem spdmOut_setSpdm (m : Mach) (b : Bool) (q : Spdm) : (setSpdm m b q).sec.spdmOut = m.sec.spdmOut := by cases b <;> rfl

theorem spdmOf_sent (m : Mach) (b : Bool) (bs : List Byte) (n : Nat) : spdmOf (freeStep (spdmSend m b bs) n) b = spdmOf m b := by cases b <;> rfl

theorem ideUp_of {m : Mach} (hr : chipRuns m = true) (hl : m.pcie.linkUp = true) :
    ideUp { m with pcie := { m.pcie with mse := false } } false = true := by
  have hruns : chipRuns { m with pcie := { m.pcie with mse := false } } = true := hr
  rw [ideUp, hruns]
  exact congrArg (fun l => true && l && !false) hl

theorem not_ideUp_mse (m : Mach) : ideUp m true = false := by simp [ideUp]

section
variable {nv : NonVol} {m : Mach} {b : Bool}

theorem getCapabilities_of (hu : spdmUp m b = true) (hv : (spdmOf m b).version = true) : getCapabilities b m =
    freeStep (spdmSend (setSpdm m b { version := true, caps := true, algs := false }) b
      (spdmHead 0x61 0 0 ++ leBytes 1 0 ++ (freeBytes m 9).take 1 ++ leBytes 2 0 ++ leBytes 4 0x36 ++ ((freeBytes m 9).drop 1).take 8)) 9 := by
  simp [getCapabilities, hu, hv]

theorem challenge_of {what : Nat} (hu : spdmUp m b = true) (ha : (spdmOf m b).algs = true) (hw : what = 0 ∨ what = 1 ∨ what = 255) (hs : canSign nv m = true) :
    challenge b 0 what nv m = freeStep (spdmSend m b (spdmHead 0x03 0 1 ++ chainDigest nv ++ (freeBytes m 608).take 32 ++
      (if what = 0 then [] else if what = 255 then padTo 64 (Config.sha512 (allBlocks nv m)) else ((freeBytes m 608).drop 544).take 64) ++ leBytes 2 0 ++
      ((freeBytes m 608).drop 32).take 512)) 608 := by
  have hwhat : (what != 0 && what != 1 && what != 255) = false := by rcases hw with rfl | rfl | rfl <;> rfl
  simp [challenge, hu, ha, hwhat, hs]

theorem getMeasurements_of {signed : Bool} {slot i : Nat} (hu : spdmUp m b = true) (ha : (spdmOf m b).algs = true)
    (hs : signed = true → slot = 0 ∧ canSign nv m = true) (hi : i ≤ 7 ∨ i = 255) :
    getMeasurements b signed slot i nv m = freeStep (spdmSend m b
      (spdmHead 0x60 (if i = 0 then 7 else 0) 0 ++ leBytes 1 (if i = 0 then 0 else if i = 255 then 7 else 1) ++
        leBytes 3 (if i = 0 then [] else if i = 255 then allBlocks nv m else measBlock nv m i).length ++
        (if i = 0 then [] else if i = 255 then allBlocks nv m else measBlock nv m i) ++
        (freeBytes m 544).take 32 ++ leBytes 2 0 ++ if signed then (freeBytes m 544).drop 32 else [])) 544 := by
  have hslot : (signed && slot != 0) = false := by cases signed <;> simp_all
  have hsign : (signed && !canSign nv m) = false := by cases signed <;> simp_all
  have hix : (decide (7 < i) && i != 255) = false := by
    rcases hi with h | rfl
    · simp [h]
    · rfl
  simp [getMeasurements, hu, ha, hslot, hsign, hix]

theorem length_signature (signed : Bool) : (if signed then (freeBytes m 544).drop 32 else []).length = if signed then 512 else 0 := by
  cases signed
  · rfl
  · simp [length_freeBytes]

end

/-- Settles O30, request by request: what each answers is the row's own message, and nonces and signatures are stretches of the free bytes. -/
theorem attestation : Obligations.Attestation := by
  refine ⟨?_, ?_, ?_, ?_, ?_, ?_, ?_, ?_, ?_, ?_, ?_⟩
  · exact fun s b hu => next_of (if_neg (by simp [hu]))
  · intro s b hu hv
    refine ⟨_, _, _, next_of (getCapabilities_of hu hv), rfl, rfl, ?_, ?_, length_freeBytes_part s.m (n := 9) (off := 0) (by decide), length_freeBytes_part s.m (n := 9) (off := 1) (by decide)⟩
    · rw [spdmOf_sent, spdmOf_setSpdm]
    · exact congrArg (· ++ _) (spdmOut_setSpdm ..)
  · intro s b spec asym hash hu hc hspec hasym hhash
    exact next_of (by simp [negotiateAlgorithms, hu, hc, hspec, hasym, hhash])
  · intro s b hu ha
    exact next_of (by simp [getDigests, hu, ha])
  · intro s b off n hu ha hoff
    exact next_of (by simp [getCertificate, hu, ha, hoff])
  · intro s b what hu ha hw hs
    refine ⟨_, _, _, _, next_of (challenge_of hu ha hw hs), rfl, rfl, length_freeBytes_part s.m (n := 608) (off := 0) (by decide), length_freeBytes_part s.m (n := 608) (off := 32) (by decide), ?_, ?_, ?_, rfl⟩
    · rintro rfl
      rfl
    · rintro rfl
      rw [if_neg (by decide), if_neg (by decide)]
      exact length_freeBytes_part s.m (n := 608) (off := 544) (by decide)
    · rintro rfl
      rw [if_neg (by decide), if_pos rfl]
  · intro s b signed slot i k n recs hu ha hs hcase
    have hi : i ≤ 7 ∨ i = 255 := by omega
    refine ⟨_, _, _, next_of (getMeasurements_of hu ha hs hi), rfl, rfl, length_freeBytes_part s.m (n := 544) (off := 0) (by decide), length_signature (m := s.m) signed, ?_⟩
    rcases hcase with ⟨rfl, rfl, rfl, rfl⟩ | ⟨h1, h7, rfl, rfl, rfl⟩ | ⟨rfl, rfl, rfl, rfl⟩
    · rfl
    · have h0 : i ≠ 0 := by omega
      have h255 : i ≠ 255 := by omega
      rw [if_neg h0, if_neg h0, if_neg h0, if_neg h255, if_neg h255]
      rfl
    · rfl
  · exact fun s ix key hr hl => next_of (by simp [keyProg, ideUp_of hr hl])
  · exact fun s ix key => next_of (by simp [keyProg, not_ideUp_mse])
  · exact fun s hr hl hi => next_of (by simp [kSetGo, ideUp_of hr hl, hi])
  · exact fun s => next_of (by simp [kSetGo, not_ideUp_mse])

end Sys2Proof.Proofs

end

