-- ==== Sys2Proof/Proofs/HangsAndResets.lean ====
section

/-! PROOF. Hangs and the reset ladder: the branch of each row for the job that stands at its domain, and what halting a manifest leaves. -/

namespace Sys2Proof.Proofs

open Sys2Proof Sys2Proof.Machine

/-- What a command of fuses, flash and module answers. -/
theorem nextD_of {f : NonVol → Mach → NonVol × Mach} {s : State} {nv : NonVol} {m : Mach} (h : f s.nv s.m = (nv, m)) :
    runD f s = .next { s with nv := nv, m := m } := by rw [runD_of h]

section
variable {nv : NonVol} {m : Mach} {u dom : Nat} {j : RstJob}

theorem watchdogExpiry_free (hw : watched m u = true) (hj : m.rst.jobs.find? (fun j => domainRoot j.rung u == some j.domain) = none) :
    watchdogExpiry u m = let mp := u == unitChip 5
      let m := report m 0x5003 clsInfo u none 0 0 (leBytes 1 (if mp then 0 else hangRung m u) ++ leBytes 4 (watchMs m u))
      if mp then startRestart m 1 else startReset m (hangRung m u) u 0x5003 false false none := by
  rw [watchdogExpiry, if_neg (by simp [hw]), hj]

theorem watchdogExpiry_unit (hw : watched m u = true) (hj : m.rst.jobs.find? (fun j => domainRoot j.rung u == some j.domain) = none) (hu : u ≠ unitChip 5) :
    watchdogExpiry u m = startReset (report m 0x5003 clsInfo u none 0 0 (leBytes 1 (hangRung m u) ++ leBytes 4 (watchMs m u)))
      (hangRung (report m 0x5003 clsInfo u none 0 0 (leBytes 1 (hangRung m u) ++ leBytes 4 (watchMs m u))) u) u 0x5003 false false none := by
  rw [watchdogExpiry_free hw hj, beq_false_of_ne hu]
  rfl

theorem watchdogExpiry_domain (hw : watched m u = true) (hj : m.rst.jobs.find? (fun j => domainRoot j.rung u == some j.domain) = some j) :
    watchdogExpiry u m = noteUnresponsive m j.domain u := by
  rw [watchdogExpiry, if_neg (by simp [hw]), hj]

theorem stall_active {c : Nat} (hc : c < 16) (ha : (getCtx m c).st = .active) (hk : slotsLeft m c ≠ []) :
    stall c m = reportCtx ((slotsLeft m c).foldl (fun m k => haltMan m c k cRunHalted 0xFFFFFFFF) m)
      0x2006 (unitCtx c (handleOf ((slotsLeft m c).foldl (fun m k => haltMan m c k cRunHalted 0xFFFFFFFF) m) c)) c 0
      (leBytes 4 ((slotsLeft m c).foldl (fun a k => a + leftAt m c k) 0)) :=
  if_neg (by simp [ha, hk, hc])

theorem noteUnresponsive_mem (h : j ∈ m.rst.jobs) :
    (if j.domain = dom ∧ has (domainUnits m j.rung j.domain) u = true ∧ (∀ d ∈ j.units, d.unit ≠ u)
      then { j with units := j.units ++ [({ unit := u, st := 1 } : DumpUnit)] } else j) ∈ (noteUnresponsive m dom u).rst.jobs := by
  refine List.mem_map.mpr ⟨j, h, ?_⟩
  refine if_congr ?_ rfl rfl
  simp [and_assoc, and_comm (a := ∀ d ∈ j.units, d.unit ≠ u)]

theorem getMan_modMan (m : Mach) (c k : Nat) (f : ManSt → ManSt) : getMan (modMan m c k f) c k = (getMan m c k).map f := by
  simp [getMan, modMan]

theorem getMan_discardLeft (c k p c' k' : Nat) : getMan (discardLeft m c k p) c' k' = getMan m c' k' := by
  unfold discardLeft
  split
  · dsimp only
    split <;> rfl
  · rfl

/-- A run as halting its manifest leaves it. -/
def haltedRun (code wb : Nat) (r : RunSt) : RunSt :=
  if r.ended then r else if r.started then { r with halted := true, code := code, failWb := wb } else { r with halted := true }

theorem haltedRun_live {code wb : Nat} {r : RunSt} (h : (haltedRun code wb r).ended = false) :
    (haltedRun code wb r).halted = true ∧ ((haltedRun code wb r).started = true → (haltedRun code wb r).code = code) := by
  unfold haltedRun at h ⊢
  cases he : r.ended
  · cases hs : r.started <;> simp
  · simp [he] at h

theorem getMan_haltMan {c k : Nat} {q : ManSt} (hq : getMan m c k = some q) (hh : q.halted = false) (code wb : Nat) :
    getMan (haltMan m c k code wb) c k = some { q with halted := true, runs := q.runs.map (haltedRun code wb) } := by
  unfold haltMan
  rw [hq]
  dsimp only
  rw [if_neg (by rw [hh]; decide)]
  exact foldl_keeps (P := fun n => getMan n c k = some { q with halted := true, runs := q.runs.map (haltedRun code wb) })
    (fun n p h => (getMan_discardLeft ..).trans h) _ (by rw [getMan_modMan, hq]; rfl)

/-- The job at a domain, and that its units are collected, as far as its rung waits for that. -/
structure Ready (m : Mach) (dom : Nat) (j : RstJob) : Prop where
  found : m.rst.jobs.find? (fun j => j.domain == dom) = some j
  collected : uncollected m j = false

theorem collected_chip (h : j.rung = 5) : uncollected m j = false := by simp [uncollected, h]

/-- The end of the reset of the job `j` with its units collected, by its rung (the rest of RESET_COMPLETE). -/
def resetEnd (dom : Nat) (f : BootFacts) (nv : NonVol) (m : Mach) (j : RstJob) : NonVol × Mach :=
  match j.rung with
  | 2 => (nv, closeReset (if unitKind dom = 0 then { m with rst := { m.rst with engineHung := tset 0 m.rst.engineHung dom (now m) } } else resetAssayer m) j)
  | 3 => (nv, noteBlkReset (closeReset (resetBlk m (unitIx dom)) j) j.origin)
  | 4 => (nv, noteBlkReset (closeReset (if j.requested then resetRgn m (unitIx dom) else
      { resetRgn m (unitIx dom) with health := { (resetRgn m (unitIx dom)).health with
          unavail := satAdd (resetRgn m (unitIx dom)).health.unavail ((now m - j.stamp.counter) / 4) } }) j) j.origin)
  | _ => closeChip (boot nv m f false).1 (boot nv m f false).2 j

theorem resetComplete_ready (f : BootFacts) (h : Ready m dom j) : resetComplete dom f nv m = resetEnd dom f nv m (collect m j false) := by
  rw [resetComplete, h.found]
  exact if_neg (by simp [h.collected])

theorem resetEnd_engine (f : BootFacts) (h : j.rung = 2) (hk : unitKind dom = 0) :
    resetEnd dom f nv m j = (nv, closeReset { m with rst := { m.rst with engineHung := tset 0 m.rst.engineHung dom (now m) } } j) := by
  simp only [resetEnd, h, if_pos hk]

theorem resetEnd_assayer (f : BootFacts) (h : j.rung = 2) (hk : unitKind dom ≠ 0) : resetEnd dom f nv m j = (nv, closeReset (resetAssayer m) j) := by
  simp only [resetEnd, h, if_neg hk]

theorem resetEnd_block (f : BootFacts) (h : j.rung = 3) : resetEnd dom f nv m j = (nv, noteBlkReset (closeReset (resetBlk m (unitIx dom)) j) j.origin) := by
  simp only [resetEnd, h]

theorem resetEnd_asked (f : BootFacts) (h : j.rung = 4) (hq : j.requested = true) :
    resetEnd dom f nv m j = (nv, noteBlkReset (closeReset (resetRgn m (unitIx dom)) j) j.origin) := by
  simp only [resetEnd, h, if_pos hq]

theorem resetEnd_region (f : BootFacts) (h : j.rung = 4) (hq : ¬ j.requested = true) : resetEnd dom f nv m j = (nv, noteBlkReset (closeReset
    { resetRgn m (unitIx dom) with health := { (resetRgn m (unitIx dom)).health with
        unavail := satAdd (resetRgn m (unitIx dom)).health.unavail ((now m - j.stamp.counter) / 4) } } j) j.origin) := by
  simp only [resetEnd, h, if_neg hq]

theorem resetEnd_chip (f : BootFacts) (h : j.rung = 5) : resetEnd dom f nv m j = closeChip (boot nv m f false).1 (boot nv m f false).2 j := by
  simp only [resetEnd, h]

/-- What a rung that misses its bound leads to (the rest of RUNG_WATCHDOG_EXPIRY for a job). -/
def rungMissed (dom : Nat) (nv : NonVol) (m : Mach) (j : RstJob) : NonVol × Mach :=
  match j.rung with
  | 2 => (nv, escalate m j (if unitKind dom = 0 then 3 else 5))
  | 3 => (nv, escalate m j 4)
  | 4 => (nv, escalate m j 5)
  | _ =>
    if (slotIn nv .try_).isSome then (failTry nv, m)
    else (nv, { m with rst := { m.rst with jobs := [], inReset := true, oosNext := true },
                       pwr := { m.pwr with boot := .standby, fabricReady := false },
                       pcie := { m.pcie with faultLow := true, linkUp := false } })

theorem rungExpiry_ready (missed : List Nat) (hk : unitKind dom ≠ 3) (h : Ready m dom j) : rungExpiry dom missed nv m = rungMissed dom nv m j := by
  rw [rungExpiry, if_neg hk, h.found]
  exact if_neg (by simp [h.collected])

theorem rungMissed_inner (h : j.rung = 3 ∨ j.rung = 4) : rungMissed dom nv m j = (nv, escalate m j (j.rung + 1)) := by
  rcases h with h | h <;> simp only [rungMissed, h]

theorem rungMissed_unit (h : j.rung = 2) : rungMissed dom nv m j = (nv, escalate m j (if unitKind dom = 0 then 3 else 5)) := by
  simp only [rungMissed, h]

theorem rungMissed_chip (h : j.rung = 5) (ht : slotIn nv .try_ = none) : rungMissed dom nv m j =
    (nv, { m with rst := { m.rst with jobs := [], inReset := true, oosNext := true }, pwr := { m.pwr with boot := .standby, fabricReady := false },
                  pcie := { m.pcie with faultLow := true, linkUp := false } }) := by
  simp only [rungMissed, h]
  exact if_neg (by rw [ht]; decide)

theorem rungMissed_try (h : j.rung = 5) (ht : slotIn nv .try_ ≠ none) : rungMissed dom nv m j = (failTry nv, m) := by
  simp only [rungMissed, h]
  exact if_pos (Option.isSome_iff_ne_none.mpr ht)

end

/-- Settles O33, clause by clause: the rows' branches for the job at their domain. -/
theorem hangsAndResets : Obligations.HangsAndResets := by
  refine ⟨?_, ?_, ?_, ?_, ?_, ?_, ?_, ?_, ?_, ?_, ?_, ?_, ?_, ?_, ?_, ?_, ?_, ?_, ?_, ?_, ?_⟩
  · exact fun s u hw hj hu => next_of (watchdogExpiry_unit hw hj hu)
  · exact fun s hw hj => next_of (watchdogExpiry_free hw hj)
  · exact fun s u j hw hj => next_of (watchdogExpiry_domain hw hj)
  · exact fun s u hw => next_of (if_pos (by simp [hw]))
  · rintro s c m hc ha hk rfl
    exact next_of (stall_active hc ha hk)
  · intro s dom j hj
    exact next_of (by rw [cordonTimeout, hj])
  · intro s dom u hs
    exact ⟨_, next_of (if_neg (by simp [hs])), rfl, fun j hj => noteUnresponsive_mem hj⟩
  · exact fun s dom u hs => next_of (if_pos hs)
  · intro s dom f missed j hk hj hu
    constructor
    · refine nextD_of ?_
      rw [resetComplete, hj]
      exact if_pos hu
    · refine nextD_of ?_
      rw [rungExpiry, if_neg hk, hj]
      exact if_pos hu
  · intro m c k q hq hh
    refine ⟨_, getMan_haltMan hq hh _ _, rfl, rfl, rfl, fun r hr he => ?_⟩
    obtain ⟨r', -, rfl⟩ := List.mem_map.mp hr
    exact haltedRun_live he
  · exact fun s dom f j hj hu hr hk => nextD_of ((resetComplete_ready f ⟨hj, hu⟩).trans (resetEnd_engine f hr hk))
  · exact fun s dom f j hj hu hr hk => nextD_of ((resetComplete_ready f ⟨hj, hu⟩).trans (resetEnd_assayer f hr hk))
  · exact fun s dom f j hj hu hr => nextD_of ((resetComplete_ready f ⟨hj, hu⟩).trans (resetEnd_block f hr))
  · exact fun s dom f j hj hu hr hq => nextD_of ((resetComplete_ready f ⟨hj, hu⟩).trans (resetEnd_asked f hr hq))
  · rintro s dom f j r hj hu hr hq rfl
    exact nextD_of ((resetComplete_ready f ⟨hj, hu⟩).trans (resetEnd_region f hr (by simp [collect, hq])))
  · intro s dom f j hj hr
    exact ⟨_, runD_of ((resetComplete_ready f ⟨hj, collected_chip hr⟩).trans (resetEnd_chip f hr)), rfl, rfl⟩
  · exact fun s dom missed j hk hj hu hr => nextD_of ((rungExpiry_ready missed hk ⟨hj, hu⟩).trans (rungMissed_inner hr))
  · exact fun s dom missed j hk hj hu hr => nextD_of ((rungExpiry_ready missed hk ⟨hj, hu⟩).trans (rungMissed_unit hr))
  · exact fun s dom missed j hk hj hr ht => nextD_of ((rungExpiry_ready missed hk ⟨hj, collected_chip hr⟩).trans (rungMissed_chip hr ht))
  · exact fun s dom missed j hk hj hr ht => nextD_of ((rungExpiry_ready missed hk ⟨hj, collected_chip hr⟩).trans (rungMissed_try hr ht))
  · exact fun s dom missed hk hi hst => nextD_of (by simp [rungExpiry, hk, hi, hst])

end Sys2Proof.Proofs

end

