-- ==== Sys2Proof/Proofs/Contexts.lean ====
section

/-! PROOF. Creation, close, extension and reclaim of contexts. -/

namespace Sys2Proof.Proofs

open Sys2Proof Sys2Proof.Machine

/-! ### Lists of numbers without repetition -/

theorem has_iff {l : List Nat} {v : Nat} : has l v = true ↔ v ∈ l := by simp [has]

theorem noDup_iff {l : List Nat} : noDup l = true ↔ l.Nodup := by
  induction l with
  | nil => simp [noDup]
  | cons x xs ih => simp [noDup, ih, ← has_iff]

/-- The numbers of a list of runs, each its first and its count. -/
def runNumbers (rs : List (Nat × Nat)) : List Nat := rs.flatMap (fun q => (List.range q.2).map (q.1 + ·))

/-- Of runs that overlap nowhere, those up to one of them overlap nowhere, and neither does the first number of that one with those before it. -/
theorem runNumbers_noDup {rs : List (Nat × Nat)} (h : noDup (runNumbers rs) = true) {e : (Nat × Nat) × Nat} (he : e ∈ rs.zipIdx) (hn : 1 ≤ e.1.2) :
    noDup (runNumbers (rs.take e.2) ++ [e.1.1]) = true ∧ noDup (runNumbers (rs.take (e.2 + 1))) = true := by
  obtain ⟨⟨a, n⟩, i⟩ := e
  have hi : rs[i]? = some (a, n) := List.mem_zipIdx_iff_getElem?.mp he
  have htake : runNumbers (rs.take (i + 1)) = runNumbers (rs.take i) ++ (List.range n).map (a + ·) := by
    rw [List.take_add_one, hi]
    simp [runNumbers]
  have hlong : noDup (runNumbers (rs.take (i + 1))) = true := by
    have hsplit : runNumbers rs = runNumbers (rs.take (i + 1)) ++ runNumbers (rs.drop (i + 1)) := by
      rw [runNumbers, runNumbers, runNumbers, ← List.flatMap_append, List.take_append_drop]
    rw [hsplit] at h
    exact noDup_iff.mpr (noDup_iff.mp h).of_append_left
  refine ⟨noDup_iff.mpr ?_, hlong⟩
  have hfirst : [a].Sublist ((List.range n).map (a + ·)) := by
    refine List.singleton_sublist.mpr (List.mem_map.mpr ⟨0, List.mem_range.mpr hn, rfl⟩)
  have hnodup := noDup_iff.mp hlong
  rw [htake] at hnodup
  exact hnodup.sublist (List.Sublist.append_left hfirst _)

/-- The field checks of CTX_RECLAIM, of runs that lie within the module and overlap nowhere. -/
theorem reclaimRuns_ok {rs : List (Nat × Nat)} (hin : rs.all (fun q => 1 ≤ q.2 && q.1 + q.2 ≤ 1024) = true) (hdup : noDup (runNumbers rs) = true) :
    mustAll (rs.zipIdx.flatMap (fun e =>
      [(decide (e.1.1 < 1024) && noDup ((rs.take e.2).flatMap (fun q => (List.range q.2).map (q.1 + ·)) ++ [e.1.1]), 8 + 4 * e.2),
       (decide (1 ≤ e.1.2 ∧ e.1.1 + e.1.2 ≤ 1024) && noDup ((rs.take (e.2 + 1)).flatMap (fun q => (List.range q.2).map (q.1 + ·))), 10 + 4 * e.2)])) = .ok () := by
  refine mustAll_of fun q hq => ?_
  obtain ⟨e, he, hqe⟩ := List.mem_flatMap.mp hq
  have hrun : 1 ≤ e.1.2 ∧ e.1.1 + e.1.2 ≤ 1024 := by
    have hmem : e.1 ∈ rs := List.mem_of_getElem? (List.mem_zipIdx_iff_getElem?.mp he)
    simpa using List.all_eq_true.mp hin _ hmem
  obtain ⟨hshort, hlong⟩ := runNumbers_noDup hdup he hrun.1
  simp only [List.mem_cons, List.not_mem_nil, or_false] at hqe
  rcases hqe with rfl | rfl
  · exact and_true (decide_eq_true (by omega)) hshort
  · exact and_true (decide_eq_true hrun) hlong

/-! ### What a creation leaves -/

section
variable {m : Mach} {c base seqBase : Nat} {p : CtxPar} {mem : (Nat × Nat) × List (Nat × Nat) × List (Nat × Nat)}

theorem ms_enterBlocks (m : Mach) (c : Nat) (ss : List ArrShare) : (enterBlocks m c ss).ms = m.ms ∧ (enterBlocks m c ss).mem = m.mem := by
  refine foldl_keeps (P := fun k => k.ms = m.ms ∧ k.mem = m.mem) (fun k s h => ?_) ss ⟨rfl, rfl⟩
  split <;> exact h

theorem getMs_giveMs (m : Mach) (base count h n : Nat) :
    getMs (giveMs m base count h) n = if base ≤ n ∧ n < base + count then { noMs with owner := h } else getMs m n := by
  unfold getMs giveMs
  induction count with
  | zero => rw [if_neg (by omega)]; rfl
  | succ k ih =>
    dsimp only at ih ⊢
    rw [List.range_succ, List.foldl_append, List.foldl_cons, List.foldl_nil, tget_tset, ih]
    split
    next hk => rw [if_pos (by omega)]
    next hk => exact if_congr (by omega) rfl rfl

theorem getMs_makeCtx (n : Nat) : getMs (makeCtx m c base seqBase p mem) n =
    if base ≤ n ∧ n < base + p.msCount then { noMs with owner := c * 4096 + nextGen (getCtx m c).gen } else getMs m n := by
  unfold makeCtx
  rw [getMs, (ms_enterBlocks ..).1]
  exact getMs_giveMs ..

theorem mem_makeCtx : (makeCtx m c base seqBase p mem).mem = m.mem := by
  unfold makeCtx
  rw [(ms_enterBlocks ..).2]
  rfl

theorem getCtx_makeCtx (d : Nat) : getCtx (makeCtx m c base seqBase p mem) d = if c = d then
    { ctxReset with
      st := .active, gen := nextGen (getCtx m c).gen, par := p, msBase := base, stepCtr := BitVec.ofNat 64 p.step0, manGen := (getCtx m c).manGen
      sv := { noServ with seqBase := seqBase, lastTaken := p.intakeSlots - 1, freeNear := List.range p.kvNear, freeFar := List.range p.kvFar }
      memory := mem.1 :: (mem.2.1 ++ mem.2.2), poolNear := mem.2.1, poolFar := mem.2.2 } else getCtx m d := by
  simp only [makeCtx, getCtx_enterBlocks, getCtx_giveMs, getCtx_syncUnits, getCtx_zeroHeld, getCtx_setCtx]
  rfl

end

/-! ### The end of a teardown, and a block that leaves -/

section
variable {nv : NonVol} {m : Mach} {c : Nat}

/-- What the last steps of a teardown leave: memory, blocks, the reset state and the contexts. -/
def resting (m : Mach) := (m.mem, m.blocks, m.rst, m.ctxs)

theorem resting_closeWatches (ws : List Nat) : resting (ws.foldl closeWatch m) = resting m :=
  foldl_keeps (P := fun k => resting k = resting m) (fun k w h => (show resting (closeWatch k w) = resting k from rfl).trans h) ws rfl

theorem statementOf_machine (why : Nat) : ∃ n bs, (statementOf nv m c why).1 = modCtx (freeStep m n) c (fun x => { x with stmt := (getCtx m c).stmt + 1, stmtOut := bs }) := by
  unfold statementOf
  dsimp only
  cases m.sec.keys && nv.lifecycle != 3
  · exact ⟨0, _, rfl⟩
  · exact ⟨512, _, rfl⟩

/-- The end of a teardown closes the slot with one more statement. -/
theorem teardownEnd_of (hst : (getCtx m c).st = .teardown) (hs : mpStopped m = false) :
    (getCtx (teardownEnd c nv m) c).st = .closed ∧ (getCtx (teardownEnd c nv m) c).gen = (getCtx m c).gen ∧
    (getCtx (teardownEnd c nv m) c).stmt = (getCtx m c).stmt + 1 ∧ (∀ d, d ≠ c → getCtx (teardownEnd c nv m) d = getCtx m d) ∧
    (teardownEnd c nv m).mem = m.mem ∧ (teardownEnd c nv m).blocks = m.blocks ∧
    (teardownEnd c nv m).rst = { m.rst with counts := modNth m.rst.counts 0 (fun v => satAdd v 1), lastRung := 1 } := by
  unfold teardownEnd
  rw [if_neg (by simp [hst, hs])]
  extract_lets h m1 m2 m3
  obtain ⟨n, bs, hm2⟩ : ∃ n bs, m2 = modCtx (freeStep m1 n) c (fun x => { x with stmt := (getCtx m1 c).stmt + 1, stmtOut := bs }) := statementOf_machine 1
  have h1 : resting m1 = resting m := resting_closeWatches _
  have hctx : ∀ d, getCtx m1 d = getCtx m d := fun d =>
    congrArg (fun (q : List Host.Cell × Tbl Blk × RstS × Tbl Ctx) => tget ctxReset q.2.2.2 d) h1
  have h3 : ∀ d, getCtx m3 d = if c = d then { getCtx m d with stmt := (getCtx m c).stmt + 1, stmtOut := bs, st := .closed } else getCtx m d := fun d => by
    have hdrop : ∀ k : Mach, getCtx (dropMs k h) d = getCtx k d := fun _ => rfl
    simp only [m3, getCtx_modCtx, hdrop, hm2, getCtx_freeStep, hctx]
    split <;> rfl
  have hrst : m3.rst = m.rst := by
    have hq : (dropMs m2 h).rst = m1.rst := by rw [hm2]; rfl
    exact hq.trans (congrArg (fun q => q.2.2.1) h1)
  have hmem : m3.mem = m.mem := by
    have hq : (dropMs m2 h).mem = m1.mem := by rw [hm2]; rfl
    exact hq.trans (congrArg (fun q => q.1) h1)
  have hblocks : m3.blocks = m.blocks := by
    have hq : (dropMs m2 h).blocks = m1.blocks := by rw [hm2]; rfl
    exact hq.trans (congrArg (fun q => q.2.1) h1)
  clear_value m3
  have hself := (h3 c).trans (if_pos rfl)
  have hst3 := congrArg Ctx.st hself
  have hgen3 := congrArg Ctx.gen hself
  have hstmt3 := congrArg Ctx.stmt hself
  refine ⟨?_, ?_, ?_, fun d hd => ?_, hmem, hblocks, ?_⟩
  · exact hst3
  · exact hgen3
  · exact hstmt3
  · exact (h3 d).trans (if_neg (Ne.symm hd))
  · exact congrArg (fun q : RstS => { q with counts := modNth q.counts 0 (fun v => satAdd v 1), lastRung := 1 }) hrst

@[simp] theorem getCtx_endOp (tag status result d : Nat) : getCtx (endOp m tag status result) d = getCtx m d := rfl

/-- The arrays of a context after one of them left. -/
theorem reclaimLeave_blocks {a : Nat} {q : Reclaim} (hq : (getCtx m c).el.reclaim = some q) (ha : has q.arrays a = true) (hb : atBoundary m c a = true) :
    (getCtx (reclaimLeave c a m) c).par.blocks.all (fun x => x.array != a) = true := by
  unfold reclaimLeave
  dsimp only
  rw [hq]
  dsimp only
  rw [if_neg (by simp [ha, hb])]
  split
  · rw [getCtx_endOp, getCtx_modCtx, if_pos rfl]
    simp
  · rw [getCtx_modCtx, if_pos rfl]
    simp

end

/-- Settles O9, clause by clause. -/
theorem contextCommands : Obligations.ContextCommands := by
  refine ⟨?_, ?_, ?_, ?_, ?_, ?_, ?_, ?_⟩
  · intro s r c g h hpar hslot hgrant
    refine knaob_next h ?_
    dsimp only
    rw [hpar, hslot, ok_bind]
    dsimp only
    rw [hgrant]
    rfl
  · intro s r h hst
    refine knaob_next h (must_then (by rw [hst]; rfl) ?_)
    rw [hst]
    rfl
  · exact fun s c hst hs => ⟨_, rfl, rfl, rfl, teardownEnd_of hst hs⟩
  · rintro s r rs h h1 h500 rfl hruns hx
    refine knaob_next h (must_then (in_bounds h1 h500) ?_)
    rw [hruns, ok_bind]
    refine must_then ?_ (must_then ?_ rfl)
    · exact List.all_eq_true.mpr fun x hxm => (hx x hxm).1
    · refine List.all_eq_true.mpr fun x hxm => ?_
      obtain ⟨-, hshare, hclash⟩ := hx x hxm
      simp [hshare, hclash]
  · rintro s r as h hms hn rfl hall hpark hrec hown
    obtain ⟨hin, hdup⟩ := Bool.and_eq_true_iff.mp hall
    refine knaob_next h (must_then (decide_eq_true hms) (must_then (decide_eq_true hn) (ok_then (reclaimRuns_ok hin hdup) ?_)))
    exact must_then (by rw [hpark, hrec]; rfl) (must_then hown rfl)
  · exact fun s c a q hq ha hb => ⟨_, rfl, rfl, rfl, rfl, reclaimLeave_blocks hq ha hb⟩
  · intro s c q hq
    exact next_of (by rw [reclaimDeadline, hq])
  · intro m c base seqBase p mem
    have hself := (getCtx_makeCtx (m := m) (c := c) (base := base) (seqBase := seqBase) (p := p) (mem := mem) c).trans (if_pos rfl)
    refine ⟨makeCtx_st .., makeCtx_gen .., ?_, ?_, ?_, ?_, fun d hd => (getCtx_makeCtx d).trans (if_neg (Ne.symm hd)), fun n h1 h2 => ?_, fun n h1 => ?_, mem_makeCtx⟩
    · rw [hself]
    · rw [hself]
    · rw [hself]; rfl
    · rw [hself]
    · exact (getMs_makeCtx n).trans (if_pos ⟨h1, h2⟩)
    · exact (getMs_makeCtx n).trans (if_neg (by omega))

end Sys2Proof.Proofs

end

