-- ==== Sys2Proof/Proofs/Elastic.lean ====
section

/-! PROOF. Re-sharding, parking and unparking. -/

namespace Sys2Proof.Proofs

open Sys2Proof Sys2Proof.Machine

/-- The end of a chain of checks that was reached was preceded by each of them. -/
theorem must_ok {b : Bool} {status detail : Nat} {f : Unit → K Unit} (h : (must b status detail >>= f) = .ok ()) : b = true ∧ f () = .ok () := by
  cases b
  · exact absurd h (by simp [must, bind, Except.bind])
  · exact ⟨rfl, h⟩

theorem must_true {b : Bool} {status detail : Nat} (h : must b status detail = .ok ()) : b = true := by
  cases b
  · exact absurd h (by simp [must])
  · rfl

theorem checks_last {k : K Unit} {f : Unit → K Unit} (h : (k >>= f) = .ok ()) : f () = .ok () := by
  cases k
  · exact absurd h (by simp [bind, Except.bind])
  · exact h

/-- A branch for a check that is not met is not taken where it is. -/
theorem not_fails {b : Bool} (h : b = true) : ¬ (!b) = true := by rw [h]; decide

/-- A request whose handle must name a parked context names one. -/
theorem parked_of_passes {opcode mask : Nat} {lenOk : List Byte → Bool} {resv : List Byte → List (Nat × Nat)} {r : Req} {s : State}
    (h : Passes opcode mask .parked lenOk resv r s) : (getCtx s.m (slotOf r)).st = .parked := by
  obtain ⟨-, -, hobj⟩ := h
  obtain ⟨-, hst⟩ := must_ok (checks_last hobj)
  exact eq_of_beq (must_true hst)

section
variable {nv : NonVol} {m : Mach} {c : Nat}

theorem reshardEffect_of {e : Reshard} (he : (getCtx m c).el.reshard = some e)
    (hruns : (inFlight (getCtx m c)).all (fun r => e.sAt ≤ r.step || r.halted || r.ended) = true) (hb : startsBelow (getCtx m c) e.sAt = false)
    (hc : convsIdle m c = true) (hw : m.tier.wins.all (fun w => match w.2 with | some w => w.ctx != c | none => true) = true) :
    reshardEffect c m = endOp (modCtx m c (fun x => { x with layout := e.epoch, el := { x.el with reshard := none } })) e.tag 0 0 := by
  rw [reshardEffect, he]
  exact if_neg (not_fails (and_true (and_true (and_true hruns (not_of_false hb)) hc) hw))

theorem getCtx_parked (t : Tbl (Option ParkImg)) (d : Nat) : getCtx { m with parked := t } d = getCtx m d := rfl

/-- A PARK whose image the fabric took leaves the slot PARKED with that image. -/
theorem parkComplete_of {k : ParkSt} {m0 m1 : Mach} {x y z} (hk : (getCtx m c).el.park = some k) (hq : k.quiesced = true)
    (hquiet : quiesced m c = true) (h0 : m0 = settle m c) (hw : fabWrite (freeStep m0 (imageSize (imageOf m0 c) - 64)) (unitRef c) (.sequence c) (k.image + 64)
      (freeBytes m0 (imageSize (imageOf m0 c) - 64)) [] = .ok m1 x y z) :
    (getCtx (parkComplete c nv m) c).st = .parked ∧ (getCtx (parkComplete c nv m) c).el.park = none ∧
      tget none (parkComplete c nv m).parked c = some (imageOf m0 c) := by
  subst h0
  unfold parkComplete
  rw [hk]
  dsimp only
  rw [if_neg (by simp [hq, hquiet]), hw]
  dsimp only
  refine ⟨?_, ?_, ?_⟩
  · rw [getCtx_endOp, getCtx_parked, getCtx_modCtx, if_pos rfl]
  · rw [getCtx_endOp, getCtx_parked, getCtx_modCtx, if_pos rfl]
  · rw [endOp, tget_tset, if_pos rfl]

/-- What UNPARK loads does not depend on the state of the slot: its handle is the one the context kept. -/
theorem handleOf_unparked {m' : Mach} (hst : (getCtx m c).st = .parked) (hm : getCtx m' c = getCtx m c) :
    handleOf (modCtx m' c (fun x => { x with st := .active })) c = handleOf m c := by
  simp [handleOf, hm, hst]

end

/-- Settles O10, clause by clause. -/
theorem elasticCommands : Obligations.ElasticCommands := by
  refine ⟨?_, ?_, ?_, ?_, ?_, ?_, ?_, ?_⟩
  · intro s r h hepoch hnone hall hran
    refine knaob_next h (must_then (bne_iff_ne.mpr hepoch) (must_then (by rw [hnone]; rfl) (must_then (and_true hall ?_) rfl)))
    cases hr : (getCtx s.m (slotOf r)).ran
    · rfl
    · exact decide_eq_true (hran hr)
  · exact fun s c e he hruns hb hc hw => next_of (reshardEffect_of he hruns hb hc hw)
  · intro s r h hms haddr halign hpark hrec hrest
    refine knaob_next h (must_then (decide_eq_true hms) (must_then (and_true haddr (decide_eq_true halign)) (must_then ?_ rfl)))
    rw [hpark, hrec, hrest]
    rfl
  · intro s c k hk hq
    refine next_of ?_
    rw [parkQuiesced, hk]
    exact if_neg (by simp [hq])
  · intro s c k hk hq
    refine next_of ?_
    rw [parkDeadline, hk]
    exact if_neg (by simp [hq])
  · intro s c k m0 m1 a d b hk hq hquiet h0 hw
    exact ⟨_, rfl, rfl, rfl, parkComplete_of hk hq hquiet h0 hw⟩
  · intro s r image i h hi hset hhead
    have hhandle : handleOf (modCtx (newOp s.m r.port 0x0106 (slotOf r)).1 (slotOf r) (fun x => { x with st := .active })) (slotOf r) = handleOf s.m (slotOf r) :=
      handleOf_unparked (parked_of_passes h) rfl
    refine ⟨_, rfl, knaob_next h ?_⟩
    dsimp only
    rw [hi]
    refine must_then hset (must_then (and_true hhead rfl) ?_)
    rw [← hhandle]
    rfl
  · intro s r i d g h haddr halign hblocks hslot hset hgrant
    refine knaob_next h (must_then (and_true haddr (decide_eq_true halign)) (must_then (by rw [hblocks]; rfl) ?_))
    dsimp only
    rw [hslot]
    exact must_then hset (ok_then hgrant rfl)

end Sys2Proof.Proofs

end

