-- ==== Sys2Proof/Proofs/Manifests.lean ====
section

/-! PROOF. Posting, launching and retiring manifests. -/

namespace Sys2Proof.Proofs

open Sys2Proof Sys2Proof.Machine

variable {m : Mach}

/-- What blocks and milestones are not: memory and the contexts. -/
def memCtxs (m : Mach) := (m.mem, m.ctxs)

@[simp] theorem memCtxs_modBlk (p : Nat) (f : Blk → Blk) : memCtxs (modBlk m p f) = memCtxs m := rfl
@[simp] theorem memCtxs_modMs (n : Nat) (f : Milestone → Milestone) : memCtxs (modMs m n f) = memCtxs m := rfl
@[simp] theorem memCtxs_reeval (p : Nat) : memCtxs (reeval m p) = memCtxs m := rfl

theorem memCtxs_foldl {β : Type} {f : Mach → β → Mach} (hf : ∀ m x, memCtxs (f m x) = memCtxs m) (l : List β) (m : Mach) :
    memCtxs (l.foldl f m) = memCtxs m :=
  foldl_keeps (P := fun k => memCtxs k = memCtxs m) (fun _ x h => (hf _ x).trans h) l rfl

@[simp] theorem memCtxs_reevalCtx (c : Nat) : memCtxs (reevalCtx m c) = memCtxs m := memCtxs_foldl (fun _ _ => memCtxs_reeval _) _ m

@[simp] theorem memCtxs_declareMs (base : Nat) (d : DeclD) : memCtxs (declareMs m base d) = memCtxs m := by
  unfold declareMs
  split <;> rfl

theorem getCtx_of_memCtxs {a b : Mach} (h : memCtxs a = memCtxs b) (c : Nat) : getCtx a c = getCtx b c :=
  congrArg (fun t => tget ctxReset t c) (congrArg Prod.snd h)

theorem getMan_of_memCtxs {a b : Mach} (h : memCtxs a = memCtxs b) (c k : Nat) : getMan a c k = getMan b c k :=
  congrArg (fun (x : Ctx) => tget none x.mans k) (getCtx_of_memCtxs h c)

/-- A manifest as MANIFEST_POST leaves it. -/
def postedMan (x : Ctx) (k : Nat) (i : Image) : ManSt :=
  { gen := (tget 0 x.manGen k + 1) % 256, order := x.posts, img := i, launched := 0, nextRun := 0, runs := [], halted := false, retiring := none, late := []
    place := (storePlace x i.bytes).getD 0 }

/-- The image of a posted manifest in its context's store. -/
def storeImage (m : Mach) (c : Nat) (i : Image) (bs : List Byte) : Mach :=
  match storeBase (getCtx m c) with
  | some s => wrBytes m (s + (storePlace (getCtx m c) i.bytes).getD 0) bs
  | none => m

/-- What posting does to memory and the contexts. -/
theorem memCtxs_postImage (c k : Nat) (i : Image) (bs : List Byte) : memCtxs (postImage m c k i bs) = memCtxs (modCtx (storeImage m c i bs) c (fun x =>
    { x with mans := tset none x.mans k (some (postedMan (getCtx m c) k i)), manGen := tset 0 x.manGen k ((tget 0 (getCtx m c).manGen k + 1) % 256),
             posts := x.posts + 1 })) := by
  unfold postImage
  refine (memCtxs_reevalCtx c).trans ((memCtxs_foldl (fun n w => ?_) _ _).trans ((memCtxs_foldl (fun n d => memCtxs_declareMs _ d) _ _).trans rfl))
  dsimp only
  split
  · rfl
  · exact memCtxs_foldl (fun n e => memCtxs_modBlk ..) _ _

theorem getMan_postImage (c k : Nat) (i : Image) (bs : List Byte) : getMan (postImage m c k i bs) c k = some (postedMan (getCtx m c) k i) := by
  rw [getMan_of_memCtxs (memCtxs_postImage c k i bs), getMan, getCtx_modCtx, if_pos rfl, tget_tset, if_pos rfl]

theorem getMan_finishRetire {c k tag : Nat} {q : ManSt} (hq : getMan m c k = some q) (ht : q.retiring = some tag) (hs : ∀ r ∈ q.runs, r.started = false) :
    getMan (finishRetire m c k) c k = none := by
  unfold finishRetire
  rw [hq]
  dsimp only
  rw [ht]
  dsimp only
  have hnone : ¬ q.runs.any (·.started) = true := by
    rw [List.any_eq_true]
    rintro ⟨r, hr, hst⟩
    exact absurd hst (by simp [hs r hr])
  rw [if_neg hnone]
  have hfold : ∀ (l : List DeclD) (f : Mach → DeclD → Mach) (n : Mach), (∀ m d, memCtxs (f m d) = memCtxs m) → getMan (endOp (l.foldl f n) tag 0 0) c k = getMan n c k :=
    fun l f n hf => getMan_of_memCtxs (memCtxs_foldl hf l n) c k
  rw [hfold]
  · rw [getMan, getCtx_modCtx, if_pos rfl, tget_tdel, if_pos rfl]
  · intro n d
    split <;> rfl

/-- Settles O11, clause by clause. -/
theorem manifestCommands : Obligations.ManifestCommands := by
  refine ⟨?_, ?_, ?_, ?_, ?_, ?_⟩
  · intro s r ext bs i k h haddr h64 hmax hrec himg hpost
    refine knaob_next h (must_then haddr (must_then (in_bounds h64 hmax) ?_))
    rw [hrec]
    dsimp only
    rw [himg]
    exact ok_then hpost rfl
  · intro s r q h h1 hq hh hr
    refine knaob_next h (must_then (decide_eq_true h1) ?_)
    rw [hq]
    exact must_then (not_of_false hh) (must_then (by rw [hr]; rfl) rfl)
  · intro s r q h hq hr
    refine knaob_next h ?_
    dsimp only
    rw [hq]
    exact must_then (by rw [hr]; rfl) rfl
  · exact fun m c k i bs _ => ⟨_, getMan_postImage c k i bs, rfl, rfl, rfl, rfl, rfl, rfl, rfl⟩
  · intro m c k i bs st hst
    refine (congrArg Prod.fst (memCtxs_postImage c k i bs)).trans ?_
    simp only [memCtxs, storeImage, hst]
    rfl
  · exact fun m c k q tag hq ht hs => getMan_finishRetire hq ht hs

end Sys2Proof.Proofs

end

