-- ==== Sys2Proof/Proofs/Runs.lean ====
section

/-! PROOF. Runs, steps and waybills: when each starts and ends, and what a started run and a started waybill leave. -/

namespace Sys2Proof.Proofs

open Sys2Proof Sys2Proof.Machine

section
variable {m : Mach} {c k p : Nat} {q : ManSt}

theorem runStart_of (hq : getMan m c k = some q) (hs : canStart m c k = true)
    (hb : serves (getCtx m c) k = true → (q.runs.find? (fun r => r.run == q.nextRun && r.built)).isSome = true) :
    runStart c k m = reevalCtx (wakeWatches (startRun m c k q
      ((q.runs.find? (fun r => r.run == q.nextRun && r.built)).getD (newRun q.nextRun (nextStep (getCtx m c) q) []))) c (nextStep (getCtx m c) q)) c := by
  rw [runStart, hq]
  refine if_neg ?_
  rw [hs]
  cases hv : serves (getCtx m c) k
  · exact Bool.false_ne_true
  · simp [Option.isSome_iff_ne_none.mp (hb hv)]

/-- What is left of a run's completion once its blocks' markers are on their way. -/
theorem runComplete_of {run : Nat} {r : RunSt} (hq : getMan m c k = some q) (hr : getRun q run = some r) (hst : r.started = true) (he : r.ended = false)
    (ha : anyRunning m c k run = false) (hd : (List.range q.img.waybills.length).all (has r.doneWbs) = true ∨ r.halted = true)
    (ho : remoteOut m c k run none = false) {n : Mach}
    (hn : n = modRun { m with ass := { m.ass with markers := m.ass.markers ++ runMarks m c k q r } } c k run
      (fun e => { e with ended := true, flags := e.flags ||| (if (List.range q.img.waybills.length).any (fun w => drainsRebuild m q.img w) then 0x100 else 0) })) :
    runComplete c k run m =
      if ((List.range q.img.waybills.length).all (has r.doneWbs) && !r.halted && q.img.step && (getCtx n c).el.src.isSome) = true then n else finishRun n c k run := by
  have hdone : ((List.range q.img.waybills.length).all (has r.doneWbs) || r.halted) = true := Bool.or_eq_true_iff.mpr hd
  rw [runComplete, hq]
  dsimp only
  rw [hr]
  dsimp only
  rw [if_neg (by rw [hst, he, ha, hdone, ho]; decide), hn]
  rfl

/-- The block whose holder a waybill's start finds. -/
def heldBlock (p : Nat) (m : Mach) : Mach :=
  match (getBlk m p).seq.holder with
  | some _ => m
  | none => match nextHolder m p none with
    | some c => modBlk m p (fun b => { b with seq := { b.seq with holder := some c, heldCycles := 0 } })
    | none => m

/-- What a waybill's start does on a block whose holder was found (the rest of WAYBILL_START). -/
def startHeld (p : Nat) (m : Mach) : Mach :=
  match (getBlk m p).seq.holder with
  | none => m
  | some c =>
    if (getCtx m c).st != .active then m else
    match pick m p c with
    | none => m
    | some e => reeval (startWb m p c e.1 e.2.1 e.2.2.1 e.2.2.2) p

theorem waybillStart_runs (hr : blkRuns m p = true) : waybillStart p m = startHeld p (heldBlock p (reeval m p)) := if_neg (by rw [hr]; decide)

theorem startHeld_of {e : Nat × Nat × Nat × StartMode} (hh : (getBlk m p).seq.holder = some c) (ha : (getCtx m c).st = .active) (he : pick m p c = some e) :
    startHeld p m = reeval (startWb m p c e.1 e.2.1 e.2.2.1 e.2.2.2) p := by
  rw [startHeld, hh]
  dsimp only
  rw [if_neg (by rw [ha]; decide), he]

theorem waybillStart_of {e : Nat × Nat × Nat × StartMode} {n : Mach} (hr : blkRuns m p = true) (hn : heldBlock p (reeval m p) = n) (hh : (getBlk n p).seq.holder = some c)
    (ha : (getCtx n c).st = .active) (he : pick n p c = some e) : waybillStart p m = reeval (startWb n p c e.1 e.2.1 e.2.2.1 e.2.2.2) p := by
  rw [waybillStart_runs hr, hn, startHeld_of hh ha he]

theorem heldBlock_held (hh : (getBlk m p).seq.holder = some c) : heldBlock p m = m := by rw [heldBlock, hh]

theorem heldBlock_free (hh : (getBlk m p).seq.holder = none) (hn : nextHolder m p none = some c) :
    heldBlock p m = modBlk m p (fun b => { b with seq := { b.seq with holder := some c, heldCycles := 0 } }) := by rw [heldBlock, hh, hn]

theorem waybillComplete_of {st : Nat} {w : RunWb} (hw : runningOn (getBlk m p) st = some w) (hb : bodyOver w = true) (hq : getMan m w.ctx w.man = some q)
    (ha : awaitsWrites (getBlk m p) w q.img = false) :
    waybillComplete p st m = reeval (endWaybill (if (releaseWb m p w q).2 != 0 then releaseWb m p w q else outputsFault (releaseWb m p w q).1 w q.img).1 p w q.img
      (if (releaseWb m p w q).2 != 0 then releaseWb m p w q else outputsFault (releaseWb m p w q).1 w q.img).2) p := by
  rw [waybillComplete, hw]
  dsimp only
  rw [if_neg (by rw [hb]; decide), hq]
  dsimp only
  rw [if_neg (by rw [ha]; decide)]

theorem seqStepBuild_of {f : ServConf} {bad : Bool} (hf : (getCtx m c).sv.conf = some f) (hq : getMan m c f.man = some q) (hs : canStart m c f.man = true)
    (hr : q.runs.any (fun r => r.run == q.nextRun) = false) :
    seqStepBuild c bad m = if bad then stateLost m c (unitCtx c (handleOf m c)) else buildStep m c f q.nextRun (nextStep (getCtx m c) q) := by
  rw [seqStepBuild, hf]
  dsimp only
  rw [hq]
  dsimp only
  rw [if_neg (by rw [hs, hr]; decide)]

end

/-- Settles O12, clause by clause. -/
theorem runEvents : Obligations.RunEvents := by
  refine ⟨?_, ?_, ?_, ?_, ?_, ?_⟩
  · exact fun s c k q hq hs hb => next_of (runStart_of hq hs hb)
  · exact fun s c k run q r hq hr hst he ha hd ho => ⟨_, rfl, next_of (runComplete_of hq hr hst he ha hd ho rfl)⟩
  · exact fun s p c e hr hh ha he => next_of (waybillStart_of hr (heldBlock_held hh) hh ha he)
  · rintro s p c e m hr hh hn rfl ha he
    exact next_of (waybillStart_of hr (heldBlock_free hh hn) (by rw [getBlk_modBlk, if_pos rfl]) ha he)
  · rintro s p st w q z hw hb hq ha rfl
    constructor
    · intro hz
      refine next_of ?_
      rw [waybillComplete_of hw hb hq ha, if_pos (bne_iff_ne.mpr hz)]
    · intro hz
      refine next_of ?_
      rw [waybillComplete_of hw hb hq ha, if_neg (by rw [hz]; decide)]
  · exact fun s c f q hf hq hs hr => ⟨next_of (seqStepBuild_of hf hq hs hr), next_of (seqStepBuild_of hf hq hs hr)⟩

section
variable {m : Mach} {c k p : Nat} {q : ManSt}

theorem getCtx_countCargo (l : List Nat) (f : CargoSet → CargoSet) (m : Mach) (j : Nat) : getCtx (l.foldl (fun m n => modCargo m n f) m) j = getCtx m j :=
  foldl_keeps (P := fun n => getCtx n j = getCtx m j) (fun _ _ h => (getCtx_modCargo ..).trans h) l rfl

/-- The context of a run that started, but for its manifests. -/
theorem getCtx_startRun (r0 : RunSt) : ∃ mans, getCtx (startRun m c k q r0) c = { (getCtx (assignRec m c 2 0xFFFFFFFF k q.nextRun false).1 c) with
    mans := mans, lastStep := BitVec.ofNat 64 (nextStep (getCtx m c) q), ran := true, ownRun := true,
    stepCtr := if q.img.step then (getCtx (assignRec m c 2 0xFFFFFFFF k q.nextRun false).1 c).stepCtr + 1
      else (getCtx (assignRec m c 2 0xFFFFFFFF k q.nextRun false).1 c).stepCtr } := by
  unfold startRun
  dsimp only
  rw [getCtx_countCargo, getCtx_modCtx, if_pos rfl, modMan, getCtx_modCtx, if_pos rfl]
  exact ⟨_, rfl⟩

theorem getCtx_assignRec (kind wb run : Nat) (notify : Bool) : ∃ r : Rec, r.st = .pending ∧ r.kind = kind ∧ r.run = run ∧
    getCtx (assignRec m c kind wb k run notify).1 c = { getCtx m c with cr := { (getCtx m c).cr with
      issued := (getCtx m c).cr.issued + 1, recs := tset noRec (getCtx m c).cr.recs (((getCtx m c).cr.issued + 1).toNat % 4096) r } } :=
  ⟨_, rfl, rfl, rfl, (getCtx_modCtx ..).trans (if_pos rfl)⟩

/-- A late start changes the counts of its context and the flags of its run, no block and no record. -/
theorem noteLateStart_keeps (run w : Nat) (mode : StartMode) :
    (noteLateStart m c k run w mode p).blocks = m.blocks ∧ ∀ j, (getCtx (noteLateStart m c k run w mode p) j).cr = (getCtx m j).cr := by
  unfold noteLateStart
  split
  · exact ⟨rfl, fun _ => rfl⟩
  · split
    · exact ⟨rfl, fun _ => rfl⟩
    · split
      · refine ⟨rfl, fun j => ?_⟩
        rw [modRun, modMan, getCtx_modCtx, getCtx_modCtx]
        split <;> rfl
      · refine ⟨rfl, fun j => ?_⟩
        rw [getCtx_modCtx]
        split <;> rfl

/-- A waybill as its start leaves it in the stream: nothing of it issued yet. -/
def startedWb (c k run w : Nat) (i : Image) (step : Nat) (seq : Option Nat) (start : Nat) : RunWb :=
  { ctx := c, man := k, run := run, wb := w, stream := (wbOf i w).stream, seedWb := (wbOf i w).bodyOf.getD w, step := step,
    items := (bodyOf i w).map (fun _ => ItemSt.waiting), vregs := (wbOf i w).vregs, regs := [], gens := [], flags := 0, code := 0, seq := seq, startNs := start }

/-- A block once a waybill started on it: `t` are the passes of its streams. -/
def startedBlk (b : Blk) (wb : RunWb) (d : WaybillD) (t : Tbl Nat) : Blk :=
  { b with
    sp := { b.sp with owner := (List.range 6).map (fun i => if nthN d.banks i = 0 then nthN b.sp.owner i else nthN d.banks i) }
    seq := { b.seq with running := b.seq.running ++ [wb], starts := satAdd b.seq.starts 1, pass := t } }

theorem getBlk_startWb {run w : Nat} (hq : getMan m c k = some q) : ∃ step t seq start, seq.isSome = (wbOf q.img w).report ∧
    ((wbOf q.img w).report = true → seq = some ((getCtx m c).cr.issued + 1).toNat) ∧
    getBlk (startWb m p c k run w .body) p = startedBlk (getBlk m p) (startedWb c k run w q.img step seq start) (wbOf q.img w) t := by
  obtain ⟨hblocks, hcr⟩ := noteLateStart_keeps (m := m) (c := c) (k := k) (p := p) run w .body
  have hblk : ∀ (n : Mach) f, n.blocks = m.blocks → getBlk (modRun n c k run f) p = getBlk m p := fun n f h => congrArg (fun t => tget blkReset t p) h
  unfold startWb
  rw [hq]
  dsimp only
  rw [getBlk_modBlk, if_pos rfl]
  cases hrep : (wbOf q.img w).report
  · rw [if_neg Bool.false_ne_true, hblk _ _ hblocks]
    exact ⟨_, _, none, _, rfl, fun h => absurd h Bool.false_ne_true, rfl⟩
  · have hassigned : (assignRec (noteLateStart m c k run w .body p) c 1 w k run (wbOf q.img w).notify).1.blocks = m.blocks := hblocks
    rw [if_pos rfl]
    dsimp only
    rw [hblk _ _ hassigned]
    refine ⟨_, _, some _, _, rfl, fun _ => ?_, rfl⟩
    exact congrArg (fun x : CrSt => some (x.issued + 1).toNat) (hcr c)

end

/-- Settles O13: the two shapes are `getCtx_startRun` and `getBlk_startWb`. -/
theorem startedWork : Obligations.StartedWork := by
  constructor
  · intro m c k q r0 _
    obtain ⟨mans, hrun⟩ := getCtx_startRun (m := m) (c := c) (k := k) (q := q) r0
    obtain ⟨r, hst, hkind, hr, hctx⟩ := getCtx_assignRec (m := m) (c := c) (k := k) 2 0xFFFFFFFF q.nextRun false
    rw [hrun, hctx]
    dsimp only
    rw [tget_tset, if_pos rfl]
    exact ⟨rfl, rfl, rfl, rfl, hst, hkind, hr⟩
  · intro m p c k run w q hq _
    obtain ⟨step, t, seq, start, hsome, hseq, hblk⟩ := getBlk_startWb (p := p) (run := run) (w := w) hq
    rw [hblk]
    exact ⟨_, rfl, rfl, rfl, rfl, rfl, rfl, rfl, rfl, rfl, rfl, hsome, hseq, rfl, rfl⟩

end Sys2Proof.Proofs

end

