-- ==== Sys2Proof/Proofs/SequencerItems.lean ====
section

/-! PROOF. Completion records and their acknowledgement, the sequencer's own items, the passing of a shared block, and milestones. -/

namespace Sys2Proof.Proofs

open Sys2Proof Sys2Proof.Machine

/-! ### Completion records -/

section
variable {m : Mach} {c : Nat}

theorem completionRecord_of {q : Nat} {r : Rec} (hr : tget noRec (getCtx m c).cr.recs (q % 4096) = r) (hq : r.seq = q) (hst : r.st = .pending) (hf : r.final = true)
    (ha : advancing m c = false) (hw : completionRecord.waits c m r = false) :
    completionRecord c q m = if r.notify then signal (modCtx m c (fun x => { x with cr := { x.cr with recs := (tset noRec x.cr.recs (q % 4096)
        { r with st := if r.code = 0 then .done else .error }) } })) (2 + c)
      else modCtx m c (fun x => { x with cr := { x.cr with recs := tset noRec x.cr.recs (q % 4096) { r with st := if r.code = 0 then .done else .error } } }) := by
  subst hr
  rw [completionRecord, if_neg (by simp [hq, hst, hf, ha, hw])]

/-- Whether an acknowledgement is one whole aligned write up to records that are final. -/
def acksFinal (m : Mach) (c v : Nat) (whole : Bool) : Bool :=
  whole && decide ((BitVec.ofNat 32 v - (getCtx m c).cr.ack).toNat ≤ ((getCtx m c).cr.issued - (getCtx m c).cr.ack).toNat) &&
    recsFinal (getCtx m c) (getCtx m c).cr.ack.toNat (BitVec.ofNat 32 v - (getCtx m c).cr.ack).toNat

theorem chpCrAck_taken {v : Nat} {whole : Bool} (h : acksFinal m c v whole = true) :
    chpCrAck c v whole m = modCtx m c (fun x => { x with cr := { x.cr with ack := BitVec.ofNat 32 v } }) := if_pos h

theorem chpCrAck_ignored {v : Nat} {whole : Bool} (h : acksFinal m c v whole = false) : chpCrAck c v whole m =
    reportCtx (modCtx m c (fun x => { x with cr := { x.cr with bad := satAdd x.cr.bad 1 } })) 0x200C (unitCtx c (handleOf m c)) c 0 (leBytes 4 v) :=
  if_neg (Bool.eq_false_iff.mp h)

end

/-- Settles O14, by whether the acknowledgement may be taken. -/
theorem completionRecords : Obligations.CompletionRecords := by
  refine ⟨?_, ?_, ?_⟩
  · exact fun s c q r hr hq hst hf ha hw => ⟨_, rfl, next_of (completionRecord_of hr hq hst hf ha hw)⟩
  · exact fun s c v hn hfin => next_of (chpCrAck_taken (and_true (and_true rfl (decide_eq_true hn)) hfin))
  · intro s c v whole hbad
    refine next_of (chpCrAck_ignored ?_)
    unfold acksFinal
    rcases hbad with hw | hn | hfin
    · rw [hw]; rfl
    · rw [decide_eq_false (by omega), Bool.and_false]; rfl
    · rw [hfin, Bool.and_false]

/-! ### Items and milestones -/

section
variable {m : Mach} {p st i n : Nat} {w : RunWb}

theorem windowSet_own {cfg ptr : Nat} (hi : seqItem m p st isWindowSet = some (w, i, .windowSet n cfg ptr)) (hb : windowBusy m p w.ctx n = false)
    (ho : (getWin (getBlk m p) n).enable = false ∨ (getWin (getBlk m p) n).ctx = w.ctx) :
    windowSet p st false m = markItem (modBlk m p (fun b => modWin b n (fun _ =>
      if tbit cfg 31 then { enable := true, ring := tbit cfg 30, ctx := w.ctx, size := fld cfg 9 9, base := fld cfg 0 9, head := fld ptr 0 21, tail := fld ptr 32 21 }
      else { noWin with ctx := w.ctx }))) p st i .done := by
  rw [windowSet, hi]
  dsimp only
  rw [if_neg (by rw [hb]; decide), if_neg Bool.false_ne_true, if_neg (by rcases ho with h | h <;> simp [h])]

theorem windowSet_foreign {cfg ptr : Nat} (hi : seqItem m p st isWindowSet = some (w, i, .windowSet n cfg ptr)) (hb : windowBusy m p w.ctx n = false)
    (he : (getWin (getBlk m p) n).enable = true) (hc : (getWin (getBlk m p) n).ctx ≠ w.ctx) : windowSet p st false m = failItem m p w i cSpWindow := by
  rw [windowSet, hi]
  dsimp only
  rw [if_neg (by rw [hb]; decide), if_neg Bool.false_ne_true, if_pos (by simp [he, hc])]

theorem aliasSet_own {en : Bool} {bank : Nat} (hi : seqItem m p st isAliasSet = some (w, i, .aliasSet en bank)) (hb : aliasBusy m p w.ctx = false)
    (ho : (getBlk m p).sp.aliasOn = false ∨ (getBlk m p).sp.aliasCtx = w.ctx) :
    aliasSet p st false m = markItem (modSp m p (fun x => { x with aliasOn := en, aliasBank := bank, aliasCtx := w.ctx })) p st i .done := by
  rw [aliasSet, hi]
  dsimp only
  rw [if_neg (by rw [hb]; decide), if_neg Bool.false_ne_true, if_neg (by rcases ho with h | h <;> simp [h])]

theorem blockHandover_of {a h d : Nat} (ha : arrayOf (reeval m p) p = some a) (hh : (getBlk (reeval m p) p).seq.holder = some h)
    (hl : mustLeave (reeval m p) p a h = true) (hb : atBoundary (reeval m p) h a = true) (hd : nextHolder (reeval m p) p (some h) = some d) :
    blockHandover p m = reeval (handOver (reeval m p) p h d a) p := by
  rw [blockHandover, ha, hh]
  refine (if_neg (by rw [hl, hb]; decide)).trans ?_
  rw [hd]

/-- The advances that reached the home of a milestone. -/
def arrivedAt (m : Mach) (n : Nat) : List (Nat × Nat) := m.msQueue.filter (fun q => q.1 == n)

theorem milestoneAdvance_of (hh : homeRuns m n = true) (hq : (arrivedAt m n).isEmpty = false) : milestoneAdvance n false m =
    if (getMs m n).frozen then { m with msQueue := m.msQueue.filter (fun q => q.1 != n), msRefused := satAdd m.msRefused (arrivedAt m n).length }
    else modMs { m with msQueue := m.msQueue.filter (fun q => q.1 != n) } n (fun x => { x with value := wrapAdd x.value ((arrivedAt m n).foldl (fun a q => a + q.2) 0) }) := by
  rw [milestoneAdvance, if_neg (by rw [hh]; decide)]
  dsimp only
  rw [if_neg Bool.false_ne_true]
  exact if_neg (Bool.eq_false_iff.mp hq)

theorem milestoneAdvance_lost (hh : homeRuns m n = true) (ho : (getMs m n).owner ≠ 0) :
    milestoneAdvance n true m = stateLost m ((getMs m n).owner / 4096) (unitRgn (homeOf n) 1) := by
  rw [milestoneAdvance, if_neg (by rw [hh]; decide)]
  dsimp only
  rw [if_pos rfl, if_neg ho]

theorem outriderDeadline_of {c k run w : Nat} {q : ManSt} {r : RunSt} (hq : getMan m c k = some q) (hr : getRun q run = some r)
    (hp : physOf m (wbOf q.img w).array = some p) (hst : r.started = true) (hh : r.halted = false) (he : eligible q r w = true)
    (hu : (unmet (getBlk m p) (getCtx m c) q.img run w).isEmpty = false) (ho : (unmet (getBlk m p) (getCtx m c) q.img run w).all (isOutrider q.img) = true)
    (hl : q.late.any (· == (run, w)) = false) :
    outriderDeadline c k run w m = reeval (modCtx (modMan m c k (fun q => { q with late := q.late ++ [(run, w)] })) c (fun x => { x with orLate := satAdd x.orLate 1 })) p := by
  rw [outriderDeadline, hq]
  dsimp only
  rw [hr, hp]
  dsimp only
  rw [if_neg (by rw [hst, hh, he, hu, ho, hl]; decide)]

end

/-- Settles O15, clause by clause. -/
theorem sequencerItems : Obligations.SequencerItems := by
  refine ⟨?_, ?_, ?_, ?_, ?_, ?_, ?_, ?_, ?_, ?_⟩
  · exact fun s p st w i n cfg ptr hi hb ho => next_of (windowSet_own hi hb ho)
  · exact fun s p st w i n cfg ptr hi hb he hc => next_of (windowSet_foreign hi hb he hc)
  · exact fun s p st w i en bank hi hb ho => next_of (aliasSet_own hi hb ho)
  · exact fun s p st w i it hi => next_of (by rw [barrierItem, hi])
  · exact fun s p a h d ha hh hl hb hd => next_of (blockHandover_of ha hh hl hb hd)
  · exact fun s n hh hq hf => next_of ((milestoneAdvance_of hh hq).trans (if_neg (Bool.eq_false_iff.mp hf)))
  · exact fun s n hh hq hf => next_of ((milestoneAdvance_of hh hq).trans (if_pos hf))
  · exact fun s n hh ho => next_of (milestoneAdvance_lost hh ho)
  · exact fun s n p => rfl
  · exact fun s c k run w q r p hq hr hp hst hh he hu ho hl => next_of (outriderDeadline_of hq hr hp hst hh he hu ho hl)

end Sys2Proof.Proofs

end

