-- ==== Sys2Proof/Proofs/Numerics.lean ====
section

/-! PROOF. A NUMERICS_SAVE that waits for the runs of its step: the mailbox is BUSY, and the response of the request before it is gone. -/

namespace Sys2Proof.Proofs

open Sys2Proof Sys2Proof.Machine

/-- A run in flight. -/
def savedRun : RunSt :=
  { run := 0, started := true, built := true, step := 0, seq := 0, startNs := 0, startedWbs := [], doneWbs := [], halted := false, code := 0,
    failWb := 0, flags := 0, tiles := [], sets := [], ended := false }

/-- The manifest of that run. -/
def savedMan : ManSt :=
  { gen := 1, order := 0, launched := 1, nextRun := 1, runs := [savedRun], halted := false, retiring := none, late := [], place := 0
    img := { bytes := 128, tOff := 0, tensors := [], decls := [], waybills := [noWaybill], weights := [1, 1, 1], step := true, deadline := 0, runs2 := false } }

/-- A module whose host mailbox still holds the response of an earlier request, and whose context 1 has a run in flight. -/
def savingState : State :=
  { nv := nvReset, pending := []
    m := { machReset with
      pwr := { pwrReset with boot := .running }
      pcie := { pcieReset with linkUp := true, perst := false }
      ctxs := [(1, { ctxReset with st := .active, gen := 1, mans := [(0, some savedMan)] })]
      mgmt := { mgmtReset with mbx := [{ mbxReset with st := .done, resp := [0] }, mbxReset, mbxReset, mbxReset] } } }

/-- NUMERICS_SAVE at address 0 for handle 0x1001, but for its trailer. -/
def saveBare : Req := { port := .host, tally := 1, handle := 0x1001, len := 8, resv := List.replicate 8 0, payload := List.replicate 8 0, crc := 0 }

def saveReq : Req := { saveBare with crc := BitVec.ofNat 32 (crc32c (reqBytes 0x010D saveBare)) }

theorem ok_of_isOk {k : K Unit} (h : k.isOk = true) : k = .ok () := by
  cases k with
  | ok u => rfl
  | error e => exact absurd h (by simp [Except.isOk, Except.toBool])

theorem passes_saveReq : Passes 0x010D aH .active (lenIs 8) noResv saveReq savingState :=
  ⟨Option.isNone_iff_eq_none.mp (by decide +kernel), ok_of_isOk (by decide +kernel), ok_of_isOk (by decide +kernel)⟩

theorem numericsSave_waits : getMbx (numericsSave saveReq savingState.nv savingState.m) .host =
    { st := .busy, status := 0, tally := 1, accepted := true, resp := [], keptStatus := 0, kept := [], inHand := some (0x010D, saveReq), ignored := 0 } := by
  rw [numericsSave, knaob_ok passes_saveReq (d := { m := savingState.m, payload := [], tag := 0, status := 0, busy := true }) rfl]
  rfl

theorem machine_of_save {r : Req} {s : State} {m : Mach} (h : exec (.numericsSave r) s = .next { s with m := m }) : numericsSave r s.nv s.m = m :=
  congrArg State.m (Host.Outcome.next.inj h)

/-- Refutes O16: its second clause keeps the mailbox's response, which a request that waits for its runs drops. -/
theorem not_numericsCommands : ¬ Obligations.NumericsCommands := by
  rintro ⟨-, hwait, -⟩
  have hm := machine_of_save (hwait savingState saveReq savingState.m passes_saveReq rfl rfl rfl)
  have hresp : ([] : List Byte) = [0] := (congrArg Mbx.resp numericsSave_waits).symm.trans (congrArg (fun m => (getMbx m .host).resp) hm)
  exact absurd hresp (List.cons_ne_nil _ _).symm

end Sys2Proof.Proofs

end

