-- ==== Sys2Proof/Proofs/Assayer.lean ====
section

/-! PROOF. The assayer: summaries, markers, and the close of a step. -/

namespace Sys2Proof.Proofs

open Sys2Proof Sys2Proof.Machine

section
variable {m : Mach} {c q : Nat}

theorem stepCloseRow_closes (hh : (getMbx m .host).inHand = none) (hc : closable m c = some q)
    (hq : higherAssigned (getCtx m c) q = true ∨ (getCtx m c).el.park.isSome = true ∨ (getCtx m c).st = .teardown)
    (hs : m.ass.stopped.any (fun z => z.1 == c) = false) : stepCloseRow c m = closeStep m c q := by
  have hmay : (higherAssigned (getCtx m c) q || (getCtx m c).el.park.isSome || (getCtx m c).st == .teardown) = true := by
    rcases hq with h | h | h <;> simp [h]
  have hclosing : closing m c = some q := by rw [closing, hc, Option.filter_some, if_pos hmay]
  rw [stepCloseRow, hh]
  dsimp only
  rw [if_neg Bool.false_ne_true, stepClose, hclosing]
  dsimp only
  rw [if_neg (Bool.eq_false_iff.mp hs)]

theorem stepCloseRow_saves {r : Req} (hh : (getMbx m .host).inHand = some (0x010D, r)) (hr : slotOf r = c) (hb : (getMbx m .host).st = .busy)
    (hc : closable m c = some q) : stepCloseRow c m = resumeSave (closeStep m c q) c := by
  have hsaving : ((0x010D : Nat) == 0x010D && r.handle.toNat / 4096 == c && (getMbx m .host).st == .busy) = true := by
    simp [← hr, hb]
  rw [stepCloseRow, hh]
  dsimp only
  rw [if_pos hsaving, hc]

theorem closeTimeout_stops (hc : closable m c = some q) (hs : m.ass.stopped.any (fun z => z.1 == c) = false) :
    closeTimeout c m = { m with ass := { m.ass with stopped := m.ass.stopped ++ [(c, q)] } } := by
  rw [closeTimeout, if_neg (Bool.eq_false_iff.mp hs), hc, Option.some_or]

/-- A summary of an open watch adds to the statistics of its step. -/
theorem applySum_open {z : TileSum} (hst : (getWatch m z.watch).st ≠ 0) (hctx : (getWatch m z.watch).ctx = handleOf m z.ctx) :
    tget noStats (getWatch (applySum m z) z.watch).open_ z.step = addStats (tget noStats (getWatch m z.watch).open_ z.step) (sumStats z) := by
  have hopen : ¬ (decide ((getWatch m z.watch).st = 0) || (getWatch m z.watch).ctx != handleOf m z.ctx) = true := by simp [hst, hctx]
  rw [applySum, if_neg hopen, getWatch_modWatch, if_pos rfl]
  dsimp only
  rw [tget_tmod, if_pos rfl]

end

/-- Settles O17, clause by clause. -/
theorem assayerEvents : Obligations.AssayerEvents := by
  refine ⟨?_, ?_, ?_, ?_, ?_, ?_, ?_⟩
  · exact fun s q qs hq => next_of (by rw [Machine.assayerSummary, hq])
  · exact fun s k ks hk => next_of (by rw [Machine.endOfRunMarker, hk])
  · exact fun s c q hh hc hq hs => next_of (stepCloseRow_closes hh hc hq hs)
  · exact fun s c q r hh hr hb hc => next_of (stepCloseRow_saves hh hr hb hc)
  · exact fun s c q hc hs => next_of (closeTimeout_stops hc hs)
  · intro m q hst hctx
    refine ⟨_, rfl, _, rfl, ?_⟩
    rw [applySum_open hst hctx]
    exact ⟨rfl, rfl, rfl, rfl, rfl, rfl⟩
  · intro m c q
    rw [closeStep, getCtx_modCtx, if_pos rfl]

end Sys2Proof.Proofs

end

