-- ==== Sys2Proof/Proofs/OrderedAndChecks.lean ====
section

/-! PROOF. Ordered windows, the serving configuration, and the check-value unit. -/

namespace Sys2Proof.Proofs

open Sys2Proof Sys2Proof.Machine

/-- Checks over a numbered list are met where the unnumbered ones are. -/
theorem mustAll_zipIdx_map {α : Type} {l : List α} {ok : α → Bool} {at_ : Nat → Nat} (h : l.all ok = true) :
    mustAll (l.zipIdx.map (fun e => (ok e.1, at_ e.2))) = .ok () := by
  refine mustAll_of fun q hq => ?_
  obtain ⟨e, he, rfl⟩ := List.mem_map.mp hq
  exact List.all_eq_true.mp h _ (List.mem_of_getElem? (List.mem_zipIdx_iff_getElem?.mp he))

theorem mustAll_zipIdx_pair {α : Type} {l : List α} {ok1 ok2 : α → Bool} {at1 at2 : Nat → Nat} (h : l.all (fun a => ok1 a && ok2 a) = true) :
    mustAll (l.zipIdx.flatMap (fun e => [(ok1 e.1, at1 e.2), (ok2 e.1, at2 e.2)])) = .ok () := by
  refine mustAll_of fun q hq => ?_
  obtain ⟨e, he, hqe⟩ := List.mem_flatMap.mp hq
  obtain ⟨h1, h2⟩ := Bool.and_eq_true_iff.mp (List.all_eq_true.mp h _ (List.mem_of_getElem? (List.mem_zipIdx_iff_getElem?.mp he)))
  simp only [List.mem_cons, List.not_mem_nil, or_false] at hqe
  rcases hqe with rfl | rfl
  · exact h1
  · exact h2

section
variable {m : Mach} {n : Nat} {w : OrdWin}

theorem orderedClose_of (hw : tget none m.tier.wins n = some w) (hc : w.closing = false) (hm : msMet (getMs m w.closeMs).value.toNat w.closeTarget = true) :
    orderedClose n m = { applyLog m w with
      tier := { (applyLog m w).tier with wins := tset none (applyLog m w).tier.wins n (some { w with closing := true, log := [] }) } } := by
  rw [orderedClose, hw]
  exact if_neg (by rw [hc, hm]; decide)

theorem orderedDone_of (hw : tget none m.tier.wins n = some w) (hc : w.closing = true) :
    orderedDone n m = advanceMs { m with tier := { m.tier with wins := tdel m.tier.wins n } } w.doneMs 1 := by
  rw [orderedDone, hw]
  exact if_pos hc

end

/-- Settles O18, clause by clause. -/
theorem orderedAndServing : Obligations.OrderedAndServing := by
  refine ⟨?_, ?_, ?_, ?_⟩
  · rintro s r t l k w h ha halign h1 hmax hfmt hl hclose hdone ht hlog hsome htier hwins hk rfl
    refine knaob_next h (must_then (and_true ha (decide_eq_true halign)) (must_then (in_bounds h1 hmax) (must_then (decide_eq_true hfmt)
      (must_then (decide_eq_true hclose) (must_then (decide_eq_true hdone) (must_then hl ?_))))))
    rw [ht, hlog]
    refine must_then (and_true hsome (beq_iff_eq.mpr htier)) (must_then hwins ?_)
    rw [hk]
    rfl
  · exact fun s n w hw hc hm => next_of (orderedClose_of hw hc hm)
  · exact fun s n w hw hc => next_of (orderedDone_of hw hc)
  · rintro s r q binds privs h h1 hmax hbuf hptr hq hstep rfl rfl hbinds hprivs
    refine knaob_next h (must_then (in_bounds h1 hmax) (must_then hbuf (must_then hptr ?_)))
    dsimp only
    rw [hq]
    exact must_then hstep (ok_then (mustAll_zipIdx_pair (at1 := fun i => 32 + 8 * i) (at2 := fun i => 36 + 8 * i) hbinds) (ok_then (mustAll_zipIdx_map (at_ := fun i => 32 + 8 * pf r 24 4 + 2 * i) hprivs) rfl))

/-! ### The check-value unit -/

section
variable {m : Mach} {p : Nat}

theorem cvFrame_of {f : List Byte} {fs : List (List Byte)} (hon : tbit (getBlk m p).cv.cfg.toNat 63 = true) (he : engineInReset m p 3 = false)
    (hr : blkRuns m p = true) (ht : fld (getBlk m p).cv.cfg.toNat 61 2 ≠ 0) (hf : (getBlk m p).cv.frameQ = f :: fs) :
    cvFrame p m = (cvTake (modBlk m p (fun b => { b with cv := { b.cv with frameQ := fs } })) p f).1 := by
  rw [cvFrame]
  dsimp only
  rw [if_neg (by rw [hon, he, hr]; decide), if_neg ht, hf]

end

/-- What a judgement leaves of a unit. -/
def cvFixed (v : CvSt) := (v.frames, v.cfg, v.frameQ)

theorem cvFixed_cvNote (v : CvSt) (k n : Nat) : cvFixed (cvNote v k n) = cvFixed v := by
  unfold cvNote
  dsimp only
  split <;> rfl

theorem cvFixed_notes (l : List Nat) (n : Nat) (v : CvSt) : cvFixed (l.foldl (fun v k => cvNote v k n) v) = cvFixed v := by
  induction l generalizing v with
  | nil => rfl
  | cons k l ih => exact (ih _).trans (cvFixed_cvNote v k n)

theorem cvFixed_cvJudge (v : CvSt) (frame : List Byte) : cvFixed (cvJudge v frame).1 = (satAdd v.frames 1, v.cfg, v.frameQ) := by
  unfold cvJudge
  dsimp only
  split
  · exact cvFixed_cvNote ..
  · exact cvFixed_notes ..

/-- Without a tally a frame that holds its trailer is judged by its check value alone. -/
theorem cvJudge_plain {v : CvSt} {frame : List Byte} (hn : fld v.cfg.toNat 48 2 = 0) (hl : cvTrailer v ≤ frame.length) :
    (cvJudge v frame).2 = (if checkValue (cvCheck v) (frame.take (frame.length - cvTrailer v)) =
      (if tbit v.cfg.toNat 56 = true then v.expect.toNat else leNat (frame.drop (frame.length - cvTrailer v))) then [] else [0]) := by
  have hnt : cvTallyBytes v = 0 := by simp only [cvTallyBytes, hn]
  have hlong : ¬ frame.length < cvTrailer v := Nat.not_lt.mpr hl
  simp [cvJudge, hnt, hlong]
  rfl

/-- Settles O19, clause by clause. -/
theorem checkValues : Obligations.CheckValues := by
  refine ⟨?_, ?_, ?_, ?_, ?_⟩
  · intro s r p h hslot ha hon hw hmul htap hpoly hp hshare hfree
    refine knaob_next h (must_then (beq_iff_eq.mpr hslot) (must_then (decide_eq_true ha) ?_))
    rw [if_pos hon]
    refine must_then (decide_eq_true hw) (must_then ?_ (must_then ?_ (must_then (decide_eq_true hpoly) ?_)))
    · rcases hmul with h | h <;> simp [h]
    · rcases htap with h | h <;> simp [h]
    · rw [hp]
      refine must_then hshare (must_then ?_ ?_)
      · rcases hfree with h | h <;> simp [h]
      · rw [if_pos hon]
        rfl
  · intro s r p h ha hg h12 h20 h28 hp hshare hfree
    have hoff : ¬ tbit (pf r 4 8) 63 = true := by rw [hg]; decide
    refine knaob_next h (must_then (by rw [hg]; rfl) (must_then (decide_eq_true ha) ?_))
    rw [if_neg hoff]
    refine must_then (beq_iff_eq.mpr hg) (must_then (beq_iff_eq.mpr h12) (must_then (beq_iff_eq.mpr h20) (must_then (beq_iff_eq.mpr h28) ?_)))
    rw [hp]
    refine must_then hshare (must_then ?_ ?_)
    · rcases hfree with h | h <;> simp [h]
    · rw [if_neg hoff]
      rfl
  · exact fun s p f fs hon he hr ht hf => next_of (cvFrame_of hon he hr ht hf)
  · intro v frame
    have h := cvFixed_cvJudge v frame
    exact ⟨congrArg Prod.fst h, congrArg (fun q => q.2.1) h, congrArg (fun q => q.2.2) h⟩
  · exact fun v frame hn hl => cvJudge_plain hn hl

end Sys2Proof.Proofs

end

