-- ==== Sys2Proof/Proofs/Cargo.lean ====
section

/-! PROOF. Cargo sets: load, seal, bind, unbind, swap and switch, and what their sources do. -/

namespace Sys2Proof.Proofs

open Sys2Proof Sys2Proof.Machine

/-- The eight source addresses of a request, each legal. -/
theorem sources_ok {a : Nat → Nat} {off : Nat} (h : ∀ i, i < 8 → addrOk (a i) = true) :
    mustAll ((List.range 8).map (fun i => (addrOk (a i), off + 8 * i))) = .ok () := by
  refine mustAll_of fun q hq => ?_
  obtain ⟨i, hi, rfl⟩ := List.mem_map.mp hq
  exact h i (List.mem_range.mp hi)

section
variable {m : Mach} {k : Nat}

theorem cargoSetReady_done {g : CargoSet} (hg : getCargo m k = g) (hst : g.st = 1 ∨ g.st = 4) (hf : g.fetches.any (fun e => e.2.1 == noSource) = false)
    (hl : g.left = []) (hs : g.seed = false ∨ g.sealed = true) (hp : g.pages.any (fun a => rdPoison m a 2048) = false) :
    cargoSetReady k m = modCargo (match g.tag with | some t => endOp m t 0 0 | none => m) k (fun g => { g with st := 2, tag := none, sealed := false }) := by
  subst hg
  have hload : ¬ ((getCargo m k).st != 1 && (getCargo m k).st != 4) = true := by rcases hst with h | h <;> rw [h] <;> decide
  have hdone : ¬ (!(getCargo m k).left.isEmpty || (getCargo m k).seed && !(getCargo m k).sealed) = true := by rcases hs with h | h <;> simp [hl, h]
  rw [cargoSetReady]
  dsimp only
  rw [if_neg hload, if_neg (Bool.eq_false_iff.mp hf), if_neg hdone]
  exact if_neg (Bool.eq_false_iff.mp hp)

theorem cargoSetReady_fails {g : CargoSet} (hg : getCargo m k = g) (hst : g.st = 1 ∨ g.st = 4) (hf : g.fetches.any (fun e => e.2.1 == noSource) = true) :
    cargoSetReady k m = failLoad m k := by
  subst hg
  have hload : ¬ ((getCargo m k).st != 1 && (getCargo m k).st != 4) = true := by rcases hst with h | h <;> rw [h] <;> decide
  rw [cargoSetReady]
  dsimp only
  rw [if_neg hload, if_pos hf]

theorem swapDrained_of {g : CargoSet} {q : Bool × List Nat} (hg : getCargo m k = g) (hq : g.next = some q) (hst : g.st = 3) (hi : g.inFlight = 0)
    (hb : ∀ c ∈ g.bound, builtWith m c k = false) (hr : m.tier.repairs.any (·.set == k) = false) :
    swapDrained k m = startLoad (modCargo m k (fun g =>
      { g with st := 4, seed := q.1, sources := q.2, next := none, sealed := false, fetches := [], left := List.range g.pages.length })) k := by
  subst hg
  have hbuilt : (getCargo m k).bound.any (fun c => builtWith m c k) = false := List.any_eq_false.mpr fun c hc => Bool.eq_false_iff.mp (hb c hc)
  rw [swapDrained, hq]
  exact if_neg (by rw [hst, hi, hbuilt, hr]; decide)

theorem cargoSwitchApply_of {c : Nat} {f : ServConf} {q : Nat × List Byte × Nat} {qs : List (Nat × List Byte × Nat)} (hf : (getCtx m c).sv.conf = some f)
    (hq : (getCtx m c).sv.switches = q :: qs) (hi : inFlight (getCtx m c) = []) (ha : (getCtx m c).st = .active) (hp : (getCtx m c).el.park = none)
    (hb : ∀ e ∈ mansOf (getCtx m c), ∀ r ∈ e.2.runs, r.built = false) :
    cargoSwitchApply c m = endOp (seqWrite (modServ m c (fun v => { v with switches := qs })) c (f.ptrTable + 32 * q.1) q.2.1) q.2.2 0 0 := by
  have hbuilt : (mansOf (getCtx m c)).any (fun e => e.2.runs.any (·.built)) = false :=
    List.any_eq_false.mpr fun e he => Bool.eq_false_iff.mp (List.any_eq_false.mpr fun r hr => Bool.eq_false_iff.mp (hb e he r hr))
  rw [cargoSwitchApply, hf, hq]
  exact if_neg (by rw [hi, ha, hp, hbuilt]; decide)

theorem sourceTimeout_of {tag : Nat} {o : OutReq} (ho : m.fab.out.find? (fun o => o.tag == tag) = some o) :
    (∀ k, o.holder = .cargo k → sourceTimeout tag m = cargoSourceTimeout m k) ∧
    (∀ k, o.holder = .repair k → sourceTimeout tag m =
      repairResponse { m with fab := { m.fab with out := m.fab.out.filter (fun o => o.tag != tag) } } tag [] false) := by
  rw [sourceTimeout, ho]
  dsimp only
  constructor
  · intro k hk
    rw [hk]
  · intro k hk
    rw [hk]

theorem refetchDeadline_of {t : Nat} {r : Repair} (hr : repairOf m k t = some r) : refetchDeadline k t m = afterRepair (repairFail
    { m with fab := { m.fab with out := m.fab.out.filter (fun o => o.tag != r.tag || r.source == noSource) } } r) r.ctl := by
  rw [refetchDeadline, hr]

theorem getCargo_failLoad (m : Mach) (k : Nat) : getCargo (failLoad m k) k = cargoReset := by
  unfold failLoad getCargo
  dsimp only
  rw [tget_tdel, if_pos rfl]

end

/-- Settles O20, clause by clause. -/
theorem cargoSets : Obligations.CargoSets := by
  refine ⟨?_, ?_, ?_, ?_, ?_, ?_, ?_, ?_, ?_, ?_, ?_, ?_, ?_, ?_⟩
  · rintro s r ps c h hk ha halign hb hb2 hr1 hr2 hseed hn hn1 hsrc hhandle hst rfl hps
    refine knaob_next h (must_then (decide_eq_true hk) (must_then (and_true ha (decide_eq_true halign)) (must_then (and_true (bne_iff_ne.mpr hb) (decide_eq_true hb2))
      (must_then (in_bounds hr1 hr2) (must_then (decide_eq_true hseed) (must_then (and_true (decide_eq_true hn) ?_)
      (ok_then (sources_ok hsrc) (ok_then hhandle (must_then (beq_iff_eq.mpr hst) ?_)))))))))
    · rcases hn1 with h | h <;> simp [h]
    · rw [hps]
      rfl
  · intro s r h hk hst hseed hsealed
    refine knaob_next h (must_then (decide_eq_true hk) (must_then (and_true (and_true ?_ hseed) (not_of_false hsealed)) rfl))
    rcases hst with h | h <;> rw [h] <;> rfl
  · exact fun s r h hk hst => knaob_next h (must_then (decide_eq_true hk) (must_then (beq_iff_eq.mpr hst) rfl))
  · rintro s r g h hk rfl hb
    refine ⟨_, rfl, fun hleft => ?_, fun hleft => ⟨_, rfl, ?_⟩⟩
    · refine knaob_next h (must_then (decide_eq_true hk) (must_then hb ?_))
      exact if_neg (by simpa using hleft)
    · refine knaob_next h (must_then (decide_eq_true hk) (must_then hb ?_))
      exact if_pos (by rw [hleft]; rfl)
  · intro s r h hk hseed hn hn1 hsrc hst
    refine knaob_next h (must_then (decide_eq_true hk) (must_then (decide_eq_true hseed) (must_then (and_true (decide_eq_true hn) ?_)
      (ok_then (sources_ok hsrc) (must_then (beq_iff_eq.mpr hst) rfl)))))
    rcases hn1 with h | h <;> simp [h]
  · exact fun s r h hv hp hset hk hconf hst hb => knaob_next h (must_then (beq_iff_eq.mpr hv) (must_then (beq_iff_eq.mpr hp) (must_then (decide_eq_true hset)
      (must_then (decide_eq_true hk) (must_then hconf (must_then (and_true (beq_iff_eq.mpr hst) hb) rfl))))))
  · exact fun s k g hg hst hf hl hs hp => next_of (cargoSetReady_done hg hst hf hl hs hp)
  · exact fun s k g hg hst hf => next_of (cargoSetReady_fails hg hst hf)
  · exact fun s k g q hg hq hst hi hb hr => next_of (swapDrained_of hg hq hst hi hb hr)
  · exact fun s c f q qs hf hq hi ha hp hb => next_of (cargoSwitchApply_of hf hq hi ha hp hb)
  · exact fun s tag o k ho hh => next_of ((sourceTimeout_of ho).1 k hh)
  · exact fun s tag o k ho hh => next_of ((sourceTimeout_of ho).2 k hh)
  · exact fun s k t r hr => next_of (refetchDeadline_of hr)
  · exact getCargo_failLoad

end Sys2Proof.Proofs

end

