-- ==== Sys2Proof/Proofs/FabricCommands.lean ====
section

/-! PROOF. The module's identifier, a context's membership, the waymap's entries and the response timeout. -/

namespace Sys2Proof.Proofs

open Sys2Proof Sys2Proof.Machine

/-- The membership a flag of 1 keeps the epoch before for. -/
theorem newMembership_flag (x : Membership) (id e flag : Nat) (members : List Nat) : newMembership x id e (flag == 1) members =
    { id := id, epoch := e, carried := if flag = 1 then x.epoch else x.carried, carriedValid := flag == 1, members := members } := by
  simp [newMembership]

/-- Settles O21, clause by clause: each check of a command is one of the clause's premises. -/
theorem fabricCommands : Obligations.FabricCommands := by
  refine ⟨?_, ?_, ?_, ?_, ?_⟩
  · intro s r h hid hfree
    refine knaob_next h (must_then (decide_eq_true hid) (must_then ?_ rfl))
    rcases hfree with hnone | hall
    · rw [hnone]
      rfl
    · refine or_true_right (List.all_eq_true.mpr fun c hc => ?_)
      rcases hall c (List.mem_range.mp hc) with h | h <;> simp [h]
  · rintro s r x h rfl hflag hepoch hcar
    refine knaob_next h (must_then (decide_eq_true hflag) (must_then (and_true (bne_iff_ne.mpr hepoch) ?_) ?_))
    · rcases hcar with h | h <;> simp [h]
    · rw [newMembership_flag]
      rfl
  · rintro s r t isIn sz p segs own sets h hdir rfl hz rfl rfl hp hcargo hn hnmax hbase rfl hmod hin hout hadv hreach hatom rfl hown hzero hover rfl hkeep hwrite hput
    refine knaob_next h (must_then (decide_eq_true hp) (must_then (decide_eq_true hdir) (must_then (decide_eq_true hz) ?_)))
    refine must_then ?_ (must_then ?_ (must_then ?_ (must_then ?_ (must_then (in_bounds hn hnmax) ?_))))
    · cases h4 : tbit (pf r 2 1) 4
      · rfl
      · simp [hcargo h4]
    · cases hi : (pf r 0 1 == 1)
      · rfl
      · simp [hin hi]
    · cases hi : (pf r 0 1 == 1)
      · cases h3 : tbit (pf r 2 1) 3
        · rfl
        · obtain ⟨hp8, hz0, hn1⟩ := hadv hi h3
          have hia : isAdvance (pf r 24 8) = true := (hout hi).2.2 ▸ h3
          simp [hp8, hz0, hn1, hia]
      · rfl
    · cases h2 : tbit (pf r 2 1) 2
      · rfl
      · simpa using hatom h2
    refine must_then ?_ (must_then ?_ (must_then ?_ (must_then ?_ (must_then ?_ (must_then ?_ (must_then ?_ ?_))))))
    · cases hi : (pf r 0 1 == 1)
      · exact and_true (beq_iff_eq.mpr hbase) (decide_eq_true (hout hi).1)
      · exact and_true (beq_iff_eq.mpr hbase) rfl
    · cases hi : (pf r 0 1 == 1)
      · rfl
      · have := (hin hi).2.2.2
        rw [List.all_map] at this
        exact this
    · cases hi : (pf r 0 1 == 1)
      · exact and_true (decide_eq_true hmod) rfl
      · exact and_true (decide_eq_true hmod) (by simp [(hin hi).2.1])
    · cases hi : (pf r 0 1 == 1)
      · rfl
      · simp [(hin hi).2.2.1]
    · cases hi : (pf r 0 1 == 1)
      · simp [(hout hi).2.1]
      · rfl
    · cases hi : (pf r 0 1 == 1)
      · rw [(hout hi).2.2]
        cases isAdvance (pf r 24 8) <;> rfl
      · rfl
    · cases hi : (pf r 0 1 == 1)
      · cases h3 : tbit (pf r 2 1) 3
        · exact hreach hi h3
        · rfl
      · rfl
    refine must_then hown (must_then (not_of_false hzero) (must_then (not_of_false hover) (must_then ?_ (must_then ?_ ?_))))
    · refine List.all_eq_true.mpr fun e he => ?_
      rcases hkeep e he with h | h <;> simp [h]
    · rcases hwrite with h | h | ⟨h1, h2⟩
      · exact or_true_left (or_true_left (List.isEmpty_iff.mpr h))
      · exact or_true_left (or_true_right h)
      · exact or_true_right (by rw [h1, h2]; rfl)
    · dsimp only
      rw [hput]
      rfl
  · rintro s r ks m h hdir hz hn hnmax hbase haddr rfl hks rfl
    exact knaob_next h (must_then (decide_eq_true hdir) (must_then (decide_eq_true hz) (must_then (in_bounds hn hnmax)
      (must_then (and_true (beq_iff_eq.mpr hbase) haddr) (must_then hks rfl)))))
  · exact fun s r h h1 hmax => knaob_next h (must_then (in_bounds h1 hmax) rfl)

end Sys2Proof.Proofs

end

