-- ==== Sys2Proof/Proofs/Convoys.lean ====
section

/-! PROOF. Convoys: their records and schedules, the start of an occurrence, the packets of a collective, and an abort. -/

namespace Sys2Proof.Proofs

open Sys2Proof Sys2Proof.Machine

/-! ### What leaves the convoys and channels alone -/

section
variable {m : Mach}

theorem conv_foldl {β : Type} {f : Mach → β → Mach} (hf : ∀ m x, (f m x).conv = m.conv) (l : List β) (m : Mach) : (l.foldl f m).conv = m.conv :=
  foldl_keeps (P := fun k => k.conv = m.conv) (fun _ x h => (hf _ x).trans h) l rfl

@[simp] theorem conv_modCtx (c : Nat) (f : Ctx → Ctx) : (modCtx m c f).conv = m.conv := rfl
@[simp] theorem conv_modBlk (p : Nat) (f : Blk → Blk) : (modBlk m p f).conv = m.conv := rfl
@[simp] theorem conv_freeStep (n : Nat) : (freeStep m n).conv = m.conv := rfl

@[simp] theorem conv_wrGran (g a : Nat) (bs : List Byte) : (wrGran m g a bs).conv = m.conv := by
  unfold wrGran
  split
  · rfl
  · split <;> rfl

@[simp] theorem conv_dropNarrow (a n : Nat) : (dropNarrow m a n).conv = m.conv := by
  unfold dropNarrow
  split <;> rfl

@[simp] theorem conv_markDirty (a n : Nat) : (markDirty m a n).conv = m.conv := by
  unfold markDirty
  dsimp only
  split
  · exact conv_dropNarrow a n
  · exact conv_dropNarrow a n

@[simp] theorem conv_wrBytes (a : Nat) (bs : List Byte) : (wrBytes m a bs).conv = m.conv :=
  (conv_foldl (fun _ _ => conv_wrGran ..) _ _).trans (conv_markDirty ..)

@[simp] theorem conv_sendPk (pk : Packet) : (sendPk m pk).conv = m.conv := by
  unfold sendPk
  dsimp only
  split <;> rfl

@[simp] theorem conv_report (code cls unit : Nat) (ctx : Option Nat) (contexts subject : Nat) (d : List Byte) :
    (report m code cls unit ctx contexts subject d).conv = m.conv := by rw [report_frame]

@[simp] theorem conv_reportCtx (code unit c subject : Nat) (d : List Byte) : (reportCtx m code unit c subject d).conv = m.conv := conv_report ..

@[simp] theorem conv_acctAdd (c i k : Nat) : (acctAdd m c i k).conv = m.conv := by rw [acctAdd_frame]

@[simp] theorem conv_discardLeft (c k p : Nat) : (discardLeft m c k p).conv = m.conv := by
  unfold discardLeft
  split
  · dsimp only
    split <;> rfl
  · rfl

@[simp] theorem conv_haltMan (c k code wb : Nat) : (haltMan m c k code wb).conv = m.conv := by
  unfold haltMan
  split
  · rfl
  · split
    · rfl
    · exact conv_foldl (fun _ _ => conv_discardLeft ..) _ _

@[simp] theorem conv_haltWaiters (c : Nat) (rels : List Nat) (code : Nat) : (haltWaiters m c rels code).conv = m.conv := by
  refine conv_foldl (fun n k => ?_) _ _
  split
  · split
    · exact conv_haltMan ..
    · rfl
  · rfl

@[simp] theorem conv_freeRecv (slot a n : Nat) : (freeRecv m slot a n).conv = m.conv := by
  refine conv_foldl (fun k q => ?_) _ _
  split
  · split
    · exact conv_wrBytes ..
    · rfl
  · rfl

theorem getConv_of_conv {a b : Mach} (h : a.conv = b.conv) (n : Nat) : getConv a n = getConv b n := congrArg (fun (q : ConvS) => tget convReset q.slots n) h

@[simp] theorem getConv_acctAdd (c i k n : Nat) : getConv (acctAdd m c i k) n = getConv m n := getConv_of_conv (conv_acctAdd ..) n

/-- The slot of an aborted convoy. -/
theorem getConv_abortConv (n : Nat) (self : Bool) (reason origin op : Nat) (ranks : List Nat) : getConv (abortConv m n self reason origin op ranks) n =
    { getConv m n with
      st := 3, coll := none, abort := BitVec.ofNat 64 (1 <<< 63 ||| b2n self <<< 62 ||| reason <<< 58 ||| origin <<< 45 ||| op % 2 ^ 24)
      flags := setBit (getConv m n).flags 2, occ := tmod 0 (getConv m n).occ 2 (fun x => wrapAdd x 1) } := by
  unfold abortConv
  extract_lets s c m1 m2 word m3 m4 m5
  have h1 : m1.conv = m.conv := by
    unfold m1
    split
    · split
      · exact conv_freeRecv ..
      · rfl
    · rfl
  have h2 : m2.conv = m.conv := (conv_foldl (fun _ _ => conv_sendPk _) _ _).trans h1
  have h5 : m5.conv = m3.conv := by
    refine (conv_reportCtx ..).trans ?_
    unfold m4
    split <;> rfl
  have h3 : getConv m3 n = { getConv m n with
      st := 3, coll := none, abort := BitVec.ofNat 64 word, flags := setBit (getConv m n).flags 2, occ := tmod 0 (getConv m n).occ 2 (fun x => wrapAdd x 1) } := by
    rw [← getConv_of_conv h2 n]
    unfold m3 setConvFlag
    rw [getConv_modConv, if_pos rfl, getConv_modConv, if_pos rfl]
  have hend : ∀ k : Mach, k.conv = m3.conv → getConv k n = getConv m3 n := fun k hk => getConv_of_conv hk n
  split
  · rw [hend _ h5, h3]
  · rw [hend _ ((conv_haltWaiters ..).trans h5), h3]

end

theorem getLsbD_setBit_two (x : W32) : (setBit x 2).getLsbD 2 = true := by simp [setBit]

/-! ### Packets of a collective -/

section
variable {m m1 : Mach} {n : Nat} {pk : Packet}

/-- What a packet that passes every check of its convoy is taken to. -/
theorem convArrive_of {opcode : Nat} {f : Mach → Nat → Packet → Mach} (h : ArrivesConv m opcode pk m1 n) :
    convArrive m opcode f = f (acctAdd m1 ((getConv m1 n).rc.ctx / 4096) 10 pk.data.length) n pk := by
  obtain ⟨⟨htake, hcustoms⟩, hfind, hepoch, hmember, hop⟩ := h
  rw [convArrive, htake]
  dsimp only
  rw [hcustoms]
  dsimp only
  rw [hfind]
  dsimp only
  rw [hepoch]
  dsimp only
  rw [if_neg (by rw [hmember]; simp), if_neg (by rcases hop with h | ⟨h1, h2⟩ <;> simp [*])]

end

/-- Settles O22, clause by clause. -/
theorem convoyCommands : Obligations.ConvoyCommands := by
  refine ⟨?_, ?_, ?_, ?_, ?_, ?_, ?_, ?_, ?_, ?_, ?_⟩
  · intro s r ext bs k h haddr h36 hmax h4 hrec hok hnone hslot
    refine knaob_next h (must_then haddr (must_then (and_true (in_bounds h36 hmax) (beq_iff_eq.mpr h4)) ?_))
    rw [hrec]
    refine must_then hok ?_
    dsimp only
    rw [hnone]
    dsimp only
    rw [hslot]
    rfl
  · intro s r ext bs k h haddr h36 hmax h4 hrec hok hfind hepoch
    refine knaob_next h (must_then haddr (must_then (and_true (in_bounds h36 hmax) (beq_iff_eq.mpr h4)) ?_))
    rw [hrec]
    refine must_then hok ?_
    dsimp only
    rw [hfind]
    exact must_then (bne_iff_ne.mpr hepoch) rfl
  · exact fun s r h hn hown hst => knaob_next h (must_then (decide_eq_true hn) (must_then hown (must_then (bne_iff_ne.mpr hst) rfl)))
  · intro s r ext bs h hn haddr h1 hmax hown hst hrec hall
    refine knaob_next h (must_then (decide_eq_true hn) (must_then haddr (must_then (in_bounds h1 hmax) (must_then hown (must_then (bne_iff_ne.mpr hst) ?_)))))
    rw [hrec]
    exact must_then hall rfl
  · intro s n d hlive hcoll hst hd htrig
    refine next_of ((if_neg (by simp)).trans ?_)
    rw [collectiveTrigger]
    dsimp only
    rw [if_neg (by rw [hlive]; decide), hcoll]
    dsimp only
    rw [if_neg (by rw [hst]; decide), hd]
    exact if_pos htrig
  · intro s n q d hlive hcoll hd hop h0 hlt hdone htrig
    refine ⟨_, rfl, next_of ((if_neg (by simp)).trans ?_)⟩
    rw [collectiveTrigger]
    dsimp only
    rw [if_neg (by rw [hlive]; decide), hcoll]
    dsimp only
    rw [hd]
    dsimp only
    rw [if_pos (by simp [hop, h0, hlt, hdone, htrig])]
  · intro s pk m1 n c d h hc hd hlay hcheck
    refine ⟨_, rfl, next_of ((convArrive_of h).trans ?_)⟩
    rw [getConv_acctAdd]
    dsimp only
    rw [hc]
    dsimp only
    rw [hd]
    dsimp only
    rw [if_neg (by simp [hlay]), if_neg (by simp [hcheck])]
  · intro s pk m1 n c d i j st h hc hd hchunk hst hfits
    refine next_of ((convArrive_of h).trans ?_)
    rw [getConv_acctAdd]
    dsimp only
    rw [hc]
    dsimp only
    rw [hd]
    dsimp only
    rw [hchunk]
    dsimp only
    rw [hst]
    exact if_pos hfits
  · intro s pk m1 n h hst
    refine next_of ((convArrive_of h).trans ?_)
    rw [getConv_acctAdd]
    exact if_neg hst
  · exact fun s n hst => next_of (if_pos hst)
  · intro m n self reason origin op ranks
    refine ⟨_, rfl, ?_⟩
    rw [getConv_abortConv]
    exact ⟨rfl, rfl, rfl, rfl, getLsbD_setBit_two _⟩

end Sys2Proof.Proofs

end

