-- ==== Sys2Proof/Proofs/Channels.lean ====
section

/-! PROOF. Channels: their opening and close, the units that leave and arrive, and their credits. -/

namespace Sys2Proof.Proofs

open Sys2Proof Sys2Proof.Machine

section
variable {m m1 : Mach} {n : Nat} {pk : Packet}

/-- What a packet that passes every check of its channel is taken to. -/
theorem chanArrive_of {opcode : Nat} {f : Mach → Nat → Packet → Mach} (h : ArrivesChan m opcode pk m1 n) : chanArrive m opcode f = f m1 n pk := by
  obtain ⟨⟨htake, hcustoms⟩, rfl, hctx, hpeer⟩ := h
  rw [chanArrive, htake]
  dsimp only
  rw [hcustoms]
  dsimp only
  rcases hpeer with ⟨q, hq, hsrc⟩ | ⟨q, hnone, hq, hsrc⟩
  · rw [if_neg (by simp [hq, hctx]), hq]
    exact if_neg (by simp [hsrc])
  · rw [if_neg (by simp [hnone, hq, hctx]), hnone, hq]
    exact if_neg (by simp [hsrc])

theorem conv_ite {c : Prop} [Decidable c] {a b : Mach} (ha : a.conv = m.conv) (hb : b.conv = m.conv) : (if c then a else b).conv = m.conv := by
  split
  · exact ha
  · exact hb

@[simp] theorem conv_endStalled (c p w : Nat) : (endStalled m c p w).conv = m.conv := by
  unfold endStalled
  extract_lets b m1
  have h1 : m1.conv = m.conv := by
    unfold m1
    split
    · refine conv_ite ?_ rfl
      split
      · split
        · exact conv_ite rfl rfl
        · rfl
      · rfl
    · rfl
  split
  · exact conv_ite h1 h1
  · exact h1

@[simp] theorem conv_closeWindow (slot a w : Nat) : (closeWindow m slot a w).conv = m.conv := by
  unfold closeWindow
  split
  · rfl
  · exact conv_endStalled ..

theorem getChan_of_conv {a b : Mach} (h : a.conv = b.conv) (n : Nat) : getChan a n = getChan b n := congrArg (fun (q : ConvS) => tget chanReset q.chans n) h

@[simp] theorem getChan_acctAdd (c i k n : Nat) : getChan (acctAdd m c i k) n = getChan m n := getChan_of_conv (conv_acctAdd ..) n

/-- A closed channel has neither half. -/
theorem getChan_closeChannel (tell : Bool) (ho : (getChan m n).send.isSome = true ∨ (getChan m n).recv.isSome = true) :
    getChan (closeChannel m n tell) n = { getChan m n with send := none, recv := none } := by
  have hopen : ¬ ((getChan m n).send.isNone && (getChan m n).recv.isNone) = true := by
    rcases ho with h | h <;> obtain ⟨x, hx⟩ := Option.isSome_iff_exists.mp h <;> simp [hx]
  unfold closeChannel
  extract_lets ch slot close both m1 m2
  have hclose : ∀ (k : Mach) a b, (close k a b).conv = k.conv := fun k a b => (conv_acctAdd ..).trans (conv_sendPk _)
  have hend : ∀ (k : Mach) a w x y, (if (tell && !both) = true then close (closeWindow k slot a w) x y else closeWindow k slot a w).conv = k.conv :=
    fun k a w x y => conv_ite ((hclose ..).trans (conv_closeWindow ..)) (conv_closeWindow ..)
  have h1 : m1.conv = m.conv := by
    unfold m1
    split
    · exact hend ..
    · rfl
  have h2 : m2.conv = m.conv := by
    unfold m2
    split
    · exact (hend ..).trans h1
    · exact h1
  rw [if_neg hopen, getChan_modChan, if_pos rfl, getChan_of_conv h2 n]

theorem channelSend_of {q : ChSend} {p : Nat} (hq : (getChan m n).send = some q) (hp : physOf m q.array = some p)
    (hr : sendReadyChan m (getChan m n) q p = true) : channelSend n m = sendUnit m n (getChan m n) q p := by
  rw [channelSend]
  rw [hq]
  dsimp only
  rw [hp]
  exact if_pos hr

/-- Without a credit nothing leaves. -/
theorem channelSend_uncredited {q : ChSend} (hq : (getChan m n).send = some q) (hc : q.credits = 0) : channelSend n m = m := by
  rw [channelSend]
  rw [hq]
  dsimp only
  split
  · rfl
  · exact if_neg (by simp [sendReadyChan, hc])

theorem channelProduce_of {h : ChRecv} {u : ChUnit} {rest : List ChUnit} {p : Nat} (hr : (getChan m n).recv = some h) (hu : h.held = u :: rest)
    (hp : physOf m h.array = some p) (hm : mayProduce m n (getChan m n) h u p = true) : channelProduce n m = produceUnit m n h u rest p := by
  rw [channelProduce]
  rw [hr]
  dsimp only
  rw [hu, hp]
  exact if_pos hm

theorem channelTimeout_of {q : ChSend} {p : Nat} (hq : (getChan m n).send = some q) (hp : physOf m q.array = some p) (hc : q.credits = 0)
    (hu : q.unit ≤ winFill (getWin (getBlk m p) q.window)) : channelTimeout n m = closeChannel m n true := by
  rw [channelTimeout, hq]
  dsimp only
  rw [hp]
  exact if_pos (by simp [hc, hu])

end

/-- Settles O23, clause by clause. -/
theorem channelCommands : Obligations.ChannelCommands := by
  refine ⟨?_, ?_, ?_, ?_, ?_, ?_, ?_, ?_, ?_, ?_⟩
  · rintro s r x y rx tx m h hn hh1 hh3 rfl rfl ha hshare hwin hpm hpc hu1 hu32 hrx ht1 ht2 hphys rfl hopen rfl rfl
    refine knaob_next h (must_then (decide_eq_true hn) (must_then (in_bounds hh1 hh3) (must_then (and_true (decide_eq_true ha) hshare) (must_then (decide_eq_true hwin)
      (must_then (decide_eq_true hpm) (must_then (decide_eq_true hpc) (must_then (in_bounds hu1 hu32) (must_then ?_ (must_then ?_ (must_then (in_bounds ht1 ht2)
      (must_then hphys (must_then ?_ (must_then ?_ ?_)))))))))))))
    · cases hr : (pf r 2 1 == 2 || pf r 2 1 == 3)
      · rfl
      · exact decide_eq_true (hrx hr).1
    · cases hr : (pf r 2 1 == 2 || pf r 2 1 == 3)
      · rfl
      · exact and_true (decide_eq_true (hrx hr).2.1) (decide_eq_true (hrx hr).2.2.1)
    · rcases hopen with ⟨h1, h2⟩ | ⟨hc, h1, h2⟩
      · simp [h1, h2]
      · refine or_true_right (and_true (and_true (beq_iff_eq.mpr hc) ?_) ?_)
        · cases htx : (pf r 2 1 == 1 || pf r 2 1 == 3)
          · rfl
          · rw [h1 htx]; rfl
        · cases hr : (pf r 2 1 == 2 || pf r 2 1 == 3)
          · rfl
          · rw [h2 hr]; rfl
    · cases hr : (pf r 2 1 == 2 || pf r 2 1 == 3)
      · rfl
      · exact decide_eq_true (hrx hr).2.2.2
    · rfl
  · intro s r h hn hopen hctx
    refine knaob_next h (must_then (decide_eq_true hn) (must_then (and_true ?_ (beq_iff_eq.mpr hctx)) rfl))
    exact Bool.or_eq_true_iff.mpr hopen
  · exact fun s n q p hq hp hr => next_of (channelSend_of hq hp hr)
  · rintro s n q _ hq _ hc rfl
    exact next_of (channelSend_uncredited hq hc)
  · intro s pk m1 n h ha hr
    refine next_of ((chanArrive_of ha).trans ?_)
    rw [hr]
  · exact fun s n h u rest p hr hu hp hm => next_of (channelProduce_of hr hu hp hm)
  · exact fun s pk m1 n ha => next_of (chanArrive_of ha)
  · exact fun s pk m1 n ha => next_of (chanArrive_of ha)
  · exact fun s n q p hq hp hc hu => next_of (channelTimeout_of hq hp hc hu)
  · exact fun m n tell ho => getChan_closeChannel tell ho

end Sys2Proof.Proofs

end

