-- ==== Sys2Proof/Proofs/Twins.lean ====
section

/-! PROOF. TWIN_ACCEPT on a module without mailboxes: the registration is entered, and no mailbox holds its answer. -/

namespace Sys2Proof.Proofs

open Sys2Proof Sys2Proof.Machine

/-- The entry of the waymap that gives context 1 this module's first megabytes. -/
def ownWay : WayEnt := { noWay with valid := true, size := 1, read := true, write := true, module := 0, owner := 0x1001 }

/-- A running module with context 1 ACTIVE and no mailbox at all. -/
def noMailboxes : State :=
  { nv := nvReset, pending := []
    m := { machReset with
      pwr := { pwrReset with boot := .running, fabricReady := true }
      pcie := { pcieReset with linkUp := true, perst := false }
      ctxs := [(1, { ctxReset with st := .active, gen := 1 })]
      fab := { fabReset with module := some 0, waymap := [(7, ownWay)] }
      mgmt := { mgmtReset with mbx := [] } } }

/-- TWIN_ACCEPT of 2,048 bytes at 0, their journal at 0x100000 and undo area at 0x200000, for module 8191, but for its trailer. -/
def acceptBare : Req :=
  { port := .host, tally := 1, handle := 0x1001, len := 48, resv := List.replicate 8 0, crc := 0
    payload := leBytes 2 8191 ++ leBytes 2 0x1001 ++ leBytes 4 2 ++ leBytes 8 0 ++ leBytes 8 2048 ++ leBytes 8 0x100000 ++ leBytes 8 2048 ++ leBytes 8 0x200000 }

def acceptRequest : Req := { acceptBare with crc := BitVec.ofNat 32 (crc32c (reqBytes 0x080C acceptBare)) }

/-- Its registration. -/
def acceptedReg : TwinReg :=
  { ctx := 0x1001, peerM := 8191, peerH := 0x1001, depth := 2, copy := 0, bytes := 2048, journal := 0x100000, jbytes := 2048, undo := 0x200000, last := none,
    inHand := [], undos := [] }

theorem passes_acceptRequest : Passes 0x080C aH .active (lenIs 48) (resvAt [(5, 3)]) acceptRequest noMailboxes :=
  ⟨Option.isNone_iff_eq_none.mp (by decide +kernel), ok_of_isOk (by decide +kernel), ok_of_isOk (by decide +kernel)⟩

theorem accepts_acceptRequest : AcceptsTwin acceptRequest noMailboxes acceptedReg :=
  ⟨passes_acceptRequest, by decide +kernel⟩

/-- The answer of the accepted registration stands nowhere: the mailbox read is still the one a missing mailbox reads as. -/
theorem getMbx_twinAccept : getMbx (twinAccept acceptRequest noMailboxes.nv noMailboxes.m) .host = mbxReset := by decide +kernel

theorem machine_of_twinAccept {r : Req} {s t : State} (h : exec (.twinAccept r) s = .next t) : t.m = twinAccept r s.nv s.m :=
  (congrArg State.m (Host.Outcome.next.inj h)).symm

/-- Refutes O24: its second clause reads the answer's state from the port's mailbox, also where the state has no mailbox. -/
theorem not_twinCommands : ¬ Obligations.TwinCommands := by
  rintro ⟨-, haccept, -⟩
  obtain ⟨t, hexec, -, -, -, hst, -⟩ := haccept noMailboxes acceptRequest acceptedReg _ accepts_acceptRequest (fun k o h => by cases h) rfl
  rw [machine_of_twinAccept hexec] at hst
  have hidle : mbxReset.st = .done := (congrArg Mbx.st getMbx_twinAccept).symm.trans hst
  exact absurd hidle (by decide)

end Sys2Proof.Proofs

end
-- ==== Sys2Proof/Proofs/Tiers.lean ====
section
/-! PROOF. Requests at a controller of a tier: how one arrives, is held for a repair, and is served (R107, R233, R251), and host accesses of module memory. -/

namespace Sys2Proof.Proofs
open Sys2Proof Sys2Proof.Machine

variable {m : Mach} {k : Nat} {q : TierReq}

/-- What a controller's counters become depends on what they are alone. -/
theorem modCtl_congr {f g : Ctl → Ctl} (h : f (getCtl m k) = g (getCtl m k)) : modCtl m k f = modCtl m k g :=
  congrArg (fun l => { m with tier := { m.tier with ctls := l } }) (congrArg (tset ctlReset m.tier.ctls k) h)

theorem arriveReq_waits (h : (getCtl m k).input ≠ []) (q : TierReq) : arriveReq m k q = modCtl m k (fun x => { x with input := x.input ++ [q] }) :=
  if_pos (by simpa using h)

theorem arriveReq_taken {m' : Mach} (h : (getCtl m k).input = []) (ht : takeReq m k q = (m', none)) : arriveReq m k q = m' := by
  unfold arriveReq
  rw [if_neg (by simp [h]), ht]

/-- A request that meets a tile under repair is held there while the controller's places for such requests last, else it stays in front of the controller. -/
theorem arriveReq_held {r : Repair} (h : (getCtl m k).input = []) (hr : repairMet m q = some r) :
    arriveReq m k q = if 64 ≤ heldAt m k then modCtl m k (fun x => { x with input := [q] })
      else modRepair m r.set r.tile (fun r => { r with held := r.held ++ [q] }) := by
  have ht : takeReq m k q = if 64 ≤ heldAt m k then (m, some q) else (modRepair m r.set r.tile (fun r => { r with held := r.held ++ [q] }), none) := by
    unfold takeReq
    rw [hr]
    rfl
  unfold arriveReq
  rw [if_neg (by simp [h]), ht]
  split
  · exact modCtl_congr (congrArg (fun l => { getCtl m k with input := q :: l }) h)
  · rfl

/-- A plain request that meets no tile under repair, before nor behind the code, is served. -/
theorem arriveReq_served {m' : Mach} (h : (getCtl m k).input = []) (hr : repairMet m q = none) (hk : q.pk = none) (hm : q.pm = none)
    (hc : m' = if q.data.isNone && q.n ≤ 64 && !q.host then narrowRead (modCtl m k (fun x => { x with ondie := satAdd x.ondie q.ondie })) k q
      else throughCode (modCtl m k (fun x => { x with ondie := satAdd x.ondie q.ondie })) (tierTouched q.a (reqLen q) q.data.isSome) q.single q.double q.who)
    (hl : repairMet m' { q with single := [], double := [], ondie := 0 } = none) :
    arriveReq m k q = serveTier m' { q with single := [], double := [], ondie := 0 } := by
  refine arriveReq_taken h ?_
  unfold takeReq
  rw [hk, hm] at hl
  rw [hr, hk, hm]
  dsimp only
  rw [← hc, hl]

theorem modCtl_ctlsOnly {x : Mach} (h : x = { m with tier := { m.tier with ctls := x.tier.ctls } }) (k : Nat) (f : Ctl → Ctl) :
    modCtl x k f = { m with tier := { m.tier with ctls := (modCtl x k f).tier.ctls } } :=
  congrArg (fun y : Mach => { y with tier := { y.tier with ctls := (modCtl x k f).tier.ctls } }) h

/-- Where a write is served its bytes are stored; what a controller still had to write back of them is forgotten. -/
theorem serveTier_write {d : List Byte} (h : q.data = some d) : ∃ m1, serveTier m q = wrBytes m1 q.a d ∧
    m1 = { m with tier := { m.tier with ctls := m1.tier.ctls } } := by
  unfold serveTier
  rw [h]
  refine ⟨_, rfl, foldl_keeps (P := fun x : Mach => x = { m with tier := { m.tier with ctls := x.tier.ctls } }) (fun x g hx => ?_) _ rfl⟩
  split
  · exact modCtl_ctlsOnly hx _ _
  · exact hx

theorem serveTier_hostRead (hd : q.data = none) (hh : q.host = true) : serveTier m q = hostRead m q.a q.n := by
  unfold serveTier
  rw [hd]
  exact if_pos hh

/-! ### Host accesses -/

section
variable {s : State} {a n ondie : Nat} {data : List Byte} {single double : List Nat}

theorem bar2Read_of {m' : Mach} (h : bar2Read a n single double ondie s.m = m') :
    exec (.bar2Read a n ⟨single, double⟩ ondie) s = .next { s with m := m' } := next_of h

theorem bar2Write_of {m' : Mach} (h : bar2Write a data single double ondie s.m = m') :
    exec (.bar2Write a data ⟨single, double⟩ ondie) s = .next { s with m := m' } := next_of h

theorem bar2Read_reaches (hs : bar2Stop s.m a n = none) (hf : fenced s.m a = false) :
    bar2Read a n single double ondie s.m = hostReq s.m (hostTierReq a n none single double ondie) := by
  unfold bar2Read
  rw [hs]
  exact if_neg (by simp [hf])

theorem bar2Write_reaches (hs : bar2Stop s.m a data.length = none) (hf : fenced s.m a = false) :
    bar2Write a data single double ondie s.m = hostReq s.m (hostTierReq a data.length (some data) single double ondie) := by
  unfold bar2Write
  rw [hs]
  exact if_neg (by simp [hf])

theorem hostReq_sp {m : Mach} {q : TierReq} (h : isSp q.a = true) :
    hostReq m q = serveTier (bar2Bank m q.a (reqLen q) q.single q.double q.data.isSome) q := if_pos h

theorem hostReq_tier {m : Mach} {q : TierReq} {k : Nat} (h : isSp q.a = false) (hk : ctlOf q.a = some k) : hostReq m q = arriveReq m k q := by
  unfold hostReq
  rw [if_neg (by simp [h]), hk]

theorem bar2Stop_unreached (hb : s.m.pwr.boot = .running) (hl : s.m.pcie.linkUp = true) (hp : s.m.pwr.st ≠ 3) (ho : s.m.rst.oos = false)
    (hr : bar2Reaches a n = false) : bar2Stop s.m a n = some 1 := by
  unfold bar2Stop
  rw [if_neg (by simp [hb, hl]), if_neg (by simp [hp, ho]), if_neg (by simp [hr])]

theorem bar2Stop_off (hb : s.m.pwr.boot = .running) (hl : s.m.pcie.linkUp = true) (hp : s.m.pwr.st = 3 ∨ s.m.rst.oos = true) :
    bar2Stop s.m a n = some 2 := by
  unfold bar2Stop
  rw [if_neg (by simp [hb, hl]), if_pos (by simpa using hp)]

theorem bar2Stop_down (h : s.m.pwr.boot ≠ .running ∨ s.m.pcie.linkUp = false) : bar2Stop s.m a n = some 1 :=
  if_pos (by simpa using h)

/-- Behind the checks a write of host memory that meets no tile under repair stores its bytes. -/
theorem bar2Write_stores {q : TierReq} {m : Mach} (hd : q.data = some data) (ha : q.a = a) (h : bar2Write a data single double ondie s.m = serveTier m q) :
    ∃ t m1, exec (.bar2Write a data ⟨single, double⟩ ondie) s = .next t ∧ t.nv = s.nv ∧ t.pending = s.pending ∧ t.m = wrBytes m1 a data ∧
      m1 = { m with tier := { m.tier with ctls := m1.tier.ctls } } := by
  obtain ⟨m1, hw, hm⟩ := serveTier_write (m := m) hd
  exact ⟨_, m1, bar2Write_of (h.trans hw), rfl, rfl, by rw [ha], hm⟩

end

/-- Settles O25: a host access by where it stops, or by the bank or the controller it reaches. -/
theorem hostMemory : Obligations.HostMemory := by
  unfold Obligations.HostMemory
  refine ⟨?_, ?_, ?_, ?_, ?_, ?_, ?_, ?_, ?_, ?_, ?_, ?_⟩
  · intro s a n single double ondie m hs hf hsp hm
    subst hm
    exact bar2Read_of ((bar2Read_reaches hs hf).trans ((hostReq_sp hsp).trans (serveTier_hostRead rfl rfl)))
  · intro s a n single double ondie k m hs hf hsp hk hi hr hm hl
    refine bar2Read_of ((bar2Read_reaches hs hf).trans ((hostReq_tier hsp hk).trans
      ((arriveReq_served hi hr rfl rfl ?_ hl).trans (serveTier_hostRead rfl rfl))))
    rw [if_neg (by simp)]
    exact hm
  · intro s a data single double ondie hs hf hsp
    exact bar2Write_stores rfl rfl ((bar2Write_reaches hs hf).trans (hostReq_sp hsp))
  · intro s a data single double ondie k m hs hf hsp hk hi hr hm hl
    exact bar2Write_stores rfl rfl ((bar2Write_reaches hs hf).trans ((hostReq_tier hsp hk).trans (arriveReq_served hi hr rfl rfl hm hl)))
  · intro s a n data single double ondie k len q r hlen hs hf hsp hk hi hq hr hheld
    have harrive : hostReq s.m q = modRepair s.m r.set r.tile (fun x => { x with held := x.held ++ [q] }) := by
      rw [hostReq_tier (by rw [hq]; exact hsp) (by rw [hq]; exact hk), arriveReq_held hi hr, if_neg (by omega)]
    subst hlen
    cases data with
    | some d => exact bar2Write_of ((bar2Write_reaches hs hf).trans (hq ▸ harrive))
    | none => exact bar2Read_of ((bar2Read_reaches hs hf).trans (hq ▸ harrive))
  · intro s a n single double ondie hs hf
    refine bar2Read_of ?_
    unfold bar2Read
    rw [hs]
    exact if_pos hf
  · intro s a data single double ondie hs hf
    refine bar2Write_of (m' := s.m) ?_
    unfold bar2Write
    rw [hs]
    exact if_pos hf
  · intro s a n single double ondie h
    exact bar2Read_of (by rw [bar2Read, bar2Stop_down h]; rfl)
  · intro s a n single double ondie hb hl hp ho hr
    exact bar2Read_of (by rw [bar2Read, bar2Stop_unreached hb hl hp ho hr]; rfl)
  · intro s a data single double ondie hb hl hp ho hr
    exact bar2Write_of (by rw [bar2Write, bar2Stop_unreached hb hl hp ho hr]; rfl)
  · intro s a n single double ondie hb hl hp
    exact bar2Read_of (by rw [bar2Read, bar2Stop_off hb hl hp]; rfl)
  · intro s a data single double ondie hb hl hp
    exact bar2Write_of (by rw [bar2Write, bar2Stop_off hb hl hp]; rfl)

end Sys2Proof.Proofs
end
-- ==== Sys2Proof/Proofs/TierEvents.lean ====
section
/-! PROOF. Accesses of the tiers through their controllers, what a corrected and a detected error leave there, and where the bytes of a tier lie. -/

namespace Sys2Proof.Proofs
open Sys2Proof Sys2Proof.Machine

variable {m : Mach} {k : Nat}

/-! ### What the retirement of channels and pages leaves alone -/

/-- What a controller counts and flags of errors, and its write-backs in hand. -/
def errs (x : Ctl) : W64 × W64 × W32 × W64 × List Nat := (x.corrected, x.uncorrected, x.eccStatus, x.eccFirst, x.wb)

/-- Memory, its poison, and the errors of one controller. -/
def errView (m : Mach) (k : Nat) : List Host.Cell × Tbl Bool × W64 × W64 × W32 × W64 × List Nat := (m.mem, m.poison, errs (getCtl m k))

theorem errView_modCtl (k : Nat) {j : Nat} {f : Ctl → Ctl} (h : ∀ x, errs (f x) = errs x) : errView (modCtl m j f) k = errView m k := by
  have hget : errs (getCtl (modCtl m j f) k) = errs (getCtl m k) := by
    rw [getCtl_modCtl]
    split
    · exact h _
    · rfl
  exact congrArg (fun e => (m.mem, m.poison, e)) hget

theorem errView_retireChan (k ch : Nat) (fresh : Bool) (j : Nat) : errView (retireChan m k ch fresh) j = errView m j := by
  unfold retireChan
  dsimp only
  split_ifs
  · rfl
  · exact errView_modCtl j fun _ => rfl
  · rfl
  · exact errView_modCtl j fun _ => rfl
  · exact errView_modCtl j fun _ => rfl

theorem errView_drawBkt (k n j : Nat) : errView (drawBkt m k n) j = errView m j := errView_modCtl (m := m) j fun _ => rfl

theorem errView_retirePage (k page j : Nat) : errView (retirePage m k page) j = errView m j := by
  unfold retirePage
  dsimp only
  split
  · rfl
  · exact errView_modCtl j fun _ => rfl

/-- A copy that finds a spare page and that the bucket covers. -/
theorem copyPages_cons {fuel page : Nat} {rest : List Nat} (h : (getCtl m k).copies = page :: rest) (hspare : ¬ (getCtl m k).spareFree = 0)
    (hcovers : ¬ (!bktCovers m k copyBytes) = true) {m' : Mach}
    (hm : m' = retirePage (drawBkt (modCtl m k (fun x => { x with copies := rest })) k copyBytes) k page) :
    copyPages m k (fuel + 1) = copyPages (modCtl m' k (fun x => { x with copies := x.copies ++ rowLeft m' k page })) k fuel := by
  rw [copyPages, h]
  dsimp only
  rw [if_neg hspare, if_neg hcovers, hm]

theorem errView_addCopies (l : List Nat) (j : Nat) : errView (modCtl m k (fun x => { x with copies := x.copies ++ l })) j = errView m j :=
  errView_modCtl j fun _ => rfl

theorem errView_setCopies (l : List Nat) (j : Nat) : errView (modCtl m k (fun x => { x with copies := l })) j = errView m j :=
  errView_modCtl j fun _ => rfl

theorem errView_copyPages (k fuel j : Nat) : errView (copyPages m k fuel) j = errView m j := by
  induction fuel generalizing m with
  | zero => rfl
  | succ fuel ih =>
    cases hc : (getCtl m k).copies with
    | nil => rw [copyPages, hc]
    | cons page rest =>
      by_cases hspare : (getCtl m k).spareFree = 0
      · rw [copyPages, hc]
        dsimp only
        rw [if_pos hspare, errView_setCopies]
      · by_cases hcovers : (!bktCovers m k copyBytes) = true
        · rw [copyPages, hc]
          dsimp only
          rw [if_neg hspare, if_pos hcovers]
        · rw [copyPages_cons hc hspare hcovers rfl, ih, errView_addCopies, errView_retirePage, errView_drawBkt, errView_setCopies]

theorem errView_askRetire (k page j : Nat) : errView (askRetire m k page) j = errView m j := by
  unfold askRetire
  split
  · rfl
  · exact (errView_copyPages ..).trans (errView_modCtl j fun _ => rfl)

/-! ### Corrected and detected errors -/

theorem setBit_getLsbD {n i : Nat} (x : BitVec n) (h : i < n) : (setBit x i).getLsbD i = true := by
  rw [setBit, BitVec.getLsbD_or, BitVec.getLsbD_ofNat]
  simp [h, Nat.testBit_shiftLeft]

/-- What a corrected error leaves at its controller before pages and channels are looked at. -/
theorem errView_tierCorrect (m : Mach) (k a : Nat) : errView (tierCorrect m k a) k = (m.mem, m.poison, satAdd (getCtl m k).corrected 1,
    (getCtl m k).uncorrected, setBit (getCtl m k).eccStatus 0, (getCtl m k).eccFirst, delNat a (getCtl m k).wb ++ [a]) := by
  unfold tierCorrect
  extract_lets pl span m1 m2 mine lim
  have h2 : errView m2 k = (m.mem, m.poison, satAdd (getCtl m k).corrected 1, (getCtl m k).uncorrected, setBit (getCtl m k).eccStatus 0,
      (getCtl m k).eccFirst, delNat a (getCtl m k).wb ++ [a]) := by
    have hlog : errView m2 k = errView m1 k := (congrArg (errView · k) (logRec_frame m1 ..)).trans rfl
    rw [hlog]
    simp [errView, errs, m1]
  split_ifs
  · exact (errView_retireChan ..).trans h2
  · exact h2
  · exact (errView_askRetire ..).trans h2
  · exact h2

/-- What a detected error leaves, but for what the management keeps and the health score counts of it. -/
theorem tierDetect_frame (m : Mach) (k a : Nat) (patrol : Bool) (who : Option Nat) : ∃ g h, tierDetect m k a patrol who =
    { setPoison (modCtl m k (fun x => { x with
        uncorrected := satAdd x.uncorrected 1, eccStatus := setBit x.eccStatus (if patrol then 2 else 1), wb := delNat a x.wb,
        eccFirst := if x.eccFirst.getLsbD 63 then x.eccFirst else tierFirst (b2n patrol) (cargoAt m a).isSome a })) a true with mgmt := g, health := h } := by
  unfold tierDetect
  extract_lets cargo m1 m2 m3
  have h3 : m3 = { m2 with mgmt := m3.mgmt } := by
    by_cases hp : patrol = true
    · simp only [m3, hp, if_true]
      exact report_frame ..
    · rw [show m3 = _ from if_neg hp]
      cases who with
      | some c => exact report_frame ..
      | none => exact report_frame ..
  refine ⟨m3.mgmt, (noteUnc m3).health, ?_⟩
  exact congrArg (fun y : Mach => { y with health := (noteUnc m3).health }) h3

theorem tierFirst_valid (source : Nat) (cargo : Bool) (a : Nat) : (tierFirst source cargo a).getLsbD 63 = true := by
  have h : Nat.testBit (1 <<< 63) 63 = true := by decide
  rw [tierFirst, BitVec.getLsbD_ofNat, Nat.testBit_or, Nat.testBit_or, Nat.testBit_or, h]
  rfl

theorem getCtl_tierDetect (m : Mach) (k a : Nat) (patrol : Bool) (who : Option Nat) : getCtl (tierDetect m k a patrol who) k =
    { getCtl m k with
        uncorrected := satAdd (getCtl m k).uncorrected 1, eccStatus := setBit (getCtl m k).eccStatus (if patrol then 2 else 1),
        wb := delNat a (getCtl m k).wb,
        eccFirst := if (getCtl m k).eccFirst.getLsbD 63 then (getCtl m k).eccFirst else tierFirst (b2n patrol) (cargoAt m a).isSome a } := by
  obtain ⟨g, h, hd⟩ := tierDetect_frame m k a patrol who
  rw [hd]
  exact (getCtl_modCtl ..).trans (if_pos rfl)

/-! ### Accesses -/

theorem inside_unit {a n : Nat} (h0 : n ≠ 0) (hu : a / 4096 = (a + n - 1) / 4096) : ¬ (decide (n = 0) || a / 4096 != (a + n - 1) / 4096) = true := by
  simp [h0, ← hu]

section
variable {s : State} {a n len ondie : Nat} {data : Option (List Byte)} {who : Option Nat} {ref : Option (Nat × ItemRef)} {single double : List Nat} {joins : Bool}

/-- An access within one unit of an unfenced controller reaches it. -/
theorem tierAccess_reaches (hk : ctlOf a = some k) (hlen : len = (match data with | some d => d.length | none => n)) (h0 : len ≠ 0)
    (hu : a / 4096 = (a + len - 1) / 4096) (hf : fenced s.m a = false) :
    exec (.tierAccess a n data who ref single double ondie joins) s = .next { s with m := arriveReq s.m k (tierReq a len data who ref single double ondie joins) } := by
  refine next_of ?_
  unfold tierAccess
  rw [hk]
  dsimp only
  subst hlen
  refine (if_neg (inside_unit h0 hu)).trans ?_
  exact if_neg (by simp [hf])

theorem tierAccess_fenced (hk : ctlOf a = some k) (hlen : len = (match data with | some d => d.length | none => n)) (h0 : len ≠ 0)
    (hu : a / 4096 = (a + len - 1) / 4096) (hf : fenced s.m a = true) :
    exec (.tierAccess a n data who ref single double ondie joins) s = .next { s with m := (match ref with
      | some q => endWb s.m q.1 q.2.stream cMemPoison
      | none => s.m) } := by
  refine next_of ?_
  unfold tierAccess
  rw [hk]
  dsimp only
  subst hlen
  refine (if_neg (inside_unit h0 hu)).trans ?_
  exact if_pos hf

/-- A read that is served ends the waybill that consumes it where it meets poison. -/
theorem serveTier_read : serveTier m (tierReq a n none who ref single double ondie joins) = (match ref with
      | some q => if rdPoison m a n = true then endWb m q.1 q.2.stream cMemPoison else m
      | none => m) := rfl

theorem narrowRead_alone {q : TierReq} {g : Nat} (hg : granules q.a q.n = [g]) (hj : joinsAt m k q g = false) :
    narrowRead m k q = throughCode (modCtl m k (fun x => openNarrow k x g)) [g] q.single q.double q.who := by
  unfold narrowRead
  rw [hg, List.foldl_cons, List.foldl_nil]
  exact if_neg (by simp [hj])

theorem narrowRead_joins {q : TierReq} {g : Nat} (hg : granules q.a q.n = [g]) (hj : joinsAt m k q g = true) :
    narrowRead m k q = modCtl m k (fun x =>
      { x with combined := satAdd x.combined 1, narrow := x.narrow.map (fun e => if e.1 = g then (e.1, e.2 + 1) else e) }) := by
  unfold narrowRead
  rw [hg, List.foldl_cons, List.foldl_nil]
  exact if_pos hj

end

/-! ### Where bytes lie -/

theorem hbm_place {a r o x : Nat} (hr : r < 4) (ho : o < 0x37E11D6000) (ha : a = r * 0x4000000000 + o) (hx : x = o / 4096 / 3 * 4096 + o % 4096) :
    ctlOf a = some (3 * r + o / 4096 % 3) ∧ chanOf a = x / 256 % 32 ∧ pseudoOf a = x / 128 % 2 := by
  have hdiv : a / 0x4000000000 = r := by omega
  have hmod : a % 0x4000000000 = o := by omega
  refine ⟨?_, ?_, ?_⟩
  · unfold ctlOf
    rw [if_pos (by omega), hdiv, hmod]
    exact if_pos ho
  · rw [chanOf, hmod, hx]
  · rw [pseudoOf, hmod, hx]

theorem lpddr_place {a r o x : Nat} (hr : r < 4) (ho : o < 0x7735940000) (ha : a = 0x10000000000 + r * 0x8000000000 + o)
    (hx : x = o / 4096 / 4 * 4096 + o % 4096) : ctlOf a = some (16 + (4 * r + o / 4096 % 4)) ∧ subchanOf a = x / 256 % 8 := by
  have hdiv : (a - 0x10000000000) / 0x8000000000 = r := by omega
  have hmod : (a - 0x10000000000) % 0x8000000000 = o := by omega
  constructor
  · unfold ctlOf
    rw [if_neg (by omega), if_pos (by omega), hdiv, hmod, ← Nat.add_assoc]
    exact if_pos ho
  · rw [subchanOf, hmod, hx]

/-- A tile of 2 KiB lies at one controller, in eight channels that follow each other. -/
theorem tile_place {a i : Nat} (ha : a < 0x10000000000) (hk : ctlOf a = some k) (hal : a % 2048 = 0) (hi : i < 2048) :
    ctlOf (a + i) = some k ∧ chanOf (a + i) = chanOf a + i / 256 ∧ chanOf a % 8 = 0 := by
  have hdiv : (a + i) / 0x4000000000 = a / 0x4000000000 := by omega
  have hmod : (a + i) % 0x4000000000 = a % 0x4000000000 + i := by omega
  have hunit : (a % 0x4000000000 + i) / 4096 = a % 0x4000000000 / 4096 := by omega
  refine ⟨?_, ?_, ?_⟩
  · rw [← hk]
    unfold ctlOf
    rw [if_pos (by omega), if_pos ha, hdiv, hmod]
    dsimp only
    rw [hunit]
    have hsame : (a % 0x4000000000 + i < 0x37E11D6000) = (a % 0x4000000000 < 0x37E11D6000) := propext (by omega)
    simp only [hsame]
  · unfold chanOf
    rw [hmod]
    dsimp only
    rw [hunit]
    omega
  · unfold chanOf
    dsimp only
    omega

/-- Settles O39: accesses by what they meet at their controller, errors by what they leave there, and the places of addresses by arithmetic. -/
theorem tierEvents : Obligations.TierEvents := by
  unfold Obligations.TierEvents
  refine ⟨?_, ?_, ?_, ?_, ?_, ?_, ?_, ?_, ?_, ?_, ?_, ?_, ?_, ?_, by decide⟩
  · intro s a n data who ref single double ondie joins k len hk hlen h0 hu hf
    exact tierAccess_reaches hk hlen h0 hu hf
  · intro s a n data who ref single double ondie joins k len hk hlen h0 hu hf
    exact tierAccess_fenced hk hlen h0 hu hf
  · intro m k q h
    exact arriveReq_waits h q
  · intro s a n who ref single double ondie joins k m hk h0 hu hf hi hr hn hm hl
    rw [tierAccess_reaches (data := none) (n := n) hk rfl h0 hu hf, arriveReq_served hi hr rfl rfl (hm.trans (if_neg (by simpa using hn)).symm) hl]
    rfl
  · intro s a n who ref single double ondie k g m hk h0 hu hf hi hr hn hg hm hl
    have hserved : m = narrowRead (modCtl s.m k (fun x => { x with ondie := satAdd x.ondie ondie })) k (tierReq a n none who ref single double ondie false) :=
      hm.trans (narrowRead_alone (q := tierReq a n none who ref single double ondie false) hg rfl).symm
    rw [tierAccess_reaches (data := none) (n := n) hk rfl h0 hu hf, arriveReq_served hi hr rfl rfl (hserved.trans (if_pos (by simpa using hn)).symm) hl]
    rfl
  · intro s a n who single double ondie k g m hk h0 hu hf hi hr hn hg hany hm hl
    have hserved : m = narrowRead (modCtl s.m k (fun x => { x with ondie := satAdd x.ondie ondie })) k (tierReq a n none who none single double ondie true) := by
      refine hm.trans (narrowRead_joins (q := tierReq a n none who none single double ondie true) hg ?_).symm
      rw [joinsAt, getCtl_modCtl, if_pos rfl]
      exact hany
    rw [tierAccess_reaches (data := none) (n := n) hk rfl h0 hu hf, arriveReq_served hi hr rfl rfl (hserved.trans (if_pos (by simpa using hn)).symm) hl]
    rfl
  · intro s a n d who ref single double ondie joins k m hk h0 hu hf hi hr hm hl
    obtain ⟨m1, hw, hm1⟩ := serveTier_write (m := m) (q := tierReq a d.length (some d) who ref [] [] 0 joins) rfl
    refine ⟨_, m1, tierAccess_reaches hk rfl h0 hu hf, rfl, rfl, ?_, hm1⟩
    exact (arriveReq_served hi hr rfl rfl hm hl).trans hw
  · intro s a n data who ref single double ondie joins k len r hk hlen h0 hu hf hi hr
    have h := tierAccess_reaches (who := who) (ref := ref) (single := single) (double := double) (ondie := ondie) (joins := joins) hk hlen h0 hu hf
    rw [arriveReq_held hi hr] at h
    exact ⟨fun hheld => h.trans (by rw [if_neg (by omega)]), fun hheld => h.trans (by rw [if_pos hheld])⟩
  · intro s k
    rfl
  · intro m k a
    have h := errView_tierCorrect m k a
    simp only [errView, errs, Prod.mk.injEq] at h
    obtain ⟨hmem, hpoison, hcorr, -, hstatus, -, hwb⟩ := h
    exact ⟨hmem, hpoison, hcorr, hstatus ▸ setBit_getLsbD _ (by decide), by simp [hwb]⟩
  · intro m k a patrol who
    obtain ⟨g, h, hd⟩ := tierDetect_frame m k a patrol who
    refine ⟨by rw [hd]; rfl, ?_, by rw [getCtl_tierDetect], ?_, ?_, fun hv => by rw [getCtl_tierDetect]; exact if_pos hv⟩
    · rw [hd]
      exact (isPoison_setPoison (m := m) a true a).trans (if_pos rfl)
    · rw [getCtl_tierDetect]
      exact setBit_getLsbD _ (by cases patrol <;> decide)
    · rw [getCtl_tierDetect]
      dsimp only
      split
      · assumption
      · exact tierFirst_valid ..
  · intro a r o x hr ho ha hx
    exact hbm_place hr ho ha hx
  · intro a r o x hr ho ha hx
    exact lpddr_place hr ho ha hx
  · intro a i k ha hk hal hi
    exact tile_place ha hk hal hi

end Sys2Proof.Proofs
end
-- ==== Sys2Proof/Proofs/Upkeep.lean ====
section
/-! PROOF. The upkeep of the tiers and of the waymap: what a bucket covers, what the patrol finds, and the channels that retire. -/

namespace Sys2Proof.Proofs
open Sys2Proof Sys2Proof.Machine

variable {m : Mach} {k : Nat}

/-! ### Buckets -/

theorem bktLevel_le (m : Mach) (b : Bucket) (rate cap : Nat) : bktLevel m b rate cap ≤ 10000 * cap := Nat.min_le_left ..

theorem bktLevel_mono {m1 m2 : Mach} (b : Bucket) (rate cap : Nat) (h : now m1 ≤ now m2) : bktLevel m1 b rate cap ≤ bktLevel m2 b rate cap :=
  min_le_min le_rfl (Nat.add_le_add_left (Nat.mul_le_mul_left _ (Nat.sub_le_sub_right h _)) _)

/-- A draw takes what it draws, and no time has passed since. -/
theorem bktLevel_bktDraw (m : Mach) (b : Bucket) (rate cap n : Nat) :
    bktLevel m (bktDraw m b rate cap n) rate cap = bktLevel m b rate cap - 10000 * n := by
  have hcap := bktLevel_le m b rate cap
  change min (10000 * cap) (bktLevel m b rate cap - 10000 * n + rate * (now m - now m)) = _
  rw [Nat.sub_self, Nat.mul_zero, Nat.add_zero]
  exact Nat.min_eq_right ((Nat.sub_le ..).trans hcap)

/-! ### Channels that retire -/

theorem retireChan_first {ch : Nat} {fresh : Bool} (hr : (getCtl m k).retiring = none) (hc : (getCtl m k).crossed = []) (hh : has (getCtl m k).retired ch = false)
    (hl : (getCtl m k).retired.length < 2) : retireChan m k ch fresh = modCtl m k (fun x => { x with retiring := some ch, alert := true }) := by
  unfold retireChan
  dsimp only
  rw [if_neg (by rw [hh, hr, hc]; exact Bool.false_ne_true), if_neg (by simpa [hr, hc, b2n] using hl), if_neg (by simp [hr])]

theorem retireChan_late {ch : Nat} (hl : 2 ≤ (getCtl m k).retired.length) (hh : has (getCtl m k).retired ch = false) (hr : (getCtl m k).retiring ≠ some ch)
    (hc : has (getCtl m k).crossed ch = false) : retireChan m k ch true = modCtl m k (fun x => { x with late := x.late + 1, alert := true }) := by
  unfold retireChan
  dsimp only
  rw [if_neg (by simp [hr, hc, hh]), if_pos (by omega), if_pos rfl]

/-! ### Margins and the end of zeroing -/

theorem tget_noteMargin (m : Mach) (quantity unit : Nat) (d : Int) :
    (tget [] (noteMargin m quantity unit d).health.margins (marginKey quantity unit)).getLast? = some (now m, d) := by
  unfold noteMargin
  extract_lets key old was new h1 m1
  have hm1 : tget [] m1.health.margins key = new := (tget_tset ..).trans (if_pos rfl)
  have hlast : new.getLast? = some (now m, d) := List.getLast?_concat
  split
  · rw [report_frame]
    exact (congrArg List.getLast? hm1).trans hlast
  · exact (congrArg List.getLast? hm1).trans hlast

/-- A store marks tiles of a twin's source, and nothing else of a context. -/
theorem sv_markDirty (m : Mach) (a n c : Nat) : (getCtx (markDirty m a n) c).sv = (getCtx m c).sv := by
  have hctxs : (dropNarrow m a n).ctxs = m.ctxs := by unfold dropNarrow; split <;> rfl
  unfold markDirty
  dsimp only
  split
  · rw [getCtx, hctxs]
    rfl
  · rw [getCtx, hctxs]
    exact (congrArg Ctx.sv (tget_map ctxReset m.ctxs (fun x => { x with el := { x.el with src := x.el.src.map (fun s => dirtySrc s a n) } }) rfl c)).trans rfl

/-- A context without pages under zeroing takes none back. -/
theorem zeroingComplete_of {a : Nat} {q : Nat × Nat} (hq : m.zeroing.find? (fun q => q.1 == a) = some q) (hc : ∀ c, c < 16 → (getCtx m c).sv.zeroing = []) :
    zeroingComplete a m = zeroRange { m with zeroing := m.zeroing.erase q } q.1 q.2 := by
  unfold zeroingComplete
  rw [hq]
  refine List.foldlRecOn (motive := fun x => x = zeroRange { m with zeroing := m.zeroing.erase q } q.1 q.2) _ _ rfl fun x hx c hmem => ?_
  subst hx
  have hz : (getCtx (zeroRange { m with zeroing := m.zeroing.erase q } q.1 q.2) c).sv.zeroing = [] := by
    exact (congrArg ServSt.zeroing (sv_markDirty { m with zeroing := m.zeroing.erase q } q.1 q.2 c)).trans (hc c (List.mem_range.mp hmem))
  dsimp only
  rw [hz]
  rfl

/-! ### The patrol of a tier -/

section
variable {s : State} {a ondie : Nat} {single double ends : Bool} {m' : Mach}

theorem tierPatrol_waits (hk : ctlOf a = some k) (h : fenced s.m a = true ∨ bktCovers s.m k 32 = false) :
    tierPatrol a single double ends ondie s.m = s.m := by
  unfold tierPatrol
  rw [hk]
  exact if_pos (by simpa using h)

theorem tierPatrol_reads (hk : ctlOf a = some k) (hf : fenced s.m a = false) (hb : bktCovers s.m k 32 = true)
    (hm : m' = modCtl (drawBkt s.m k 32) k (fun x => { x with ondie := satAdd x.ondie ondie, passes := if ends = true then satAdd x.passes 1 else x.passes })) :
    exec (.tierPatrolRead a ⟨single, double⟩ ends ondie) s = .next { s with m := patrolFinds m' k (a / 32 * 32) single double } := by
  refine next_of (?_ : tierPatrol a single double ends ondie s.m = _)
  unfold tierPatrol
  rw [hk, hm]
  exact if_neg (by simp [hf, hb])

end

/-- Settles O40: each upkeep step by what its controller's bucket covers and by what it finds. -/
theorem upkeep : Obligations.Upkeep := by
  unfold Obligations.Upkeep
  refine ⟨?_, ?_, ?_, ?_, ?_, ?_, ?_, ?_, ?_, ?_, ?_, ?_, ?_, ?_, ?_, ?_⟩
  · intro s k ns ch m hr hm
    subst hm
    refine next_of ?_
    rw [copyDone, hr]
  · intro m k ch fresh hr hc hh hl
    rw [retireChan_first hr hc hh hl, getCtl_modCtl, if_pos rfl]
    exact ⟨rfl, rfl⟩
  · intro m k ch hl hh hr hc
    rw [retireChan_late hl hh hr hc, getCtl_modCtl, if_pos rfl]
    exact ⟨rfl, rfl, rfl⟩
  · intro s k hot hk h
    refine next_of ?_
    rw [refreshEval, if_neg (by omega)]
    exact if_pos (by simpa using h)
  · intro s k hk hl hx hcool
    refine next_of ?_
    rw [refreshEval, if_neg (by omega)]
    refine (if_neg (by simpa using hl)).trans (if_pos ?_)
    rw [hx]
    exact decide_eq_true hcool
  · intro s a q hq hc
    exact next_of (zeroingComplete_of hq hc)
  · intro m quantity unit d
    exact tget_noteMargin ..
  · intro s
    rfl
  · intro s single double m hm
    subst hm
    rfl
  · intro s a single double ends ondie k hk h
    exact next_of (tierPatrol_waits hk h)
  · intro s a single double ends ondie k m hk hf hb hm
    have hp : isPoison m (a / 32 * 32) = isPoison s.m (a / 32 * 32) := by rw [hm]; rfl
    refine ⟨fun h => ?_, fun h => ?_, fun h hcargo => ?_, ?_⟩
    · rw [tierPatrol_reads hk hf hb hm, patrolFinds, if_pos (hp.trans h)]
    · rw [tierPatrol_reads hk hf hb hm, patrolFinds, if_neg (by simp [hp, h])]
      rfl
    · rw [tierPatrol_reads hk hf hb hm, patrolFinds, if_neg (by simp [hp, h]), if_pos rfl]
      dsimp only
      rw [hcargo]
    · rw [tierPatrol_reads hk hf hb hm, patrolFinds]
      exact congrArg (fun x => Host.Outcome.next { s with m := x }) (ite_self m)
  · intro s k ch d hk hb
    exact next_of (if_neg (by simp [hb, hk]))
  · intro s k ch d hk hb
    exact next_of (if_pos (by simp [hb]))
  · intro m b rate cap n _
    exact bktLevel_bktDraw ..
  · intro m b rate cap
    exact bktLevel_le ..
  · intro m1 m2 b rate cap h
    exact bktLevel_mono b rate cap h

end Sys2Proof.Proofs
end
-- ==== Sys2Proof/Proofs/FabricTraffic.lean ====
section
/-! PROOF. Requests and responses at customs: which request is next, and where a response goes. -/

namespace Sys2Proof.Proofs
open Sys2Proof Sys2Proof.Machine

variable {m : Mach} {s : State}

/-! ### Requests -/

/-- The row of a request opcode is `requestRow` of it. -/
theorem exec_requestRow {op : Nat} {row : Instr}
    (h : (op, row) ∈ [(0x01, Instr.load), (0x02, .store), (0x03, .move), (0x04, .moveRead), (0x05, .accum), (0x06, .fetch), (0x07, .advance)]) :
    exec row s = .next { s with m := requestRow op s.m } := by
  simp only [List.mem_cons, Prod.mk.injEq, List.not_mem_nil, or_false] at h
  obtain ⟨rfl, rfl⟩ | ⟨rfl, rfl⟩ | ⟨rfl, rfl⟩ | ⟨rfl, rfl⟩ | ⟨rfl, rfl⟩ | ⟨rfl, rfl⟩ | ⟨rfl, rfl⟩ := h <;> rfl

theorem requestRow_of {op i : Nat} {pk : Packet} (h : nextRequest m op = some (i, pk)) :
    requestRow op m = requestAt { m with fab := { m.fab with released := m.fab.released.eraseIdx i } } pk := by
  rw [requestRow, h]

theorem mem_zip_range {α : Type} {l : List α} {i : Nat} {x : α} (h : (i, x) ∈ (List.range l.length).zip l) : l[i]? = some x := by
  obtain ⟨j, hj⟩ := List.mem_iff_getElem?.mp h
  obtain ⟨hi, hx⟩ := List.getElem?_zip_eq_some.mp hj
  obtain ⟨hlt, hi⟩ := List.getElem?_eq_some_iff.mp hi
  rw [List.getElem_range hlt] at hi
  dsimp only at hi
  rwa [hi] at hx

theorem nextRequest_spec {op i : Nat} {pk : Packet} (h : nextRequest m op = some (i, pk)) :
    m.fab.released[i]? = some pk ∧ pk.cls = 0 ∧ pk.opcode = op ∧ mayPerform m i pk = true := by
  have hp := List.find?_some h
  simp only [Bool.and_eq_true, beq_iff_eq] at hp
  obtain ⟨⟨hcls, hop⟩, hmay⟩ := hp
  exact ⟨mem_zip_range (List.mem_of_find?_eq_some h), hcls, hop, hmay⟩

/-! ### Responses -/

section
variable {op : Nat} {f : Mach → OutReq → Packet → Mach} {pk : Packet} {m' : Mach} {q : OutReq}

theorem responseRow_of (ht : takeReleased m op = some (pk, m')) (hq : reqOf m' pk = some q) : responseRow op f m = f (closeReq m' q.tag) q pk := by
  rw [responseRow, ht]
  dsimp only
  rw [hq]

theorem responseRow_stray (ht : takeReleased m op = some (pk, m')) (hq : reqOf m' pk = none) : responseRow op f m = countCustoms m' pk 8 := by
  rw [responseRow, ht]
  dsimp only
  rw [hq]

end

/-- A closed request is neither outstanding nor among what waits for a link. -/
theorem closeReq_gone (m : Mach) (tag : Nat) : (closeReq m tag).fab.out.any (fun o => o.tag == tag) = false ∧
    ∀ q ∈ (closeReq m tag).fab.again ++ (closeReq m tag).fab.txq, q.cls = 0 → q.tag ≠ tag := by
  refine ⟨?_, fun q hq hcls htag => ?_⟩
  · simp [closeReq]
  · simp [closeReq, hcls, htag] at hq

/-- Settles O43: each row by the packet it takes and what customs or the outstanding requests make of it. -/
theorem fabricTraffic : Obligations.FabricTraffic := by
  unfold Obligations.FabricTraffic
  refine ⟨?_, ?_, ?_, ?_, ?_, ?_, ?_, ?_, ?_⟩
  · intro s pk i m c hm hc op row hrow hnext
    have hexec : exec row s = .next { s with m := requestAt m pk } := by rw [exec_requestRow hrow, requestRow_of hnext, hm]
    subst hc
    refine ⟨fun hr hw => ⟨_, rfl, ?_⟩, fun g hr hw => ?_, fun r hr => ?_⟩
    · rw [hexec, requestAt, hr]
      dsimp only
      rw [hw]
      rfl
    · rw [hexec, requestAt, hr]
      dsimp only
      rw [hw]
    · rw [hexec, requestAt, hr]
  · intro m op i pk h
    exact nextRequest_spec h
  · intro s pk m q ht hq
    exact next_of (responseRow_of ht hq)
  · intro s pk m q p ht hq hp
    refine next_of ((responseRow_of ht hq).trans ?_)
    rw [hp]
  · intro s pk m q ht hq hp
    refine next_of ((responseRow_of ht hq).trans ?_)
    split
    · exact absurd (by assumption) (hp _)
    · rfl
  · intro s pk m q x ht hq hx
    have hrow : exec .nack s = .next { s with m := if 1 ≤ pk.addr % 256 && pk.addr % 256 ≤ 7 then refused x q (pk.addr % 256) else expire x q } := by
      subst hx
      exact next_of (responseRow_of ht hq)
    refine ⟨fun h1 h7 => ?_, fun h => ?_⟩
    · rw [hrow, if_pos (by simp [h1, h7])]
    · rw [hrow, if_neg (by simp; omega)]
  · intro s op row pk m hrow ht hq
    simp only [List.mem_cons, Prod.mk.injEq, List.not_mem_nil, or_false] at hrow
    obtain ⟨rfl, rfl⟩ | ⟨rfl, rfl⟩ | ⟨rfl, rfl⟩ := hrow
    · exact next_of (responseRow_stray ht hq)
    · exact next_of (responseRow_stray ht hq)
    · exact next_of (responseRow_stray ht hq)
  · intro s tag q hq
    refine next_of ?_
    rw [responseTimeout, hq]
  · intro m tag
    exact closeReq_gone m tag

end Sys2Proof.Proofs
end
-- ==== Sys2Proof/Proofs/Egress.lean ====
section
/-! PROOF. What leaves the module, and on which link: the search for the link with the most weighted tolls. -/

namespace Sys2Proof.Proofs
open Sys2Proof Sys2Proof.Machine

variable {m : Mach} {pk : Packet}

/-! ### The link with the most weighted tolls -/

/-- The weight of a link: its tolls of class 0 by its lanes. -/
def linkWeight (m : Mach) (k : Nat) : Nat := nthN (getLink m k).tolls 0 * (getLink m k).lanes.length

/-- One step of the search for the best link. -/
def betterLink (m : Mach) (pk : Packet) (b : Option (Nat × Nat)) (k : Nat) : Option (Nat × Nat) :=
  if !linkTakes m pk k then b else
    match b with
    | some q => if q.2 < linkWeight m k then some (k, linkWeight m k) else b
    | none => some (k, linkWeight m k)

theorem bestLink_eq (m : Mach) (pk : Packet) : bestLink m pk = ((List.range 18).foldl (betterLink m pk) none).map (·.1) := rfl

/-- What the search has found among the first `n` links. -/
def BestOf (m : Mach) (pk : Packet) (n : Nat) : Option (Nat × Nat) → Prop
  | none => ∀ j, j < n → linkTakes m pk j = false
  | some (k, w) => k < n ∧ linkTakes m pk k = true ∧ w = linkWeight m k ∧
      ∀ j, j < n → linkTakes m pk j = true → linkWeight m j ≤ w ∧ (linkWeight m j = w → k ≤ j)

theorem bestOf_better {n : Nat} {b : Option (Nat × Nat)} (h : BestOf m pk n b) : BestOf m pk (n + 1) (betterLink m pk b n) := by
  unfold betterLink
  by_cases ht : linkTakes m pk n = true
  · rw [if_neg (by simp [ht])]
    match b, h with
    | none, h =>
      refine ⟨Nat.lt_succ_self n, ht, rfl, fun j hj hjt => ?_⟩
      obtain hlt | rfl := Nat.lt_succ_iff_lt_or_eq.mp hj
      · rw [h j hlt] at hjt
        exact absurd hjt Bool.false_ne_true
      · exact ⟨le_rfl, fun _ => le_rfl⟩
    | some (k, w), ⟨hk, hkt, hw, hall⟩ =>
      dsimp only
      split
      next hlt =>
        refine ⟨Nat.lt_succ_self n, ht, rfl, fun j hj hjt => ?_⟩
        obtain hjn | rfl := Nat.lt_succ_iff_lt_or_eq.mp hj
        · obtain ⟨hle, -⟩ := hall j hjn hjt
          exact ⟨by omega, fun he => by omega⟩
        · exact ⟨le_rfl, fun _ => le_rfl⟩
      next hge =>
        refine ⟨by omega, hkt, hw, fun j hj hjt => ?_⟩
        obtain hjn | rfl := Nat.lt_succ_iff_lt_or_eq.mp hj
        · exact hall j hjn hjt
        · exact ⟨by omega, fun _ => by omega⟩
  · rw [if_pos (by simpa using ht)]
    match b, h with
    | none, h =>
      intro j hj
      obtain hjn | rfl := Nat.lt_succ_iff_lt_or_eq.mp hj
      · exact h j hjn
      · simpa using ht
    | some (k, w), ⟨hk, hkt, hw, hall⟩ =>
      refine ⟨by omega, hkt, hw, fun j hj hjt => ?_⟩
      obtain hjn | rfl := Nat.lt_succ_iff_lt_or_eq.mp hj
      · exact hall j hjn hjt
      · exact absurd hjt ht

theorem bestOf_range (m : Mach) (pk : Packet) (n : Nat) : BestOf m pk n ((List.range n).foldl (betterLink m pk) none) := by
  induction n with
  | zero => exact fun j hj => absurd hj (Nat.not_lt_zero j)
  | succ n ih =>
    rw [List.range_succ, List.foldl_append]
    exact bestOf_better ih

theorem bestLink_best {k : Nat} (h : bestLink m pk = some k) : k < 18 ∧ linkTakes m pk k = true ∧ ∀ j, j < 18 → linkTakes m pk j = true →
    linkWeight m j ≤ linkWeight m k ∧ (linkWeight m j = linkWeight m k → k ≤ j) := by
  have hall := bestOf_range m pk 18
  rw [bestLink_eq] at h
  obtain ⟨⟨k', w⟩, hfold, hk⟩ := Option.map_eq_some_iff.mp h
  rw [hfold] at hall
  obtain ⟨hlt, ht, hw, hall⟩ := hall
  cases hk
  exact ⟨hlt, ht, fun j hj hjt => hw ▸ hall j hj hjt⟩

theorem bestLink_none (h : bestLink m pk = none) : ∀ j, j < 18 → linkTakes m pk j = false := by
  have hall := bestOf_range m pk 18
  rw [bestLink_eq, Option.map_eq_none_iff] at h
  rwa [h] at hall

/-! ### The rows -/

theorem sendable_none_of {want : Packet → Bool} (h : sendable m (fun _ => true) = none) : sendable m want = none := by
  refine List.find?_eq_none.mpr fun q hq hp => List.find?_eq_none.mp h q hq ?_
  simp only [Bool.and_eq_true] at hp ⊢
  obtain ⟨⟨-, hlink⟩, hmay⟩ := hp
  exact ⟨⟨trivial, hlink⟩, hmay⟩

section
variable {s : State} {id : Nat}

theorem packetSend_own {i : Nat} (hp : s.m.pwr.st ≠ 3) (hid : s.m.fab.module = some id) (hm : m = renamed s.m id) (ho : ownPacket m = some (i, pk)) :
    packetSend s.m = releasePk { m with fab := unwait m.fab i } pk := by
  rw [packetSend, if_neg hp, hid]
  dsimp only
  rw [← hm, ho]

theorem packetSend_first {q : Nat × Packet} (hp : s.m.pwr.st ≠ 3) (hid : s.m.fab.module = some id) (hm : m = renamed s.m id) (ho : ownPacket m = none)
    (hs : sendable m (beforeShares m) = some q) : packetSend s.m = sendAt m q.1 q.2 := by
  rw [packetSend, if_neg hp, hid]
  dsimp only
  rw [← hm, ho]
  dsimp only
  rw [hs]

/-- The link that the contexts' shares are sent on. -/
def shareLink (m : Mach) : Option Nat := (sendable m (fun _ => true)).bind (fun q => bestLink m q.2)

theorem packetSend_shares (hp : s.m.pwr.st ≠ 3) (hid : s.m.fab.module = some id) (hm : m = renamed s.m id) (ho : ownPacket m = none)
    (hs : sendable m (beforeShares m) = none) :
    packetSend s.m = match shareLink m with
      | some k => drrSend m k 320
      | none => idleLinks m := by
  rw [packetSend, if_neg hp, hid]
  dsimp only
  rw [← hm, ho]
  dsimp only
  rw [hs]
  rfl

end

/-- Settles O42: a send by the first packet that may leave, and its link by the search. -/
theorem egress : Obligations.Egress := by
  unfold Obligations.Egress
  refine ⟨?_, ?_, ?_, ?_, ?_, ?_, ?_, ?_, ?_, ?_, ?_⟩
  · intro s h
    refine next_of (?_ : packetSend s.m = s.m)
    rw [packetSend, h]
    exact ite_self s.m
  · intro s id m i pk hp hid hm ho
    exact next_of (packetSend_own hp hid hm ho)
  · intro s id m i pk k hp hid hm ho hs hk
    refine next_of ((packetSend_first hp hid hm ho hs).trans ?_)
    rw [sendAt, hk]
  · intro s id m q k hp hid hm ho hb hs hk
    have hlink : shareLink m = some k := by rw [shareLink, hs]; exact hk
    exact next_of ((packetSend_shares hp hid hm ho hb).trans (by rw [hlink]))
  · intro s id m hp hid hm ho hs
    have hlink : shareLink m = none := by rw [shareLink, hs]; rfl
    exact next_of ((packetSend_shares hp hid hm ho (sendable_none_of hs)).trans (by rw [hlink]))
  · intro f i pk hi hcls ho
    rw [numberPk, if_neg (by simp [hcls, ho, hi])]
    exact ⟨rfl, (tget_tset ..).trans (if_pos rfl)⟩
  · intro f i pk h
    exact if_pos (by simpa [or_assoc] using h)
  · intro m pk k h
    exact bestLink_best h
  · intro m pk h
    exact bestLink_none h
  · intro m pk k ht hb
    have hbucket : bucketTakes m pk k = true := by
      simp only [linkTakes, Bool.and_eq_true] at ht
      exact ht.2
    simpa [bucketTakes, hb] using hbucket
  · intro m pk h
    rw [beforeShares, h, Bool.or_true]

end Sys2Proof.Proofs
end
-- ==== Sys2Proof/Proofs/LinkEvents.lean ====
section
/-! PROOF. The links: what a flit, a timeout, a lane and the reorder buffer do. -/

namespace Sys2Proof.Proofs
open Sys2Proof Sys2Proof.Machine

variable {s : State} {k fec : Nat}

/-! ### Flits -/

section
variable {raw : List Byte} {m : Mach}

theorem flit_refused (hk : k < 18) (hst : (getLink s.m k).st = .up) (hid : s.m.fab.module ≠ none) (hlen : raw.length = 256)
    (hcrc : crc64 (raw.take 248) ≠ recNat raw 248 8) :
    flit k raw fec s.m = refuseFlit (modLink s.m k (fun x => { x with fec := satAdd x.fec fec })) k := by
  unfold flit
  dsimp only
  rw [if_neg (by simp [hst, hid, hlen, hk]), if_pos (by simpa using hcrc)]

/-- A flit whose check holds and that is numbered, on a link that its acknowledgement left up. -/
theorem flit_numbered (hk : k < 18) (hst : (getLink s.m k).st = .up) (hid : s.m.fab.module ≠ none) (hlen : raw.length = 256)
    (hcrc : crc64 (raw.take 248) = recNat raw 248 8) (hm : m = takeAck (modLink s.m k (fun x => { x with fec := satAdd x.fec fec })) k (recNat raw 2 2))
    (hseq : recNat raw 0 2 % 4096 ≠ 4095) (hup : (getLink m k).st = .up) :
    flit k raw fec s.m =
      if recNat raw 0 2 % 4096 = nextFlit (getLink s.m k).lastRecv then
        let q := pkParseAll 16 ((getLink s.m k).rx ++ (raw.drop 4).take 244)
        let taken := modLink m k (fun x => { x with lastRecv := recNat raw 0 2 % 4096, heard := true, nakSent := false, rx := q.2 })
        match q.1.foldlM (arriveOn k) taken with
        | some m => sendControl m k false
        | none => refuseFlit m k
      else if ((getLink s.m k).lastRecv + 4095 - recNat raw 0 2 % 4096) % 4095 < 512 then sendControl m k false
      else refuseFlit m k := by
  unfold flit
  dsimp only
  rw [if_neg (by simp [hst, hid, hlen, hk]), if_neg (by rw [hcrc, bne_self_eq_false]; exact Bool.false_ne_true), ← hm]
  exact if_neg (by simp [hseq, hup])

end

/-! ### The reorder buffer -/

theorem reorder_releasePk (m : Mach) (pk : Packet) : (releasePk m pk).fab.reorder = m.fab.reorder := by
  unfold releasePk
  dsimp only
  split_ifs
  · rfl
  · split <;> rfl
  · rfl

/-- Nothing held of a pair, nothing released. -/
theorem releaseHeld_none {m : Mach} {pair : Nat} (h : m.fab.reorder.all (fun q => pairOf q != pair) = true) (fuel : Nat) : releaseHeld m pair fuel = m := by
  cases fuel with
  | zero => rfl
  | succ fuel =>
    have hnone : m.fab.reorder.find? (fun q => pairOf q == pair && q.sequence == tget 0 m.fab.seqIn pair) = none := by
      refine List.find?_eq_none.mpr fun q hq hp => ?_
      have hne := List.all_eq_true.mp h q hq
      simp only [Bool.and_eq_true, beq_iff_eq, bne_iff_ne, ne_eq] at hp hne
      exact hne hp.1
    rw [releaseHeld, hnone]

section
variable {m : Mach} {pk : Packet}

/-- The request its pair expects, with nothing held of the pair, is released at once. -/
theorem releaseHeld_expected (hseq : pk.sequence = tget 0 m.fab.seqIn (pairOf pk)) (hall : m.fab.reorder.all (fun q => pairOf q != pairOf pk) = true)
    (fuel : Nat) : releaseHeld { m with fab := { m.fab with reorder := m.fab.reorder ++ [pk] } } (pairOf pk) (fuel + 1) =
      releasePk { m with fab := { m.fab with seqIn := tset 0 m.fab.seqIn (pairOf pk) ((pk.sequence + 1) % 2 ^ 24) } } pk := by
  have hother : ∀ q ∈ m.fab.reorder, pairOf q ≠ pairOf pk := by simpa using hall
  have hfind : (m.fab.reorder ++ [pk]).find? (fun q => pairOf q == pairOf pk && q.sequence == tget 0 m.fab.seqIn (pairOf pk)) = some pk := by
    rw [List.find?_append, List.find?_eq_none.mpr fun q hq => by simp [hother q hq]]
    simp [hseq]
  have hfilter : (m.fab.reorder ++ [pk]).filter (fun q => q != pk) = m.fab.reorder := by
    rw [List.filter_append, List.filter_eq_self.mpr fun q hq => by simpa using fun h : q = pk => hother q hq (congrArg pairOf h)]
    simp
  rw [releaseHeld]
  dsimp only
  rw [hfind]
  dsimp only
  rw [hfilter, ← hseq]
  exact releaseHeld_none ((congrArg (List.all · _) (reorder_releasePk
    { m with fab := { m.fab with seqIn := tset 0 m.fab.seqIn (pairOf pk) ((pk.sequence + 1) % 2 ^ 24) } } pk)).trans hall) fuel

theorem arrivePk_behind (hc : pk.cls = 0) (hr : pk.relaxed = false) (ho : pk.ordered = true)
    (h : 2 ^ 23 ≤ (pk.sequence + 2 ^ 24 - tget 0 m.fab.seqIn (pairOf pk)) % 2 ^ 24) : arrivePk m pk = some m := by
  unfold arrivePk
  dsimp only
  rw [if_neg (by simp [hc, hr, ho]), if_pos h]

/-- A request of its pair's order that is not behind and not held yet is taken where it is the expected one or the buffer has room. -/
theorem arrivePk_ahead (hc : pk.cls = 0) (hr : pk.relaxed = false) (ho : pk.ordered = true)
    (h : (pk.sequence + 2 ^ 24 - tget 0 m.fab.seqIn (pairOf pk)) % 2 ^ 24 < 2 ^ 23)
    (hany : m.fab.reorder.any (fun q => pairOf q == pairOf pk && q.sequence == pk.sequence) = false) :
    arrivePk m pk = if pk.sequence != tget 0 m.fab.seqIn (pairOf pk) && !reorderTakes m pk then none else
      some (releaseHeld { m with fab := { m.fab with reorder := m.fab.reorder ++ [pk] } } (pairOf pk) ((m.fab.reorder ++ [pk]).length + 1)) := by
  unfold arrivePk
  dsimp only
  rw [if_neg (by simp [hc, hr, ho]), if_neg (by omega), if_neg (by simp [hany])]

end

/-- Settles O41: each event of a link by its guards, and a packet by its place in its pair's sequence. -/
theorem linkEvents : Obligations.LinkEvents := by
  unfold Obligations.LinkEvents
  refine ⟨?_, ?_, ?_, ?_, ?_, ?_, ?_, ?_, ?_, ?_, ?_, ?_, ?_, ?_, ?_, ?_, ?_, ?_, ?_, ?_, ?_, ?_, ?_⟩
  · intro s k raw fec hk hst hid hlen hcrc
    exact next_of (flit_refused hk hst hid hlen hcrc)
  · intro s k raw fec m q m1 hk hst hid hlen hcrc hm hseq hup hnext hq hm1
    subst hq hm1
    have h := (flit_numbered hk hst hid hlen hcrc hm hseq hup).trans (if_pos hnext)
    refine ⟨fun m2 hfold => next_of (h.trans ?_), fun hfold => next_of (h.trans ?_)⟩
    · dsimp only
      rw [hfold]
    · dsimp only
      rw [hfold]
  · intro s k raw fec m hk hst hid hlen hcrc hm hseq hup hnext hold
    exact next_of ((flit_numbered hk hst hid hlen hcrc hm hseq hup).trans ((if_neg hnext).trans (if_pos hold)))
  · intro m k nak
    rfl
  · intro m k
    rfl
  · intro s k tolls hk hst
    exact next_of (if_neg (by simp [hst, hk]))
  · intro s k tolls
    exact next_of (f := controlFlit k false tolls) (if_pos rfl)
  · intro s k hst hsent hrep
    refine next_of ((if_pos hst).trans ?_)
    exact (if_neg (by simpa using hsent)).trans (if_neg (by omega))
  · intro s k hst hsent hrep
    refine next_of ((if_pos hst).trans ?_)
    exact (if_neg (by simpa using hsent)).trans (if_pos hrep)
  · intro s k lane m hst hlane hm
    subst hm
    exact next_of (if_neg (by simp [hst, hlane]))
  · intro s k ns hst hre
    exact next_of (if_neg (by simp [hst, hre]))
  · intro s k hst
    exact next_of (if_pos hst)
  · intro s k lanes hk hst hoos hready hlane
    have hup : ((List.range 4).filter (has lanes)).isEmpty = false := by
      obtain ⟨i, hi, hh⟩ := hlane
      exact List.isEmpty_eq_false_iff_exists_mem.mpr ⟨i, List.mem_filter.mpr ⟨List.mem_range.mpr hi, hh⟩⟩
    exact next_of ((if_neg (by simp [hst, hoos, hready, hk])).trans (if_neg (by simp only [hup]; exact Bool.false_ne_true)))
  · intro s k hk hst hlong
    exact next_of (if_neg (by simp [hst, hlong, hk]))
  · intro s k dst opcode sequence tag i q f hk hf hidx hget
    subst hf
    refine next_of ?_
    unfold unreach
    dsimp only
    rw [if_neg (by omega), hidx]
    dsimp only
    rw [hget]
  · intro s k dst
    rfl
  · intro s src slot held e far hheld hne he hfar
    subst hheld he hfar
    exact next_of (if_neg (by simpa using hne))
  · intro m pk h
    exact if_pos (by simpa [or_assoc] using h)
  · intro m pk hc hr ho h
    exact arrivePk_behind hc hr ho h
  · intro m pk hc hr ho hseq hall
    refine ⟨_, rfl, ?_⟩
    have hany : m.fab.reorder.any (fun q => pairOf q == pairOf pk && q.sequence == pk.sequence) = false := by
      refine List.any_eq_false.mpr fun q hq hp => ?_
      have hne := List.all_eq_true.mp hall q hq
      simp only [Bool.and_eq_true, beq_iff_eq, bne_iff_ne, ne_eq] at hp hne
      exact hne hp.1
    rw [arrivePk_ahead hc hr ho (by omega) hany, if_neg (by simp [hseq]), releaseHeld_expected hseq hall]
  · intro m pk e hc hr ho he hne hlt hany
    subst he
    have h := arrivePk_ahead hc hr ho hlt hany
    exact ⟨fun ht => h.trans (if_pos (by simp [hne, ht])), fun ht => ⟨_, h.trans (if_neg (by simp [ht]))⟩⟩
  · intro m pk h
    simpa [reorderTakes] using h
  · intro m k h
    simp [tollCounts, h, nthN]

end Sys2Proof.Proofs
end
-- ==== Sys2Proof/Proofs/ScratchpadEvents.lean ====
section
/-! PROOF. The banks of a scratchpad: who is served and who queues, the patrol, and what an access and an aliased write leave in memory. -/

namespace Sys2Proof.Proofs
open Sys2Proof Sys2Proof.Machine

variable {m : Mach} {p : Nat}

/-! ### Requests at a bank -/

section
variable {r : BankReq} {busy : Bool} {single double : List Nat}

theorem spRequest_owner (h : nthN (getBlk m p).sp.owner (r.off / 0x20000) = r.master) (h0 : r.master ≠ 0) :
    spRequest m p r busy single double = spPerform m p r single double := if_pos (by simp [h, h0])

/-- A request finds the owner busy and its bank's queue not full. -/
theorem spRequest_queues (h : nthN (getBlk m p).sp.owner (r.off / 0x20000) ≠ r.master) (h0 : nthN (getBlk m p).sp.owner (r.off / 0x20000) ≠ 0)
    (hlen : (bankQueue (getBlk m p).sp (r.off / 0x20000) r.data.isSome).length < 16) :
    spRequest m p r true single double = modSp m p (fun s =>
      if r.data.isSome then { s with wrQueue := tset [] s.wrQueue (r.off / 0x20000) (bankQueue (getBlk m p).sp (r.off / 0x20000) r.data.isSome ++ [r]) }
      else { s with rdQueue := tset [] s.rdQueue (r.off / 0x20000) (bankQueue (getBlk m p).sp (r.off / 0x20000) r.data.isSome ++ [r]) }) := by
  unfold spRequest
  dsimp only
  rw [if_neg (by simp [h]), if_neg (by simp [h0]), if_neg (by omega)]

end

theorem getBlk_modSp (f : SpSt → SpSt) : (getBlk (modSp m p f) p).sp = f (getBlk m p).sp :=
  congrArg Blk.sp ((getBlk_modBlk ..).trans (if_pos rfl))

/-- What is put behind a bank's queue stands there. -/
theorem bankQueue_put (s : SpSt) (bank : Nat) (w : Bool) (l : List BankReq) :
    bankQueue (if w then { s with wrQueue := tset [] s.wrQueue bank l } else { s with rdQueue := tset [] s.rdQueue bank l }) bank w = l := by
  cases w with
  | true => exact (tget_tset ..).trans (if_pos rfl)
  | false => exact (tget_tset ..).trans (if_pos rfl)

theorem lengths_agree {n : Nat} {data : Option (List Byte)} : (∀ d, data = some d → d.length = n) →
    (match data with | some d => d.length != n | none => false) ≠ true := by
  intro hd
  cases data with
  | none => exact Bool.false_ne_true
  | some d => simp [hd d rfl]

/-- An access of the six banks, past the checks of its place. -/
theorem spAccess_in {master c st off n : Nat} {data : Option (List Byte)} {busy : Bool} {single double : List Nat} (hf : fenced m (spAddr p 0) = false)
    (hin : inLine off n = true) (hd : ∀ d, data = some d → d.length = n) :
    spAccess p master c st off n data busy single double m = if master != 6 && !bankAllowed m p c off n then endWb m p st cSpAddress else
      spRequest m p { master := master, ctx := c, stream := st, off := off, len := n, data := data, aliasOp := none, viaAlias := false, waited := 0 }
        busy single double := by
  have hplace : (0 < n ∧ off + n ≤ 0xC0000) ∧ off / 128 = (off + n - 1) / 128 := by simpa [inLine] using hin
  obtain ⟨⟨hn, hend⟩, -⟩ := hplace
  unfold spAccess
  rw [if_neg (by rw [Bool.or_eq_true, decide_eq_true_eq, not_or]; exact ⟨by omega, lengths_agree hd⟩), if_neg (by simp [hf]),
    if_neg (by omega), if_neg (by simp [hin])]

/-- A write through an aliased range that R120 lets pass. -/
theorem aliasWriteOp_in {master c st off : Nat} {data : List Byte} {busy : Bool} {single double : List Nat} (hf : fenced m (spAddr p 0) = false)
    (hoff : 0xC0000 < off + data.length) : aliasWriteOp p master c st off data busy false single double m =
      if !aliasAllows m c (spAddr p off) data.length true then endWb m p st cSpAddress
      else if master != 6 && !bankAllowed m p c ((getBlk m p).sp.aliasBank * 0x20000 + off % 0x20000) data.length then endWb m p st cSpAddress else
      spRequest m p
        { master := master, ctx := c, stream := st, off := (getBlk m p).sp.aliasBank * 0x20000 + off % 0x20000, len := data.length,
          data := some data, aliasOp := some (decide (0xE0000 ≤ off)), viaAlias := true, waited := 0 } busy single double := by
  unfold aliasWriteOp
  rw [if_neg Bool.false_ne_true, if_neg (by simpa [hf] using hoff)]

/-! ### Service without errors of the code -/

theorem spPerform_sound (r : BankReq) : spPerform m p r [] [] = serveReq m p r := rfl

theorem serveReq_read {r : BankReq} (hd : r.data = none) :
    serveReq m p r = if (touched r.off r.len false).any (fun g => isPoison m (spAddr p g)) then endWb m p r.stream cSpUncorrectable else m := by
  rw [serveReq, hd]

theorem serveReq_write {r : BankReq} {bs : List Byte} (hd : r.data = some bs) (ha : r.aliasOp = none) :
    serveReq m p r = wrBytes (cancelWb m p r.off r.len) (spAddr p r.off) bs := by
  rw [serveReq, hd]
  dsimp only
  rw [ha]

/-! ### The patrol -/

theorem patrolGranules_sound (line : Nat) : patrolGranules m p [] [] line = m := rfl

/-- What the patrol notes of one line of a bank. -/
def patrolled (bank : Nat) (s : SpSt) : SpSt :=
  let pos := tget 0 s.patrolPos bank
  let s' := { s with patrolPos := tset 0 s.patrolPos bank ((pos + 1) % 1024),
                     patrolForced := if nthN s.owner bank ≠ 0 then satAdd s.patrolForced 1 else s.patrolForced }
  if pos = 1023 && s'.patrolPos.isEmpty then { s' with patrolPasses := satAdd s'.patrolPasses 1 } else s'

theorem patrolled_spec (bank : Nat) (s : SpSt) : tget 0 (patrolled bank s).patrolPos bank = (tget 0 s.patrolPos bank + 1) % 1024 ∧
    (patrolled bank s).patrolForced = (if nthN s.owner bank ≠ 0 then satAdd s.patrolForced 1 else s.patrolForced) ∧ (patrolled bank s).corrected = s.corrected := by
  have hpos : tget 0 (tset 0 s.patrolPos bank ((tget 0 s.patrolPos bank + 1) % 1024)) bank = (tget 0 s.patrolPos bank + 1) % 1024 :=
    (tget_tset ..).trans (if_pos rfl)
  unfold patrolled
  dsimp only
  split
  · exact ⟨hpos, rfl, rfl⟩
  · exact ⟨hpos, rfl, rfl⟩

theorem spPatrol_forced {bank : Nat} (hp : p < 1088) (hb : bank < 6) (hr : regionsOn m = true) (hf : fenced m (spAddr p 0) = false) :
    spPatrol p bank true [] [] m = modBlk m p (fun b => { b with sp := patrolled bank b.sp }) := by
  unfold spPatrol
  rw [if_neg (by simp [hr, hf, hp, hb])]
  dsimp only
  rw [patrolGranules_sound]
  refine congrArg (fun x => setBlk m p { getBlk m p with sp := x }) ?_
  simp [patrolled]

/-! ### Aliased writes -/

/-- A byte after the bits `b` were set in it, or cleared. -/
def aliasByte (clear : Bool) (v b : Byte) : Byte := if clear then v &&& ~~~b else v ||| b

/-- The step of `aliasWrite` over one granule. -/
def aliasPart (clear : Bool) (a : Nat) (bs : List Byte) (m : Mach) (g : Nat) : Mach :=
  if isPoison m g then m else
    let q := partOf a bs g (granSize g)
    wrBytes m q.1 (((rdBytes m q.1 q.2.length).zip q.2).map (fun x => aliasByte clear x.1 x.2))

theorem aliasWrite_eq (m : Mach) (clear : Bool) (a : Nat) (bs : List Byte) : aliasWrite m clear a bs = (granules a bs.length).foldl (aliasPart clear a bs) m := rfl

theorem granSize_sp {a : Nat} (h : spBase ≤ a) : granSize a = 8 := if_pos h

theorem isPoison_wrBytes {a : Nat} {bs : List Byte} {x : Nat} (h : isPoison (wrBytes m a bs) x = true) : isPoison m x = true := by
  rw [wrBytes_eq] at h
  have hx := isPoison_foldl_wrPart a bs _ h
  rwa [isPoison, markDirty_poison] at hx

theorem aliasPart_frame (clear : Bool) (a : Nat) (bs : List Byte) (g : Nat) : (aliasPart clear a bs m g).tier.regs = m.tier.regs ∧
    ∀ x, isPoison m x = false → isPoison (aliasPart clear a bs m g) x = false := by
  unfold aliasPart
  split
  · exact ⟨rfl, fun x hx => hx⟩
  · exact ⟨wrBytes_regs .., fun x hx => Bool.eq_false_iff.mpr fun h => Bool.false_ne_true (hx.symm.trans (isPoison_wrBytes h))⟩

section
variable {clear : Bool} {a g : Nat} {bs : List Byte}

/-- What an aliased write leaves of the bytes in one granule of a scratchpad. -/
theorem memByte_aliasPart (hg : g % 8 = 0) (hsp : spBase ≤ g) (h1 : g < a + bs.length) (h2 : a < g + 8) (hp : isPoison m g = false) (hr : m.tier.regs = [])
    (x : Nat) : memByte (aliasPart clear a bs m g).mem x =
      if (a ≤ x ∧ x < a + bs.length) ∧ x / 8 * 8 = g then aliasByte clear (memByte m.mem x) (bs.getD (x - a) 0) else memByte m.mem x := by
  have hlen : (partOf a bs g 8).2.length = min (a + bs.length) (g + 8) - max a g := by
    rw [partOf, List.length_take, List.length_drop]
    omega
  have hnew : (((rdBytes m (max a g) (partOf a bs g 8).2.length).zip (partOf a bs g 8).2).map (fun x => aliasByte clear x.1 x.2)).length =
      min (a + bs.length) (g + 8) - max a g := by
    rw [List.length_map, List.length_zip, rdBytes, List.length_map, List.length_range, Nat.min_self, hlen]
  unfold aliasPart
  rw [if_neg (by simp [hp]), granSize_sp hsp]
  dsimp only
  refine (memByte_wrBytes (fun hlt => absurd hlt (Nat.not_lt.mpr (hsp.trans (le_max_right a g)))) (fun i hi => ?_) x).trans ?_
  · rw [show (partOf a bs g 8).1 = max a g from rfl, hnew] at hi
    have hgran : granOf (max a g + i) = g := by
      rw [granOf, granSize_sp (hsp.trans (by omega))]
      omega
    exact (congrArg (isPoison m) hgran).trans hp
  · rw [show (partOf a bs g 8).1 = max a g from rfl, hnew]
    by_cases hx : (a ≤ x ∧ x < a + bs.length) ∧ x / 8 * 8 = g
    · rw [if_pos (by omega), if_pos hx]
      have hi : x - max a g < (partOf a bs g 8).2.length := by omega
      have hsum : max a g - a + (x - max a g) = x - a := by omega
      have hpart : (partOf a bs g 8).2[x - max a g]? = bs[x - a]? := by
        rw [partOf]
        simp only [List.getElem?_take, List.getElem?_drop, hsum]
        exact if_pos (by omega)
      have hold : (rdBytes m (max a g) (partOf a bs g 8).2.length)[x - max a g]? = some (memByte m.mem x) := by
        rw [rdBytes, List.getElem?_map, List.getElem?_range hi, Option.map_some, rdByte_of_noRegs hr, Nat.add_sub_cancel' (by omega)]
      have hbs : bs[x - a]? = some (bs.getD (x - a) 0) := by
        rw [List.getD_eq_getElem _ _ (by omega)]
        exact List.getElem?_eq_getElem (by omega)
      have hboth : ((rdBytes m (max a g) (partOf a bs g 8).2.length).zip (partOf a bs g 8).2)[x - max a g]? =
          some (memByte m.mem x, bs.getD (x - a) 0) := List.getElem?_zip_eq_some.mpr ⟨hold, hpart.trans hbs⟩
      rw [List.getD_eq_getElem?_getD, List.getElem?_map]
      exact congrArg (fun z => (z.map (fun x => aliasByte clear x.1 x.2)).getD 0) hboth
    · rw [if_neg (by omega), if_neg hx]

/-- An aliased write over distinct granules that it touches and that hold no poison. -/
theorem memByte_foldl_aliasPart (l : List Nat) (hnodup : l.Nodup) (hl : ∀ g ∈ l, g % 8 = 0 ∧ spBase ≤ g ∧ g < a + bs.length ∧ a < g + 8)
    (hp : ∀ g ∈ l, isPoison m g = false) (hr : m.tier.regs = []) (x : Nat) : memByte (l.foldl (aliasPart clear a bs) m).mem x =
      if (a ≤ x ∧ x < a + bs.length) ∧ x / 8 * 8 ∈ l then aliasByte clear (memByte m.mem x) (bs.getD (x - a) 0) else memByte m.mem x := by
  induction l generalizing m with
  | nil => exact (if_neg (by simp)).symm
  | cons g l ih =>
    obtain ⟨hg, hnodup⟩ := List.nodup_cons.mp hnodup
    obtain ⟨hmod, hsp, h1, h2⟩ := hl g List.mem_cons_self
    obtain ⟨hregs, hpoison⟩ := aliasPart_frame (m := m) clear a bs g
    have hstep := memByte_aliasPart (clear := clear) hmod hsp h1 h2 (hp g List.mem_cons_self) hr x
    rw [List.foldl_cons, ih hnodup (fun g' h' => hl g' (List.mem_cons_of_mem _ h')) (fun g' h' => hpoison g' (hp g' (List.mem_cons_of_mem _ h'))) (hregs.trans hr)]
    by_cases hx : a ≤ x ∧ x < a + bs.length
    · by_cases hgx : x / 8 * 8 = g
      · rw [if_pos ⟨hx, hgx⟩] at hstep
        rw [if_neg (fun h => hg (hgx ▸ h.2)), hstep, if_pos ⟨hx, List.mem_cons.mpr (Or.inl hgx)⟩]
      · rw [if_neg (fun h => hgx h.2)] at hstep
        rw [hstep]
        simp only [List.mem_cons, hgx, false_or]
    · rw [if_neg (fun h => hx h.1)] at hstep
      rw [if_neg (fun h => hx h.1), hstep, if_neg (fun h => hx h.1)]

/-- An aliased write within the scratchpads that meets no poison sets or clears its bits, and changes nothing else. -/
theorem memByte_aliasWrite (hsp : spBase ≤ a) (hr : m.tier.regs = []) (hp : ∀ i, i < bs.length → isPoison m (granOf (a + i)) = false) (x : Nat) :
    memByte (aliasWrite m clear a bs).mem x =
      if a ≤ x ∧ x < a + bs.length then aliasByte clear (memByte m.mem x) (bs.getD (x - a) 0) else memByte m.mem x := by
  rw [aliasWrite_eq]
  by_cases hlen : bs.length = 0
  · rw [granules, if_pos hlen, if_neg (by omega)]
    rfl
  · have hbase : spBase = 0x40000000000 := rfl
    have hgran : granules a bs.length = (List.range ((a + bs.length - 1) / 8 - a / 8 + 1)).map (fun i => (a / 8 + i) * 8) := by
      rw [granules, if_neg hlen]
      dsimp only
      rw [granSize_sp hsp]
    have hmem : ∀ g, g ∈ granules a bs.length → g % 8 = 0 ∧ spBase ≤ g ∧ g < a + bs.length ∧ a < g + 8 := by
      intro g hg
      rw [hgran, List.mem_map] at hg
      obtain ⟨i, hi, rfl⟩ := hg
      rw [List.mem_range] at hi
      omega
    have hsound : ∀ g, g ∈ granules a bs.length → isPoison m g = false := by
      intro g hg
      obtain ⟨hmod, hge, h1, h2⟩ := hmem g hg
      have := hp (max a g - a) (by omega)
      rwa [granOf, granSize_sp (by omega), show (a + (max a g - a)) / 8 * 8 = g by omega] at this
    have hnodup : (granules a bs.length).Nodup := by
      rw [hgran]
      exact List.nodup_range.map fun i j hij => by simpa using hij
    rw [memByte_foldl_aliasPart _ hnodup hmem hsound hr]
    by_cases hx : a ≤ x ∧ x < a + bs.length
    · have hin : x / 8 * 8 ∈ granules a bs.length := by
        rw [hgran, List.mem_map]
        exact ⟨x / 8 - a / 8, List.mem_range.mpr (by omega), by omega⟩
      rw [if_pos ⟨hx, hin⟩, if_pos hx]
    · rw [if_neg (fun h => hx h.1), if_neg hx]

end

/-- Settles O38: each access by its place and its bank's owner, and what is left by the granules it touches. -/
theorem scratchpadEvents : Obligations.ScratchpadEvents := by
  unfold Obligations.ScratchpadEvents
  refine ⟨?_, ?_, ?_, ?_, ?_, ?_, ?_, ?_, ?_, ?_, ?_, ?_, ?_⟩
  · intro s p master c st off n data busy single double hf hin hd hallow h0 howner
    have hgo : (master != 6 && !bankAllowed s.m p c off n) = false := by
      obtain rfl | h := hallow
      · rfl
      · rw [h, Bool.not_true, Bool.and_false]
    refine next_of ((spAccess_in hf hin hd).trans ?_)
    rw [hgo, if_neg Bool.false_ne_true]
    exact spRequest_owner howner h0
  · intro s p master c st off n data single double hf hin hd hallow hother howner hlen
    have hgo : (master != 6 && !bankAllowed s.m p c off n) = false := by
      obtain rfl | h := hallow
      · rfl
      · rw [h, Bool.not_true, Bool.and_false]
    have hacc := spAccess_in (m := s.m) (master := master) (c := c) (st := st) (busy := true) (single := single) (double := double) hf hin hd
    rw [hgo, if_neg Bool.false_ne_true, spRequest_queues hother howner hlen] at hacc
    refine ⟨_, next_of hacc, rfl, rfl, rfl, fun _ => ?_⟩
    dsimp only
    rw [getBlk_modSp]
    exact bankQueue_put ..
  · intro s p master c st off n data busy single double hf hin hd hmaster hallow
    refine next_of ((spAccess_in hf hin hd).trans ?_)
    exact if_pos (by simp [hmaster, hallow])
  · intro s p master c st off data busy single double y hf hoff hallows hy hallow h0 howner
    subst hy
    have hgo : (master != 6 && !bankAllowed s.m p c ((getBlk s.m p).sp.aliasBank * 0x20000 + off % 0x20000) data.length) = false := by
      obtain rfl | h := hallow
      · rfl
      · rw [h, Bool.not_true, Bool.and_false]
    refine next_of ((aliasWriteOp_in hf hoff).trans ?_)
    rw [hallows, hgo, if_neg Bool.false_ne_true, Bool.not_true, if_neg Bool.false_ne_true]
    exact spRequest_owner howner h0
  · intro s p master c st off data busy single double hf hoff hallows
    refine next_of ((aliasWriteOp_in hf hoff).trans ?_)
    exact if_pos (by simp [hallows])
  · intro s p bank waited single double r rs hf hq
    refine next_of ?_
    rw [nonOwnerService, if_neg (by simp [hf]), hq]
    rfl
  · intro s p bank waited single double r rs hf hq
    refine next_of ?_
    rw [nonOwnerService, if_neg (by simp [hf]), hq]
    rfl
  · intro s p
    rfl
  · intro s p bank hp hb hr hf
    refine ⟨_, _, next_of (spPatrol_forced hp hb hr hf), rfl, rfl, rfl, rfl, rfl, ?_⟩
    have hblk : (getBlk (modBlk s.m p (fun b => { b with sp := patrolled bank b.sp })) p).sp = patrolled bank (getBlk s.m p).sp := getBlk_modSp ..
    dsimp only
    rw [hblk]
    exact patrolled_spec ..
  · intro m p r hd _ hp
    rw [spPerform_sound, serveReq_read hd]
    exact if_neg (by simpa using hp)
  · intro m p r hd _ hp
    rw [spPerform_sound, serveReq_read hd]
    exact if_pos (by simpa using hp)
  · intro m p r bs hd ha
    rw [spPerform_sound, serveReq_write hd ha]
  · intro m clear a bs hsp hr hp x
    exact memByte_aliasWrite hsp hr hp x

end Sys2Proof.Proofs
end
-- ==== Sys2Proof/Proofs/EngineEvents.lean ====
section
/-! PROOF. The ends of vector operations, the turns and ends of Premutar descriptors, and accesses that wait for a RING window. -/

namespace Sys2Proof.Proofs
open Sys2Proof Sys2Proof.Machine

variable {s : State} {m : Mach} {p : Nat}

/-! ### Vector operations -/

/-- The end of an operation without an error and without poison. -/
theorem veClose_clean {r : VeRun} {m1 : Mach} (hc : r.code = 0) (hp : r.poisoned = false)
    (hm : m1 = modBlk m p (fun b =>
      let b := endStreams (noteFlags b r.ref r.nf.length r.nf.length (r.nf.map (fun e => (0, e))) []) r true
      { b with ve := { b.ve with running := none, late := b.ve.late ++ r.tags.map (fun t => (t, r.ref)) } })) :
    veClose m p r = markItem (if r.frame = [] then m1 else cvTap m1 p 2 r.ref.ctx ((r.frame.map (fun q => rdBytes m1 q.1 q.2)).flatten))
      p r.ref.stream r.ref.item .done := by
  unfold veClose
  rw [hc, hp]
  simp only [bne_self_eq_false, Bool.false_eq_true, if_false, if_true, List.isEmpty_iff]
  rw [← hm]

theorem veOver_spec {r : VeRun} (h : veOver m r = true) : r.ringStall = false ∧ r.todo = [] ∧ (r.opcode = 0x30 → r.tags = []) := by
  simp only [veOver, Bool.and_eq_true, Bool.or_eq_true, Bool.not_eq_true', List.isEmpty_iff, bne_iff_ne, ne_eq] at h
  obtain ⟨⟨hstall, htodo⟩, htags⟩ := h
  exact ⟨hstall, htodo, fun hop => htags.resolve_right fun h => h.1 hop⟩

theorem vectorOpComplete_of {r : VeRun} (h : (getBlk m p).ve.running = some r) : vectorOpComplete p m = if veOver m r then veClose m p r else m := by
  rw [vectorOpComplete, h]

theorem veRunOp_go {w : RunWb} {ix : Nat} {op : VecOp} {mism : Option Nat} {body : VArgs → VOut} {a : VArgs} (h : veStart p m w ix op mism = .go a) :
    veRunOp p m w ix op mism body = veApply a (body a) := by
  rw [veRunOp, h]

/-- An operation that waited for a RING window and now starts. -/
theorem vecResume_go {r : VeRun} {w : RunWb} {x : ManSt} {op : VecOp} {a : VArgs} (hr : (getBlk m p).ve.running = some r) (hs : r.ringStall = true)
    (hw : runningOn (getBlk m p) r.ref.stream = some w) (hc : w.code = 0) (hx : getMan m r.ref.ctx r.ref.man = some x)
    (hop : (bodyOf x.img w.wb)[r.ref.item]? = some (.vector op)) (ha : veStart p m w r.ref.item op none = .go a) :
    vecResume p m = veApply a (vecBody op a) := by
  unfold vecResume
  dsimp only
  rw [hr]
  dsimp only
  rw [if_neg (by simp [hs]), hw, hx]
  dsimp only
  rw [hop]
  dsimp only
  rw [if_neg (by simp [hc]), veRunOp_go ha]

theorem vecResume_idle (h : (getBlk m p).ve.running = none) : vecResume p m = m := by
  unfold vecResume
  dsimp only
  rw [h]

/-! ### Premutar -/

section
variable {st : Nat} {w : RunWb} {m' : Mach}

/-- A stream's turn at a Premutar that can take a descriptor. -/
theorem premutar_turn (hw : runningOn (getBlk m p) st = some w) (hs : (getBlk m p).pm.stalled = none) (hl : (getBlk m p).pm.flight.length < 4)
    (hm : m' = noteHolds m p w) : premutar p st m =
      if turnOf (getBlk m' p) (fun w => (pmFirst m' (getBlk m' p) w).isSome) != some st then m' else
      match pmFirst m' (getBlk m' p) w with
      | none => m'
      | some fl => if ringStalls (getBlk m' p) w.ctx fl.desc then modPm m' p (fun x => { x with stalled := some fl }) else pmIssue m' p fl := by
  unfold premutar
  rw [hw, hm]
  dsimp only
  exact if_neg (by simp [hs, hl])

theorem premutar_first {f : Flight} (hw : runningOn (getBlk m p) st = some w) (hs : (getBlk m p).pm.stalled = none) (hl : (getBlk m p).pm.flight.length < 4)
    (hm : m' = noteHolds m p w) (ht : turnOf (getBlk m' p) (fun w => (pmFirst m' (getBlk m' p) w).isSome) = some st)
    (hf : pmFirst m' (getBlk m' p) w = some f) :
    premutar p st m = if ringStalls (getBlk m' p) w.ctx f.desc then modPm m' p (fun x => { x with stalled := some f }) else pmIssue m' p f := by
  rw [premutar_turn hw hs hl hm, ht, if_neg (by simp), hf]

end

theorem pmFirst_spec {b : Blk} {w : RunWb} {f : Flight} (h : pmFirst m b w = some f) :
    (∃ q ∈ pmCandidates m b w, f = flightOf m b w q.1 q.2) ∧ ∀ e ∈ b.pm.flight, holds e f = false := by
  obtain ⟨q, hq, hf⟩ := List.mem_map.mp (List.mem_of_find?_eq_some h)
  refine ⟨⟨q, hq, hf.symm⟩, fun e he => ?_⟩
  have hmay := List.find?_some h
  simp only [mayIssue, Bool.and_eq_true, Bool.not_eq_true'] at hmay
  exact Bool.eq_false_iff.mpr (List.any_eq_false.mp hmay.1 e he)

theorem premutarComplete_over {f : Flight} (h : (getBlk m p).pm.flight.find? flightOver = some f) : premutarComplete p m =
    markItem (modPm { m with tier := { m.tier with regs := m.tier.regs.filter (fun g => g.ref != f.ref) } } p
      (fun x => { x with flight := x.flight.filter (fun g => g.ref != f.ref) })) p f.ref.stream f.ref.item .done := by
  rw [premutarComplete, h]

/-! ### Waits for a RING window -/

theorem ringStart_of {m' : Mach} (hv : vecResume p m = m') : ringStart p false m = match (getBlk m' p).pm.stalled with
    | none => m'
    | some f => if ringStalls (getBlk m' p) f.ref.ctx f.desc then m' else pmIssue (modPm m' p (fun x => { x with stalled := none })) p f := by
  subst hv
  exact if_neg Bool.false_ne_true

/-- Settles O37: each event by what its engine holds. -/
theorem engineEvents : Obligations.EngineEvents := by
  unfold Obligations.EngineEvents
  refine ⟨?_, ?_, ?_, ?_, ?_, ?_, ?_, ?_, ?_, ?_, ?_, ?_⟩
  · intro s p r m1 hr hover hc hp hm
    refine next_of ((vectorOpComplete_of hr).trans ?_)
    rw [if_pos hover]
    exact veClose_clean hc hp hm
  · intro s p r hr hover
    refine next_of (m := s.m) ((vectorOpComplete_of hr).trans ?_)
    exact if_neg (by simp [hover])
  · intro m r h
    exact veOver_spec h
  · intro s p st w m f hw hs hl hm ht hf hring
    exact next_of ((premutar_first hw hs hl hm ht hf).trans (if_neg (by simp [hring])))
  · intro s p st w m f hw hs hl hm ht hf hring
    exact next_of ((premutar_first hw hs hl hm ht hf).trans (if_pos hring))
  · intro s p st mism h
    exact next_of (f := vecOp (isOpcode 0x01) vElementWise p st mism) (if_pos (by simp [h]))
  · intro s p st w m hw hs hl hm ht
    exact next_of ((premutar_turn hw hs hl hm).trans (if_pos (by simpa using ht)))
  · intro m b w f h
    exact pmFirst_spec h
  · intro s p f h
    exact ⟨_, rfl, next_of (premutarComplete_over h)⟩
  · intro s p h
    refine next_of (m := s.m) ?_
    rw [premutarComplete, h]
  · intro s p f hr hs hring
    refine next_of (f := ringStart p false) ((ringStart_of (vecResume_idle hr)).trans ?_)
    rw [hs]
    exact if_neg (by simp [hring])
  · intro s p r w x op a hr hst hw hc hx hop ha hs
    refine next_of (f := ringStart p false) ((ringStart_of (vecResume_go hr hst hw hc hx hop ha)).trans ?_)
    rw [hs]

end Sys2Proof.Proofs
end
-- ==== Sys2Proof/Proofs/VectorOperations.lean ====
section
/-! PROOF. Vector operations: the row of an opcode runs the body of that opcode. -/

namespace Sys2Proof.Proofs
open Sys2Proof Sys2Proof.Machine

/-- The row of an opcode, where the operation that is first in order has that opcode and its streams are ready and well formed. -/
theorem vecOp_first {s : State} {p st ix k : Nat} {mism : Option Nat} {w : RunWb} {op : VecOp} {a : VArgs} (hidle : (getBlk s.m p).ve.running = none)
    (hturn : turnOf (getBlk s.m p) (hasVector s.m (getBlk s.m p)) = some st) (hw : runningOn (getBlk s.m p) st = some w)
    (hnext : nextItem s.m w isVector = some (ix, .vector op)) (ha : veStart p s.m w ix op mism = .go a) (body : VArgs → VOut) (hop : op.opcode = k) :
    runM (vecOp (isOpcode k) body p st mism) s = .next { s with m := veApply a (body a) } := by
  refine next_of ?_
  unfold vecOp
  dsimp only
  rw [if_neg (by simp [hidle, hturn]), hw]
  dsimp only
  rw [hnext]
  dsimp only
  rw [if_pos (by simp [isOpcode, hop]), veRunOp_go ha]

/-- Settles O35: each row by its opcode. -/
theorem vectorOperations : Obligations.VectorOperations := by
  unfold Obligations.VectorOperations
  intro s p st mism w ix op a hidle hturn hw hnext ha
  have row : ∀ {k : Nat} (body : VArgs → VOut), op.opcode = k → runM (vecOp (isOpcode k) body p st mism) s = .next { s with m := veApply a (body a) } :=
    vecOp_first hidle hturn hw hnext ha
  exact ⟨row _, row _, row _, row _, row _, row _, row _, row _, row _, row _, row _, row _, row _, row _, row _, row _, row _, row _, row _, row _, row _,
    row _, row _, row _, row _, row _, row _⟩

end Sys2Proof.Proofs
end
-- ==== Sys2Proof/Proofs/ArrayEvents.lean ====
section
/-! PROOF. The array: operations and drains by what they find, and what a pass leaves of the groups. -/

namespace Sys2Proof.Proofs
open Sys2Proof Sys2Proof.Machine

/-! ### Operations, drains and discards -/

section
variable {m : Mach} {p st ix : Nat} {w : RunWb}

/-- An array operation that is next on its stream while none runs. -/
theorem arrayOp_next {mism : Option Nat} {o : ArrayOp} (hw : runningOn (getBlk m p) st = some w) (hn : nextItem m w isArrayOp = some (ix, .arrayOp o))
    (hr : (getBlk m p).arr.running = none) : arrayOp p st mism m =
      if (opOpens m (getBlk m p) w o).any (· == .bad) then endWb m p st cGroupState
      else if (opOpens m (getBlk m p) w o).any (· == .wait) then m
      else if has o.opens 1 && 8 ≤ (getBlk m p).arr.queue.length then m
      else if has o.opens 1 && !(getBlk m p).arr.queue.isEmpty then queueLoad m p w ix o mism
      else startArray m p w ix o mism := by
  unfold arrayOp
  dsimp only
  rw [hw]
  dsimp only
  rw [hn]
  dsimp only
  rw [if_neg (by simp [hr])]

/-- Groups that all open: the operation passes the checks of its groups. -/
theorem arrayOp_opens {mism : Option Nat} {o : ArrayOp} (hw : runningOn (getBlk m p) st = some w) (hn : nextItem m w isArrayOp = some (ix, .arrayOp o))
    (hr : (getBlk m p).arr.running = none) (ho : ∀ x ∈ opOpens m (getBlk m p) w o, x = .ok) : arrayOp p st mism m =
      if has o.opens 1 && 8 ≤ (getBlk m p).arr.queue.length then m
      else if has o.opens 1 && !(getBlk m p).arr.queue.isEmpty then queueLoad m p w ix o mism
      else startArray m p w ix o mism := by
  have hnone : ∀ y, y ≠ OpenRes.ok → (opOpens m (getBlk m p) w o).any (· == y) = false := fun y hy =>
    List.any_eq_false.mpr fun x hx h => hy ((beq_iff_eq.mp h).symm.trans (ho x hx))
  rw [arrayOp_next hw hn hr, hnone .bad (by decide), hnone .wait (by decide), if_neg Bool.false_ne_true, if_neg Bool.false_ne_true]

theorem runLoad_load {r : ItemRef} {o : ArrayOp} {mism : Option Nat} {rest : List UnitJob} {m1 : Mach} (hq : (getBlk m p).arr.queue = .load r o mism :: rest)
    (hm : m1 = modBlk m p (fun b => modArr b (fun a => { a with queue := rest }))) (hw : runningOn (getBlk m1 p) r.stream = some w) :
    runLoad m p = modBlk (startArray m1 p w r.item o mism) p (fun b => modArr b (keepStates (getBlk m1 p).arr o)) := by
  unfold runLoad
  rw [hq]
  dsimp only
  rw [← hm, hw]

theorem runLoad_drain {j : DrainJob} {rest : List UnitJob} (hq : (getBlk m p).arr.queue = .drain j :: rest) : runLoad m p = m := by
  rw [runLoad, hq]

/-- Without a load that waits there is none in front. -/
theorem runLoad_none (h : loadWaits (getBlk m p).arr = false) : runLoad m p = m := by
  unfold runLoad
  split
  next r o mism rest hq =>
    rw [loadWaits, hq] at h
    exact absurd h (by simp)
  · rfl

theorem arrayOpComplete_over {q : ItemRef × Nat} (hr : (getBlk m p).arr.running = some q) (hl : loadWaits (getBlk m p).arr = false) :
    arrayOpComplete p m = markItem (modBlk m p (fun b => modArr b (fun a => { a with running := none }))) p q.1.stream q.1.item .done := by
  unfold arrayOpComplete
  rw [runLoad_none hl]
  dsimp only
  rw [if_neg (by simp [hl]), hr]

theorem drainIssue_next {mism : Option (Nat × Nat)} {o : DrainOp} (hw : runningOn (getBlk m p) st = some w)
    (hn : nextItem m w isDrain = some (ix, .drain o)) : drainIssue p st mism m =
      if drainBad m (getBlk m p) w o then endWb m p st cGroupState
      else if 8 ≤ (getBlk m p).arr.queue.length then m else queueDrain m p w ix o mism := by
  unfold drainIssue
  dsimp only
  rw [hw]
  dsimp only
  rw [hn]

theorem drainComplete_front {j : DrainJob} {js : List UnitJob} {step : Nat} {m' : Mach} (hq : (getBlk m p).arr.queue = .drain j :: js)
    (hs : step = ((runningOn (getBlk m p) j.ref.stream).map (·.step)).getD 0)
    (hm : m' = (j.op.groups.zip (List.range j.op.groups.length)).foldl (fun m q => drainGroup p j step m q.2 q.1) m) :
    drainComplete p m = runLoad (markItem (if drainFaults (getBlk m p).arr j
      then endWb (modBlk (modBlk m' p (fun b => modArr b (fun a => { a with queue := js }))) p (fun b => recFlag b j.ref.stream 3)) p j.ref.stream cArithResidue
      else modBlk m' p (fun b => modArr b (fun a => { a with queue := js }))) p j.ref.stream j.ref.item .done) p := by
  unfold drainComplete
  rw [runLoad_drain hq]
  dsimp only
  rw [hq, hm, hs]

theorem discardGroups_next {mask : Nat} (hw : runningOn (getBlk m p) st = some w) (hn : nextItem m w isDiscard = some (ix, .discard mask))
    (hb : discardBad m (getBlk m p) w mask = false) :
    discardGroups p st m = markItem (modBlk m p (fun b => modArr b (freeGroups mask))) p st ix .done := by
  unfold discardGroups
  dsimp only
  rw [hw]
  dsimp only
  rw [hn]
  dsimp only
  rw [if_neg (by simp [hb])]

theorem drainGroup_dead {j : DrainJob} {step n g : Nat} (h : drains (getBlk m p).arr j g = false) : drainGroup p j step m n g =
    if (getGroup (getBlk m p).arr g).st = .faulted then modBlk m p (fun b => modArr b (fun a => setGroup a g freeGroup)) else m :=
  if_neg (by simp [h])

end

/-! ### Groups -/

theorem getGroup_setGroup (a : ArrSt) (g : Nat) (x : Group) (k : Nat) : getGroup (setGroup a g x) k = if g = k then x else getGroup a k := tget_tset ..

/-- One step of `freeGroups`. -/
def freeOne (a : ArrSt) (g : Nat) : ArrSt := if (getGroup a g).st = .opened || (getGroup a g).st = .faulted then setGroup a g freeGroup else a

theorem getGroup_freeOne (a : ArrSt) (g k : Nat) : getGroup (freeOne a g) k =
    if g = k ∧ ((getGroup a k).st = .opened ∨ (getGroup a k).st = .faulted) then freeGroup else getGroup a k := by
  unfold freeOne
  by_cases hk : g = k
  · subst hk
    by_cases hs : (getGroup a g).st = .opened ∨ (getGroup a g).st = .faulted
    · rw [if_pos (by simpa using hs), if_pos ⟨rfl, hs⟩, getGroup_setGroup, if_pos rfl]
    · rw [if_neg (by simpa using hs), if_neg fun h => hs h.2]
  · rw [if_neg (c := g = k ∧ _) fun h => hk h.1]
    split
    · rw [getGroup_setGroup, if_neg hk]
    · rfl

theorem getGroup_foldl_freeOne (l : List Nat) (a : ArrSt) (k : Nat) : getGroup (l.foldl freeOne a) k =
    if k ∈ l ∧ ((getGroup a k).st = .opened ∨ (getGroup a k).st = .faulted) then freeGroup else getGroup a k := by
  induction l generalizing a with
  | nil => exact (if_neg (by simp)).symm
  | cons g l ih =>
    have hstep := getGroup_freeOne a g k
    by_cases hs : (getGroup a k).st = .opened ∨ (getGroup a k).st = .faulted
    · by_cases hg : g = k
      · have hfree : ¬ (freeGroup.st = .opened ∨ freeGroup.st = .faulted) := by decide
        rw [if_pos ⟨hg, hs⟩] at hstep
        rw [List.foldl_cons, ih, hstep, if_neg fun h => hfree h.2, if_pos ⟨List.mem_cons.mpr (Or.inl hg.symm), hs⟩]
      · rw [if_neg fun h => hg h.1] at hstep
        rw [List.foldl_cons, ih, hstep]
        simp only [List.mem_cons, Ne.symm hg, false_or]
    · rw [if_neg fun h => hs h.2] at hstep
      rw [List.foldl_cons, ih, hstep, if_neg fun h => hs h.2, if_neg fun h => hs h.2]

theorem getGroup_freeGroups {g : Nat} (a : ArrSt) (mask : Nat) (hg : g < 8) : getGroup (freeGroups mask a) g =
    if tbit mask g = true ∧ ((getGroup a g).st = .opened ∨ (getGroup a g).st = .faulted) then freeGroup else getGroup a g := by
  refine (getGroup_foldl_freeOne _ a g).trans ?_
  simp only [List.mem_filter, List.mem_range, hg, true_and]

/-! ### A pass -/

section
variable {m : Mach} {p : Nat} {w : RunWb} {o : ArrayOp}

/-- The group that a pass leaves in place of the `i`th of an operation, which was `x`. -/
def passed (m : Mach) (p : Nat) (w : RunWb) (o : ArrayOp) (i : Nat) (x : Group) : Group :=
  let g0 : Group := { st := .opened, ctx := w.ctx, stream := w.stream, grp := wbGroup m w, isInt := isIntPairing o.pairing, t := 0, cells := [] }
  runGroup m p o (i / (shapeOf o.shape).2) (i % (shapeOf o.shape).2) (nthN (opRows m w o) (i / (shapeOf o.shape).2))
    (if nthN o.opens i = 2 then x
      else if nthN o.opens i = 1 then { g0 with cells := loadCells m p (o.loadBase + 4096 * i) (isIntPairing o.pairing) } else g0)

theorem getGroup_passGroup (a : ArrSt) (i g : Nat) : getGroup (passGroup m p w o a i) g =
    if o.base + i = g then passed m p w o i (getGroup a g) else getGroup a g := by
  refine (getGroup_setGroup ..).trans ?_
  split
  next h => subst h; rfl
  · rfl

theorem getGroup_pass (l : List Nat) (hl : l.Nodup) (a : ArrSt) (i : Nat) : getGroup (l.foldl (passGroup m p w o) a) (o.base + i) =
    if i ∈ l then passed m p w o i (getGroup a (o.base + i)) else getGroup a (o.base + i) := by
  induction l generalizing a with
  | nil => exact (if_neg (by simp)).symm
  | cons k l ih =>
    obtain ⟨hk, hl⟩ := List.nodup_cons.mp hl
    have hstep := getGroup_passGroup (m := m) (p := p) (w := w) (o := o) a k (o.base + i)
    by_cases hki : k = i
    · subst hki
      rw [if_pos rfl] at hstep
      rw [List.foldl_cons, ih hl, if_neg hk, hstep, if_pos List.mem_cons_self]
    · rw [if_neg (by omega)] at hstep
      rw [List.foldl_cons, ih hl, hstep]
      simp only [List.mem_cons, Ne.symm hki, false_or]

theorem getGroup_pass_other {g : Nat} (l : List Nat) (a : ArrSt) (hg : ∀ i ∈ l, o.base + i ≠ g) :
    getGroup (l.foldl (passGroup m p w o) a) g = getGroup a g := by
  induction l generalizing a with
  | nil => rfl
  | cons k l ih =>
    rw [List.foldl_cons, ih _ fun i hi => hg i (List.mem_cons_of_mem _ hi), getGroup_passGroup, if_neg (hg k List.mem_cons_self)]

theorem passed_opened {i : Nat} (x : Group) (h : nthN o.opens i ≠ 2) : (passed m p w o i x).st = .opened ∧ (passed m p w o i x).ctx = w.ctx ∧
    (passed m p w o i x).stream = w.stream ∧ (passed m p w o i x).grp = wbGroup m w ∧ (passed m p w o i x).isInt = isIntPairing o.pairing ∧
    (passed m p w o i x).t = kSteps o := by
  unfold passed
  dsimp only
  rw [if_neg h]
  split
  · exact ⟨rfl, rfl, rfl, rfl, rfl, Nat.zero_add _⟩
  · exact ⟨rfl, rfl, rfl, rfl, rfl, Nat.zero_add _⟩

/-! ### The cells of a group -/

/-- The pass of one row of cells. -/
def runRow (m : Mach) (p : Nat) (o : ArrayOp) (r c i n : Nat) (cs : Tbl Entry) : Tbl Entry :=
  (List.range n).foldl (fun cs j => tset freshEntry cs (32 * i + j) (runCell m p o r c i j (tget freshEntry cs (32 * i + j)))) cs

theorem tget_runRow (r c i n : Nat) (cs : Tbl Entry) (k : Nat) : tget freshEntry (runRow m p o r c i n cs) k =
    if 32 * i ≤ k ∧ k < 32 * i + n then runCell m p o r c i (k - 32 * i) (tget freshEntry cs k) else tget freshEntry cs k := by
  induction n with
  | zero => exact (if_neg (by omega)).symm
  | succ n ih =>
    have hstep : runRow m p o r c i (n + 1) cs = tset freshEntry (runRow m p o r c i n cs) (32 * i + n)
        (runCell m p o r c i n (tget freshEntry (runRow m p o r c i n cs) (32 * i + n))) := by
      rw [runRow, List.range_succ, List.foldl_append]
      rfl
    rw [hstep, tget_tset]
    by_cases hk : 32 * i + n = k
    · subst hk
      rw [if_pos rfl, ih, if_neg (by omega), if_pos (by omega), Nat.add_sub_cancel_left]
    · rw [if_neg hk, ih]
      by_cases hin : 32 * i ≤ k ∧ k < 32 * i + n
      · rw [if_pos hin, if_pos (by omega)]
      · rw [if_neg hin, if_neg (by omega)]

theorem tget_runRows (r c n : Nat) (cs : Tbl Entry) {i j : Nat} (hj : j < 32) :
    tget freshEntry ((List.range n).foldl (fun cs i => runRow m p o r c i 32 cs) cs) (32 * i + j) =
      if i < n then runCell m p o r c i j (tget freshEntry cs (32 * i + j)) else tget freshEntry cs (32 * i + j) := by
  induction n with
  | zero => exact (if_neg (Nat.not_lt_zero i)).symm
  | succ n ih =>
    rw [List.range_succ, List.foldl_append, List.foldl_cons, List.foldl_nil, tget_runRow, ih]
    by_cases hi : i = n
    · subst hi
      rw [if_pos (by omega), if_neg (by omega), if_pos (by omega), Nat.add_sub_cancel_left]
    · rw [if_neg (by omega)]
      by_cases hlt : i < n
      · rw [if_pos hlt, if_pos (by omega)]
      · rw [if_neg hlt, if_neg (by omega)]

end

/-- Settles O34: operations, drains and discards by their groups, and a pass group by group and cell by cell. -/
theorem arrayEvents : Obligations.ArrayEvents := by
  unfold Obligations.ArrayEvents
  refine ⟨?_, ?_, ?_, ?_, ?_, ?_, ?_, ?_, ?_, ?_, ?_, ?_, ?_, ?_, ?_, ?_, ?_⟩
  · intro s p st mism w ix o hw hn hr ho hq
    have hempty : (has o.opens 1 && !(getBlk s.m p).arr.queue.isEmpty) = false ∧ (has o.opens 1 && decide (8 ≤ (getBlk s.m p).arr.queue.length)) = false := by
      cases hh : has o.opens 1 with
      | false => exact ⟨rfl, rfl⟩
      | true => rw [hq hh]; exact ⟨rfl, rfl⟩
    refine next_of ((arrayOp_opens hw hn hr ho).trans ?_)
    rw [hempty.1, hempty.2, if_neg Bool.false_ne_true, if_neg Bool.false_ne_true]
  · intro s p st mism w ix o hw hn hr ho hload hq hlen
    refine next_of ((arrayOp_opens hw hn hr ho).trans ?_)
    rw [if_neg (by simp; omega), if_pos (by simp [hload, hq])]
  · intro m p r o mism rest m1 w hq hm hw
    exact runLoad_load hq hm hw
  · intro s p st mism w ix o hw hn hr hbad
    exact next_of ((arrayOp_next hw hn hr).trans (if_pos (List.any_eq_true.mpr ⟨_, hbad, rfl⟩)))
  · intro s p q hr hl
    exact next_of (arrayOpComplete_over hr hl)
  · intro s p st mism w ix o hw hn hb hlen
    exact next_of ((drainIssue_next hw hn).trans ((if_neg (by simp [hb])).trans (if_neg (by omega))))
  · intro s p st mism w ix o hw hn hb
    exact next_of ((drainIssue_next hw hn).trans (if_pos hb))
  · intro s p j js step m hq hs hf hm
    refine next_of ((drainComplete_front hq hs hm).trans ?_)
    rw [hf, if_neg Bool.false_ne_true]
  · intro s p j js step m hq hs hf hm
    refine next_of ((drainComplete_front hq hs hm).trans ?_)
    rw [hf, if_pos rfl]
  · intro m p j step n g hd
    rw [drainGroup_dead hd]
    split
    next h =>
      refine ⟨rfl, rfl, fun _ => ?_⟩
      rw [getBlk_modBlk, if_pos rfl]
      exact (getGroup_setGroup ..).trans (if_pos rfl)
    next h => exact ⟨rfl, rfl, fun hf => absurd hf h⟩
  · intro s p st w ix mask hw hn hb
    exact next_of (discardGroups_next hw hn hb)
  · intro a mask g hg
    exact getGroup_freeGroups a mask hg
  · intro m p w o a0 i hi
    rw [getGroup_passGroup, if_pos rfl, opGroups, getGroup_pass _ List.nodup_range, if_pos (List.mem_range.mpr hi)]
  · intro m p w o a0 g hg
    refine getGroup_pass_other _ a0 fun i hi => ?_
    have := List.mem_range.mp hi
    omega
  · intro m p w o a0 i h
    rw [getGroup_passGroup, if_pos rfl]
    exact ⟨_, rfl, passed_opened _ h⟩
  · intro m p w o a0 i h
    rw [getGroup_passGroup, if_pos rfl, passed, if_pos h]
    rfl
  · intro m p o r c valid g i j hj _
    exact tget_runRows r c valid g.cells hj

end Sys2Proof.Proofs
end
